-- ==== Sys2Proof/Word.lean ====
section
/-! DEFINITION. The word types of the VY8 block and their plainest arithmetic.

Counts, indices, sizes, times and addresses are `Nat`; what the manual reads bit by bit (packets, element codes,
register words, digests) is a bit vector. -/

namespace Sys2Proof

/-- One byte of House, DRAM or host data. -/
abbrev Byte := BitVec 8

/-- A 16-bit word: FLAGS of a packet, a scale entry. -/
abbrev Word16 := BitVec 16

/-- A 32-bit word: an element of a vector, a card of a deck, a register word. -/
abbrev Word32 := BitVec 32

/-- A 64-bit word: a RESULT field, a logical index. -/
abbrev Word64 := BitVec 64

/-- A 256-bit word: a digest, a seed, an array instruction word. -/
abbrev Word256 := BitVec 256

/-- ceil(a / b), the manual's ceil of a quotient (0 when b is 0). -/
def ceilDiv (a b : Nat) : Nat := if b = 0 then 0 else (a + b - 1) / b

/-- Bits [lo + w - 1 : lo] of a number, as the manual's field notation reads them (R7). -/
def bitsOf (n lo w : Nat) : Nat := (n >>> lo) % 2 ^ w

/-- Bit i of a number as a truth value. -/
def bitOf (n i : Nat) : Bool := (n >>> i) % 2 = 1

/-- 1 for true and 0 for false: a one-bit register field. -/
def b2n (b : Bool) : Nat := if b then 1 else 0

/-- The number a list of bytes holds, least significant byte first (R30, R303). -/
def leNat : List Byte → Nat
  | [] => 0
  | b :: bs => b.toNat + 256 * leNat bs

/-- n as k bytes, least significant first. -/
def leBytes : Nat → Nat → List Byte
  | 0, _ => []
  | k + 1, n => BitVec.ofNat 8 n :: leBytes k (n / 256)

/-- The two's-complement value of the low w bits of n. -/
def signedOf (w n : Nat) : Int :=
  let m := n % 2 ^ w
  if m < 2 ^ (w - 1) then (m : Int) else (m : Int) - (2 ^ w : Nat)

/-- The w-bit two's-complement code of an integer. -/
def unsignedOf (w : Nat) (i : Int) : Nat := (i % ((2 ^ w : Nat) : Int)).toNat

/-- v forced into [lo, hi]. -/
def clampInt (v lo hi : Int) : Int := max lo (min v hi)

/-- The list 0, 1, ..., n - 1. -/
abbrev upto (n : Nat) : List Nat := List.range n

/-- The sum of a list of numbers. -/
def sumNat (l : List Nat) : Nat := l.foldl (· + ·) 0

end Sys2Proof
end

