-- ==== Sys2Proof/Syntax.lean ====
section
/-! DEFINITION. The commands of the block: one constructor of `Instr` per row of spec/opcode_table.json, with its operands.

Every command carries `dt`, the nanoseconds of the 25 MHz-derived reference that pass before it takes effect
(log entry 2).  A host command (a row named after an opcode of Tables 13.9 to 13.11) carries the packet of Table 13.3.
An event row carries what the outside world or the firmware's choice puts into it. -/

namespace Sys2Proof.Machine

/-- Ring states (Table 13.1). -/
inductive RingState where
  | disabled | enabled | halted
  deriving DecidableEq, Repr

/-- Stream kinds (Table 13.12). -/
inductive StreamKind where
  | camera | decode | jpeg | audio | encode
  deriving DecidableEq, Repr

/-- Stream states (Table 13.7). -/
inductive StreamState where
  | declared | admitted | running | paused | closed
  deriving DecidableEq, Repr

/-- Pause causes (R314). -/
inductive PauseCause where
  | host | capacity | sealed | stop
  deriving DecidableEq, Repr

/-- DECODE_CONFIGURE parameters (Table 11.3). -/
structure DecodeCfg where
  codec : Nat := 0
  profile : Nat := 0
  maxWidth : Nat := 0
  maxHeight : Nat := 0
  bitDepth : Nat := 8
  framesPerAu : Nat := 1
  references : Nat := 1
  concealLimit : Nat := 128
  pool : Option Nat := none
  cluster : Option Nat := none
  maxAuBytes : Nat := 64
  deriving DecidableEq, Repr

/-- ENCODE_CONFIGURE parameters (Table 11.7). -/
structure EncodeCfg where
  source : Nat := 0
  codec : Nat := 0
  profile : Nat := 0
  width : Nat := 0
  height : Nat := 0
  rateNum : Nat := 1
  rateDen : Nat := 1
  rcMode : Nat := 0
  target : Nat := 0
  max : Nat := 0
  vbv : Nat := 0
  qpMin : Nat := 0
  qpMax : Nat := 0
  qpI : Int := 0
  intraPeriod : Nat := 0
  references : Nat := 1
  sliceRows : Nat := 0
  output : Nat := 0
  tools : Nat := 0x20407
  hostBase : Nat := 0
  hostSize : Nat := 0
  deriving DecidableEq, Repr

/-- Camera source section (Table 12.3). -/
structure CameraCfg where
  port : Nat := 0
  vc : Nat := 0
  dataType : Nat := 0
  cfa : Nat := 0
  width : Nat := 0
  height : Nat := 0
  maxReadout : Nat := 0
  black : Nat := 0
  matrix : Nat := 1
  range : Nat := 0
  gains : List Word32 := []
  deriving DecidableEq, Repr

/-- Audio source section (Table 12.9). -/
structure AudioCfg where
  sampleRate : Nat := 16000
  format : Nat := 0
  channels : Nat := 1
  hop : Nat := 160
  window : Nat := 400
  windowKind : Nat := 0
  outFmt : Nat := 1
  block : Nat := 0
  preemph : Word32 := 0x3F7851EC
  fLow : Word32 := 0
  fHigh : Word32 := 0
  floor : Word32 := 0x2EDBE6FF
  history : Nat := 0
  deriving DecidableEq, Repr

/-- JPEG source section (Table 13.16). -/
structure JpegCfg where
  maxImageBytes : Nat := 0
  maxWidth : Nat := 0
  maxHeight : Nat := 0
  deriving DecidableEq, Repr

/-- One scaler output (Table 12.7). -/
structure OutputCfg where
  kind : Nat := 0
  crop : Nat := 0
  filter : Nat := 1
  channels : Nat := 0
  dFmt : Nat := 1
  bitDepth : Nat := 8
  scaler : Option Nat := none
  outW : Nat := 0
  outH : Nat := 0
  cropX : Nat := 0
  cropY : Nat := 0
  cropW : Nat := 0
  cropH : Nat := 0
  mean : List Word32 := []
  scale : List Word32 := []
  deriving DecidableEq, Repr

end Sys2Proof.Machine

namespace Sys2Proof

/-- A command packet (R303, Table 13.3) as manager core 0 has fetched it from ring `ring`.  `params` holds the 48
parameter bytes: Pn is bits [8n + 7 : 8n]. -/
structure Packet where
  ring   : Nat
  flags  : Word16
  tag    : Word32
  target : Word32
  params : BitVec 384
  deriving DecidableEq, Repr

/-- The posted writes that R343 and Table 14.4 name. -/
inductive PostedWrite where
  | completion (ring : Nat)
  | record (ring : Nat)
  | event
  deriving DecidableEq, Repr

/-- What manager core 0 makes the records of a sample from (Table 13.18): the candidates at a House line with their number and, where a
table follows them, the lines of TABLE_IN and TABLE_OUT (R233); a token result line (R203); an output of the cast file with its format,
line and bytes (R326); a scaler output with the track it follows. -/
inductive RecordSource where
  | frame (line count : Nat) (tables : Option (Nat × Nat))
  | token (line : Nat)
  | values (output fmt line bytes : Nat)
  | framing (output track : Nat)
  deriving DecidableEq, Repr

/-- What a slot of the cue plan begins (R24, Table 1.5): the words firmware queues, the record staging, or the hand-off of a House
extent to another member in blocks of one chain (R360). -/
inductive SlotWork where
  | arrayWords (array part : Nat) (words : List Word256)
  | vectorWords (engine part : Nat) (descriptor : Bool) (vl : Nat) (words : List (BitVec 128))
  | samplerWords (bay : Nat) (words : List Word256)
  | records (sources : List RecordSource)
  | handoff (dst chain first line bytes : Nat) (address : Word64)
  deriving DecidableEq, Repr

/-- One layer's run-time and planned shape (R140): M, N, K. -/
structure LayerShape where
  m : Nat
  n : Nat
  k : Nat
  pm : Nat
  pn : Nat
  pk : Nat
  deriving DecidableEq, Repr

/-- A frame of an access unit that the bitstream keeps for reference (R248, R249): its reference marks (bit 0 SHORT, bit 1 LONG,
bits 2 to 9 the AV1 slots), whether it is shown, and, for a hidden one, whether blocks of it were concealed. -/
structure KeptFrame where
  marks : Nat
  shown : Bool
  damaged : Bool
  deriving DecidableEq, Repr

/-- What the decode pipeline's parser finds in an access unit's headers (Table 11.4): facts of the bitstream standards.  `marksOf`
gives the marks that the frame buffers held so far are left with, oldest first; `refs` the positions of those that the picture's
blocks predict from; `depth`, `matrix` and `range` the sample format (R245, Table 12.8). -/
structure AuFacts where
  syntaxOk : Bool
  profileOk : Bool
  width : Nat
  height : Nat
  addressesOk : Bool
  inter : Bool
  frames : Nat
  shown : Nat
  randomAccess : Bool
  rasl : Bool
  kept : List KeptFrame
  marksOf : List Nat
  refs : List Nat
  blocks : Nat
  headerLost : Bool
  depth : Nat
  matrix : Nat
  range : Nat
  deriving DecidableEq, Repr

/-- Why blocks of a strip were concealed (R254, Table 11.6). -/
inductive ConcealCause where
  | syntaxError
  | missingReference
  | storeError
  deriving DecidableEq, Repr

/-- What a JPEG unit's parser finds in an image (R278, R279): whether its headers lie within R278, its size, its components, the luma
sampling factors, whether the components are R, G and B, and whether a burst of the file has been lost. -/
structure JpegFacts where
  headersOk : Bool
  width : Nat
  height : Nat
  components : Nat
  hSamp : Nat
  vSamp : Nat
  rgb : Bool
  fileLost : Bool
  deriving DecidableEq, Repr

/-- A DATA or IDLE flit as it leaves the FEC decoder (Table 15.1).  `crcOk` is false for a failed CRC or an
uncorrectable codeword. -/
structure Flit where
  data : Bool
  channel : Nat
  seq : Nat
  ack : Nat
  nak : Bool
  credits : List Nat
  crcOk : Bool
  corrected : Nat
  uncorrectable : Bool
  deriving DecidableEq, Repr

/-- A message header (Table 15.3). -/
structure Msg where
  kind : Nat
  sealed : Bool
  src : Nat
  dst : Nat
  ttl : Nat
  length : Nat
  epoch : Nat
  address : Nat
  chain : Nat
  block : Nat
  deriving DecidableEq, Repr

/-- A ring as the mirror holds it (R371). -/
structure MirroredRing where
  state : Machine.RingState
  cause : Nat
  metadata : Bool
  fn : Nat
  group : Nat
  sizeLog2 : Nat
  interruptAll : Bool
  vector : Nat
  submitBase : Nat
  completeBase : Nat
  fetch : Nat
  expected : Nat
  ctail : Nat
  phase : Bool
  deriving DecidableEq, Repr

/-- A stream of the mirrored stream table and template plan (R371): what STREAM_DECLARE, the configure commands and admission gave it,
its seed and its number (R208). -/
structure MirroredStream where
  kind : Machine.StreamKind
  state : Machine.StreamState
  cause : Machine.PauseCause
  ring : Nat
  group : Nat
  priority : Nat
  cadence : Nat
  phase : Option Nat
  samples : Nat
  widen : Nat
  metaRing : Nat
  cast : Nat
  script : Nat
  lag : Nat
  minInterval : Nat
  number : Nat
  seed : Word256
  firstCue : Nat
  admittedAt : Nat
  ingestDone : Bool
  decodeDone : Bool
  encodeDone : Bool
  closing : Bool
  decode : Machine.DecodeCfg
  encode : Machine.EncodeCfg
  camera : Machine.CameraCfg
  audio : Machine.AudioCfg
  jpeg : Machine.JpegCfg
  outputs : List Machine.OutputCfg
  reserved : List (Nat × Nat)
  deriving DecidableEq, Repr

/-- What a MIRROR message records (R371): a command accepted, with its opcode and FETCH; its completion entry; a ring; a stream; a
cast handle; a script handle with its cast; the grid and whether the source is the pin. -/
inductive MirrorContent where
  | accepted (opcode fetch : Nat) (p : Packet)
  | completed (ring : Nat) (entry : BitVec 256)
  | ring (q : Nat) (r : MirroredRing)
  | stream (n : Nat) (r : MirroredStream)
  | cast (handle group : Nat) (digest content : Word256) (length : Nat)
  | script (handle group cast : Nat) (bytes : List Byte)
  | grid (epoch period : Nat) (pin : Bool)
  deriving DecidableEq, Repr

/-- The cascade control a COMMAND message carries (R366, R368, R374, R406). -/
inductive CascadeControl where
  | assign (identity member members : Nat) (deputy : Option Nat) (parent parentPort hops : Nat) (timeStep : Int)
      (routes : List (Nat × Nat × Nat))
  | enterPlaying (resilient : Bool)
  | deviceStart
  | deviceStop
  | dissolve
  | lost (member : Nat)
  | resumePlaying (deputy : Option Nat)
  | unseal
  | sealPixels
  | encodedOutput (on : Bool)
  | hostCommand (opcode id : Nat) (p : Packet)
  deriving DecidableEq, Repr

/-- What a REPLY carries: that a COMMAND was carried out, that the member's offset has held (R366), how a host command ended that was
sent on to the member, the first block that is still held (R362), or the capacity step that a member has decided (R449). -/
inductive ReplyContent where
  | carried
  | steady
  | completed (id status detail result : Nat)
  | freed (first : Nat)
  | step (level : Nat)
  deriving DecidableEq, Repr

/-- The content of a CUE message (R363, R364). -/
inductive CueContent where
  | grid (epoch period number : Nat)
  | staged (period effectEdge : Nat)
  | pinEdge (at_ : Nat)
  deriving DecidableEq, Repr

/-- The instructions of the test access port (R442). -/
inductive TapInstruction where
  | bypass | idcode | samplePreload | extest | clamp | highz | extestPulse | extestTrain
  deriving DecidableEq, Repr

/-- The link power states of Table 14.2 (with L0, the state left for). -/
inductive LinkPower where
  | l0 | l0s | l1 | l1p1 | l1p2
  deriving DecidableEq, Repr

/-- The commands of the block, in the order of spec/opcode_table.json. -/
inductive Instr where
  -- host commands and their completions (R309 on)
  | nop (dt : Nat) (p : Packet)
  | deviceStart (dt : Nat) (p : Packet)
  | deviceStop (dt : Nat) (p : Packet)
  | ringCreate (dt : Nat) (p : Packet)
  | ringDestroy (dt : Nat) (p : Packet)
  | ringReset (dt : Nat) (p : Packet)
  | ringResetTakesEffect (dt : Nat) (id : Nat)
  | streamDeclare (dt : Nat) (p : Packet)
  | streamAdmit (dt : Nat) (p : Packet)
  | streamStart (dt : Nat) (p : Packet)
  | streamPause (dt : Nat) (p : Packet)
  | streamResume (dt : Nat) (p : Packet)
  | streamClose (dt : Nat) (p : Packet)
  | streamQuery (dt : Nat) (p : Packet)
  | castLoad (dt : Nat) (p : Packet)
  | castUnload (dt : Nat) (p : Packet)
  | scriptLoad (dt : Nat) (p : Packet)
  | scriptUnload (dt : Nat) (p : Packet)
  | cueSetPeriod (dt : Nat) (p : Packet)
  | cueSetEpoch (dt : Nat) (p : Packet)
  | cueSetSource (dt : Nat) (p : Packet)
  | timeSteer (dt : Nat) (p : Packet)
  | timeStep (dt : Nat) (p : Packet)
  | timePps (dt : Nat) (p : Packet)
  | poolCreate (dt : Nat) (p : Packet)
  | poolDestroy (dt : Nat) (p : Packet)
  | poolReserve (dt : Nat) (p : Packet)
  | bufferAlloc (dt : Nat) (p : Packet)
  | bufferFree (dt : Nat) (p : Packet)
  | memoryCopy (dt : Nat) (p : Packet)
  | memoryCopyComplete (dt : Nat) (id : Nat) (data : List Byte)
  | arraySplit (dt : Nat) (p : Packet)
  | arrayRun (dt : Nat) (p : Packet)
  | arrayTest (dt : Nat) (p : Packet)
  | arrayTestComplete (dt : Nat) (id : Nat) (wrong : Bool)
  | vecSplit (dt : Nat) (p : Packet)
  | vecScalars (dt : Nat) (p : Packet)
  | vecRun (dt : Nat) (p : Packet)
  | vecTest (dt : Nat) (p : Packet)
  | vecTestComplete (dt : Nat) (id : Nat) (wrong : Bool)
  | randomSeed (dt : Nat) (p : Packet)
  | sampleRun (dt : Nat) (p : Packet)
  | randomTest (dt : Nat) (p : Packet)
  | decodeConfigure (dt : Nat) (p : Packet)
  | encodeConfigure (dt : Nat) (p : Packet)
  | encodeSetRate (dt : Nat) (p : Packet)
  | encodeForceIntra (dt : Nat) (p : Packet)
  | decodeRefresh (dt : Nat) (p : Packet)
  | codecTest (dt : Nat) (p : Packet)
  | codecTestComplete (dt : Nat) (id : Nat) (wrong : Bool)
  | csi2PortSet (dt : Nat) (p : Packet)
  | ingestConfigure (dt : Nat) (p : Packet)
  | feed (dt : Nat) (p : Packet)
  | feedCopyComplete (dt : Nat) (id : Nat) (data : List Byte)
  | feedTimeout (dt : Nat) (id : Nat)
  | ingestTest (dt : Nat) (p : Packet)
  | ingestTestComplete (dt : Nat) (id : Nat) (wrong : Bool)
  | cascadeForm (dt : Nat) (p : Packet)
  | cascadeDissolve (dt : Nat) (p : Packet)
  | linkTest (dt : Nat) (p : Packet)
  | linkTestComplete (dt : Nat) (id : Nat) (corrected uncorrectable : Nat)
  | attestReport (dt : Nat) (p : Packet)
  | attestReportWritten (dt : Nat) (id : Nat) (refused : Bool)
  | pixelsUnseal (dt : Nat) (p : Packet)
  | pixelsSeal (dt : Nat) (p : Packet)
  | encodedOutput (dt : Nat) (p : Packet)
  | firmwareStage (dt : Nat) (p : Packet)
  | firmwareStageProgrammed (dt : Nat) (id : Nat) (ok : Bool)
  | traceSet (dt : Nat) (p : Packet)
  | countersSnapshot (dt : Nat) (p : Packet)
  | dramInterleave (dt : Nat) (p : Packet)
  | dramInterleaveComplete (dt : Nat) (id : Nat)
  | dramTest (dt : Nat) (p : Packet)
  | dramTestComplete (dt : Nat) (id : Nat) (wrong : Bool) (refetched lost : Nat)
  -- rings and the host port
  | submissionFetch (dt : Nat) (entry : BitVec 512)
  | submissionFetchTimeout (dt : Nat) (errorAnswer : Bool)
  | hostReadTimeout (dt : Nat) (id : Nat) (errorAnswer : Bool)
  | postedWriteRefused (dt : Nat) (what : PostedWrite)
  | metadataRecordWrite (dt : Nat) (sample : Nat)
  | ringSubmitTailWrite (dt : Nat) (fn ring value : Nat)
  | ringCompleteHeadWrite (dt : Nat) (fn ring value : Nat)
  | adminEnable (dt : Nat) (fn : Nat)
  | adminDisable (dt : Nat) (fn : Nat)
  | adminReset (dt : Nat) (fn : Nat)
  | bar2WindowBaseWrite (dt : Nat) (fn value : Nat)
  | vfWindowBaseWrite (dt : Nat) (fn vf value : Nat)
  | vfRingsWrite (dt : Nat) (fn vf first count : Nat)
  | castKeyHashWrite (dt : Nat) (fn slot : Nat) (value : Word256)
  | castKeysLock (dt : Nat) (fn : Nat)
  | bootPushGo (dt : Nat) (fn : Nat)
  | bootPushCheckComplete (dt : Nat)
  | limitWattsWrite (dt : Nat) (fn watts : Nat)
  | registerWrite (dt : Nat) (fn offset size : Nat) (value : Word64)
  | readClear (dt : Nat) (fn offset size : Nat)
  | nowLoRead (dt : Nat) (fn : Nat)
  | ppsLoRead (dt : Nat) (fn : Nat)
  | numberLoRead (dt : Nat) (fn : Nat)
  | bar2Read (dt : Nat) (fn offset length : Nat)
  | bar2Write (dt : Nat) (fn offset : Nat) (data : List Byte) (poisoned : Bool)
  | functionLevelResetVf (dt : Nat) (vf : Nat)
  | functionLevelResetPf (dt : Nat)
  | d3hotEntry (dt : Nat) (fn : Nat)
  -- resets and boot
  | hostReset (dt : Nat)
  | coldReset (dt : Nat)
  | powerOnReset (dt : Nat)
  | pwrokFall (dt : Nat)
  | railUndervoltage (dt : Nat) (rail : Nat)
  | resetRelease (dt : Nat) (fuseMismatches : Nat)
  | flashReadTimeout (dt : Nat) (slotB : Bool)
  | flashSlotSelect (dt : Nat)
  | firmwareLoadComplete (dt : Nat)
  | dramTrainingComplete (dt : Nat) (margins : List Nat)
  | dramFillComplete (dt : Nat)
  | rehearsalComplete (dt : Nat) (wrongNode : Option Nat)
  | floorBurnComplete (dt : Nat)
  -- cue and time
  | cueEdge (dt : Nat)
  | cueInEdge (dt : Nat)
  | cueInMissing (dt : Nat)
  | ppsInEdge (dt : Nat)
  | ppsLost (dt : Nat)
  | planSlotStart (dt : Nat) (sample : Nat) (shapes : List LayerShape) (needs : List (Nat × Nat × Nat)) (work : SlotWork)
  -- arrays
  | shadowLoadStart (dt : Nat) (array part : Nat)
  | arrayRow0Entry (dt : Nat) (array part : Nat)
  | arrayInstructionComplete (dt : Nat) (array part : Nat)
  | arrayResidueFailure (dt : Nat) (array part column row : Nat)
  | scaleTagMismatch (dt : Nat) (vector : Bool) (unit part : Nat)
  | arrayClockGate (dt : Nat) (array : Nat)
  | splitModeChange (dt : Nat) (array mode : Nat)
  | houseLineMismatch (dt : Nat) (line reader unit part : Nat)
  | lineRebuildComplete (dt : Nat) (line : Nat) (failsAgain : Bool)
  -- vector engines and samplers
  | vectorInstructionIssue (dt : Nat) (engine part : Nat)
  | vectorInstructionComplete (dt : Nat) (engine part : Nat)
  | vectorParityFailure (dt : Nat) (engine part lane : Nat) (deckSlot compare : Bool)
  | contextSave (dt : Nat) (engine part line : Nat) (position : Nat)
  | contextRestore (dt : Nat) (engine part line : Nat)
  | vectorSplitModeChange (dt : Nat) (engine mode : Nat)
  | samplerInstructionIssue (dt : Nat) (bay : Nat)
  | samplerResultWrite (dt : Nat) (bay : Nat)
  | samplerParityFailure (dt : Nat) (bay : Nat) (compare deckSlot : Bool)
  -- Wardrobe
  | bufferAllocation (dt : Nat) (group : Nat) (dram : Bool) (size : Nat) (named : Option Nat) (sealed : Bool)
  | readerSignal (dt : Nat) (buffer : Word64) (reader : Nat)
  | scrubComplete (dt : Nat) (pool buffer : Nat)
  -- ingest
  | csi2FrameStart (dt : Nat) (port vc number : Nat)
  | csi2LinePacket (dt : Nat) (port vc dataType : Nat) (payload : List Byte) (crcOk eccCorrected : Bool)
  | csi2FrameEnd (dt : Nat) (port vc number : Nat)
  | csi2UncorrectableHeader (dt : Nat) (port : Nat)
  | csi2SotError (dt : Nat) (port vc : Nat)
  | csi2FrameTimeout (dt : Nat) (port vc : Nat)
  | decodeStart (dt : Nat) (cluster sample : Nat) (facts : AuFacts)
  | stripComplete (dt : Nat) (cluster : Nat) (concealed : Nat) (cause : ConcealCause) (buffer : Word64)
  | stripRebuild (dt : Nat) (cluster strip : Nat)
  | encodePictureStart (dt : Nat) (cluster stream sample : Nat)
  | encodeRowComplete (dt : Nat) (cluster bits bytes rowBound : Nat)
  | encodePictureEnd (dt : Nat) (cluster : Nat)
  | reencode (dt : Nat) (cluster : Nat) (referenceLost : Bool)
  | jpegImageStart (dt : Nat) (unit sample : Nat) (facts : JpegFacts)
  | jpegStripComplete (dt : Nat) (unit : Nat) (entropyError : Bool) (buffer : Word64)
  | scalerPassStart (dt : Nat) (scaler sample output : Nat) (cropLine : Nat)
  | scalerBandComplete (dt : Nat) (scaler rows : Nat)
  | scalerBandRepeat (dt : Nat) (scaler : Nat) (parity : Bool)
  | audioBlockPass (dt : Nat) (sample : Nat)
  -- DRAM
  | dramReadCrcFailure (dt : Nat) (address content failed : Nat) (sample : Option Nat)
  | dramBurstRebuildComplete (dt : Nat) (address : Nat) (readBackOk : Bool)
  | dramWriteCodeError (dt : Nat) (address : Nat) (second : Bool)
  | dramRefreshSlice (dt : Nat) (die : Nat)
  | dramRecalibration (dt : Nat) (channel margin : Nat)
  | selfRefreshExit (dt : Nat)
  -- power and clocks
  | railSample (dt : Nat) (milliwatts coreMilliamps : Nat)
  | logicSensorSample (dt : Nat) (temps : List Nat)
  | tripHoldTimeout (dt : Nat)
  | dramSensorSample (dt : Nat) (die : Nat) (temps : List Nat)
  | capacityEvaluation (dt : Nat)
  | restEntry (dt : Nat)
  | restExit (dt : Nat)
  | sysRefclkLoss (dt : Nat)
  | pcieRefclkLoss (dt : Nat)
  | ewRefclkLoss (dt : Nat)
  | pllLockLoss (dt : Nat) (domain : Nat)
  | watchdogExpiry (dt : Nat) (core : Nat)
  | coreInstructionRefetch (dt : Nat) (core : Nat)
  -- host link
  | linkRetrain (dt : Nat) (speed width : Nat) (flit : Bool)
  | linkDown (dt : Nat)
  | linkPowerEntry (dt : Nat) (state : LinkPower)
  | linkPowerExit (dt : Nat)
  -- Euwald links and cascades
  | ewlFlitReceived (dt : Nat) (port : Nat) (flit : Flit)
  | ewlReplayTimeout (dt : Nat) (port : Nat)
  | ewlLinkFlit (dt : Nat) (port : Nat) (t1 echo t4 : Nat) (member peerPort : Nat)
  | ewlNoFlitTimeout (dt : Nat) (port : Nat)
  | ewlLaneLockLoss (dt : Nat) (port lane : Nat)
  | ewlRetrainComplete (dt : Nat) (port : Nat) (ok : Bool)
  | ewlTrainingRetry (dt : Nat) (port : Nat)
  | block (dt : Nat) (m : Msg) (data : List Byte)
  | blockAck (dt : Nat) (m : Msg)
  | blockAckTimeout (dt : Nat) (chain index : Nat)
  | resend (dt : Nat) (m : Msg)
  | write (dt : Nat) (m : Msg) (data : List Byte)
  | heartbeat (dt : Nat) (m : Msg) (cueNumber deviceState : Nat) (hostReady : Bool)
  | heartbeatSend (dt : Nat)
  | memberLost (dt : Nat) (member : Nat)
  | command (dt : Nat) (m : Msg) (control : CascadeControl)
  | reply (dt : Nat) (m : Msg) (content : ReplyContent)
  | replyTimeout (dt : Nat) (member : Nat)
  | mirror (dt : Nat) (m : Msg) (record : MirrorContent)
  | mirrorAck (dt : Nat) (m : Msg)
  | mirrorAckTimeout (dt : Nat)
  | takeoverDecision (dt : Nat)
  | takeover (dt : Nat) (m : Msg)
  | cue (dt : Nat) (m : Msg) (content : CueContent)
  | hello (dt : Nat) (m : Msg) (identity members : Nat) (issued : Bool)
  | formationTimeout (dt : Nat)
  | remapPlansBuilt (dt : Nat) (paused repeated missed : List Nat)
  | remapTimeout (dt : Nat)
  -- Playbill, observation, management
  | playbillUpdateComplete (dt : Nat)
  | snapshotPublished (dt : Nat)
  | mgmtPointerWrite (dt : Nat) (pointer : Nat) (pecOk : Bool)
  | mgmtRead (dt : Nat) (count : Nat)
  | mgmtTimeout (dt : Nat)
  | mgmtRefused (dt : Nat)
  | tapInstruction (dt : Nat) (i : TapInstruction)
  | ewlTrainingComplete (dt : Nat) (port : Nat) (lanesOk : Bool) (peerMember peerPort : Nat)
  | dmaTransferComplete (dt : Nat) (src dst : Word64) (length : Nat)
  | commandHostReadComplete (dt : Nat) (id : Nat) (data : List Byte)
  | d3hotExit (dt : Nat) (fn : Nat)
  | vfEnableWrite (dt : Nat) (enable : Bool) (numVfs : Nat) (ari : Bool)
  | busMasterEnableWrite (dt : Nat) (fn : Nat) (enable : Bool)
  | msixUnmask (dt : Nat) (fn vector : Nat)
  | i3cDynamicAddress (dt : Nat) (address : Nat) (setdasa : Bool)
  deriving DecidableEq, Repr

end Sys2Proof
end

