-- ==== Sys2Proof/Decode.lean ====
section
/-! DEFINITION. Commands from bits.  No row of spec/opcode_table.json gives bits: a command packet is 64 bytes of fields
(Table 13.3) and the events are not encoded at all.  So no word spells a command by the table's bits. -/

namespace Sys2Proof

/-- The command a word spells by the table's bits: none, since the table gives no row any bits. -/
def decodeTableWord (_nbits _w : Nat) : Option Instr := none

end Sys2Proof
end

