-- ==== Sys2Proof/Config.lean ====
section
/-! DEFINITION. What an implementation fixes and the free values: constants without a body, so that nothing can be proved of
them but what holds for every value.  Each is named in an assumption log entry. -/

namespace Sys2Proof.Config

open Sys2Proof

/-- The stepping of the part (R2): true for B0, false for A0 (log entry 8). -/
opaque steppingB0 : Bool

/-- IDENTITY, the serial of the fuse array (R412; log entry 6). -/
opaque identity : Nat

/-- The vendor key hash of fuse slots 0 and 1 (R412; log entry 6). -/
opaque keyHash : Nat → Word256

/-- Byte k of the device certificate (R413; log entry 6). -/
opaque certificateByte : Nat → Byte

/-- SHA3-256 of the boot ROM (R428; log entry 6). -/
opaque romHash : Word256

/-- Whether a HashML-DSA-44 signature verifies: key, signed bytes, context string, signature (log entry 9). -/
opaque verifies : List Byte → List Byte → List Byte → List Byte → Bool

/-- The signature the device key makes with hedged randomness, by draw number (R428; log entry 9). -/
opaque signature : Nat → List Byte → List Byte

/-- Firmware's packing of a template plan (R56): whether slots can be found, by draw number, for work that fits by its
totals (log entry 10). -/
opaque packs : Nat → Bool

/-- The phase firmware picks for a stream that leaves it open (R56; log entry 10). -/
opaque phaseChoice : Nat → Nat

/-- Whether the content of a cast file has the Feilusk format and meets R135, by content digest (log entry 11). -/
opaque castFormatOk : Word256 → Bool

/-- The buffers (pool, count) a sample of a stream with this cast content needs, by content digest (R21; log entry 11). -/
opaque castBuffers : Word256 → List (Nat × Nat)

/-- Charges in nanoseconds per resource, 0 the samplers and 1 to 7 those of Table 20.3, that one sample of the cast content makes (R56; log entry 11). -/
opaque castCharge : Word256 → Nat → Nat

/-- The least chain time in nanoseconds of the cast content with its reserves (R56; log entry 11). -/
opaque castChain : Word256 → Nat

/-- The largest recompute unit of the chain in nanoseconds, with the reserve it gives (R401; log entry 11). -/
opaque castReserve : Word256 → Nat

/-- The widening reserve of a sample in nanoseconds, by content digest and allowance (R56; log entry 11). -/
opaque castWidenReserve : Word256 → Nat → Nat

/-- The cost in nanoseconds of a widening re-run of watched layer slot and rung (R136; log entry 11). -/
opaque castRerun : Word256 → Nat → Nat → Nat

/-- The widening entry of a clip slot of the cast content, as the number of its 8 bytes (Table 6.8), by content digest and
slot (R131; log entry 11). -/
opaque castWiden : Word256 → Nat → Option Nat

/-- The layers of the cast content (R150; log entry 11). -/
opaque castLayers : Word256 → Nat

/-- A planned fact of a layer of the cast content, by digest, layer and fact: 0 M, 1 N, 2 K, 3 and 4 the
activation and weight formats (R140;
log entry 11). -/
opaque castLayer : Word256 → Nat → Nat → Nat

/-- Whether a template plan uses a unit in another split mode than the given one, by draw number (R114, R187; log entry 10). -/
opaque planConflict : Nat → Nat → Bool

/-- Whether entry i of the encoder's table of log2 is rounded up at its eighth fractional bit (R259; log entry 20). -/
opaque log2Up : Nat → Bool

/-- The number of model inputs of the cast content, one TENSOR output each at the basic level (log entry 11). -/
opaque castInputs : Word256 → Nat

/-- A field of a model input the cast content gives, by content digest, input and field (R295; log entry 11). -/
opaque castInputField : Word256 → Nat → Nat → Nat

/-- How many units in the last place a transcendental or row function of the vector engine lies from the rounded exact result,
by operation and operands; used as far as the manual's bound allows (R166, Table 8.4; log entry 12). -/
opaque ulps : Nat → Word32 → Word32 → Int

/-- The result of a vector operation on INT32 operands for which the manual states none, by operation and operands (log
entry 12). -/
opaque vecUnstated : Nat → Word32 → Word32 → Word32

/-- Byte i of the log-mel rows of an audio block, by the stream's parameters, the carry and the block: the manual bounds each
value and fixes none (R290; log entry 12). -/
opaque logMel : AudioCfg → List Byte → List Byte → Nat → Byte

/-- The DEVICE record that another member has sent for the stage manager's Playbill, by draw number and member (R42; log entry 24). -/
opaque memberRecord : Nat → Nat → List Byte

/-- The share of a resource that another member admits, by draw number, member and resource (R42, R43; log entry 24). -/
opaque memberShare : Nat → Nat → Nat → Nat

/-- A free 32-bit word by draw number, where the manual states no result (log entry 1). -/
opaque freeWord : Nat → Word32

/-- A free byte by draw number and position, where the manual leaves produced bytes to a standard or to firmware
(log entry 1). -/
opaque freeByte : Nat → Nat → Byte

/-- A free number by draw number (log entry 1). -/
opaque freeNat : Nat → Nat

end Sys2Proof.Config
end

