-- ==== Sys2Proof/Machine/Codes.lean ====
section
/-! DEFINITION. The check codes and hashes of the manual: the line code of R67, the CRC-32C of R30, R195 and R435, the CRC-32
of a flit (R352), and SHA3-256 and SHAKE256 (R412, R427) over lists of bytes. -/

namespace Sys2Proof.Machine

open Sys2Proof

/-- One bit of a most-significant-bit-first CRC of 16 bits with polynomial 0x1021. -/
def crc16Bit (c : Nat) : Nat :=
  if bitOf c 15 then (2 * c % 65536) ^^^ 0x1021 else 2 * c % 65536

/-- One byte of the line code. -/
def crc16Byte (c : Nat) (b : Byte) : Nat :=
  (upto 8).foldl (fun c _ => crc16Bit c) (c ^^^ (b.toNat * 256))

/-- The CRC-16 of R67: polynomial 0x1021, initial value 0xFFFF, no reflection, no final XOR. -/
def crc16 (bs : List Byte) : Nat := bs.foldl crc16Byte 0xFFFF

/-- One bit of a reflected CRC of 32 bits. -/
def crc32Bit (poly c : Nat) : Nat :=
  if bitOf c 0 then (c / 2) ^^^ poly else c / 2

/-- One byte of a reflected CRC of 32 bits. -/
def crc32Byte (poly c : Nat) (b : Byte) : Nat :=
  (upto 8).foldl (fun c _ => crc32Bit poly c) (c ^^^ b.toNat)

/-- CRC-32C: the polynomial 0x1EDC6F41 reflected, initial value and final XOR of all ones. -/
def crc32c (bs : List Byte) : Nat := bs.foldl (crc32Byte 0x82F63B78) 0xFFFFFFFF ^^^ 0xFFFFFFFF

/-- CRC-32: the polynomial 0x04C11DB7 reflected, initial value and final XOR of all ones. -/
def crc32 (bs : List Byte) : Nat := bs.foldl (crc32Byte 0xEDB88320) 0xFFFFFFFF ^^^ 0xFFFFFFFF

/-- A 64-bit word turned left by n bits. -/
def rotl64 (w n : Nat) : Nat := ((w <<< n) ||| (w >>> (64 - n))) % 2 ^ 64

/-- The rotation of each Keccak lane x + 5y. -/
def keccakRot : List Nat :=
  [0, 1, 62, 28, 27, 36, 44, 6, 55, 20, 3, 10, 43, 25, 39, 41, 45, 15, 21, 8, 18, 2, 61, 56, 14]

/-- The round constants of Keccak-f[1600]. -/
def keccakRc : List Nat :=
  [0x0000000000000001, 0x0000000000008082, 0x800000000000808A, 0x8000000080008000,
   0x000000000000808B, 0x0000000080000001, 0x8000000080008081, 0x8000000000008009,
   0x000000000000008A, 0x0000000000000088, 0x0000000080008009, 0x000000008000000A] ++
  [0x000000008000808B, 0x800000000000008B, 0x8000000000008089, 0x8000000000008003,
   0x8000000000008002, 0x8000000000000080, 0x000000000000800A, 0x800000008000000A,
   0x8000000080008081, 0x8000000000008080, 0x0000000080000001, 0x8000000080008008]

/-- Lane i of a Keccak state. -/
def lane (a : List Nat) (i : Nat) : Nat := a.getD i 0

/-- One round of Keccak-f: theta, rho and pi, chi, iota. -/
def keccakRound (a : List Nat) (rc : Nat) : List Nat :=
  let c := (upto 5).map fun x =>
    lane a x ^^^ lane a (x + 5) ^^^ lane a (x + 10) ^^^ lane a (x + 15) ^^^ lane a (x + 20)
  let d := (upto 5).map fun x => lane c ((x + 4) % 5) ^^^ rotl64 (lane c ((x + 1) % 5)) 1
  let t := (upto 25).map fun i => lane a i ^^^ lane d (i % 5)
  -- lane (x, y) moves to (y, 2x + 3y): the lane that comes to (u, v) is the one with y = u, x = (u + 3v) mod 5
  let b := (upto 25).map fun i =>
    let u := i % 5
    let v := i / 5
    let src := (u + 3 * v) % 5 + 5 * u
    rotl64 (lane t src) (keccakRot.getD src 0)
  let e := (upto 25).map fun i =>
    let x := i % 5
    let row := i - x
    lane b i ^^^ ((lane b (row + (x + 1) % 5) ^^^ (2 ^ 64 - 1)) &&& lane b (row + (x + 2) % 5))
  match e with
  | [] => []
  | e0 :: es => (e0 ^^^ rc) :: es

/-- Keccak-f[1600]. -/
def keccakF (a : List Nat) : List Nat := keccakRc.foldl keccakRound a

/-- n blocks of 136 bytes absorbed into a Keccak state. -/
def absorb : Nat → List Byte → List Nat → List Nat
  | 0, _, a => a
  | n + 1, bs, a =>
    let blk := bs.take 136
    let a' := (upto 25).map fun i =>
      if i < 17 then lane a i ^^^ leNat ((blk.drop (8 * i)).take 8) else lane a i
    absorb n (bs.drop 136) (keccakF a')

/-- The message padded to whole blocks of 136 bytes, with the given domain byte. -/
def keccakPad (domain : Nat) (bs : List Byte) : List Byte :=
  let k := 136 - bs.length % 136
  if k = 1 then bs ++ [BitVec.ofNat 8 (domain ^^^ 0x80)]
  else bs ++ [BitVec.ofNat 8 domain] ++ List.replicate (k - 2) 0 ++ [0x80]

/-- The state after a message has been absorbed with rate 136 and the given domain byte. -/
def absorbed (domain : Nat) (bs : List Byte) : List Nat :=
  let m := keccakPad domain bs
  absorb (m.length / 136) m (List.replicate 25 0)

/-- n output blocks of 136 bytes squeezed from a Keccak state. -/
def squeeze : Nat → List Nat → List Byte
  | 0, _ => []
  | n + 1, a => ((upto 17).map fun i => leBytes 8 (lane a i)).flatten ++ squeeze n (keccakF a)

/-- SHA3-256, as bytes. -/
def sha3Bytes (bs : List Byte) : List Byte := (squeeze 1 (absorbed 0x06 bs)).take 32

/-- SHA3-256, as the 256-bit word whose least significant byte is the digest's first. -/
def sha3 (bs : List Byte) : Word256 := BitVec.ofNat 256 (leNat (sha3Bytes bs))

/-- The first n bytes of SHAKE256. -/
def shake256 (n : Nat) (bs : List Byte) : List Byte := (squeeze (ceilDiv n 136) (absorbed 0x1F bs)).take n

end Sys2Proof.Machine
end

