-- ==== Sys2Proof/Machine/State.lean ====
section
/-! DEFINITION. The state of the VY8 block as plain data, and the machine right after reset.

One structure per block of Table 1.3 (registers under the manual's names), and one per kind of object the manual names
(rings, commands in flight, streams, samples, pools, messages).  Counters of R436 hold the block's own field and the total.
Fields marked "model" are the model's own (outbox, free-value counter, elapsed time): INVENTORY.md lists them. -/

namespace Sys2Proof.Machine

open Sys2Proof

/-- A counter field: `val` saturates at the field's largest value and an RC read clears it (R8); `total` counts every
event since entry to STANDBY and is neither cleared nor saturated (R436). -/
structure Counter where
  val : Nat := 0
  total : Nat := 0
  deriving DecidableEq, Repr

/-- Device states of Table 13.6. -/
inductive DevState where
  | boot | standby | service | draining | faulted
  deriving DecidableEq, Repr

/-- Status codes of Table 13.19 (R308). -/
inductive Status where
  | done | empty | recomputed | widened | substituted | degraded | staleDropped | deadlineMissed | remapped
  | wrongState | outOfRange | shapeExceedsPlan | notPermitted | unknownOpcode | noResource | notAdmitted
  | scaleMismatch | corruptInput | timeout | deviceFault | authFailed
  deriving DecidableEq, Repr

/-- A status with its 24-bit detail. -/
structure Outcome where
  status : Status
  detail : Nat := 0
  deriving DecidableEq, Repr

/-- TIME block (Table 3.1) and the time base behind it (R46, R47). -/
structure TimeBlk where
  now : Nat := 0
  frac : Int := 0
  elapsed : Nat := 0
  nowHi : Nat := 0
  rateAdj : Int := 0
  slewRemain : Int := 0
  slewFrac : Nat := 0
  ppsTime : Nat := 0
  ppsHi : Nat := 0
  ppsEnabled : Bool := false
  ppsLocked : Bool := false
  ppsLost : Bool := false
  ppsRejected : Counter := {}
  lastPps : Option Nat := none
  ppsGood : Nat := 0
  ppsWaitFrom : Nat := 0
  deriving DecidableEq, Repr

/-- Cue sources (Table 3.2). -/
inductive CueSource where
  | internal | pin | link
  deriving DecidableEq, Repr

/-- A capacity step decided and not yet fully in force (R58): its level, the edge for admission, the edge for the units. -/
structure StagedStep where
  level : Nat
  admitEdge : Nat
  physicalEdge : Nat
  deriving DecidableEq, Repr

/-- CUE block (Table 3.2) with the staged period (R60) and steps (R58).  `edges` counts cue edges made since entry to
STANDBY, so the cue number is `edges - 1` once the first edge has been made (R48). -/
structure CueBlk where
  period : Nat := 16667
  nextPeriod : Nat := 16667
  nextEdge : Nat := 0
  stagedAt : Option Nat := none
  edges : Nat := 0
  numberHi : Nat := 0
  edge : Nat := 0
  edgeLatch : Nat := 0
  lastEdge : Nat := 0
  prevEdge : Nat := 0
  lastPin : Nat := 0
  epoch : Nat := 0
  source : CueSource := .internal
  outEnable : Bool := false
  fallback : Bool := false
  slack : Nat := 0
  stepLevel : Nat := 0
  physicalStep : Nat := 0
  staged : List StagedStep := []
  stale : Counter := {}
  excess : Counter := {}
  missed : Counter := {}
  pinEarly : Counter := {}
  pinMissing : Counter := {}
  missingRun : Nat := 0
  outUntil : Nat := 0
  linkEdgeAt : Option Nat := none
  deriving DecidableEq, Repr

/-- One MSI-X table entry of a function (R340).  Masked after reset (R345). -/
structure MsixEntry where
  address : Nat := 0
  data : Nat := 0
  masked : Bool := true
  pending : Bool := false
  deriving DecidableEq, Repr

/-- What a PCI function carries (R335 to R345): its enables, power state, BAR2 size, window and, for a VF, its rings. -/
structure Fn where
  busMaster : Bool := false
  d3hot : Bool := false
  msix : List (Nat × MsixEntry) := []
  bar2Log2 : Nat := 36
  window : Nat := 0
  ringFirst : Nat := 0
  ringCount : Nat := 0
  deriving DecidableEq, Repr

/-- HOST block (Table 14.5) and the SR-IOV capability (R333). -/
structure HostBlk where
  state : DevState := .boot
  rehearsal : Bool := false
  fault : Nat := 0
  faultUnit : Nat := 0
  faultAt : Nat := 0
  bootStep : Nat := 0
  linkUp : Bool := true
  speed : Nat := 6
  width : Nat := 16
  flit : Bool := true
  l0p : Bool := false
  power : LinkPower := .l0
  powerSince : Nat := 0
  lastTransfer : Nat := 0
  powerEnabled : Bool := true
  retrains : Counter := {}
  adminEnable : Bool := false
  adminSize : Nat := 6
  adminInterrupt : Bool := true
  adminVector : Nat := 0
  adminSubmit : Nat := 0
  adminComplete : Nat := 0
  adminResetDue : Bool := false
  readTimeouts : Counter := {}
  writeRefused : Counter := {}
  badAccess : Counter := {}
  poisonedIn : Counter := {}
  errorCompletions : Counter := {}
  l1Residency : Counter := {}
  vfEnable : Bool := false
  numVfs : Nat := 0
  ari : Bool := false
  fns : List (Nat × Fn) := []
  hostShare : Nat := 1024
  stagedShare : Option (Nat × Nat) := none
  deriving DecidableEq, Repr

/-- A deck set for a ring or loaded in a slot (R189): its seed, its stream number and the buffer that holds it. -/
structure Deck where
  seed : Word256
  number : Nat
  buffer : Option Nat := none
  deriving DecidableEq, Repr

/-- A ring (R296 to R302): configuration, doorbell page (Table 13.1), scalar image (R186) and deck (R209). -/
structure Ring where
  state : RingState := .disabled
  metadata : Bool := false
  cause : Nat := 0
  fn : Nat := 0
  group : Nat := 0
  sizeLog2 : Nat := 6
  interruptAll : Bool := false
  vector : Nat := 0
  submitBase : Nat := 0
  completeBase : Nat := 0
  tail : Nat := 0
  fetch : Nat := 0
  expected : Nat := 0
  head : Nat := 0
  ctail : Nat := 0
  phase : Bool := true
  dropped : Counter := {}
  scalars : List Word32 := List.replicate 64 0
  deck : Option Deck := none
  deriving DecidableEq, Repr

/-- What known-answer test a test command runs (Table 17.1 SELF_TEST). -/
inductive TestKind where
  | array | vector | codec | ingest | dram
  deriving DecidableEq, Repr

/-- Which unit an expert run command drives. -/
inductive RunKind where
  | array | vector | sampler
  deriving DecidableEq, Repr

/-- An ARRAY_RUN, VEC_RUN or SAMPLE_RUN: its words (as numbers), how many have completed, whether a cue edge has passed since
its acceptance, whether it has begun, whether a word was recomputed, and the flags gathered (R114, R187, R209). -/
structure RunWork where
  kind : RunKind
  unit : Nat
  part : Nat := 0
  words : List Nat
  index : Nat := 0
  eligible : Bool := false
  active : Bool := false
  recomputed : Bool := false
  flags : Nat := 0
  descriptor : Bool := false
  vl : Nat := 512
  deriving DecidableEq, Repr

/-- What an accepted and uncompleted command waits for (R300, R302). -/
inductive Work where
  | hostRead (p : Packet) (length : Nat) (deadline : Nat) (buffers : List Nat)
  | deviceStart
  | deviceStop
  | ringReset (ring : Nat)
  | streamClose (stream : Nat)
  | copy (src dst length : Nat) (srcHost dstHost : Bool) (deadline : Nat)
  | run (r : RunWork)
  | test (kind : TestKind) (unit node : Nat) (since : Nat)
  | feed (stream capture length : Nat) (buffer : Option Nat) (since : Nat)
  | linkTest (port : Nat) (since : Nat)
  | attest (nonce : Word256) (reply : Nat) (report : List Byte)
  | seal (copies : List Nat)
  | firmwareStage (image : List Byte) (slotB : Bool) (since : Nat)
  | snapshot
  | dramInterleave (grain : Nat)
  | cascadeForm (members ports : Nat) (since : Nat)
  | mirrored (p : Packet)
  | remote (member : Nat) (p : Packet)
  deriving DecidableEq, Repr

/-- A command accepted and uncompleted: its identity (model), what its completion must carry (Table 13.4), and its work. -/
structure InFlight where
  ring : Nat
  opcode : Nat
  tag : Nat
  fetch : Nat
  interrupt : Bool
  unsealed : Bool
  work : Work
  deriving DecidableEq, Repr

/-- A completion or event entry (Table 13.4). -/
structure Completion where
  tag : Nat
  status : Status
  detail : Nat
  cue : Nat
  result : Nat
  opcode : Nat
  fetch : Nat
  ring : Nat
  event : Bool
  phase : Bool
  deriving DecidableEq, Repr

/-- A held event (R316, Table 13.8). -/
structure Event where
  code : Nat
  status : Status
  detail : Nat
  result : Nat
  cue : Nat
  deriving DecidableEq, Repr

/-- A metadata record (Table 13.17): header fields and the 48 body bytes. -/
structure Record where
  kind : Nat
  last : Bool
  stream : Nat
  cue : Nat
  capture : Nat
  body : List Byte
  deriving DecidableEq, Repr

/-- What the device puts out (model: the host's memory, the interrupt wires and the links are outside). -/
inductive Output where
  | completion (ring slot : Nat) (c : Completion)
  | record (ring slot : Nat) (phase : Bool) (r : Record)
  | interrupt (fn vector : Nat)
  | hostBytes (address : Nat) (bytes : List Byte)
  | hostRead (address length : Nat)
  | message (port : Nat) (m : Msg) (bytes : List Byte)
  | cueOut
  | frame (bytes : List Byte)
  deriving DecidableEq, Repr

/-- Rate-control and output state of an encode stream (R259, R260, R261). -/
structure EncodeState where
  v : Int := 0
  qpLastI : Option Int := none
  qpLastP : Option Int := none
  bitsLastI : Nat := 0
  bitsLastP : Nat := 0
  picture : Nat := 0
  sinceIntra : Nat := 0
  forceIntra : Bool := false
  retryIntra : Bool := false
  hostOffset : Nat := 0
  rowShareI : List Nat := []
  rowShareP : List Nat := []
  newRate : Option (Nat × Nat × Nat × Nat) := none
  deriving DecidableEq, Repr

/-- The counters of Table 13.13, from declaration. -/
structure StreamCounts where
  planned : Nat := 0
  stale : Nat := 0
  excess : Nat := 0
  missed : Nat := 0
  corrupt : Nat := 0
  substituted : Nat := 0
  widened : Nat := 0
  degraded : Nat := 0
  recomputed : Nat := 0
  records : Nat := 0
  deriving DecidableEq, Repr

/-- A frame buffer of a decode stream, or a reconstruction of an encode stream (R249, R258): the names of its one or two DRAM buffers,
its reference marks, DAMAGED, and the strip buffers decoded with prediction from it that are still held. -/
structure FrameBuf where
  buffers : List Nat
  marks : Nat
  damaged : Bool
  strips : List Nat := []
  deriving DecidableEq, Repr

/-- A stream (R314 to R322). -/
structure Stream where
  kind : StreamKind := .camera
  state : StreamState := .declared
  cause : PauseCause := .host
  ring : Nat := 0
  group : Nat := 0
  priority : Nat := 0
  cadence : Nat := 1
  phase : Option Nat := none
  samples : Nat := 1
  widen : Nat := 1
  metaRing : Nat := 0
  cast : Nat := 0
  script : Nat := 0
  lag : Nat := 0
  minInterval : Nat := 0
  number : Nat := 0
  seed : Word256 := 0
  firstCue : Nat := 0
  admittedAt : Nat := 0
  ingestDone : Bool := false
  decodeDone : Bool := false
  encodeDone : Bool := false
  closing : Bool := false
  decode : DecodeCfg := {}
  encode : EncodeCfg := {}
  enc : EncodeState := {}
  camera : CameraCfg := {}
  audio : AudioCfg := {}
  jpeg : JpegCfg := {}
  outputs : List OutputCfg := []
  counts : StreamCounts := {}
  reserved : List (Nat × Nat) := []
  rapSeen : Bool := false
  opening : Bool := false
  checkpoints : List Nat := []
  checkpointSide : Nat := 0
  substitute : List Nat := []
  former : List Nat := []
  lastCapture : Option Nat := none
  frames : List FrameBuf := []
  goodSample : Bool := false
  prevCrop : List (Nat × List Nat) := []
  carryFrom : Option Nat := none
  carry : List Byte := []
  history : Option Nat := none
  historyAt : Nat := 0
  deriving DecidableEq, Repr

/-- A sample from its arrival to its last record (R52 to R57, R402 to R404). -/
structure Sample where
  stream : Nat
  capture : Nat
  arrival : Nat
  order : Nat
  assigned : Nat
  arrived : Bool := true
  planned : Bool := false
  buffer : Option Nat := none
  length : Nat := 0
  nonfinite : Bool := false
  corrupt : Option Nat := none
  substituted : Bool := false
  late : Bool := false
  width : Nat := 0
  height : Nat := 0
  rowsReady : Nat := 0
  strips : List Nat := []
  outputs : List (Nat × Nat × List Nat) := []
  encoded : List Nat := []
  unstored : Bool := false
  jpeg : Option JpegFacts := none
  depth : Nat := 8
  matrix : Nat := 1
  range : Nat := 0
  audioPasses : Nat := 0
  outcomes : List Outcome := []
  repetitions : Nat := 0
  lastUnit : Nat := 0
  reserveLeft : Nat := 0
  widenLeft : Nat := 0
  widenReserve : Nat := 0
  widenCount : Nat := 0
  widenDetail : Nat := 0
  lostMember : Option Nat := none
  queue : List Record := []
  issued : Nat := 0
  finished : Bool := false
  repeating : Bool := false
  buffers : List Nat := []
  widenSlots : List (Nat × Nat) := []
  flushSlots : List Nat := []
  deriving DecidableEq, Repr

/-- A loaded cast file (R422, R424). -/
structure Cast where
  group : Nat
  digest : Word256
  content : Word256
  length : Nat
  copies : List Nat
  deriving DecidableEq, Repr

/-- A loaded cue script (R323). -/
structure Script where
  group : Nat
  cast : Nat
  bytes : List Byte
  deriving DecidableEq, Repr

/-- Buffer states other than FREE (R82). -/
inductive BufState where
  | held | scrubbing
  deriving DecidableEq, Repr

/-- A buffer that is not FREE (R22, R23, R82): who holds it, whether it is sealed, who reads and who writes it. -/
structure Buf where
  state : BufState
  group : Nat
  sealed : Bool := false
  readers : List Nat := []
  writer : Option Nat := none
  deriving DecidableEq, Repr

/-- A pool (R78).  `bufs` lists the buffers that are not FREE, by ascending number. -/
structure Pool where
  dram : Bool
  base : Nat
  cls : Nat
  count : Nat
  owner : Option Nat
  bufs : List (Nat × Buf) := []
  peak : Nat := 0
  deriving DecidableEq, Repr

/-- WARDROBE block (Table 4.5), the pools and the reserved minima ((group, pool), n) (R79). -/
structure Wardrobe where
  pools : List (Nat × Pool) := []
  minima : List ((Nat × Nat) × Nat) := []
  doubleFree : Counter := {}
  noResource : Counter := {}
  fallback : Counter := {}
  lastDoublePool : Nat := 0
  lastDoubleBuffer : Nat := 0
  deriving DecidableEq, Repr

/-- A byte store in one canonical form: strictly rising addresses, no entry equal to the unlisted byte (0). -/
structure Memory where
  cells : List Host.Cell := []
  deriving DecidableEq, Repr

/-- HOUSE block (Table 4.3) and the store behind it: contents, lines whose code fails, bank mismatch times (R71). -/
structure House where
  mem : Memory := {}
  bad : List Nat := []
  poisonedLines : List Nat := []
  rebuilding : List (Nat × Nat × Nat × Nat) := []
  errors : Counter := {}
  errorLine : Nat := 0
  errorBank : Nat := 0
  errorReader : Nat := 0
  poisoned : Counter := {}
  sealedReads : Counter := {}
  sealedWrites : Counter := {}
  poisonReads : Counter := {}
  bankErrors : List (Nat × Counter) := []
  bankTimes : List (Nat × Nat) := []
  deriving DecidableEq, Repr

/-- DRAM block (Table 16.5) and the store behind it. -/
structure Dram where
  mem : Memory := {}
  grain : Nat := 2
  selfRefresh : Bool := false
  filling : Bool := false
  doubled : List Nat := []
  trained : Nat := 0xFF
  lostBursts : List (Nat × Nat) := []
  poisonedBursts : List Nat := []
  refetched : Counter := {}
  lost : Counter := {}
  rebuilt : Counter := {}
  poisoned : Counter := {}
  writeCodeErrors : Counter := {}
  sealedReads : Counter := {}
  sealedWrites : Counter := {}
  poisonReads : Counter := {}
  agePromotions : Counter := {}
  lostLast : Nat := 0
  lostChannel : Nat := 0
  lostContent : Nat := 0
  dieTemp : List (Nat × Nat) := []
  diePeak : List (Nat × Nat) := []
  dieCoolSince : List (Nat × Nat) := []
  dieDoublings : List (Nat × Counter) := []
  dieLost : List (Nat × Counter) := []
  channelErrors : List (Nat × Counter) := []
  channelMargin : List (Nat × Nat) := []
  passed : List Nat := []
  channelTimes : List (Nat × Nat) := []
  refreshSlices : List (Nat × Nat) := []
  recalibrated : List (Nat × Nat) := []
  deriving DecidableEq, Repr

/-- Who issued an array, vector or sampler instruction: an ARRAY_RUN, VEC_RUN or SAMPLE_RUN in flight, or a sample's chain. -/
inductive Owner where
  | run (id : Nat)
  | chain (sample : Nat)
  deriving DecidableEq, Repr

/-- A stationary block held in cell registers (R96, R98, R99): what loaded it, its rows and its scale entries. -/
structure Block where
  wFmt : Nat
  k : Nat
  n : Nat
  scaled : Bool
  rows : List Byte
  scales : List Byte
  deriving DecidableEq, Repr

/-- Where an array instruction is: queued, its block loading since a cycle-time, or its rows streaming. -/
inductive ArrayPhase where
  | queued
  | loading (since : Nat) (idle : Bool)
  | streaming (since : Nat)
  deriving DecidableEq, Repr

/-- An instruction queued on an array part (R98). -/
structure ArrayJob where
  word : Word256
  owner : Owner
  phase : ArrayPhase := .queued
  scaleRetry : Bool := false
  repeated : Bool := false
  restarted : Bool := false
  block : Option Block := none
  tile : Option Nat := none
  queuedAt : Nat := 0
  doneAt : Nat := 0
  deriving DecidableEq, Repr

/-- One part of an array. -/
structure ArrayPart where
  queue : List ArrayJob := []
  active : Option Block := none
  shadow : Option Block := none
  last : Status := .done
  swapAt : Option Nat := none
  lastRowAt : Nat := 0
  repeats : List Nat := []
  deriving DecidableEq, Repr

/-- ARRAYb block (Table 5.10). -/
structure ArrayBlk where
  split : Nat := 0
  fixed : Option Nat := none
  stagedFix : Option Nat := none
  parts : List ArrayPart := List.replicate 4 {}
  rows : Counter := {}
  bubble : Counter := {}
  wait : Counter := {}
  instructions : Counter := {}
  residueErrors : Counter := {}
  recomputed : Counter := {}
  scaleRetries : Counter := {}
  scaleMismatch : Counter := {}
  saturated : Counter := {}
  errorPart : Nat := 0
  errorColumn : Nat := 0
  errorRow : Nat := 0
  clipSeen : List Counter := List.replicate 16 {}
  clipHit : List Counter := List.replicate 16 {}
  idleSince : Nat := 0
  gated : Bool := false
  wakeAt : Nat := 0
  splitAt : Nat := 0
  deriving DecidableEq, Repr

/-- Where a vector instruction is. -/
inductive VecPhase where
  | queued | issued
  deriving DecidableEq, Repr

/-- An instruction queued on a vector part (R154). -/
structure VecJob where
  word : BitVec 128
  owner : Owner
  descriptor : Bool
  vl : Nat
  phase : VecPhase := .queued
  sa : Word32 := 0
  sb : Word32 := 0
  s61 : Word32 := 0
  s62 : Word32 := 0
  s63 : Word32 := 0
  scaleRetry : Bool := false
  repeated : Bool := false
  restarted : Bool := false
  position : Nat := 0
  tile : Option Nat := none
  queuedAt : Nat := 0
  deriving DecidableEq, Repr

/-- What the chain link carries to the next operation of a link group (R177): the whole stream's values in element order, its
logical extents E0 to E3, its logical origin and strides, whether it carries INT32 words, how many stages it has passed and whether
one of them was a row operation, whether it stems from sealed data, and the watched layer it belongs to. -/
structure LinkData where
  values : List Word32
  e0 : Nat
  e1 : Nat
  e2 : Nat
  e3 : Nat
  lorigin : Nat
  l1 : Nat
  l2 : Nat
  l3 : Nat
  isInt : Bool
  stage : Nat := 0
  rowOp : Bool := false
  sealed : Bool := false
  layer : Option Nat := none
  deriving DecidableEq, Repr

/-- One part of a vector engine: queue, context (R155) and what the chain link carries to the next stage. -/
structure VecPart where
  queue : List VecJob := []
  descriptor : Bool := false
  vl : Nat := 512
  last : Status := .done
  flags : Nat := 0
  link : Option LinkData := none
  rehearsal : Bool := false
  delivered : Option LinkData := none
  repeats : List Nat := []
  doneAt : Nat := 0
  deriving DecidableEq, Repr

/-- VECb block (Tables 8.7 and 10.11) and the bay's scalar registers S0 to S63 (R160). -/
structure VecBlk where
  split : Nat := 0
  fixed : Option Nat := none
  stagedFix : Option Nat := none
  parts : List VecPart := List.replicate 4 {}
  scalars : List Word32 := List.replicate 64 0
  steps : Counter := {}
  instructions : Counter := {}
  parityErrors : Counter := {}
  recomputed : Counter := {}
  scaleRetries : Counter := {}
  scaleMismatch : Counter := {}
  saturated : Counter := {}
  saturate : Counter := {}
  nonfinite : Counter := {}
  clamp : Counter := {}
  oob : Counter := {}
  rowFlag : Counter := {}
  errorPart : Nat := 0
  errorLane : Nat := 0
  flushBlocks : List Counter := List.replicate 16 {}
  tapSkip : Counter := {}
  emptyWindows : Counter := {}
  degenerate : Counter := {}
  overflow : Counter := {}
  suppressed : Counter := {}
  tracksStarted : Counter := {}
  tracksEnded : Counter := {}
  trackFull : Counter := {}
  scoreboardWait : Counter := {}
  savedScalars : List Word32 := []
  splitAt : Nat := 0
  deriving DecidableEq, Repr

/-- An instruction queued on a sampler (R205). -/
structure SampJob where
  word : Word256
  owner : Owner
  issued : Bool := false
  issuedAt : Nat := 0
  repeated : Bool := false
  restarted : Bool := false
  tile : Option Nat := none
  deriving DecidableEq, Repr

/-- SAMPb block (Table 9.6) with its five deck slots (R195). -/
structure SampBlk where
  queue : List SampJob := []
  decks : List (Option Deck) := List.replicate 5 none
  tokens : Counter := {}
  greedy : Counter := {}
  noToken : Counter := {}
  infinite : Counter := {}
  words : Counter := {}
  compareErrors : Counter := {}
  parityErrors : Counter := {}
  recomputed : Counter := {}
  deckReloads : Counter := {}
  repeats : List Nat := []
  deriving DecidableEq, Repr

/-- An access unit in the decode pipeline (R246 to R255). -/
structure DecodeJob where
  sample : Nat
  facts : AuFacts
  since : Nat
  strips : Nat
  next : Nat := 0
  concealed : Nat := 0
  cause : Option Nat := none
  propagated : Bool := false
  later : List Nat := []
  refs : List Nat := []
  frame : Option Nat := none
  deriving DecidableEq, Repr

/-- A picture in the encode pipeline (R259 to R262). -/
structure EncodeJob where
  stream : Nat
  sample : Nat
  source : Nat
  crop : List Nat
  intra : Bool
  forced : Bool
  target : Int
  base : Int
  qp : Int
  qpRow : Int
  row : Nat := 0
  rows : Nat
  bits : Nat := 0
  bytes : Nat := 0
  rowBits : List Nat := []
  qpFirst : Int
  skipRest : Bool := false
  stopped : Bool := false
  repeated : Bool := false
  recovery : Bool := false
  saved : EncodeState
  deriving DecidableEq, Repr

/-- CODECn block (Table 11.10). -/
structure CodecBlk where
  decoding : Option DecodeJob := none
  encoding : Option EncodeJob := none
  rebuilding : Option Nat := none
  rebuildUntil : Nat := 0
  lastSample : Nat := 0
  picturesDecoded : Counter := {}
  strips : Counter := {}
  picturesEncoded : Counter := {}
  rejected : Counter := {}
  unsupported : Counter := {}
  concealed : Counter := {}
  degraded : Counter := {}
  rebuilds : Counter := {}
  reencodes : Counter := {}
  refErrors : Counter := {}
  dpbOverflow : Counter := {}
  rcOverrun : Counter := {}
  errorStream : Nat := 0
  errorCause : Nat := 0
  decodeRepeats : List Nat := []
  encodeRepeats : List Nat := []
  deriving DecidableEq, Repr

/-- A camera frame that is open on one virtual channel (R270). -/
structure OpenFrame where
  number : Nat
  capture : Nat
  stream : Nat
  lines : Nat := 0
  corrupt : Option Nat := none
  buffers : List Nat := []
  stored : Bool := true
  deriving DecidableEq, Repr

/-- One CSI-2 port (Table 12.10). -/
structure Csi2Port where
  lanes : Nat := 4
  enabled : Bool := false
  rate : Nat := 2500
  open_ : List (Nat × OpenFrame) := []
  frames : Counter := {}
  crc : Counter := {}
  eccCorrected : Counter := {}
  headerErrors : Counter := {}
  discarded : Counter := {}
  phyErrors : Counter := {}
  deriving DecidableEq, Repr

/-- INGEST block (Table 12.10). -/
structure Ingest where
  ports : List Csi2Port := List.replicate 16 {}
  frames : Counter := {}
  corrupt : Counter := {}
  substituted : Counter := {}
  fed : Counter := {}
  feedTimeout : Counter := {}
  audioFrames : Counter := {}
  audioGaps : Counter := {}
  errorStream : Nat := 0
  errorCause : Nat := 0
  audioRepeats : List Nat := []
  deriving DecidableEq, Repr

/-- An image in a JPEG unit (R278 to R280): its sample, what its headers say, and the next MCU row. -/
structure JpegJob where
  sample : Nat
  facts : JpegFacts
  next : Nat := 0
  deriving DecidableEq, Repr

/-- One JPEG unit (Table 12.11). -/
structure JpegUnit where
  work : Option JpegJob := none
  retried : Bool := false
  images : Counter := {}
  rejected : Counter := {}
  entropyErrors : Counter := {}
  recomputed : Counter := {}
  repeats : List Nat := []
  deriving DecidableEq, Repr

/-- A scaler pass in work (R282 to R286). -/
structure ScalePass where
  sample : Nat
  output : Nat
  crop : List Nat
  rowsDone : Nat := 0
  retried : Bool := false
  recomputed : Bool := false
  buffer : Nat := 0
  tile : Nat := 0
  deriving DecidableEq, Repr

/-- One scaler (Table 12.12). -/
structure Scaler where
  work : Option ScalePass := none
  passes : Counter := {}
  substitutions : Counter := {}
  cropAdjusted : Counter := {}
  parityErrors : Counter := {}
  recomputed : Counter := {}
  repeats : List Nat := []
  deriving DecidableEq, Repr

/-- A writer tile of a scoreboard tensor (R221): the rows it writes (first line, lines from row to row, lines of a row, number
of rows), how many of them it has signalled, whether its signals are withheld (R136), its chain's sample and layer slot. -/
structure Tile where
  line : Nat
  pitch : Nat
  width : Nat
  rows : Nat
  watermark : Nat := 0
  signalledAt : Nat := 0
  withheld : Bool := false
  sample : Nat
  slot : Nat
  unit : Nat
  index : Nat
  deriving DecidableEq, Repr

/-- Euwald port states (Table 15.8). -/
inductive PortState where
  | disabled | down | training | up | retraining
  deriving DecidableEq, Repr

/-- One Euwald port (R349 to R356, Table 15.8). -/
structure EwPort where
  state : PortState := .disabled
  peerMember : Nat := 0
  peerPort : Nat := 0
  nextSeq : Nat := 0
  expectSeq : Nat := 0
  lastGood : Nat := 4095
  nak : Bool := false
  replay : List (Nat × Nat) := []
  replayCount : Nat := 0
  nakFor : Option Nat := none
  waiting : List Nat := [0, 0, 0]
  sentFlits : List Nat := [0, 0, 0]
  peerFreed : List Nat := [0, 0, 0]
  freed : List Nat := [0, 0, 0]
  turn : Nat := 0
  stallSince : Option Nat := none
  good : Nat := 0
  lastValid : Nat := 0
  downSince : Nat := 0
  lastT1 : Nat := 0
  lastReceive : Nat := 0
  delay : Nat := 0
  fecCorrected : Counter := {}
  fecUncorrectable : Counter := {}
  crcErrors : Counter := {}
  replays : Counter := {}
  retrains : Counter := {}
  flitsSent : Counter := {}
  flitsReceived : Counter := {}
  creditStall : Counter := {}
  deriving DecidableEq, Repr

/-- Cascade states (Table 15.6). -/
inductive CascadeState where
  | none_ | forming | playing | remapping | broken
  deriving DecidableEq, Repr

/-- What is known of a cascade member. -/
structure Member where
  identity : Nat := 0
  lastHeartbeat : Nat := 0
  lastSequence : Nat := 0
  lost : Bool := false
  hostReady : Bool := false
  issued : Bool := false
  steady : Bool := false
  step : Nat := 0
  stepEdge : Nat := 0
  deriving DecidableEq, Repr

/-- A retained copy of a block sent (R362). -/
structure Retained where
  chain : Nat
  index : Nat
  address : Nat
  length : Nat
  dst : Nat
  sentAt : Nat
  acked : Bool
  cue : Nat
  copy : Nat
  sealed : Bool
  line : Nat
  sample : Option Nat := none
  deriving DecidableEq, Repr

/-- A MIRROR message without its MIRROR_ACK (R371): when it was sent, and the command or the completion that waits for it. -/
structure MirrorHold where
  sentAt : Nat
  command : Option Nat := none
  write : Option (Completion × Bool) := none
  deriving DecidableEq, Repr

/-- EWL block (Table 15.8) and the cascade behind it. -/
structure Ewl where
  ports : List EwPort := List.replicate 8 {}
  cascade : CascadeState := .none_
  role : Nat := 0
  member : Nat := 0
  members : Nat := 0
  resilient : Bool := false
  epoch : Nat := 0
  syncOffset : Int := 0
  timeParent : Nat := 0
  timePort : Nat := 0
  timeHops : Nat := 0
  goodExchanges : Nat := 0
  excursions : Counter := {}
  handoffSent : Counter := {}
  handoffReceived : Counter := {}
  handoffResent : Counter := {}
  heartbeatLate : Counter := {}
  badMessages : Counter := {}
  table : List (Nat × Member) := []
  deputy : Option Nat := none
  manager : Nat := 0
  formAt : Nat := 0
  formIdentities : List (Nat × Nat × Bool) := []
  received : List (Nat × Nat × Nat) := []
  retained : List Retained := []
  mirrorRecords : List MirrorContent := []
  mirrorSent : List MirrorContent := []
  mirrorQueue : List MirrorHold := []
  deputyDue : Bool := false
  remoteSeen : Nat := 0
  waitingReply : List (Nat × Nat × List Byte) := []
  routes : List (Nat × Nat × Nat) := []
  assigned : Bool := false
  startDue : Bool := false
  heartbeatSeq : Nat := 0
  lastHeartbeatSent : Nat := 0
  managerHeard : Nat := 0
  remapAt : Nat := 0
  remapMember : Nat := 0
  remapBuilt : Bool := false
  remapRepeat : List Nat := []
  remapMissed : List Nat := []
  headless : Bool := false
  deriving DecidableEq, Repr

/-- Attestation log entry (R427). -/
structure LogEntry where
  sequence : Nat
  time : Nat
  cue : Nat
  kind : Nat
  fn : Nat
  ring : Nat
  arg : Nat
  data : Word256
  deriving DecidableEq, Repr

/-- SEC block (Table 18.7): fuses, flash, boot, log, reports. -/
structure Sec where
  unsealed : Bool := false
  encoded : Bool := false
  bootSource : Nat := 0
  slot0Revoked : Bool := false
  floor : Nat := 0
  version : Nat := 0
  build : Nat := 0
  imageHash : Word256 := 0
  imageKeyHash : Word256 := 0
  keySlot : Nat := 0
  revokePending : Bool := false
  floorPending : Bool := false
  flashA : List Byte := []
  flashB : List Byte := []
  flashRetries : List Nat := [0, 0]
  flashUnusable : List Bool := [false, false]
  flashTried : List Bool := [false, false]
  loading : Option Bool := none
  log : List LogEntry := []
  logCount : Nat := 0
  digest : Word256 := 0
  authFailures : Counter := {}
  reports : Counter := {}
  flashErrors : Counter := {}
  locked : Bool := false
  castKeys : List Word256 := List.replicate 8 0
  pushLength : Nat := 0
  pushRunning : Bool := false
  pushCause : Nat := 0
  lastReport : List Byte := []
  deriving DecidableEq, Repr

/-- Trace record (Table 19.1). -/
structure TraceRecord where
  time : Nat
  sequence : Nat
  kind : Nat
  unitClass : Nat
  unit : Nat
  arg0 : Nat
  arg1 : Nat
  deriving DecidableEq, Repr

/-- A counter snapshot (R437, R438): when it was taken, its T and cue number, its totals as (block position, register offset,
total), and the COUNTERS_SNAPSHOT commands it serves. -/
structure Snapshot where
  taken : Nat := 0
  time : Nat := 0
  cue : Nat := 0
  totals : List (Nat × Nat × Nat) := []
  commands : List Nat := []
  deriving DecidableEq, Repr

/-- OBS block (Table 19.3): trace ring (newest first, at most 262,144), queue, lanes, the snapshot published and those taken and
not yet published, oldest first. -/
structure Obs where
  mask : Nat := 0x37B1
  sequence : Nat := 0
  ring : List TraceRecord := []
  queue : List TraceRecord := []
  lostRun : Nat := 0
  lanes : List (TraceRecord × Bool) := []
  laneSkip : Bool := false
  dropped : Counter := {}
  pinDropped : Counter := {}
  generation : Nat := 0
  bscanRefused : Counter := {}
  snapshot : Snapshot := {}
  snapshots : List Snapshot := []
  deriving DecidableEq, Repr

/-- A capacity decrease (R449): the edge of its physical reduction, when that edge came, and the readings at the decision. -/
structure Decrease where
  edge : Nat
  since : Option Nat
  logic : Nat
  dram : Nat
  average : Nat
  deriving DecidableEq, Repr

/-- PWR block (Table 20.6) and the power controller's histories (R447 to R452). -/
structure Pwr where
  rest : Bool := false
  stepNext : Nat := 0
  trip : Bool := false
  therm : Bool := false
  limit : Nat := 450
  milliwatts : Nat := 0
  average : Nat := 0
  coreMilliamps : Nat := 0
  coreMillivolts : Nat := 700
  logicTemp : Nat := 0
  logicSensor : Nat := 0
  dramTemp : Nat := 0
  stepChanges : Counter := {}
  trips : Counter := {}
  tripCause : Nat := 0
  resetKind : Nat := 1
  resetPrevious : Nat := 0
  resetCauses : List Nat := [1]
  restEntries : Counter := {}
  absent : Nat := 0
  gated : List Nat := []
  unlocked : List Nat := []
  stopped : Bool := false
  sensors : List (Nat × Nat) := []
  history1 : List (Nat × Nat) := []
  history100 : List (Nat × Nat) := []
  currentHistory : List (Nat × Nat) := []
  overSince : Option Nat := none
  overLimitTimes : List (Nat × Nat) := []
  instantSince : Option Nat := none
  tripSince : Option Nat := none
  trippedAt : Nat := 0
  tripClearSince : Option Nat := none
  tripSensor : Nat := 0
  lastDecrease : Option Decrease := none
  increaseSince : Option Nat := none
  decided : Option Nat := none
  lastAccess : Nat := 0
  wakeAt : Nat := 0
  deriving DecidableEq, Repr

/-- MGMT block (Table 21.8), POINTER and the dynamic address (R468). -/
structure Mgmt where
  pointer : Nat := 0
  crossed : Bool := false
  stepped : Bool := false
  tripped : Bool := false
  timeouts : Counter := {}
  refused : Counter := {}
  pecErrors : Counter := {}
  dynamicAddress : Option Nat := none
  lastRead : List Byte := []
  deriving DecidableEq, Repr

/-- What one Playbill update publishes in the nodes (R36, R37, R42 to R44), as it stood when the update began: capacity step and HOST
share from the next edge, trained link, cue period and since when, root, roles and members, pools, and VF ring ranges. -/
structure PlaybillView where
  level : Nat := 0
  hostShare : Nat := 1024
  speed : Nat := 6
  width : Nat := 16
  cueSince : Nat := 0
  cuePeriod : Nat := 16667
  cascadeRoot : Bool := false
  role : Nat := 0
  member : Nat := 0
  members : Nat := 1
  manager : Nat := 0
  deputy : Option Nat := none
  lostMembers : List Nat := []
  pools : List (Nat × Bool × Nat × Nat × Nat × Nat) := []
  vfRings : List (Nat × Nat × Nat) := []
  deriving DecidableEq, Repr

/-- Playbill: header fields (Table 2.2), the values published in its nodes, the update in progress (R38), and a remap's event
(R41) that waits for its update. -/
structure Playbill where
  generation : Nat := 0
  changeTime : Nat := 0
  changeCue : Nat := 0
  check : Nat := 0
  flags : Nat := 0
  totalLength : Nat := 64
  nodeCount : Nat := 0
  records : Nat := 0
  view : PlaybillView := {}
  staged : PlaybillView := {}
  updating : Option Nat := none
  again : Bool := false
  cueSince : Nat := 0
  remapDue : Option Nat := none
  remapEvent : Option Nat := none
  deriving DecidableEq, Repr

/-- Saved contexts (Table 8.6), by the House line of the 512-byte buffer that holds them. -/
structure SavedContext where
  jobs : List VecJob
  descriptor : Bool
  vl : Nat
  flags : Nat
  position : Nat
  deriving DecidableEq, Repr

/-- Why a step stops with a fault.  No command of this block does so: every command of the table has an effect the spec
gives it (or leaves the state as it is), and the device's own faults are the state FAULTED.  The interface asks for the type. -/
inductive Fault where
  /-- Raised by no meaning; safe. -/
  | neverRaised
  deriving DecidableEq, Repr

/-- Why a step is refused. -/
inductive Refusal where
  /-- A command whose arm of exec holds no meaning yet, by its mnemonic; raised in exec's arms only; safe. -/
  | notModelled (mnemonic : String)
  deriving DecidableEq, Repr

/-- The machine: every piece of state the spec gives the device, and the queue of waiting commands. -/
structure State where
  time : TimeBlk := {}
  cue : CueBlk := {}
  host : HostBlk := {}
  rings : List (Nat × Ring) := []
  scanPos : Nat := 0
  inflight : List (Nat × InFlight) := []
  nextId : Nat := 0
  groupFn : List (Nat × Nat) := []
  events : List Event := []
  eventsLost : Nat := 0
  outputs : List Output := []
  lastRead : Word64 := 0
  lastReadBytes : List Byte := []
  lastReadPoisoned : Bool := false
  streams : List (Nat × Stream) := []
  samples : List (Nat × Sample) := []
  sampleOrder : Nat := 0
  casts : List (Nat × Cast) := []
  scripts : List (Nat × Script) := []
  wardrobe : Wardrobe := {}
  house : House := {}
  dram : Dram := {}
  arrays : List ArrayBlk := List.replicate 8 {}
  vecs : List VecBlk := List.replicate 8 {}
  samps : List SampBlk := List.replicate 8 {}
  codecs : List CodecBlk := List.replicate 4 {}
  ingest : Ingest := {}
  jpegs : List JpegUnit := List.replicate 2 {}
  scalers : List Scaler := List.replicate 8 {}
  scoreboard : List (Nat × Tile) := []
  contexts : List (Nat × SavedContext) := []
  ewl : Ewl := {}
  sec : Sec := {}
  obs : Obs := {}
  pwr : Pwr := {}
  mgmt : Mgmt := {}
  playbill : Playbill := {}
  tap : TapInstruction := .idcode
  cores : List (Nat × List Nat) := []
  coreRefetches : Nat := 0
  freeCount : Nat := 0
  pending : List Instr := []
  deriving DecidableEq, Repr

/-- The machine right after reset: state BOOT, every register at the value of its Reset column (the ones the manual marks
with a dash at the values of log entry 3), no ring, stream, pool or buffer, memories listing nothing, a POWER_ON reset in
force (R453, R462), and an empty queue. -/
def State.reset : State := {}

end Sys2Proof.Machine
end

