-- ==== Sys2Proof/Machine/Flags.lean ====
section
/-! DEFINITION. Status codes (R308, Table 13.19), outcome ranks (R403, Table 17.3), counters (R8, R436) and the codes of
the small enumerations that registers and records show. -/

namespace Sys2Proof.Machine

open Sys2Proof

/-- The code of a status (Table 13.19). -/
def Status.code : Status → Nat
  | .done => 0x00 | .empty => 0x01 | .recomputed => 0x02 | .widened => 0x03 | .substituted => 0x04
  | .degraded => 0x05 | .staleDropped => 0x08 | .deadlineMissed => 0x09 | .remapped => 0x0A
  | .wrongState => 0x10 | .outOfRange => 0x11 | .shapeExceedsPlan => 0x12 | .notPermitted => 0x13
  | .unknownOpcode => 0x14 | .noResource => 0x15 | .notAdmitted => 0x16 | .scaleMismatch => 0x17
  | .corruptInput => 0x18 | .timeout => 0x19 | .deviceFault => 0x20 | .authFailed => 0x21

/-- The statuses of Table 13.19. -/
def allStatuses : List Status :=
  [.done, .empty, .recomputed, .widened, .substituted, .degraded, .staleDropped, .deadlineMissed, .remapped, .wrongState,
   .outOfRange, .shapeExceedsPlan, .notPermitted, .unknownOpcode, .noResource, .notAdmitted, .scaleMismatch, .corruptInput,
   .timeout, .deviceFault, .authFailed]

/-- The status that a code names. -/
def statusOf (code : Nat) : Option Status := allStatuses.find? fun st => st.code = code

/-- Codes up to 0x0A report work that was done (R308). -/
def Status.workDone (st : Status) : Bool := st.code ≤ 0x0A

/-- The rank of a sample outcome (Table 17.3): 1 is the highest. -/
def Status.rank : Status → Nat
  | .deadlineMissed => 1 | .scaleMismatch => 2 | .substituted => 3 | .degraded => 4 | .remapped => 5
  | .widened => 6 | .recomputed => 7 | .done => 8
  | .empty | .staleDropped | .wrongState | .outOfRange | .shapeExceedsPlan | .notPermitted | .unknownOpcode
  | .noResource | .notAdmitted | .corruptInput | .timeout | .deviceFault | .authFailed => 0

/-- The higher-ranked of two outcomes; on a tie the first (R403: the detail of the first occurrence). -/
def Outcome.higher (a b : Outcome) : Outcome := if b.status.rank < a.status.rank then b else a

/-- The highest outcome of a list, DONE when it is empty (R403). -/
def highestOutcome (l : List Outcome) : Outcome := l.foldl Outcome.higher ⟨.done, 0⟩

/-- A counter of w bits after n more events: it saturates, its total does not (R8, R436). -/
def Counter.add (w n : Nat) (c : Counter) : Counter :=
  { val := min (c.val + n) (2 ^ w - 1), total := c.total + n }

/-- A 32-bit counter after one more event. -/
def Counter.inc (c : Counter) : Counter := c.add 32 1

/-- A counter after an RC read (R8). -/
def Counter.clear (c : Counter) : Counter := { c with val := 0 }

/-- DEVICE_STATE:STATE (Table 14.5). -/
def DevState.code : DevState → Nat
  | .boot => 0 | .standby => 1 | .service => 2 | .draining => 3 | .faulted => 4

/-- RING_STATUS:STATE (Table 13.1). -/
def RingState.code : RingState → Nat
  | .disabled => 0 | .enabled => 1 | .halted => 2

/-- STATE of the STREAM_QUERY reply (Table 13.13). -/
def StreamState.code : StreamState → Nat
  | .declared => 1 | .admitted => 2 | .running => 3 | .paused => 4 | .closed => 5

/-- The pause cause (R314). -/
def PauseCause.code : PauseCause → Nat
  | .host => 0 | .capacity => 1 | .sealed => 2 | .stop => 3

/-- CONTROL:SOURCE (Table 3.2). -/
def CueSource.code : CueSource → Nat
  | .internal => 0 | .pin => 1 | .link => 2

/-- LINK:POWER (Table 14.5). -/
def linkPowerCode : LinkPower → Nat
  | .l0 => 0 | .l0s => 1 | .l1 => 2 | .l1p1 => 3 | .l1p2 => 4

/-- PORT_STATUS:STATE (Table 15.8). -/
def PortState.code : PortState → Nat
  | .disabled => 0 | .down => 1 | .training => 2 | .up => 3 | .retraining => 4

/-- CASCADE:STATE (Table 15.8). -/
def CascadeState.code : CascadeState → Nat
  | .none_ => 0 | .forming => 1 | .playing => 2 | .remapping => 3 | .broken => 4

/-- Ring halt causes (Table 13.2). -/
abbrev causeTailRange : Nat := 1
abbrev causeSequence : Nat := 2
abbrev causeFetch : Nat := 3
abbrev causeWrite : Nat := 4

/-- Fault classes (Table 17.1). -/
abbrev clsHouse : Nat := 0x01
abbrev clsWardrobe : Nat := 0x02
abbrev clsArray : Nat := 0x03
abbrev clsVector : Nat := 0x04
abbrev clsSampler : Nat := 0x05
abbrev clsCodec : Nat := 0x06
abbrev clsJpeg : Nat := 0x07
abbrev clsScaler : Nat := 0x08
abbrev clsAudio : Nat := 0x09
abbrev clsDram : Nat := 0x0A
abbrev clsCore : Nat := 0x0B
abbrev clsSelfTest : Nat := 0x0C
abbrev clsThermal : Nat := 0x0D
abbrev clsExpelled : Nat := 0x0E

/-- OUT_OF_RANGE caused by the packet byte at an offset (R307). -/
def rangeFault (offset : Nat) : Outcome := ⟨.outOfRange, 2 ^ 23 + offset⟩

/-- OUT_OF_RANGE caused by the extended block's byte at an offset (R307). -/
def blockFault (offset : Nat) : Outcome := ⟨.outOfRange, 2 ^ 23 + 2 ^ 13 + offset⟩

end Sys2Proof.Machine
end

