-- ==== Sys2Proof/Machine/Operands.lean ====
section
/-! DEFINITION. Operand forms: parameter bytes of a packet (R303), node identifiers (R34, Table 2.5) and the buffer form of
R86. -/

namespace Sys2Proof

/-- n bytes of the parameters from Pi, little-endian. -/
def Packet.par (p : Packet) (i n : Nat) : Nat := bitsOf p.params.toNat (8 * i) (8 * n)

/-- Pi. -/
abbrev Packet.u8 (p : Packet) (i : Nat) : Nat := p.par i 1

/-- Pi to P(i+1). -/
abbrev Packet.u16 (p : Packet) (i : Nat) : Nat := p.par i 2

/-- Pi to P(i+3). -/
abbrev Packet.u32 (p : Packet) (i : Nat) : Nat := p.par i 4

/-- Pi to P(i+7). -/
abbrev Packet.u64 (p : Packet) (i : Nat) : Nat := p.par i 8

/-- FLAGS bit [0]. -/
def Packet.extended (p : Packet) : Bool := bitOf p.flags.toNat 0

/-- FLAGS bit [1]. -/
def Packet.fence (p : Packet) : Bool := bitOf p.flags.toNat 1

/-- FLAGS bit [2]. -/
def Packet.interrupt (p : Packet) : Bool := bitOf p.flags.toNat 2

/-- FLAGS bits [15:3] are zero. -/
def Packet.flagsClean (p : Packet) : Bool := p.flags.toNat < 8

end Sys2Proof

namespace Sys2Proof.Machine

open Sys2Proof

/-- The fields of a byte list: n bytes from offset i, little-endian. -/
def fieldAt (bs : List Byte) (i n : Nat) : Nat := leNat ((bs.drop i).take n)

/-- Node kinds (Table 2.4). -/
inductive NodeKind where
  | cascade | device | wing | bay | array | section_ | cell | vectorEngine | sampler | controlCore | managerCore
  | house | wardrobe | dram | dramDie | codecCluster | scaler | jpeg | csi2Port | audioFrontEnd | hostPort
  | euwaldPort | security | timeBase | clocks | queues | formats | codecProfiles | limits | capacity
  deriving DecidableEq, Repr

/-- KIND of a node header (Table 2.4). -/
def NodeKind.code : NodeKind → Nat
  | .cascade => 0x01 | .device => 0x02 | .wing => 0x03 | .bay => 0x04 | .array => 0x05 | .section_ => 0x06
  | .cell => 0x07 | .vectorEngine => 0x10 | .sampler => 0x11 | .controlCore => 0x12 | .managerCore => 0x13
  | .house => 0x20 | .wardrobe => 0x21 | .dram => 0x22 | .dramDie => 0x23 | .codecCluster => 0x30 | .scaler => 0x31
  | .jpeg => 0x32 | .csi2Port => 0x33 | .audioFrontEnd => 0x34 | .hostPort => 0x40 | .euwaldPort => 0x41
  | .security => 0x50 | .timeBase => 0x51 | .clocks => 0x52 | .queues => 0x60 | .formats => 0x61
  | .codecProfiles => 0x62 | .limits => 0x63 | .capacity => 0x64

/-- A node that an identifier names: its kind, its device's member number and its unit number. -/
structure Node where
  kind : NodeKind
  member : Nat
  unit : Nat
  deriving DecidableEq, Repr

/-- The node at a slot of level 5 (Table 2.5). -/
def slot5 : Nat → Option (NodeKind × Nat)
  | 0 => some (.device, 0) | 1 => some (.house, 0) | 2 => some (.wardrobe, 0) | 3 => some (.dram, 0)
  | 12 => some (.hostPort, 0) | 25 => some (.audioFrontEnd, 0) | 26 => some (.security, 0)
  | 27 => some (.timeBase, 0) | 28 => some (.clocks, 0) | 29 => some (.queues, 0) | 30 => some (.formats, 0)
  | 31 => some (.codecProfiles, 0) | 32 => some (.limits, 0) | 33 => some (.capacity, 0)
  | k => if 4 ≤ k ∧ k ≤ 11 then some (.dramDie, k - 4)
         else if 13 ≤ k ∧ k ≤ 20 then some (.euwaldPort, k - 13)
         else if 21 ≤ k ∧ k ≤ 24 then some (.managerCore, k - 21)
         else none

/-- The node at a slot of level 4: wing w's slots start at 16w. -/
def slot4 (k : Nat) : Option (NodeKind × Nat) :=
  let w := k / 16
  let j := k % 16
  if j = 0 then some (.wing, w)
  else if j ≤ 2 then some (.codecCluster, 2 * w + (j - 1))
  else if j ≤ 6 then some (.scaler, 4 * w + (j - 3))
  else if j = 7 then some (.jpeg, w)
  else some (.csi2Port, 8 * w + (j - 8))

/-- The node at a slot of level 3. -/
def slot3 (k : Nat) : Option (NodeKind × Nat) :=
  match k % 4 with
  | 0 => some (.bay, k / 4)
  | 1 => some (.vectorEngine, k / 4)
  | 2 => some (.sampler, k / 4)
  | _ => some (.controlCore, k / 4)

/-- The node a NODE_ID names by Table 2.5, whatever the Playbill shows. -/
def nodeAt (id : Nat) : Option Node :=
  let level := id / 2 ^ 28
  let index := id % 2 ^ 28
  let at_ := fun (stride : Nat) (slot : Nat → Option (NodeKind × Nat)) =>
    (slot (index % stride)).map fun ku => (⟨ku.1, index / stride, ku.2⟩ : Node)
  match level with
  | 6 => match index with
    | 0 => some ⟨.cascade, 0, 0⟩
    | 1 => some ⟨.house, 0, 0⟩
    | 2 => some ⟨.dram, 0, 0⟩
    | 3 => some ⟨.capacity, 0, 0⟩
    | _ => none
  | 5 => at_ 64 slot5
  | 4 => at_ 32 slot4
  | 3 => at_ 32 slot3
  | 2 => at_ 8 fun k => some (.array, k)
  | 1 => at_ 512 fun k => some (.section_, k)
  | 0 => at_ 2097152 fun k => some (.cell, k)
  | _ => none

/-- The node a NODE_ID names in the current Playbill (R35, R42): a lone device or a member shows its own nodes, a cascade
root every member's. -/
def findNode (s : State) (id : Nat) : Option Node :=
  match nodeAt id with
  | none => none
  | some n =>
    if s.playbill.generation = 0 then none
    else if id / 2 ^ 28 = 6 then (if s.playbill.view.cascadeRoot then some n else none)
    else if s.playbill.view.cascadeRoot then (if n.member < s.playbill.view.members then some n else none)
    else if n.member = s.playbill.view.member then some n
    else none

/-- A node is in service unless its device is LOST (R33, R43; no unit is out of service alone, R398). -/
def nodeInService (s : State) (n : Node) : Bool := !s.playbill.view.lostMembers.contains n.member || n.kind == .cascade

/-- The NODE_ID of the Playbill's root (R311). -/
def rootId (s : State) : Nat :=
  if s.playbill.view.cascadeRoot then 0x60000000 else 0x50000000 + 64 * s.playbill.view.member

/-- Whether a buffer name of R86 lies in DRAM, and its address within the location. -/
def bufDram (w : Nat) : Bool := bitOf w 63

/-- The address a buffer name of R86 gives. -/
def bufAddr (w : Nat) : Nat := w % 2 ^ 63

/-- The buffer name of an address (R86). -/
def bufName (dram : Bool) (address : Nat) : Nat := (if dram then 2 ^ 63 else 0) + address

end Sys2Proof.Machine
end

