-- ==== Sys2Proof/Machine/Ops.lean ====
section
/-! DEFINITION. The named operations that every meaning is built from: sparse tables, memory, the passing of time, the trace,
completions and events, Playbill updates, the attestation log, and entry to FAULTED. -/

namespace Sys2Proof.Machine

open Sys2Proof

/-! ### Sparse tables -/

/-- The entry of key k. -/
def aget {α : Type} : List (Nat × α) → Nat → Option α
  | [], _ => none
  | (k', v) :: l, k => if k' = k then some v else aget l k

/-- The entry of key k, or d. -/
def agetD {α : Type} (l : List (Nat × α)) (k : Nat) (d : α) : α := (aget l k).getD d

/-- The table without key k. -/
def adel {α : Type} : List (Nat × α) → Nat → List (Nat × α)
  | [], _ => []
  | (k', v) :: l, k => if k' = k then adel l k else (k', v) :: adel l k

/-- The table with v at key k, kept in ascending key order. -/
def aset {α : Type} : List (Nat × α) → Nat → α → List (Nat × α)
  | [], k, v => [(k, v)]
  | (k', v') :: l, k, v =>
    if k < k' then (k, v) :: (k', v') :: l
    else if k = k' then (k, v) :: l
    else (k', v') :: aset l k v

/-- The table with f applied at key k, unchanged when there is no entry. -/
def amod {α : Type} : List (Nat × α) → Nat → (α → α) → List (Nat × α)
  | [], _, _ => []
  | (k', v) :: l, k, f => if k' = k then (k', f v) :: l else (k', v) :: amod l k f

/-- The lowest key from n upward that the table does not use, searched over its length. -/
def freeKey {α : Type} (l : List (Nat × α)) (n : Nat) : Nat :=
  ((upto (l.length + 1)).map (· + n)).find? (fun k => (aget l k).isNone) |>.getD n

/-- The list with f applied at position i. -/
def modAt {α : Type} (l : List α) (i : Nat) (f : α → α) : List α := l.modify i f

/-! ### Byte stores -/

/-- The canonical form: strictly rising addresses, no byte equal to the unlisted byte 0. -/
def cellsWf : List Host.Cell → Bool
  | [] => true
  | [c] => c.2 ≠ 0
  | c :: d :: l => c.2 ≠ 0 && c.1 < d.1 && cellsWf (d :: l)

/-- The store is in its canonical form. -/
def Memory.wf (m : Memory) : Bool := cellsWf m.cells

/-- The byte at an address; an address not listed reads as 0 (log entry 13). -/
def cellsRead : List Host.Cell → Nat → Byte
  | [], _ => 0
  | c :: l, a => if c.1 = a then c.2 else cellsRead l a

/-- The byte at an address. -/
def Memory.read (m : Memory) (a : Nat) : Byte := cellsRead m.cells a

/-- The cells with byte b at address a. -/
def cellsWrite : List Host.Cell → Nat → Byte → List Host.Cell
  | [], a, b => if b = 0 then [] else [(a, b)]
  | c :: l, a, b =>
    if a < c.1 then (if b = 0 then c :: l else (a, b) :: c :: l)
    else if a = c.1 then (if b = 0 then l else (a, b) :: l)
    else c :: cellsWrite l a b

/-- The store with byte b at address a. -/
def Memory.write (m : Memory) (a : Nat) (b : Byte) : Memory := ⟨cellsWrite m.cells a b⟩

/-- The store with bytes from address a upward. -/
def Memory.writeBytes (m : Memory) (a : Nat) : List Byte → Memory
  | [] => m
  | b :: bs => (m.write a b).writeBytes (a + 1) bs

/-- n bytes from address a. -/
def Memory.readBytes (m : Memory) (a n : Nat) : List Byte :=
  let l := m.cells.filter fun c => a ≤ c.1 && c.1 < a + n
  (upto n).map fun i => cellsRead l (a + i)

/-- The store with n bytes from address a set to 0. -/
def Memory.erase (m : Memory) (a n : Nat) : Memory :=
  ⟨m.cells.filter fun c => !(a ≤ c.1 && c.1 < a + n)⟩

/-- Bytes of the House (dram false) or of DRAM. -/
def State.readMem (s : State) (dram : Bool) (a n : Nat) : List Byte :=
  if dram then s.dram.mem.readBytes a n else s.house.mem.readBytes a n

/-- Bytes written to the House or to DRAM, partial lines and bursts merged (R66, R384); a House line or a DRAM burst that is wholly replaced gets a fresh code (R72,
R391), and no other line's or burst's code changes. -/
def State.writeMem (s : State) (dram : Bool) (a : Nat) (bs : List Byte) : State :=
  let n := bs.length
  let covered := fun (l : Nat) => a ≤ 64 * l && 64 * l + 64 ≤ a + n
  if dram then
    { s with dram := { s.dram with
        mem := s.dram.mem.writeBytes a bs
        poisonedBursts := s.dram.poisonedBursts.filter fun l => !covered l
        lostBursts := s.dram.lostBursts.filter fun l => !covered l.1 } }
  else
    { s with house := { s.house with
        mem := s.house.mem.writeBytes a bs
        poisonedLines := s.house.poisonedLines.filter fun l => !covered l
        bad := s.house.bad.filter fun l => !covered l } }

/-- Zeros with valid codes over n bytes (R75, R393). -/
def State.zeroMem (s : State) (dram : Bool) (a n : Nat) : State :=
  let inside := fun (l : Nat) => a ≤ 64 * l && 64 * l < a + n
  if dram then
    { s with dram := { s.dram with
        mem := s.dram.mem.erase a n
        poisonedBursts := s.dram.poisonedBursts.filter fun l => !inside l
        lostBursts := s.dram.lostBursts.filter fun l => !inside l.1 } }
  else
    { s with house := { s.house with
        mem := s.house.mem.erase a n
        poisonedLines := s.house.poisonedLines.filter fun l => !inside l
        bad := s.house.bad.filter fun l => !inside l } }

/-- The bank of a House line (R64). -/
def bankOf (l : Nat) : Nat := bitsOf l 0 8 ^^^ bitsOf l 8 8 ^^^ bitsOf l 16 7

/-- 2^G for a grain code (Table 16.1). -/
def grainBytes (code : Nat) : Nat := 256 * 2 ^ code

/-- The channel of a DRAM address under a grain code (R379). -/
def channelOf (grain a : Nat) : Nat :=
  let g := a / grainBytes grain
  bitsOf g 0 7 ^^^ bitsOf g 7 7 ^^^ bitsOf g 14 7 ^^^ bitsOf g 21 7

/-- The offset of a DRAM address within its channel (R379). -/
def channelOffset (grain a : Nat) : Nat :=
  let gb := grainBytes grain
  a / gb / 128 * gb + a % gb

/-! ### Device state -/

/-- The device is in STANDBY, SERVICE or DRAINING: cue edges occur and units work (R48, R405). -/
def State.live (s : State) : Bool :=
  match s.host.state with
  | .standby | .service | .draining => true
  | .boot | .faulted => false

/-- The units that an emergency trip gates or stops can work (R451). -/
def State.computing (s : State) : Bool := s.live && !s.pwr.trip

/-- The number of the cue in progress; 0 until the first edge (R48). -/
def State.cueNow (s : State) : Nat := s.cue.edges - 1

/-- Device time (R45). -/
abbrev State.now (s : State) : Nat := s.time.now

/-- The next free value's draw number, and the state that has drawn it (log entry 1). -/
def State.draw (s : State) : Nat × State := (s.freeCount, { s with freeCount := s.freeCount + 1 })

/-- Function fn's PCI state. -/
def State.fnOf (s : State) (fn : Nat) : Fn := agetD s.host.fns fn {}

/-- Function fn's PCI state changed. -/
def State.modFn (s : State) (fn : Nat) (f : Fn → Fn) : State :=
  { s with host := { s.host with fns := aset s.host.fns fn (f (s.fnOf fn)) } }

/-! ### Time -/

/-- Device time after dt ns of the 25 MHz reference: the rate correction of RATE:ADJ in units of 1/65,536 ppm, and a slew of
100 ppm, one nanosecond in 10,000 (R46). -/
def TimeBlk.advance (dt : Nat) (t : TimeBlk) : TimeBlk :=
  let unit : Int := 65536000000
  let acc := t.frac + (dt : Int) * t.rateAdj
  let ticks := (t.slewFrac + dt) / 10000
  let m := min ticks t.slewRemain.natAbs
  let slew : Int := if t.slewRemain < 0 then -(m : Int) else (m : Int)
  { t with
    now := ((t.now : Int) + dt + acc / unit + slew).toNat % 2 ^ 64
    frac := acc % unit
    elapsed := t.elapsed + dt
    slewRemain := t.slewRemain - slew
    slewFrac := if t.slewRemain - slew = 0 then 0 else (t.slewFrac + dt) % 10000 }

/-- A trace record as 32 bytes (Table 19.1). -/
def TraceRecord.bytes (r : TraceRecord) : List Byte :=
  leBytes 8 r.time ++ leBytes 8 r.sequence ++ leBytes 1 r.kind ++ leBytes 1 r.unitClass ++ leBytes 2 r.unit ++
    leBytes 4 r.arg0 ++ leBytes 8 r.arg1

/-- The 40-byte frame of a trace record on the lanes (R435). -/
def traceFrame (r : TraceRecord) (skipped : Bool) : List Byte :=
  [0x5A, 0xA5] ++ r.bytes ++ leBytes 4 (crc32c r.bytes) ++ [BitVec.ofNat 8 (b2n skipped), 0]

/-- The ring takes the oldest queued record: it gets the next SEQUENCE and is queued for the lanes, or skipped there
(R431, R434, R435). -/
def Obs.takeRecord (o : Obs) : Obs :=
  match o.queue with
  | [] => o
  | r :: q =>
    -- a DROPPED record names the first record after the loss, which is itself (log entry 14)
    let r' := { r with sequence := o.sequence, arg1 := if r.kind = 0 then o.sequence else r.arg1 }
    let o' := { o with queue := q, sequence := o.sequence + 1, ring := (r' :: o.ring).take 262144 }
    if o.lanes.length < 256 then { o' with lanes := o.lanes ++ [(r', o.laneSkip)], laneSkip := false }
    else { o' with laneSkip := true, pinDropped := o.pinDropped.inc }

/-- n records taken by the ring. -/
def Obs.takeRecords : Nat → Obs → Obs
  | 0, o => o
  | n + 1, o => Obs.takeRecords n o.takeRecord

/-- n frames sent on the lanes. -/
def sendFrames : Nat → State → State
  | 0, s => s
  | n + 1, s =>
    match s.obs.lanes with
    | [] => s
    | (r, k) :: l =>
      sendFrames n { s with obs := { s.obs with lanes := l }, outputs := .frame (traceFrame r k) :: s.outputs }

/-- The trace moves on from one elapsed time to another: one record each 20 ns to the ring, one frame each 160 ns to the
lanes (R434, R435; log entry 14). -/
def State.drainTrace (s : State) (before after : Nat) : State :=
  let k := min (after / 20 - before / 20) s.obs.queue.length
  let s := { s with obs := s.obs.takeRecords k }
  sendFrames (min (after / 160 - before / 160) s.obs.lanes.length) s

/-- Whether a link power state is L1 or a substate of it. -/
def linkInL1 : LinkPower → Bool
  | .l1 | .l1p1 | .l1p2 => true
  | .l0 | .l0s => false

/-- dt nanoseconds of the reference pass: device time, the trace queues and the L1 residency count move on (log entry 2).
Nothing else changes with time alone; every other timed change is a command of its own. -/
def State.advance (s : State) (dt : Nat) : State :=
  if dt = 0 then s else
  let before := s.time.elapsed
  let s := { s with time := s.time.advance dt }
  let s := s.drainTrace before (before + dt)
  if linkInL1 s.host.power then
    let n := (before + dt - s.host.powerSince) / 1000 - (before - s.host.powerSince) / 1000
    { s with host := { s.host with l1Residency := s.host.l1Residency.add 32 n } }
  else s

/-! ### Trace -/

/-- A trace event (R433, R434): recorded when its mask bit is set, dropped and counted when 1,024 records wait. Nothing is
recorded in BOOT, where the ring's count has not begun (R431), and nothing after the FAULT record (R434). -/
def State.trace (s : State) (kind cls unit arg0 arg1 : Nat) : State :=
  if s.host.state = .boot || (s.host.state = .faulted && kind ≠ 13) || !bitOf s.obs.mask kind then s
  else
    let r : TraceRecord := ⟨s.now, 0, kind, cls, unit, arg0 % 2 ^ 32, arg1 % 2 ^ 64⟩
    let lost := s.obs.lostRun
    let room := if lost = 0 then 1024 else 1023
    if s.obs.queue.length < room then
      let d : List TraceRecord := if lost = 0 then [] else [⟨s.now, 0, 0, 0, 0, lost % 2 ^ 32, 0⟩]
      { s with obs := { s.obs with queue := s.obs.queue ++ d ++ [r], lostRun := 0 } }
    else { s with obs := { s.obs with dropped := s.obs.dropped.inc, lostRun := lost + 1 } }

/-! ### Host port -/

/-- The link leaves a power state because the device has something to write (R332, R446). -/
def State.wakeLink (s : State) : State := { s with host := { s.host with power := .l0, lastTransfer := s.time.elapsed } }

/-- Vector v of function fn is raised: a message, or the pending bit of a masked entry (R340). -/
def State.raiseVector (s : State) (fn v : Nat) : State :=
  let f := s.fnOf fn
  let e := agetD f.msix v {}
  if e.masked then s.modFn fn fun f => { f with msix := aset f.msix v { e with pending := true } }
  else { s with outputs := .interrupt fn v :: s.outputs }

/-! ### Rings -/

/-- The entries of one side of a ring (R296). -/
def Ring.size (r : Ring) : Nat := 2 ^ r.sizeLog2

/-- Free slots of the completion side (R299). -/
def Ring.freeSlots (r : Ring) : Nat := r.size - 1 - (r.ctail + r.size - r.head % r.size) % r.size

/-- Submission entries that are pending. -/
def Ring.pendingEntries (r : Ring) : Nat := (r.tail + r.size - r.fetch % r.size) % r.size

/-- Ring q changed. -/
def State.modRing (s : State) (q : Nat) (f : Ring → Ring) : State := { s with rings := amod s.rings q f }

/-- Commands of ring q accepted and uncompleted (R300). -/
def State.uncompleted (s : State) (q : Nat) : Nat := (s.inflight.filter fun e => e.2.ring = q).length

/-- Ring q halts (R302, R315): an ENABLED ring moves to HALTED with a cause. -/
def State.haltRing (s : State) (q cause : Nat) : State :=
  s.modRing q fun r => if r.state = .enabled then { r with state := .halted, cause := cause } else r

/-- An entry written at the completion side's tail, with the current PHASE, which inverts on each wrap (R306).  A DISABLED
ring, and one halted with cause WRITE, takes none (R302). -/
def State.putCompletion (s : State) (q : Nat) (c : Completion) (raise : Bool) : State :=
  match aget s.rings q with
  | none => s
  | some r =>
    if r.state = .disabled || (r.state = .halted && r.cause = causeWrite) then s
    else
      let t := (r.ctail + 1) % r.size
      let s := s.wakeLink
      let s := { s with
        rings := aset s.rings q { r with ctail := t, phase := if t = 0 then !r.phase else r.phase }
        outputs := .completion q r.ctail { c with phase := r.phase } :: s.outputs }
      if raise then s.raiseVector r.fn r.vector else s

/-! ### Euwald ports -/

/-- The receive buffers of the virtual channels, in flits (Table 15.2). -/
def channelBuffers : List Nat := [32, 256, 128]

/-- The virtual channel of a message kind (Table 15.4). -/
def channelOfKind (kind : Nat) : Nat := if kind = 0x01 then 1 else if kind = 0x04 then 2 else 0

/-- A channel has a flit waiting and credit for it (R356). -/
def EwPort.ready (p : EwPort) (vc : Nat) : Bool :=
  0 < p.waiting.getD vc 0
    && (p.sentFlits.getD vc 0 + 2 ^ 32 - p.peerFreed.getD vc 0 % 2 ^ 32) % 2 ^ 32 < channelBuffers.getD vc 0

/-- The channel that the next slot serves (R356): CONTROL, then HANDOFF but for every 16th slot, then BULK. -/
def EwPort.nextChannel (p : EwPort) : Option Nat :=
  if p.ready 0 then some 0
  else if p.turn % 16 = 15 && p.ready 2 then some 2
  else if p.ready 1 then some 1
  else if p.ready 2 then some 2
  else none

/-- Up to n waiting DATA flits sent: each takes the next SEQ and stays in the replay buffer (R354). -/
def EwPort.pump (now : Nat) : Nat → EwPort → EwPort
  | 0, p => p
  | n + 1, p =>
    if p.state ≠ .up || 511 ≤ p.replay.length then p
    else match p.nextChannel with
      | none => p
      | some vc => EwPort.pump now n { p with
          waiting := modAt p.waiting vc (· - 1), sentFlits := modAt p.sentFlits vc fun x => (x + 1) % 2 ^ 32
          replay := p.replay ++ [(p.nextSeq, now)], nextSeq := (p.nextSeq + 1) % 4096, turn := p.turn + 1
          flitsSent := p.flitsSent.inc }

/-- The port sends what it can; time with data waiting and no credit is counted (R356). -/
def EwPort.run (p : EwPort) (now : Nat) : EwPort :=
  let p := p.pump now (min 512 (sumNat p.waiting))
  let stalled := p.state = .up && p.replay.length < 511 && 0 < sumNat p.waiting && p.nextChannel.isNone
  match p.stallSince with
  | some t => if stalled then p else { p with stallSince := none, creditStall := p.creditStall.add 32 (now - t) }
  | none => if stalled then { p with stallSince := some now } else p

/-- Port n changed. -/
def State.modEw (s : State) (n : Nat) (f : EwPort → EwPort) : State :=
  { s with ewl := { s.ewl with ports := modAt s.ewl.ports n f } }

/-- Port n. -/
def State.ewPort (s : State) (n : Nat) : EwPort := s.ewl.ports.getD n {}

/-- Ports that are UP. -/
def State.upPorts (s : State) : List Nat := (upto 8).filter fun n => (s.ewPort n).state = .up

/-- The ports towards a member, best first (R359): the routes the stage manager gave, the direct links, then the others. -/
def State.routePorts (s : State) (dst : Nat) : List Nat :=
  let up := s.upPorts
  let given := match s.ewl.routes.find? fun r => r.1 = dst with
    | some r => [r.2.1, r.2.2].filter up.contains
    | none => []
  let direct := up.filter fun n => (s.ewPort n).peerMember = dst
  (given ++ direct ++ up).eraseDups

/-- The ports of a trunk towards a member share its blocks in rotation (R359). -/
def State.blockPort (s : State) (dst block : Nat) : Option Nat :=
  match s.upPorts.filter fun n => (s.ewPort n).peerMember = dst with
  | [] => (s.routePorts dst).head?
  | l => l[block % l.length]?

/-- A message put on a port (R357): the flits it fills wait for their slots. -/
def State.putMessage (s : State) (port : Nat) (m : Msg) (bytes : List Byte) : State :=
  let flits := ceilDiv (32 + bytes.length) 608
  let s := s.modEw port fun p =>
    ({ p with waiting := modAt p.waiting (channelOfKind m.kind) (· + flits) }).run s.time.elapsed
  { s with outputs := .message port m bytes :: s.outputs }

/-- A message header from this device. -/
def State.header (s : State) (kind dst address chain block length : Nat) (sealed : Bool) : Msg :=
  ⟨kind, sealed, s.ewl.member, dst, 15, length, s.ewl.epoch, address, chain, block⟩

/-- A message to one member, on its primary port; with no port UP it stays unsent. -/
def State.send (s : State) (kind dst address chain block : Nat) (sealed : Bool) (bytes : List Byte) : State :=
  match (s.routePorts dst).head? with
  | some port => s.putMessage port (s.header kind dst address chain block bytes.length sealed) bytes
  | none => s

/-- A message on every UP port (R365, R366). -/
def State.flood (s : State) (m : Msg) (bytes : List Byte) : State :=
  s.upPorts.foldl (fun (t : State) n => t.putMessage n m bytes) s

/-- The ring number under which a member carries out a host command that the stage manager has sent on (R368); it is no ring. -/
abbrev remoteRing : Nat := 16384

/-- A ring as it is mirrored (R371). -/
def Ring.mirrored (r : Ring) : MirroredRing where
  state := r.state
  cause := r.cause
  metadata := r.metadata
  fn := r.fn
  group := r.group
  sizeLog2 := r.sizeLog2
  interruptAll := r.interruptAll
  vector := r.vector
  submitBase := r.submitBase
  completeBase := r.completeBase
  fetch := r.fetch
  expected := r.expected
  ctail := r.ctail
  phase := r.phase

/-- A stream as it is mirrored (R371). -/
def Stream.mirrored (st : Stream) : MirroredStream where
  kind := st.kind
  state := st.state
  cause := st.cause
  ring := st.ring
  group := st.group
  priority := st.priority
  cadence := st.cadence
  phase := st.phase
  samples := st.samples
  widen := st.widen
  metaRing := st.metaRing
  cast := st.cast
  script := st.script
  lag := st.lag
  minInterval := st.minInterval
  number := st.number
  seed := st.seed
  firstCue := st.firstCue
  admittedAt := st.admittedAt
  ingestDone := st.ingestDone
  decodeDone := st.decodeDone
  encodeDone := st.encodeDone
  closing := st.closing
  decode := st.decode
  encode := st.encode
  camera := st.camera
  audio := st.audio
  jpeg := st.jpeg
  outputs := st.outputs
  reserved := st.reserved

/-- Everything the mirror holds (R371): every ring but Q0, the streams, the cast and script handles, and the grid. -/
def State.mirrorTable (s : State) : List MirrorContent :=
  ((s.rings.filter fun e => e.1 ≠ 0).map fun e => MirrorContent.ring e.1 e.2.mirrored)
    ++ (s.streams.map fun e => MirrorContent.stream e.1 e.2.mirrored)
    ++ (s.casts.map fun e => MirrorContent.cast e.1 e.2.group e.2.digest e.2.content e.2.length)
    ++ (s.scripts.map fun e => MirrorContent.script e.1 e.2.group e.2.cast e.2.bytes)
    ++ [MirrorContent.grid s.cue.epoch s.cue.period (decide (s.cue.source = .pin))]

/-- Numbers as 8 bytes each. -/
def words64 (l : List Nat) : List Byte := l.flatMap fun n => leBytes 8 n

/-- A mirror record's data; the layout is the model's own (log entry 25), a stream's goes without its source sections. -/
def mirrorBytes : MirrorContent → List Byte
  | .accepted opcode fetch p => leBytes 1 1 ++ leBytes 2 opcode ++ leBytes 2 fetch ++ leBytes 2 p.ring ++ leBytes 2 p.flags.toNat
      ++ leBytes 4 p.tag.toNat ++ leBytes 4 p.target.toNat ++ leBytes 48 p.params.toNat
  | .completed ring entry => leBytes 1 2 ++ leBytes 2 ring ++ leBytes 32 entry.toNat
  | .ring q r => leBytes 1 3 ++ words64 [q, r.state.code, r.cause, r.fn, r.group, r.sizeLog2, r.vector, r.submitBase, r.completeBase,
      r.fetch, r.expected, r.ctail, b2n r.metadata + 2 * b2n r.interruptAll + 4 * b2n r.phase]
  | .stream n r => leBytes 1 4 ++ words64 [n, r.state.code, r.cause.code, r.ring, r.group, r.priority, r.cadence, r.samples, r.widen,
      r.metaRing, r.cast, r.script, r.lag, r.minInterval, r.number, r.firstCue, r.admittedAt] ++ leBytes 32 r.seed.toNat
  | .cast h g d c l => leBytes 1 5 ++ words64 [h, g, l] ++ leBytes 32 d.toNat ++ leBytes 32 c.toNat
  | .script h g c bytes => leBytes 1 6 ++ words64 [h, g, c] ++ bytes
  | .grid e p pin => leBytes 1 7 ++ words64 [e, p, b2n pin]

/-- A mirror record sent to the deputy; a command or a completion may wait for its acknowledgement (R371). -/
def State.sendMirror (s : State) (c : MirrorContent) (command : Option Nat) (write : Option (Completion × Bool)) : State :=
  match s.ewl.deputy with
  | none => s
  | some d =>
    let h : MirrorHold := { sentAt := s.time.elapsed, command := command, write := write }
    ({ s with ewl := { s.ewl with mirrorQueue := s.ewl.mirrorQueue ++ [h] } }).send 0x08 d 0 0 0 false (mirrorBytes c)

/-- The device is the stage manager of a cascade in service. -/
def State.stageManager (s : State) : Bool :=
  s.ewl.role = 1 && (s.ewl.cascade = .playing || s.ewl.cascade = .remapping)

/-- Commands are mirrored: the device is the stage manager of a cascade with a deputy (R371). -/
def State.mirrors (s : State) : Bool := s.stageManager && s.ewl.deputy.isSome

/-- What has changed since it was last mirrored is sent to the deputy (R371): with each completion, and at each cue edge. -/
def State.mirrorChanges (s : State) : State :=
  if s.mirrors then
    let t := s.mirrorTable
    let s := (t.filter fun c => !s.ewl.mirrorSent.contains c).foldl (fun (u : State) c => u.sendMirror c none none) s
    { s with ewl := { s.ewl with mirrorSent := t } }
  else s

/-- Member m is LOST. -/
def State.memberLost (s : State) (m : Nat) : Bool := s.ewl.table.any fun e => e.1 = m && e.2.lost

/-- Members of the cascade other than this one that are not LOST. -/
def State.otherMembers (s : State) : List Nat :=
  (upto s.ewl.members).filter fun m => m ≠ s.ewl.member && !s.memberLost m

/-- The same message to every other member (R368, R374); a COMMAND waits for its REPLY (R358). -/
def State.tellAll (s : State) (kind : Nat) (bytes : List Byte) : State :=
  s.otherMembers.foldl (fun (t : State) m =>
    let t := t.send kind m 0 0 0 false bytes
    if kind = 0x06 then { t with ewl := { t.ewl with
      waitingReply := t.ewl.waitingReply ++ [(m, t.time.elapsed, bytes)] } } else t) s

/-- The same message to every other member, from the stage manager (R368, R374). -/
def State.tellMembers (s : State) (kind : Nat) (bytes : List Byte) : State :=
  if s.stageManager then s.tellAll kind bytes else s

/-- A completion's 32 bytes (Table 13.4). -/
def Completion.bytes (c : Completion) : List Byte :=
  leBytes 4 c.tag ++ leBytes 1 c.status.code ++ leBytes 3 c.detail ++ leBytes 8 c.cue ++ leBytes 8 c.result ++
    leBytes 2 c.opcode ++ leBytes 2 c.fetch ++ leBytes 2 c.ring ++ [BitVec.ofNat 8 (b2n c.phase + 2 * b2n c.event), 0]

/-- A command's completion: COMPLETION_WRITE (R306), with its trace record (Table 19.2); on a stage manager it is mirrored first, and
written once the deputy holds the record (R371); a command that the stage manager sent on is answered with a REPLY. -/
def State.complete (s : State) (f : InFlight) (o : Outcome) (result : Nat) : State :=
  let c : Completion := ⟨f.tag, o.status, o.detail % 2 ^ 24, s.cueNow, result % 2 ^ 64, f.opcode, f.fetch, f.ring,
    false, false⟩
  let raise := match aget s.rings f.ring with
    | some r => r.interruptAll || f.interrupt
    | none => false
  let s :=
    if f.ring = remoteRing then
      s.send 0x07 s.ewl.manager 0 0 0 false ([2] ++ leBytes 8 f.tag ++ leBytes 1 o.status.code ++ leBytes 3 o.detail ++ leBytes 8 result)
    else if f.ring ≠ 0 && s.mirrors then
      s.mirrorChanges.sendMirror (.completed f.ring (BitVec.ofNat 256 (leNat c.bytes))) none (some (c, raise))
    else s.putCompletion f.ring c raise
  if f.ring = remoteRing then s else s.trace 2 0 f.ring (f.opcode + 65536 * o.status.code) f.tag

/-- A PIXELS_SEAL that waits for no copy any more. -/
def State.sealSettled (s : State) (w : Work) : Bool :=
  match w with
  | .seal l => l.all fun id => (aget s.inflight id).isNone
  | _ => false

/-- A PIXELS_SEAL completes once every copy accepted while unsealed has completed (R426). -/
def State.settleSeals (s : State) : State :=
  (s.inflight.filter fun e => s.sealSettled e.2.work).foldl (fun (t : State) e =>
    ({ t with inflight := adel t.inflight e.1 }).complete e.2 ⟨.done, 0⟩ 0) s

/-! ### Events -/

/-- Q0's completion side has a slot that no command needs (R316: completions take precedence). -/
def State.eventSlot (s : State) : Bool :=
  match aget s.rings 0 with
  | none => false
  | some r => r.state ≠ .disabled && !(r.state = .halted && r.cause = causeWrite) && s.uncompleted 0 < r.freeSlots

/-- An event entry written to Q0, which always raises Q0's vector (R316, R340). -/
def State.putEvent (s : State) (e : Event) : State :=
  s.putCompletion 0 (Completion.mk 0 e.status (e.detail % 2 ^ 24) e.cue (e.result % 2 ^ 64) e.code 0 0 true false) true

/-- Held events written while slots are free, in order. -/
def writeHeld : List Event → State → State
  | [], s => { s with events := [] }
  | e :: l, s => if s.eventSlot then writeHeld l (s.putEvent e) else { s with events := e :: l }

/-- EVENTS_LOST, then the held events, as far as slots are free (R316). -/
def State.flushEvents (s : State) : State :=
  let s :=
    if s.eventsLost ≠ 0 && s.eventSlot then
      ({ s with eventsLost := 0 }).putEvent (Event.mk 0x0009 .done 0 s.eventsLost s.cueNow)
    else s
  if s.eventsLost ≠ 0 then s else writeHeld s.events s

/-- Every doorbell field of a ring at its reset value, its scalar image zero, and the ring ENABLED (R186, R298, R315). -/
def Ring.restart (r : Ring) : Ring :=
  { r with state := .enabled, cause := 0, tail := 0, fetch := 0, expected := 0, head := 0, ctail := 0, phase := true,
           dropped := r.dropped.clear, scalars := List.replicate 64 0 }

/-- A RESET written to a HALTED Q0 takes effect once Q0's accepted commands have completed (R302, R347). -/
def State.settleAdminReset (s : State) : State :=
  if s.host.adminResetDue && s.uncompleted 0 = 0 then
    (({ s with host := { s.host with adminResetDue := false } }).modRing 0 Ring.restart).flushEvents
  else s

/-! ### Completing commands in flight -/

/-- The command in flight with identity id completes. -/
def State.finish (s : State) (id : Nat) (o : Outcome) (result : Nat) : State :=
  match aget s.inflight id with
  | none => s
  | some f => (({ s with inflight := adel s.inflight id }).complete f o result).settleSeals.settleAdminReset

/-- The work of the command in flight with identity id changed. -/
def State.setWork (s : State) (id : Nat) (w : Work) : State :=
  { s with inflight := amod s.inflight id fun f => { f with work := w } }

/-! ### Posting events -/

/-- EVENT_POST (R316): an event is held in order, or discarded and counted when 1,024 are held; then written if it can be. -/
def State.postEvent (s : State) (code : Nat) (status : Status) (detail result : Nat) : State :=
  if s.events.length ≥ 1024 then { s with eventsLost := s.eventsLost + 1 }
  else ({ s with events := s.events ++ [Event.mk code status detail result s.cueNow] }).flushEvents

/-! ### Playbill -/

/-- The capacity step that admission uses from the next edge (R44, R58). -/
def State.nextLevel (s : State) : Nat :=
  match (s.cue.staged.filter fun x => x.admitEdge ≤ s.cue.edges).getLast? with
  | some x => x.level
  | none => s.cue.stepLevel

/-- The HOST share that admission uses from the next edge (R44, R330). -/
def State.nextHostShare (s : State) : Nat :=
  match s.host.stagedShare with
  | some h => if h.2 ≤ s.cue.edges then h.1 else s.host.hostShare
  | none => s.host.hostShare

/-- The device is in a cascade that has been formed. -/
def State.inCascade (s : State) : Bool := s.ewl.cascade ≠ .none_ && s.ewl.cascade ≠ .forming

/-- What an update that begins now publishes.  A member's loss is shown by the update that completes its remap (R43). -/
def State.playbillView (s : State) : PlaybillView :=
  let old := s.playbill.view
  let formed := s.inCascade
  { level := s.nextLevel, hostShare := s.nextHostShare, speed := s.host.speed, width := s.host.width
    cueSince := s.playbill.cueSince, cuePeriod := s.cue.period
    cascadeRoot := formed && s.ewl.role = 1
    role := if formed then s.ewl.role else 0
    member := if s.ewl.cascade = .none_ then 0 else s.ewl.member
    members := if formed then s.ewl.members else 1
    manager := s.ewl.manager, deputy := s.ewl.deputy
    lostMembers :=
      if s.ewl.cascade = .remapping && s.playbill.remapDue.isNone then old.lostMembers
      else if formed then (s.ewl.table.filter fun e => e.2.lost).map (·.1) else []
    pools := s.wardrobe.pools.map fun e =>
      (e.1, e.2.dram, e.2.cls, e.2.count, e.2.base, match e.2.owner with
        | some g => g
        | none => 0xFFFF)
    vfRings := (s.host.fns.filter fun e => e.1 ≠ 0).map fun e => (e.1, e.2.ringFirst, e.2.ringCount) }

/-- A Playbill update begins (R38): GENERATION becomes odd. -/
def State.playbillBegins (s : State) : State :=
  { s with playbill := { s.playbill with
      generation := (s.playbill.generation + 1) % 2 ^ 32, updating := some s.time.elapsed, again := false
      staged := s.playbillView, remapEvent := s.playbill.remapDue, remapDue := none } }

/-- A Playbill change falls due (R38): an update begins, or it waits for the one in progress. -/
def State.playbillDue (s : State) : State :=
  if s.host.state = .boot || s.host.state = .faulted then s
  else match s.playbill.updating with
    | some _ => { s with playbill := { s.playbill with again := true } }
    | none => s.playbillBegins

/-! ### Attestation log -/

/-- A log entry as 64 bytes (R427). -/
def LogEntry.bytes (e : LogEntry) : List Byte :=
  leBytes 8 e.sequence ++ leBytes 8 e.time ++ leBytes 8 e.cue ++ leBytes 1 e.kind ++ leBytes 1 e.fn ++
    leBytes 2 e.ring ++ leBytes 4 e.arg ++ leBytes 32 e.data.toNat

/-- A 256-bit word as its 32 bytes. -/
def bytes256 (w : Word256) : List Byte := leBytes 32 w.toNat

/-- The ASCII bytes of a string. -/
def asciiBytes (t : String) : List Byte := t.toList.map fun c => BitVec.ofNat 8 c.toNat

/-- LOG:DIGEST before any entry (R427). -/
def logStart : Word256 := sha3 (asciiBytes "VY8LOG01" ++ leBytes 8 Config.identity)

/-- LOG:DIGEST (R427). -/
def Sec.logDigest (c : Sec) : Word256 := if c.logCount = 0 then logStart else c.digest

/-- An entry appended to the log, its digest chained (R427); the last 4,096 entries are kept. -/
def State.appendLog (s : State) (kind fn ring arg : Nat) (data : Word256) : State :=
  let e := LogEntry.mk s.sec.logCount s.now (if s.host.state = .boot then 0 else s.cueNow) kind fn ring arg data
  { s with sec := { s.sec with
      log := (s.sec.log ++ [e]).drop (s.sec.log.length + 1 - 4096)
      logCount := s.sec.logCount + 1
      digest := sha3 (bytes256 s.sec.logDigest ++ e.bytes) } }

/-! ### FAULTED -/

/-- Every unit stops where it stands (R405). -/
def State.stopUnits (s : State) : State :=
  { s with
    arrays := s.arrays.map fun a => { a with parts := a.parts.map fun q => { q with queue := [] } }
    vecs := s.vecs.map fun v => { v with parts := v.parts.map fun q => { q with queue := [] } }
    samps := s.samps.map fun b => { b with queue := [] }
    codecs := s.codecs.map fun c => { c with decoding := none, encoding := none, rebuilding := none }
    jpegs := s.jpegs.map fun j => { j with work := none }
    scalers := s.scalers.map fun c => { c with work := none }
    samples := []
    ewl := { s.ewl with ports := s.ewl.ports.map fun p => if p.state = .disabled then p else { p with state := .down } } }

/-- Completions whose mirror records are held, or will never be, are written, in order (R371). -/
def State.writeHeldCompletions (s : State) : State :=
  (s.ewl.mirrorQueue.filterMap fun h => h.write).foldl (fun (t : State) e => t.putCompletion e.1.ring e.1 e.2)
    { s with ewl := { s.ewl with mirrorQueue := s.ewl.mirrorQueue.filterMap fun h =>
        match h.command with
        | some _ => some h
        | none => none } }

/-- Every accepted and uncompleted command completes DEVICE_FAULT, in acceptance order (R313). -/
def completeAll : List (Nat × InFlight) → Nat → State → State
  | [], _, s => s
  | (id, _) :: l, detail, s => completeAll l detail (s.finish id (Outcome.mk .deviceFault detail) 0)

/-- The DEVICE_FAULT event reports another fault. -/
def Completion.refault (c : Completion) (detail : Nat) : Completion :=
  if c.event && c.opcode = 0x0008 then { c with detail := detail } else c

/-- The DEVICE_FAULT event last written reports another fault. -/
def refaultOutputs (detail : Nat) : List Output → List Output
  | .completion q slot c :: l => if c.event && c.opcode = 0x0008 then .completion q slot (c.refault detail) :: l
    else .completion q slot c :: refaultOutputs detail l
  | o :: l => o :: refaultOutputs detail l
  | [] => []

/-- Of persistent faults declared in the same cycle the lowest class value is the one reported (R400). -/
def State.lowerFault (s : State) (cls unit : Nat) : State :=
  if s.time.elapsed ≠ s.host.faultAt || s.host.fault ≤ cls then s
  else
    let detail := cls + 256 * (unit % 65536)
    let events := s.events.map fun e : Event => if e.code = 0x0008 then { e with detail := detail } else e
    let queue := s.obs.queue.map fun r : TraceRecord =>
      if r.kind = 13 then { r with unitClass := cls, unit := unit, arg0 := detail % 2 ^ 32 } else r
    { s with
        host := { s.host with fault := cls, faultUnit := unit }
        events := events
        obs := { s.obs with queue := queue }
        outputs := if s.events.isEmpty then refaultOutputs detail s.outputs else s.outputs }

/-- FAULTED_ENTRY (R312, R313, R400, R405): the class and unit are shown, every unit stops, commands complete DEVICE_FAULT,
the event is posted and the FAULT record is the last of the trace. -/
def State.enterFaulted (s : State) (cls unit : Nat) : State :=
  if s.host.state = .faulted then s.lowerFault cls unit
  else
    let detail := cls + 256 * (unit % 65536)
    let s := (s.stopUnits).writeHeldCompletions
    let s := completeAll s.inflight 0 { s with ewl := { s.ewl with deputy := none, mirrorQueue := [] } }
    let s := if s.host.state = .boot then s else s.postEvent 0x0008 Status.deviceFault detail 0
    let s := s.trace 13 cls unit detail 0
    let at_ := s.time.elapsed
    { s with host := { s.host with
        state := .faulted, rehearsal := false, fault := cls, faultUnit := unit, faultAt := at_ } }

/-- Times of the last 1,000 ms before now, with now added: the windows of R71, R390 and R398. -/
def withinSecond (now : Nat) (times : List Nat) : List Nat := now :: times.filter fun t => now < t + 1000000000

/-- Device time as the units see it for failure rates. -/
abbrev State.ms (s : State) : Nat := s.time.elapsed

/-! ### Groups -/

/-- Whether group g holds any ring or owns any object (R297). -/
def State.groupHolds (s : State) (g : Nat) : Bool :=
  s.rings.any (fun e => e.2.group = g && e.2.state ≠ .disabled)
  || s.wardrobe.pools.any (fun e => e.2.owner = some g || e.2.bufs.any fun b => b.2.group = g)
  || s.wardrobe.minima.any (fun m => m.1.1 = g)
  || s.streams.any (fun e => e.2.group = g && e.2.state ≠ .closed)
  || s.casts.any (fun e => e.2.group = g)
  || s.scripts.any (fun e => e.2.group = g)
  || s.rings.any (fun e => e.2.group = g && e.2.deck.isSome)

/-- The function group g belongs to, if any (R297). -/
def State.groupOwner (s : State) (g : Nat) : Option Nat :=
  if g = 1 then some 0 else if s.groupHolds g then aget s.groupFn g else none

/-- Every unit list has the length of Table 1.1: 8 arrays of 4 parts and so on. -/
def State.array (s : State) (a : Nat) : ArrayBlk := s.arrays.getD a {}

/-- Array a changed. -/
def State.modArray (s : State) (a : Nat) (f : ArrayBlk → ArrayBlk) : State := { s with arrays := modAt s.arrays a f }

/-- Vector engine e. -/
def State.vec (s : State) (e : Nat) : VecBlk := s.vecs.getD e {}

/-- Vector engine e changed. -/
def State.modVec (s : State) (e : Nat) (f : VecBlk → VecBlk) : State := { s with vecs := modAt s.vecs e f }

/-- Sampler b. -/
def State.samp (s : State) (b : Nat) : SampBlk := s.samps.getD b {}

/-- Sampler b changed. -/
def State.modSamp (s : State) (b : Nat) (f : SampBlk → SampBlk) : State := { s with samps := modAt s.samps b f }

/-- Codec cluster c changed. -/
def State.modCodec (s : State) (c : Nat) (f : CodecBlk → CodecBlk) : State := { s with codecs := modAt s.codecs c f }

/-- Stream n changed. -/
def State.modStream (s : State) (n : Nat) (f : Stream → Stream) : State := { s with streams := amod s.streams n f }

/-- Sample k changed. -/
def State.modSample (s : State) (k : Nat) (f : Sample → Sample) : State := { s with samples := amod s.samples k f }

/-! ### The test access port -/

/-- An instruction that drives the balls, and so takes effect only while COLD_RST_N is asserted (R442). -/
def tapDrives : TapInstruction → Bool
  | .extest | .extestPulse | .extestTrain | .clamp | .highz => true
  | .bypass | .idcode | .samplePreload => false

end Sys2Proof.Machine
end

