-- ==== Sys2Proof/Machine/Commands.lean ====
section
/-! DEFINITION. How a host command is taken, checked and completed: R300, R301, R304, R305, R309 to R311, R369, R371 and Table
13.5, once for every command. -/

namespace Sys2Proof.Machine

open Sys2Proof

/-- What a command's TARGET must name (R311). -/
inductive Target where
  | root
  | kind (k : NodeKind)
  deriving DecidableEq, Repr

/-- What a command's own part answers after the checks: it completes at once, or it goes on in flight. -/
inductive Verdict where
  | done (o : Outcome) (result : Nat) (s : State)
  | wait (w : Work) (s : State)

/-- The command completes DONE. -/
def Verdict.ok (s : State) : Verdict := .done ⟨.done, 0⟩ 0 s

/-- The command completes DONE with a result. -/
def Verdict.okResult (r : Nat) (s : State) : Verdict := .done ⟨.done, 0⟩ r s

/-- The command completes with a status that reports no work done, and has no effect (R309). -/
def Verdict.refuse (st : Status) (s : State) : Verdict := .done ⟨st, 0⟩ 0 s

/-- A host command's row of Tables 13.9 to 13.11 and of its owning table.  `named` lists the parameter bytes its layout
names as (first, count); `block` says that `fails` gives offsets in the extended block; `fails` its parameters that are out of range, by parameter offset; `owned` check 5; `legal` the
object states of check 6; `body` what it does once checked; `withData` what it does with the host data it has read. -/
structure Cmd where
  opcode : Nat
  admin : Bool := false
  states : List DevState := [.standby, .service]
  target : Target := .root
  named : List (Nat × Nat) := []
  extended : Bool := false
  block : Bool := false
  fails : State → Packet → List (Nat × Bool) := fun _ _ => []
  owned : State → Packet → Bool := fun _ _ => true
  legal : State → Packet → Bool := fun _ _ => true
  body : State → Packet → Verdict := fun s _ => Verdict.ok s
  withData : State → Packet → Nat → List Byte → Verdict := fun s _ _ _ => Verdict.ok s

/-- The group of a ring (R297); Q0 belongs to group 1, and what the stage manager sends on acts there for the same group. -/
def State.ringGroup (s : State) (q : Nat) : Nat :=
  if q = 0 || q = remoteRing then 1 else match aget s.rings q with
    | some r => r.group
    | none => 0

/-- The function of a ring; Q0 is PF0's. -/
def State.ringFn (s : State) (q : Nat) : Nat :=
  match aget s.rings q with
  | some r => r.fn
  | none => 0

/-- Whether an object of group g may be acted on from ring q (check 5 of Table 13.5); what the stage manager sends on has passed its own. -/
def State.mayTouch (s : State) (q g : Nat) : Bool := q = 0 || q = remoteRing || s.ringGroup q = g

/-- The device is a member of a cascade other than its stage manager (R369). -/
def State.plainMember (s : State) : Bool := s.ewl.cascade ≠ .none_ && s.ewl.cascade ≠ .forming && s.ewl.role ≠ 1

/-- Commands a plain member's own rings may still issue (R369). -/
def memberMay (opcode : Nat) : Bool := opcode = 0x0100 || opcode / 256 = 0x0B || opcode / 256 = 0x0C || opcode = 0x0A02

/-- The lowest offset whose check failed. -/
def firstFail (l : List (Nat × Bool)) : Option Nat :=
  l.foldl (fun m e => if e.2 then (match m with
    | none => some e.1
    | some k => some (min k e.1)) else m) none

/-- Parameter bytes no layout names and that are not zero (R303). -/
def strayBytes (named : List (Nat × Nat)) (p : Packet) : List (Nat × Bool) :=
  (upto 48).map fun i => (i, !(named.any fun r => r.1 ≤ i && i < r.1 + r.2) && p.u8 i ≠ 0)

/-- TARGET is absent from the Playbill or of a kind the command does not take (R35, R311). -/
def targetFails (s : State) (t : Target) (p : Packet) : Bool :=
  match t with
  | .root => p.target.toNat ≠ rootId s || (findNode s p.target.toNat).isNone
  | .kind k => match findNode s p.target.toNat with
    | none => true
    | some n => n.kind ≠ k

/-- The extended block's address and length (R304): aligned, 64 to 4,096 in steps of 64, other bytes zero. -/
def extendedFails (p : Packet) : List (Nat × Bool) :=
  (0, p.u64 0 % 64 ≠ 0) :: (8, p.u16 8 < 64 || p.u16 8 > 4096 || p.u16 8 % 64 ≠ 0) :: strayBytes [(0, 10)] p

/-- Checks 2 and 3 of Table 13.5, before an extended block is read. -/
def headChecks (c : Cmd) (p : Packet) : Option Outcome :=
  if c.admin && p.ring ≠ 0 && p.ring ≠ remoteRing then some ⟨.notPermitted, 0⟩
  else if !p.flagsClean || p.extended ≠ c.extended then some (rangeFault 2)
  else if c.extended then (firstFail (extendedFails p)).map fun k => rangeFault (16 + k)
  else none

/-- Checks 4, 5 and 6 of Table 13.5. -/
def bodyChecks (c : Cmd) (p : Packet) (s : State) : Option Outcome :=
  if targetFails s c.target p then some (rangeFault 8)
  else match (if c.block then (firstFail (c.fails s p)).map blockFault
      else (firstFail (c.fails s p ++ strayBytes c.named p)).map fun k => rangeFault (16 + k)) with
    | some o => some o
    | none =>
      if !c.owned s p then some ⟨.notPermitted, 0⟩
      else if !c.states.contains s.host.state then some ⟨.wrongState, 0⟩
      else if s.plainMember && p.ring ≠ remoteRing && !memberMay c.opcode then some ⟨.wrongState, 0⟩
      else if (match findNode s p.target.toNat with
        | some n => !nodeInService s n
        | none => false) then some ⟨.wrongState, 0⟩
      else if !c.legal s p then some ⟨.wrongState, 0⟩
      else none

/-- When a host transfer of n bytes that begins now must have finished: within 10 ms and n nanoseconds more (R305). -/
def State.transferBy (s : State) (n : Nat) : Nat := s.time.elapsed + 10000000 + n

/-- A host read of n bytes that a command makes (R305). -/
def readHost (p : Packet) (address n : Nat) (s : State) : Verdict :=
  .wait (.hostRead p n (s.transferBy n) []) { s with outputs := .hostRead address n :: s.outputs }

/-- The device leaves REST (R445): PLLs restart and DRAM leaves self-refresh. -/
def State.leaveRest (s : State) : State :=
  if s.pwr.rest then
    { s with pwr := { s.pwr with rest := false, wakeAt := s.time.elapsed + 25000 }
             dram := { s.dram with selfRefresh := false } }
  else s

/-- Whether ring q's next entry can be fetched and started (R300, R301, R343, R371): the ring is ENABLED and a COMMAND ring
of a function that masters the bus, completion slots suffice, fewer than 8,192 commands are in flight, a fence's earlier
commands have completed, no mirror record waits for its acknowledgement, and no new deputy is still to be named (R410). -/
def State.canFetch (s : State) (q : Nat) (fence : Bool) : Bool :=
  match aget s.rings q with
  | none => false
  | some r =>
    s.live && r.state = .enabled && !r.metadata && (s.fnOf r.fn).busMaster && !(s.fnOf r.fn).d3hot && s.host.linkUp
      && s.uncompleted q < r.freeSlots && s.inflight.length < 8192 && (!fence || s.uncompleted q = 0)
      && s.ewl.mirrorQueue.isEmpty && !s.ewl.deputyDue

/-- FETCH moves past the entry and EXPECTED advances; a command whose row carries its own entry takes TAIL with it
(log entry 15). -/
def Ring.takeEntry (r : Ring) : Ring :=
  let f := (r.fetch + 1) % r.size
  { r with fetch := f, tail := if r.tail = r.fetch then f else r.tail, expected := (r.expected + 1) % 2 ^ 32 }

/-- What a completion of packet p needs: ring, opcode, tag, FETCH after acceptance, FLAGS. -/
def ticket (s : State) (opcode : Nat) (p : Packet) (w : Work) : InFlight :=
  ⟨p.ring, opcode, p.tag.toNat, match aget s.rings p.ring with
    | some r => r.fetch
    | none => 0, p.interrupt, s.sec.unsealed, w⟩

/-- A host command that acts on another member goes there in a COMMAND message (R35, R368). -/
def State.tellRemote (s : State) (id opcode : Nat) : Work → State
  | .remote m p =>
    let bytes : List Byte := [12] ++ leBytes 2 opcode ++ leBytes 8 id ++ leBytes 2 p.flags.toNat ++ leBytes 4 p.target.toNat
      ++ leBytes 48 p.params.toNat
    let e := { s.ewl with waitingReply := s.ewl.waitingReply ++ [(m, s.time.elapsed, bytes)] }
    ({ s with ewl := e }).send 0x06 m 0 0 0 false bytes
  | _ => s

/-- A verdict on a command that is not yet in flight. -/
def settle (opcode : Nat) (p : Packet) : Verdict → State
  | .done o r s => s.complete (ticket s opcode p .snapshot) o r
  | .wait w s =>
    ({ s with inflight := aset s.inflight s.nextId (ticket s opcode p w), nextId := s.nextId + 1 }).tellRemote s.nextId opcode w

/-- A verdict on the command in flight with identity id. -/
def settleInFlight (id : Nat) : Verdict → State
  | .done o r s => s.finish id o r
  | .wait w s => (s.setWork id w).tellRemote id (match aget s.inflight id with
    | some f => f.opcode
    | none => 0) w

/-- Checks 4 to 7 and the effect (R309); a command to another member's node goes there as a COMMAND message (R35, R368). -/
def checked (c : Cmd) (p : Packet) (run : State → Verdict) (s : State) : Verdict :=
  match bodyChecks c p s with
  | some o => .done o 0 s
  | none =>
    match c.target, findNode s p.target.toNat with
    | .kind _, some n =>
      if n.member = s.playbill.view.member then run s
      else .wait (.remote n.member p) s
    | _, _ => run s

/-- An accepted command: checks 2 and 3, then either the extended block is read or the rest follows at once. -/
def startCommand (c : Cmd) (p : Packet) (s : State) : Verdict :=
  match headChecks c p with
  | some o => .done o 0 s
  | none =>
    if c.extended then readHost p (p.u64 0) (p.u16 8) s
    else checked c p (fun s => c.body s p) s

/-- A host command is fetched, accepted, checked and started (R300, R301, R309).  Where it cannot be fetched it is not
accepted and the state stays (log entry 16).  On a stage manager with a deputy the acceptance is mirrored first (R371). -/
def State.accept (s : State) (c : Cmd) (p : Packet) : State :=
  if !s.canFetch p.ring p.fence then s
  else
    let s := (s.leaveRest).modRing p.ring Ring.takeEntry
    let s := { s with scanPos := p.ring }
    if p.ring ≠ 0 && s.mirrors then
      let f := (ticket s c.opcode p (.mirrored p)).fetch
      (settle c.opcode p (.wait (.mirrored p) s)).sendMirror (.accepted c.opcode f p) (some s.nextId) none
    else settle c.opcode p (startCommand c p s)

end Sys2Proof.Machine
end

