-- ==== Sys2Proof/Machine/Wardrobe.lean ====
section
/-! DEFINITION. The Wardrobe: pools, allocation, freeing and scrubbing (R78 to R87), sealed copies (R76), and the class 0x05
commands of Table 4.6 with the Wardrobe's own events. -/

namespace Sys2Proof.Machine

open Sys2Proof

/-- Bytes of a size class (R78). -/
def classBytes (c : Nat) : Nat := 4096 * 4 ^ c

/-- The bytes of the House (R63) and of DRAM (R376). -/
abbrev houseBytes : Nat := 402653184
abbrev dramBytes : Nat := 51539607552

/-- The firmware region of DRAM (R74): from here to the end of DRAM. -/
abbrev firmwareBase : Nat := 0x0BC0000000

/-- Where a pool of the location may end (R78). -/
def locationEnd (dram : Bool) : Nat := if dram then firmwareBase else houseBytes

/-- The bytes a pool covers. -/
def Pool.extent (p : Pool) : Nat := p.count * classBytes p.cls

/-- Buffers in state FREE. -/
def Pool.free (p : Pool) : Nat := p.count - p.bufs.length

/-- Buffers of the pool that group g holds. -/
def Pool.heldBy (p : Pool) (g : Nat) : Nat := (p.bufs.filter fun b => b.2.state = .held && b.2.group = g).length

/-- Buffers in state HELD. -/
def Pool.held (p : Pool) : Nat := (p.bufs.filter fun b => b.2.state = .held).length

/-- Buffers in state SCRUBBING. -/
def Pool.scrubbing (p : Pool) : Nat := (p.bufs.filter fun b => b.2.state = .scrubbing).length

/-- The reserved minimum of a group in a pool (R79). -/
def Wardrobe.minimum (w : Wardrobe) (g p : Nat) : Nat :=
  match w.minima.find? fun m => m.1 = (g, p) with
  | some m => m.2
  | none => 0

/-- The sum of a pool's minima. -/
def Wardrobe.minimaSum (w : Wardrobe) (p : Nat) : Nat := sumNat ((w.minima.filter fun m => m.1.2 = p).map (·.2))

/-- Minimum of one group in one pool set; a zero minimum is not held. -/
def Wardrobe.setMinimum (w : Wardrobe) (g p n : Nat) : Wardrobe :=
  let rest := w.minima.filter fun m => m.1 ≠ (g, p)
  { w with minima := if n = 0 then rest else rest ++ [((g, p), n)] }

/-- Buffers of pool p owed to groups other than g (R80). -/
def Wardrobe.owed (w : Wardrobe) (p : Nat) (pool : Pool) (g : Nat) : Nat :=
  sumNat ((w.minima.filter fun m => m.1.2 = p && m.1.1 ≠ g).map fun m => m.2 - pool.heldBy m.1.1)

/-- takeable(p, g) of R80. -/
def Wardrobe.takeable (w : Wardrobe) (p : Nat) (pool : Pool) (g : Nat) : Bool :=
  0 < pool.free && (pool.heldBy g < w.minimum g p || w.owed p pool g < pool.free)

/-- A pool is usable by a group (R79): by its owner, or, when shared, by every group of the physical function. -/
def State.poolUsable (s : State) (pool : Pool) (g : Nat) : Bool :=
  match pool.owner with
  | some o => o = g
  | none => g = 0 || s.groupOwner g = some 0

/-- Pool p of the Wardrobe changed. -/
def State.modPool (s : State) (p : Nat) (f : Pool → Pool) : State :=
  { s with wardrobe := { s.wardrobe with pools := amod s.wardrobe.pools p f } }

/-- Buffer k of pool p changed. -/
def State.modBuf (s : State) (p k : Nat) (f : Buf → Buf) : State :=
  s.modPool p fun pool => { pool with bufs := amod pool.bufs k f }

/-- take(p, g) of R80: the lowest-numbered FREE buffer, its address and the state with it HELD. -/
def State.take (s : State) (p : Nat) (pool : Pool) (g : Nat) (sealed : Bool) : Nat × State :=
  let k := freeKey pool.bufs 0
  let pool' := { pool with bufs := aset pool.bufs k { state := .held, group := g, sealed := sealed } }
  let pool' := { pool' with peak := max pool.peak pool'.held }
  (pool.base + k * classBytes pool.cls,
    { s with wardrobe := { s.wardrobe with pools := aset s.wardrobe.pools p pool' } })

/-- What an allocation answers. -/
inductive Alloc where
  | got (address : Nat) (fallback : Bool) (s : State)
  | none_ (st : Status) (s : State)

/-- The smallest size class with room for size bytes. -/
def smallestClass (size : Nat) : Nat := ((upto 8).find? fun c => size ≤ classBytes c).getD 8

/-- alloc(g, location, size, named_pool) of R80. -/
def State.alloc (s : State) (g : Nat) (dram : Bool) (size : Nat) (named : Option Nat) (sealed : Bool) : Alloc :=
  let failed := { s with wardrobe := { s.wardrobe with noResource := s.wardrobe.noResource.inc } }
  if size = 0 then .none_ .empty s
  else if size > classBytes 7 then .none_ .outOfRange s
  else match named with
    | some p => match aget s.wardrobe.pools p with
      | none => .none_ .outOfRange s
      | some pool =>
        if size > classBytes pool.cls then .none_ .outOfRange s
        else if s.wardrobe.takeable p pool g then
          let r := s.take p pool g sealed
          .got r.1 false r.2
        else .none_ .noResource failed
    | none =>
      let c := smallestClass size
      let order := (upto 8).flatMap fun j => s.wardrobe.pools.filter fun e =>
        c ≤ j && e.2.cls = j && e.2.dram = dram && s.poolUsable e.2 g && s.wardrobe.takeable e.1 e.2 g
      match order with
      | [] => .none_ .noResource failed
      | e :: _ =>
        let r := s.take e.1 e.2 g sealed
        let fb := e.2.cls > c
        .got r.1 fb (if fb then
          { r.2 with wardrobe := { r.2.wardrobe with fallback := r.2.wardrobe.fallback.inc } } else r.2)

/-- The pool and buffer that hold an address: (pool, buffer, offset in it). -/
def State.locate (s : State) (dram : Bool) (a : Nat) : Option (Nat × Nat × Nat) :=
  match s.wardrobe.pools.find? fun e => e.2.dram = dram && e.2.base ≤ a && a < e.2.base + e.2.extent with
  | some e => some (e.1, (a - e.2.base) / classBytes e.2.cls, (a - e.2.base) % classBytes e.2.cls)
  | none => none

/-- The buffer at (pool, number), when it is not FREE. -/
def State.bufAt (s : State) (p k : Nat) : Option Buf := (aget s.wardrobe.pools p).bind fun pool => aget pool.bufs k

/-- The class size of a pool. -/
def State.poolBytes (s : State) (p : Nat) : Nat :=
  match aget s.wardrobe.pools p with
  | some pool => classBytes pool.cls
  | none => 0

/-- The buffer that holds the address a buffer name gives, when HELD. -/
def State.heldBuf (s : State) (w : Nat) : Option Buf :=
  match s.locate (bufDram w) (bufAddr w) with
  | some (p, k, _) => match s.bufAt p k with
    | some b => if b.state = .held then some b else none
    | none => none
  | none => none

/-- The buffer becomes FREE, or SCRUBBING when it is sealed (R75). -/
def State.freeBuf (s : State) (p k : Nat) : State :=
  match s.bufAt p k with
  | none => s
  | some b =>
    if b.state = .scrubbing then s
    else if b.sealed then s.modBuf p k fun b => { b with state := .scrubbing, readers := [], writer := none }
    else s.modPool p fun pool => { pool with bufs := adel pool.bufs k }

/-- The buffer a name gives becomes FREE or SCRUBBING. -/
def State.freeName (s : State) (w : Nat) : State :=
  match s.locate (bufDram w) (bufAddr w) with
  | some (p, k, _) => s.freeBuf p k
  | none => s

/-- A frame buffer has no reference mark and no strip predicted from it (R249). -/
def FrameBuf.done (f : FrameBuf) : Bool := f.marks = 0 && f.strips.isEmpty

/-- Frame buffers of stream n whose marks are clear and whose predicted strips are released return to the Wardrobe (R249). -/
def State.freeFrames (s : State) (n : Nat) : State :=
  match aget s.streams n with
  | none => s
  | some st =>
    let s := (st.frames.filter FrameBuf.done).foldl (fun (t : State) f => f.buffers.foldl (fun (u : State) w => u.freeName w) t) s
    s.modStream n fun x => { x with frames := x.frames.filter fun f => !f.done }

/-- A strip buffer is released: the frame buffers its picture predicts from no longer wait for it (R249). -/
def State.dropStrip (s : State) (name : Nat) : State :=
  s.streams.foldl (fun (t : State) e =>
    if e.2.frames.any fun f => f.strips.contains name then
      (t.modStream e.1 fun st => { st with
        frames := st.frames.map fun f => { f with strips := f.strips.filter (· ≠ name) } }).freeFrames e.1
    else t) s

/-- The buffer is released, and with it what waits for its release. -/
def State.release (s : State) (p k : Nat) : State :=
  match s.bufAt p k, aget s.wardrobe.pools p with
  | some _, some pool => (s.freeBuf p k).dropStrip (bufName pool.dram (pool.base + k * classBytes pool.cls))
  | _, _ => s

/-- The buffer a name gives is released. -/
def State.releaseName (s : State) (w : Nat) : State :=
  match s.locate (bufDram w) (bufAddr w) with
  | some (p, k, _) => s.release p k
  | none => s

/-- A double free (R82): counted and recorded, the buffer unchanged. -/
def State.doubleFree (s : State) (p k : Nat) : State :=
  { s with wardrobe := { s.wardrobe with
      doubleFree := s.wardrobe.doubleFree.inc, lastDoublePool := p, lastDoubleBuffer := k } }

/-- The identity under which a command or a chain registers as a reader or writer (R82). -/
def ownerId : Owner → Nat
  | .run id => 2 * id
  | .chain k => 2 * k + 1

/-- The buffer a name gives gets a registered reader. -/
def State.addReader (s : State) (w reader : Nat) : State :=
  match s.locate (bufDram w) (bufAddr w) with
  | some (p, k, _) => s.modBuf p k fun b => { b with readers := reader :: b.readers }
  | none => s

/-- The buffer a name gives gets a registered writer. -/
def State.setWriter (s : State) (w writer : Nat) : State :=
  match s.locate (bufDram w) (bufAddr w) with
  | some (p, k, _) => s.modBuf p k fun b => { b with writer := some writer }
  | none => s

/-- Reader and writer marks of one owner removed from every buffer (R82: until the command's completion). -/
def State.unregister (s : State) (who : Nat) : State :=
  { s with wardrobe := { s.wardrobe with pools := s.wardrobe.pools.map fun e => (e.1, { e.2 with
      bufs := e.2.bufs.map fun b => (b.1, { b.2 with
        readers := b.2.readers.filter (· ≠ who)
        writer := if b.2.writer = some who then none else b.2.writer }) }) } }

/-- Two extents share a byte. -/
def overlap (a n b m : Nat) : Bool := a < b + m && b < a + n

/-! ### Commands -/

/-- A pool number that names no pool. -/
def poolAbsent (s : State) (p : Nat) : Bool := (aget s.wardrobe.pools p).isNone

/-- POOL_CREATE (Table 4.6). -/
def poolCreateCmd : Cmd where
  opcode := 0x0501
  admin := true
  named := [(0, 3), (4, 4), (8, 8), (16, 2)]
  fails := fun s p =>
    let dram := p.u8 1 = 1
    let n := p.u32 4 * classBytes (p.u8 2)
    let base := p.u64 8
    [(0, p.u8 0 > 63), (1, p.u8 1 > 1), (2, p.u8 2 > 7), (4, p.u32 4 = 0 || p.u32 4 > 65536),
     (8, base % 4096 ≠ 0 || base + n > locationEnd dram ||
        s.wardrobe.pools.any fun e => e.1 ≠ p.u8 0 && e.2.dram = dram && overlap base n e.2.base e.2.extent),
     (16, p.u16 16 > 1023 && p.u16 16 ≠ 0xFFFF)]
  legal := fun s p => poolAbsent s (p.u8 0)
  body := fun s p =>
    let pool : Pool := { dram := p.u8 1 = 1, base := p.u64 8, cls := p.u8 2, count := p.u32 4,
                         owner := if p.u16 16 = 0xFFFF then none else some (p.u16 16) }
    .ok ({ s with wardrobe := { s.wardrobe with pools := aset s.wardrobe.pools (p.u8 0) pool } }).playbillDue

/-- POOL_DESTROY (Table 4.6). -/
def poolDestroyCmd : Cmd where
  opcode := 0x0502
  admin := true
  named := [(0, 1)]
  fails := fun s p => [(0, poolAbsent s (p.u8 0))]
  legal := fun s p => match aget s.wardrobe.pools (p.u8 0) with
    | some pool => pool.bufs.isEmpty && s.wardrobe.minimaSum (p.u8 0) = 0
    | none => false
  body := fun s p =>
    .ok ({ s with wardrobe := { s.wardrobe with pools := adel s.wardrobe.pools (p.u8 0) } }).playbillDue

/-- What the admitted streams of a group hold reserved in a pool (R21). -/
def State.streamReserved (s : State) (g p : Nat) : Nat :=
  sumNat (s.streams.map fun e =>
    if e.2.group = g && e.2.state ≠ .closed then
      sumNat ((e.2.reserved.filter fun r => r.1 = p).map (·.2)) else 0)

/-- POOL_RESERVE (Table 4.6). -/
def poolReserveCmd : Cmd where
  opcode := 0x0503
  admin := true
  named := [(0, 1), (2, 2), (4, 4)]
  fails := fun s p => [(0, poolAbsent s (p.u8 0)), (2, p.u16 2 > 1023), (4, p.u32 4 > 65536)]
  legal := fun s p => s.streamReserved (p.u16 2) (p.u8 0) ≤ p.u32 4
  body := fun s p =>
    let w := s.wardrobe.setMinimum (p.u16 2) (p.u8 0) (p.u32 4)
    let count := match aget s.wardrobe.pools (p.u8 0) with
      | some pool => pool.count
      | none => 0
    if w.minimaSum (p.u8 0) > count || w.minima.length > 4096 then .refuse .noResource s
    else .ok { s with wardrobe := w }

/-- The pool a BUFFER_ALLOC names, if it names one. -/
def allocNamed (p : Packet) : Option Nat := if p.u8 1 = 1 then some (p.u8 2) else none

/-- BUFFER_ALLOC (Table 4.6, R80, R86). -/
def bufferAllocCmd : Cmd where
  opcode := 0x0504
  named := [(0, 3), (8, 8)]
  fails := fun s p =>
    [(0, p.u8 0 > 1), (1, p.u8 1 > 1),
     (2, if p.u8 1 = 1 then poolAbsent s (p.u8 2) else p.u8 2 ≠ 0),
     (8, p.u64 8 > classBytes 7 || (p.u8 1 = 1 && p.u64 8 > s.poolBytes (p.u8 2)))]
  owned := fun s p => match allocNamed p with
    | some q => match aget s.wardrobe.pools q with
      | some pool => s.poolUsable pool (s.ringGroup p.ring)
      | none => true
    | none => true
  body := fun s p =>
    match s.alloc (s.ringGroup p.ring) (p.u8 0 = 1) (p.u64 8) (allocNamed p) false with
    | .got a fb s' =>
      let dram := match allocNamed p with
        | some q => match aget s.wardrobe.pools q with
          | some pool => pool.dram
          | none => p.u8 0 = 1
        | none => p.u8 0 = 1
      .done ⟨.done, b2n fb⟩ (bufName dram a) s'
    | .none_ st s' => .done ⟨st, 0⟩ 0 s'

/-- The free's address is not the start of a buffer. -/
def freeFails (s : State) (w : Nat) : Bool :=
  match s.locate (bufDram w) (bufAddr w) with
  | some (_, _, o) => o ≠ 0
  | none => true

/-- BUFFER_FREE (Table 4.6, R82). -/
def bufferFreeCmd : Cmd where
  opcode := 0x0505
  states := [.standby, .service, .draining]
  named := [(0, 8)]
  fails := fun s p => [(0, freeFails s (p.u64 0))]
  owned := fun s p => match s.heldBuf (p.u64 0) with
    | some b => s.mayTouch p.ring b.group
    | none => true
  body := fun s p =>
    match s.locate (bufDram (p.u64 0)) (bufAddr (p.u64 0)) with
    | none => .refuse .outOfRange s
    | some (q, k, _) => match s.heldBuf (p.u64 0) with
      | none => .refuse .wrongState (s.doubleFree q k)
      | some b =>
        if b.readers.isEmpty && b.writer.isNone then .ok (s.release q k) else .refuse .wrongState s

/-- A device address of MEMORY_COPY that lies in no pool. -/
def copyFails (s : State) (host : Bool) (w : Nat) : Bool := !host && (s.locate (bufDram w) (bufAddr w)).isNone

/-- The copy runs beyond the buffer that holds its first byte. -/
def copyBeyond (s : State) (host : Bool) (w n : Nat) : Bool :=
  !host && match s.locate (bufDram w) (bufAddr w) with
    | some (p, _, o) => o + n > s.poolBytes p
    | none => false

/-- The copy's device side is a buffer the ring's group holds. -/
def copyOwned (s : State) (q : Nat) (host : Bool) (w : Nat) : Bool :=
  host || match s.heldBuf w with
    | some b => s.mayTouch q b.group
    | none => false

/-- A copy of this source to host memory would reveal sealed content (R76); unsealed, PF rings may make it (R425). -/
def copyReveals (s : State) (p : Packet) : Bool :=
  bitOf (p.u8 24) 1 && !bitOf (p.u8 24) 0 && (match s.heldBuf (p.u64 0) with
    | some b => b.sealed
    | none => false) && !(s.sec.unsealed && s.ringFn p.ring = 0)

/-- MEMORY_COPY (Table 4.6, R76): checked, then in flight until its completion. -/
def memoryCopyCmd : Cmd where
  opcode := 0x0506
  named := [(0, 25)]
  fails := fun s p =>
    let sh := bitOf (p.u8 24) 0
    let dh := bitOf (p.u8 24) 1
    [(0, copyFails s sh (p.u64 0)), (8, copyFails s dh (p.u64 8)),
     (16, copyBeyond s sh (p.u64 0) (p.u64 16) || copyBeyond s dh (p.u64 8) (p.u64 16)),
     (24, p.u8 24 > 2)]
  owned := fun s p =>
    copyOwned s p.ring (bitOf (p.u8 24) 0) (p.u64 0) && copyOwned s p.ring (bitOf (p.u8 24) 1) (p.u64 8)
      && !copyReveals s p
  body := fun s p =>
    let sh := bitOf (p.u8 24) 0
    let dh := bitOf (p.u8 24) 1
    let n := p.u64 16
    if n = 0 then .done ⟨.empty, 0⟩ 0 s
    else
      let me := ownerId (.run s.nextId)
      let s := if sh then { s with outputs := .hostRead (p.u64 0) n :: s.outputs } else s.addReader (p.u64 0) me
      let s := if dh then s else s.setWriter (p.u64 8) me
      .wait (.copy (p.u64 0) (p.u64 8) n sh dh (s.transferBy n)) s

/-- POOL_CREATE. -/
def execPoolCreate (dt : Nat) (p : Packet) (s : State) : Host.Outcome State Fault Refusal :=
  .next ((s.advance dt).accept poolCreateCmd p)

/-- POOL_DESTROY. -/
def execPoolDestroy (dt : Nat) (p : Packet) (s : State) : Host.Outcome State Fault Refusal :=
  .next ((s.advance dt).accept poolDestroyCmd p)

/-- POOL_RESERVE. -/
def execPoolReserve (dt : Nat) (p : Packet) (s : State) : Host.Outcome State Fault Refusal :=
  .next ((s.advance dt).accept poolReserveCmd p)

/-- BUFFER_ALLOC. -/
def execBufferAlloc (dt : Nat) (p : Packet) (s : State) : Host.Outcome State Fault Refusal :=
  .next ((s.advance dt).accept bufferAllocCmd p)

/-- BUFFER_FREE. -/
def execBufferFree (dt : Nat) (p : Packet) (s : State) : Host.Outcome State Fault Refusal :=
  .next ((s.advance dt).accept bufferFreeCmd p)

/-- MEMORY_COPY. -/
def execMemoryCopy (dt : Nat) (p : Packet) (s : State) : Host.Outcome State Fault Refusal :=
  .next ((s.advance dt).accept memoryCopyCmd p)

/-! ### Events -/

/-- The bytes of a finished copy land, the destination of a sealed source is sealed (R76), and the command completes. -/
def State.copyDone (s : State) (id : Nat) (data : List Byte) : State :=
  match aget s.inflight id with
  | some f => match f.work with
    | .copy src dst n sh dh _ =>
      if sh && data.length ≠ n then s
      else
        let bytes := if sh then data else s.readMem (bufDram src) (bufAddr src) n
        let sealed := !sh && match s.heldBuf src with
          | some b => b.sealed
          | none => false
        let s :=
          if dh then { s with outputs := .hostBytes dst bytes :: s.outputs }
          else
            let s := s.writeMem (bufDram dst) (bufAddr dst) bytes
            match s.locate (bufDram dst) (bufAddr dst) with
            | some (p, k, _) => s.modBuf p k fun b => { b with sealed := b.sealed || sealed }
            | none => s
        (s.unregister (ownerId (.run id))).finish id ⟨.done, 0⟩ 0
    | _ => s
  | none => s

/-- MEMORY_COPY_COMPLETE: a MEMORY_COPY's transfer has finished; the bytes it read from host memory come with it. -/
def execMemoryCopyComplete (dt id : Nat) (data : List Byte) (s : State) : Host.Outcome State Fault Refusal :=
  .next ((s.advance dt).copyDone id data)

/-- BUFFER_ALLOCATION (R23, R80, R81): a request of the cue plan for a group; a buffer for pixels or audio is marked sealed.
An allocation that finds nothing changes only its counter. -/
def execBufferAllocation (dt group : Nat) (dram : Bool) (size : Nat) (named : Option Nat) (sealed : Bool) (s : State) :
    Host.Outcome State Fault Refusal :=
  let s := s.advance dt
  .next (if !s.live then s else match s.alloc group dram size named sealed with
    | .got _ _ s' => s'
    | .none_ _ s' => s')

/-- A firmware reader signal on a buffer (R22, R82): the buffer returns when the last registered reader signals; a signal on
a FREE or SCRUBBING buffer is a double free, with its trace record. -/
def State.signalReader (s : State) (w reader : Nat) : State :=
  match s.locate (bufDram w) (bufAddr w) with
  | none => s
  | some (p, k, _) => match s.bufAt p k with
    | none => (s.doubleFree p k).trace 7 0 0 (p + 65536 * k) 0
    | some b =>
      if b.state = .scrubbing then (s.doubleFree p k).trace 7 0 0 (p + 65536 * k) b.group
      else if !b.readers.contains reader then s
      else
        let s := s.modBuf p k fun b => { b with readers := b.readers.erase reader }
        if (b.readers.erase reader).isEmpty then s.release p k else s

/-- READER_SIGNAL (R22). -/
def execReaderSignal (dt : Nat) (buffer : Word64) (reader : Nat) (s : State) : Host.Outcome State Fault Refusal :=
  let s := s.advance dt
  .next (if s.live then s.signalReader buffer.toNat reader else s)

/-- A scrubbed buffer's bytes are zero with valid codes and it is FREE (R75). -/
def State.scrubbed (s : State) (p k : Nat) : State :=
  match s.bufAt p k, aget s.wardrobe.pools p with
  | some b, some pool =>
    if b.state = .scrubbing then
      (s.zeroMem pool.dram (pool.base + k * classBytes pool.cls) (classBytes pool.cls)).modPool p
        fun pool => { pool with bufs := adel pool.bufs k }
    else s
  | _, _ => s

/-- SCRUB_COMPLETE (R75). -/
def execScrubComplete (dt pool buffer : Nat) (s : State) : Host.Outcome State Fault Refusal :=
  let s := s.advance dt
  .next (if s.live then s.scrubbed pool buffer else s)

end Sys2Proof.Machine
end

