-- ==== Sys2Proof/Machine/Samples.lean ====
section
/-! DEFINITION. Samples from arrival to last record: the assigned cue (R52), examination (R53), the close of a cue (R57),
outcomes (R403, R404), substitution (R274 to R277), records (R325 to R327), pausing and closing of streams. -/

namespace Sys2Proof.Machine

open Sys2Proof

/-- The number of the cue whose interval holds device time x, on the grid in force at x (R48, R52, R60): before the next edge
the cue in progress and those before it, from the next edge on the period in force, or the staged one from its edge. -/
def CueBlk.cueAt (c : CueBlk) (x : Nat) : Nat :=
  let p := c.period * 1000
  if x < c.nextEdge then
    if c.edges = 0 || c.lastEdge ≤ x then c.edges - 1
    else if c.prevEdge ≤ x then c.edges - 2
    else c.edges - 2 - ceilDiv (c.prevEdge - x) p
  else
    let n := c.edges + (x - c.nextEdge) / p
    match c.stagedAt with
    | none => n
    | some m => if n < m then n else m + (x - (c.nextEdge + (m - c.edges) * p)) / (c.nextPeriod * 1000)

/-- The assigned cue of a sample of the stream captured at t (R52). -/
def State.assignedCue (s : State) (st : Stream) (t : Nat) : Nat := s.cue.cueAt (t + st.lag * 1000)

/-- The largest number of samples the stream has in one cue (Table 3.3). -/
def State.perCue (s : State) (st : Stream) : Nat :=
  if st.minInterval ≠ 0 then ceilDiv s.cue.period st.minInterval else st.samples

/-- The cue carries samples under (m, phase) (Table 3.3). -/
def Stream.carries (st : Stream) (c : Nat) : Bool :=
  st.minInterval ≠ 0 || c % st.cadence = st.phase.getD 0

/-! ### Outcomes -/

/-- A sample gets an outcome; of one status the first occurrence stands (R403). -/
def Sample.reach (m : Sample) (o : Outcome) : Sample :=
  if m.outcomes.any (fun x => x.status = o.status) then m else { m with outcomes := m.outcomes ++ [o] }

/-- WIDENED's detail (R138). -/
def Sample.widenedDetail (m : Sample) : Nat :=
  m.widenDetail + 16 * min m.widenCount 15 + (if m.repetitions > 0 then 1024 else 0)

/-- The outcome a record of the sample carries now (R403, R404, Table 17.3). -/
def Sample.outcome (m : Sample) : Outcome :=
  let recomputed : List Outcome :=
    if m.repetitions > 0 then [⟨.recomputed, m.lastUnit + 256 * min m.repetitions 255⟩] else []
  let widened : List Outcome := if m.widenCount > 0 then [⟨.widened, m.widenedDetail⟩] else []
  let remapped : List Outcome := match m.lostMember with
    | some k => [⟨.remapped, k + (if m.repetitions > 0 then 16 else 0) + (if m.widenCount > 0 then 32 else 0)⟩]
    | none => []
  highestOutcome (m.outcomes ++ remapped ++ widened ++ recomputed)

/-- The body of a SAMPLE record before its STATUS is set (R327): records before it, arrival time. -/
def sampleBody (issued arrival : Nat) : List Byte :=
  leBytes 4 0 ++ leBytes 4 issued ++ leBytes 8 arrival ++ List.replicate 32 0

/-- The sample's chain is over with this outcome alone, and a SAMPLE record is its last record (R327, R403). -/
def Sample.finishWith (m : Sample) (o : Outcome) : Sample :=
  { m with outcomes := [o], repetitions := 0, widenCount := 0, lostMember := none, finished := true,
           queue := [⟨0x01, true, m.stream, m.assigned, m.capture, sampleBody m.issued m.arrival⟩] }

/-- Records queued for the sample; the last of them is marked LAST when the chain is over. -/
def Sample.queueRecords (m : Sample) (bodies : List (Nat × List Byte)) (last : Bool) : Sample :=
  let n := bodies.length
  let rs := (bodies.zip (upto n)).map fun b =>
    (⟨b.1.1, last && b.2 + 1 = n, m.stream, m.assigned, m.capture, b.1.2⟩ : Record)
  { m with queue := m.queue ++ rs, finished := m.finished || last }

/-! ### Counting -/

/-- Counts of stream n changed. -/
def State.countStream (s : State) (n : Nat) (f : StreamCounts → StreamCounts) : State :=
  s.modStream n fun st => { st with counts := f st.counts }

/-- A repetition of a unit of Table 17.2 for a chain (R402): it is counted for the sample, its time is drawn from the chain's
reserve, and it is traced. -/
def State.repeatUnit (s : State) (owner : Owner) (unit cost cls index : Nat) : State :=
  let s := match owner with
    | .chain k => s.modSample k fun m => { m with
        repetitions := m.repetitions + 1, lastUnit := unit, reserveLeft := m.reserveLeft - cost }
    | .run id => { s with inflight := amod s.inflight id fun f => { f with work := match f.work with
        | .run r => .run { r with recomputed := true }
        | w => w } }
  s.trace 4 cls index unit s.cueNow

/-- A unit's repetition times with one more (R398): more than 16 within 1,000 ms is a persistent fault. -/
def overRate (now : Nat) (times : List Nat) : Bool := (withinSecond now times).length > 16

/-! ### Corrupt samples -/

/-- The scalers whose outputs a substituted sample does not make (Table 12.12). -/
def State.countSubstitutions (s : State) (st : Stream) : State :=
  st.outputs.foldl (fun (t : State) o => { t with
    scalers := modAt t.scalers (o.scaler.getD 0) fun c => { c with substitutions := c.substitutions.inc } }) s

/-- A sample is replaced by its stream's substitute (R274): SUBSTITUTED with the detail of Table 12.5, and its counts. -/
def State.substitute (s : State) (k : Nat) : State :=
  match aget s.samples k with
  | none => s
  | some m => match m.corrupt, aget s.streams m.stream with
    | some d, some st =>
      if m.substituted then s
      else
        let noGood := st.kind = .audio || !st.goodSample
        let o : Outcome := ⟨.substituted, d % 4096 + (if noGood then 4096 else 0)⟩
        let s := s.modSample k fun m => { (m.reach o) with substituted := true }
        let s := s.countStream m.stream fun c => { c with substituted := c.substituted + 1 }
        ({ s with ingest := { s.ingest with substituted := s.ingest.substituted.inc } }).countSubstitutions st
    | _, _ => s

/-- The unit of Table 17.2 of the first stage that a chain has in work, if any: array, vector engine or sampler. -/
def State.stageUnit (s : State) (k : Nat) : Option (Nat × Nat × Nat) :=
  let o : Owner := .chain k
  if s.arrays.any fun a => a.parts.any fun q => q.queue.any fun j => j.owner = o then some (0x01, clsArray, 0)
  else if s.vecs.any fun v => v.parts.any fun q => q.queue.any fun j => j.owner = o then some (0x02, clsVector, 0)
  else if s.samps.any fun b => b.queue.any fun j => j.owner = o then some (0x04, clsSampler, 0)
  else none

/-- An array without the jobs of one owner; its idle time begins when its last job goes (R97). -/
def ArrayBlk.dropOwner (a : ArrayBlk) (now : Nat) (o : Owner) : ArrayBlk :=
  let parts := a.parts.map fun q => { q with queue := q.queue.filter fun j => j.owner ≠ o }
  let busy := a.parts.any fun q => !q.queue.isEmpty
  let idle := parts.all fun q => q.queue.isEmpty
  { a with parts := parts, idleSince := if busy && idle then now else a.idleSince }

/-- A vector engine without the jobs of one owner. -/
def VecBlk.dropOwner (v : VecBlk) (o : Owner) : VecBlk :=
  { v with parts := v.parts.map fun q =>
      let rest := q.queue.filter fun j => j.owner ≠ o
      if rest.length = q.queue.length then q
      else { q with queue := rest, link := none, delivered := none, rehearsal := false } }

/-- Every job of one owner leaves the arrays, vector engines and samplers. -/
def State.dropJobs (s : State) (o : Owner) : State :=
  { s with
    arrays := s.arrays.map fun a => a.dropOwner s.time.elapsed o
    vecs := s.vecs.map fun v => v.dropOwner o
    samps := s.samps.map fun b => { b with queue := b.queue.filter fun j => j.owner ≠ o }
    contexts := s.contexts.filter fun e => !(e.2.jobs.any fun j => j.owner = o) }

/-- The scaler passes of a sample are abandoned. -/
def State.dropPasses (s : State) (k : Nat) : State :=
  { s with scalers := s.scalers.map fun (c : Scaler) => { c with work := c.work.filter fun w => w.sample ≠ k } }

/-- A planned sample is found corrupt: its pass is abandoned, and a stage that has begun on its outputs starts again on the
substitute set, as one repetition of its unit, whose time is free up to the chain's reserve (R275). -/
def State.restartOnSubstitute (s : State) (k : Nat) : State :=
  let s := (s.dropPasses k).substitute k
  match s.stageUnit k with
  | none => s
  | some (unit, cls, index) =>
    let d := s.draw
    let reserve := match aget s.samples k with
      | some m => m.reserveLeft
      | none => 0
    (d.2.dropJobs (.chain k)).repeatUnit (.chain k) unit (Config.freeNat d.1 % (reserve + 1)) cls index

/-- A sample is found corrupt, with its cause and check number (Table 12.5): counted; substituted at once when it has been
planned (R274, R275, R277). -/
def State.markCorrupt (s : State) (k cause check : Nat) : State :=
  match aget s.samples k with
  | none => s
  | some m =>
    if m.corrupt.isSome then s
    else
      let s := s.modSample k fun m => { m with corrupt := some (cause + 256 * check) }
      let s := s.countStream m.stream fun c => { c with corrupt := c.corrupt + 1 }
      let s := { s with ingest := { s.ingest with
        corrupt := s.ingest.corrupt.inc, errorStream := m.stream, errorCause := cause } }
      if m.planned then s.restartOnSubstitute k else s

/-! ### Arrival and examination -/

/-- A sample that has arrived now, at the end of its stream's order (R265, R272). -/
def State.addSample (s : State) (n capture length : Nat) (buffer : Option Nat) (buffers : List Nat) : State :=
  match aget s.streams n with
  | none => s
  | some st =>
    let m : Sample := { stream := n, capture := capture, arrival := s.now, order := s.sampleOrder
                        assigned := s.assignedCue st capture, buffer := buffer, length := length, buffers := buffers
                        late := match st.lastCapture with
                          | some c => capture < c
                          | none => false }
    let s := s.modStream n fun x => { x with lastCapture := some capture }
    { s with samples := aset s.samples s.sampleOrder m, sampleOrder := s.sampleOrder + 1 }

/-- The digest of the cast content a stream runs, 0 for none. -/
def State.castDigest (s : State) (n : Nat) : Word256 :=
  match aget s.streams n with
  | some st => match aget s.casts st.cast with
    | some c => c.content
    | none => 0
  | none => 0

/-- The sample enters the plan of the cue that begins (R53 case 3), with its reserves (R56); a corrupt one is substituted. -/
def State.planSample (s : State) (k : Nat) : State :=
  match aget s.samples k with
  | none => s
  | some m =>
    let cast := s.castDigest m.stream
    let allowance := match aget s.streams m.stream with
      | some st => st.widen
      | none => 0
    let s := s.modSample k fun m => { m with
      planned := true, reserveLeft := Config.castReserve cast, widenLeft := allowance
      widenReserve := Config.castWidenReserve cast allowance }
    let s := s.countStream m.stream fun c => { c with planned := c.planned + 1 }
    s.substitute k

/-- A sample refused as in excess (R53 case 4): counted in EXCESS. -/
def State.excess (s : State) (k n : Nat) : State :=
  let s := s.modSample k fun m => m.finishWith ⟨.notAdmitted, 0⟩
  let s := s.countStream n fun c => { c with excess := c.excess + 1 }
  { s with cue := { s.cue with excess := s.cue.excess.inc } }

/-- One sample examined at the edge that begins cue k (R53, R54, R321). -/
def State.examineOne (s : State) (edge k id : Nat) : State :=
  match aget s.samples id with
  | none => s
  | some m => match aget s.streams m.stream with
    | none => s
    | some st =>
      if !m.arrived || m.planned || m.finished || m.arrival ≥ edge then s
      else if st.closing then s.modSample id fun m => m.finishWith ⟨.notAdmitted, 0⟩
      else if m.unstored then s.excess id m.stream
      else if m.assigned + 1 < k then
        let s := s.modSample id fun m => m.finishWith ⟨.staleDropped, 0⟩
        let s := s.countStream m.stream fun c => { c with stale := c.stale + 1 }
        { s with cue := { s.cue with stale := s.cue.stale.inc } }
      else if m.assigned + 1 ≠ k then s
      else if m.assigned < st.firstCue then s.modSample id fun m => m.finishWith ⟨.notAdmitted, 0⟩
      else
        let planned := (s.samples.filter fun e =>
          e.2.stream = m.stream && e.2.planned && e.2.assigned = m.assigned).length
        if st.carries m.assigned && planned < s.perCue st then s.planSample id
        else s.excess id m.stream

/-- An entry put in its place by capture time, then submission order. -/
def insertByCapture (e : Nat × Sample) : List (Nat × Sample) → List (Nat × Sample)
  | [] => [e]
  | d :: l =>
    if e.2.capture < d.2.capture || (e.2.capture = d.2.capture && e.2.order < d.2.order) then e :: d :: l
    else d :: insertByCapture e l

/-- Sample identities in capture order, ties in submission order (R53). -/
def captureOrder (l : List (Nat × Sample)) : List Nat := (l.foldr insertByCapture []).map (·.1)

/-- The assigned cue of a sample by the edges as they were made: `edge` begins cue k and `prev` began the one before it (R52).
An edge of the pin may have come earlier or later than the period told at the sample's arrival (R51). -/
def Sample.reassigned (m : Sample) (prev edge k lag : Nat) : Nat :=
  let x := m.capture + lag * 1000
  if edge ≤ x then max m.assigned k
  else if prev ≤ x then k - 1
  else min m.assigned (k - 2)

/-- The assigned cues of the samples still to be examined, by the edge that begins cue k (R52). -/
def State.reassign (s : State) (prev edge k : Nat) : State :=
  if k = 0 then s
  else { s with samples := s.samples.map fun e => match aget s.streams e.2.stream with
      | some st =>
        if e.2.planned || e.2.finished then e else (e.1, { e.2 with assigned := e.2.reassigned prev edge k st.lag })
      | none => e }

/-- SAMPLE_EXAMINATION (R53): every arrived and unplanned sample at the edge that begins cue k. -/
def State.examine (s : State) (edge k : Nat) : State :=
  (captureOrder s.samples).foldl (fun s id => s.examineOne edge k id) s

/-! ### The end of samples and streams -/

/-- The mark under which a stream keeps the buffers of its substitute set (R275). -/
def setReader (n : Nat) : Nat := 2 ^ 65 + n

/-- Former substitute sets of a stream that no stage reads return to the Wardrobe (R275). -/
def State.freeFormer (s : State) (n : Nat) : State :=
  match aget s.streams n with
  | none => s
  | some st =>
    let idle := st.former.filter fun w => match s.heldBuf w with
      | some b => b.readers.isEmpty
      | none => true
    (idle.foldl (fun (t : State) w => t.releaseName w) s).modStream n fun x => { x with
      former := x.former.filter fun w => !idle.contains w }

/-- Every buffer the sample's chain still holds goes back to the Wardrobe. -/
def State.releaseSample (s : State) (k : Nat) : State :=
  match aget s.samples k with
  | none => s
  | some m =>
    let s := m.buffers.foldl (fun s w => s.releaseName w) s
    let s := s.unregister (ownerId (.chain k))
    (s.modSample k fun m => { m with buffers := [] }).freeFormer m.stream

/-- The mark by which the picture being decoded for sample k holds the frame buffers it predicts from (R249). -/
def decodeMark (k : Nat) : Nat := 2 ^ 66 + k

/-- The work of a sample's chain is abandoned: its jobs, its passes and its scoreboard entries (R57). -/
def State.dropChain (s : State) (k : Nat) : State :=
  let s := (s.dropJobs (.chain k)).dropStrip (decodeMark k)
  { s.dropPasses k with
    jpegs := s.jpegs.map fun (j : JpegUnit) => { j with work := j.work.filter fun w => w.sample ≠ k }
    codecs := s.codecs.map fun (c : CodecBlk) => { c with
      decoding := (c.decoding.filter fun d => d.sample ≠ k).map fun d => { d with later := d.later.filter (· ≠ k) }
      encoding := c.encoding.filter fun e => e.sample ≠ k }
    scoreboard := s.scoreboard.filter fun e => e.2.sample ≠ k }

/-- The stream's reservations return to the Wardrobe (R83, R321): its group's minima fall by what it had reserved. Those an
expert stream drew on were set by host software and stay (R83's basic and expert use). -/
def State.unreserve (s : State) (n : Nat) : State :=
  match aget s.streams n with
  | none => s
  | some st =>
    let w := if st.script ≠ 0 then s.wardrobe
      else st.reserved.foldl (fun w r => w.setMinimum st.group r.1 (w.minimum st.group r.1 - r.2)) s.wardrobe
    ({ s with wardrobe := w }).modStream n fun st => { st with reserved := [] }

/-- A FEED of stream n is still copying. -/
def State.feeding (s : State) (n : Nat) : Bool :=
  s.inflight.any fun f => match f.2.work with
    | .feed k _ _ _ _ => k = n
    | _ => false

/-- A closing stream whose last record has been written is CLOSED (R321): reservations and frame buffers return, its
identifier becomes free and its STREAM_CLOSE completes. -/
def State.closeIfDone (s : State) (n : Nat) : State :=
  match aget s.streams n with
  | none => s
  | some st =>
    if !st.closing || s.samples.any (fun e => e.2.stream = n) || s.feeding n then s
    else
      let s := s.unreserve n
      let s := (st.frames.flatMap (·.buffers) ++ st.checkpoints ++ st.substitute ++ st.former ++ st.history.toList).foldl
        (fun (t : State) w => t.releaseName w) s
      let s := { s with streams := adel s.streams n }
      ((s.inflight.filter fun f => f.2.work = .streamClose n).map (·.1)).foldl (fun s id => s.finish id ⟨.done, 0⟩ 0) s

/-- A sample has issued its last record: it is traced, counted and gone. -/
def State.endSample (s : State) (k : Nat) : State :=
  match aget s.samples k with
  | none => s
  | some m =>
    let o := m.outcome
    let s := s.trace 3 0 0 (m.stream + 65536 * o.status.code) m.assigned
    let s := s.countStream m.stream fun c => match o.status with
      | .widened => { c with widened := c.widened + 1 }
      | .degraded => { c with degraded := c.degraded + 1 }
      | .recomputed => { c with recomputed := c.recomputed + 1 }
      | _ => c
    let s := (s.dropChain k).releaseSample k
    let s := { s with samples := adel s.samples k }
    s.closeIfDone m.stream

/-- A 64-byte record (Table 13.17), its PHASE bit given apart. -/
def Record.bytes (r : Record) (phase : Bool) : List Byte :=
  [BitVec.ofNat 8 r.kind, BitVec.ofNat 8 (b2n phase + 2 * b2n r.last)] ++ leBytes 2 r.stream ++ leBytes 4 r.cue ++
    leBytes 8 r.capture ++ r.body

/-- A body with the STATUS and DETAIL of an outcome in its first four bytes. -/
def stampBody (body : List Byte) (o : Outcome) : List Byte :=
  leBytes 1 o.status.code ++ leBytes 3 o.detail ++ body.drop 4

/-- The METADATA ring has a free slot and can be written. -/
def State.recordSlot (s : State) (q : Nat) : Bool :=
  match aget s.rings q with
  | none => false
  | some r => r.metadata && r.state = .enabled && 0 < r.freeSlots

/-- A record written at the tail of its METADATA ring (R325, R306). -/
def State.putRecord (s : State) (q : Nat) (r : Record) : State :=
  match aget s.rings q with
  | none => s
  | some g =>
    let t := (g.ctail + 1) % g.size
    let s := s.wakeLink
    let s := { s with
      rings := aset s.rings q { g with ctail := t, phase := if t = 0 then !g.phase else g.phase }
      outputs := .record q g.ctail g.phase r :: s.outputs }
    if g.interruptAll then s.raiseVector g.fn g.vector else s

/-- An earlier sample of the same stream and cue has not ended: its records come first (R24). -/
def State.earlierSample (s : State) (k : Nat) (m : Sample) : Bool :=
  s.samples.any fun e => e.1 ≠ k && e.2.stream = m.stream && e.2.assigned = m.assigned &&
    (e.2.capture < m.capture || (e.2.capture = m.capture && e.2.order < m.order))

/-- METADATA_RECORD_WRITE: the sample's next record is issued to the host port, or waits for a free slot (R325); it carries
the highest outcome reached (R403); after the last record the sample has ended. -/
def State.writeRecord (s : State) (k : Nat) : State :=
  match aget s.samples k with
  | none => s
  | some m => match m.queue, aget s.streams m.stream with
    | r :: rest, some st =>
      if !s.recordSlot st.metaRing || s.earlierSample k m then s
      else
        let r := { r with body := stampBody r.body m.outcome }
        let s := s.putRecord st.metaRing r
        let s := s.modSample k fun m => { m with queue := rest, issued := m.issued + 1 }
        let s := s.countStream m.stream fun c => { c with records := c.records + 1 }
        if r.last then s.endSample k else s
    | _, _ => s

/-- The cause of a missed deadline (Table 3.5), with REMAPPED in bit [8] when the work was a repeat. -/
def State.missCause (s : State) (m : Sample) : Nat :=
  let refused : Bool := match aget s.streams m.stream with
    | some st => match aget s.rings st.metaRing with
      | some r => r.state == .halted && r.cause == causeWrite
      | none => false
    | none => false
  if m.repeating then 0x103
  else if refused then 0x04
  else if s.pwr.trip then 0x02
  else if m.finished then 0x04
  else 0x01

/-- A sample completes DEADLINE_MISSED: its stages are abandoned, its buffers return, one SAMPLE record tells it (R57, R327).
Where its METADATA ring is halted by a refused write, it ends unwritten (Table 14.4). -/
def State.missSample (s : State) (k cause : Nat) : State :=
  match aget s.samples k with
  | none => s
  | some m =>
    let s := (s.dropChain k).releaseSample k
    let s := s.modSample k fun m => m.finishWith ⟨.deadlineMissed, cause⟩
    let s := s.countStream m.stream fun c => { c with missed := c.missed + 1 }
    let s := { s with cue := { s.cue with missed := s.cue.missed.inc } }
    let halted : Bool := match aget s.streams m.stream with
      | some st => match aget s.rings st.metaRing with
        | some r => r.state == .halted
        | none => true
      | none => true
    if halted then s.endSample k else s

/-- DEADLINE_MISS (R57) at the edge that begins cue k: every planned sample of the cue before the one just closed. -/
def State.missDeadlines (s : State) (k : Nat) : State :=
  (captureOrder s.samples).foldl (fun s id => match aget s.samples id with
    | some m =>
      if m.planned && m.assigned + 2 ≤ k && !(m.outcomes.any fun o => o.status = .deadlineMissed) then
        s.missSample id (s.missCause m)
      else s
    | none => s) s

/-! ### Pausing and resuming -/

/-- A stream moves to PAUSED with a cause and the event is posted (R314). -/
def State.pauseStream (s : State) (n : Nat) (cause : PauseCause) : State :=
  (s.modStream n fun st => { st with state := .paused, cause := cause }).postEvent 0x0005 .done cause.code n

/-- A stream moves from PAUSED to RUNNING and the event is posted (R314). -/
def State.resumeStream (s : State) (n : Nat) : State :=
  match aget s.streams n with
  | none => s
  | some st => (s.modStream n fun st => { st with state := .running }).postEvent 0x0006 .done st.cause.code n

/-- Every RUNNING stream moves to PAUSED with one cause. -/
def State.pauseRunning (s : State) (cause : PauseCause) : State :=
  s.streams.foldl (fun s e => if e.2.state = .running then s.pauseStream e.1 cause else s) s

/-- METADATA_RECORD_WRITE (R325 to R327, R403). -/
def execMetadataRecordWrite (dt sample : Nat) (s : State) : Host.Outcome State Fault Refusal :=
  let s := s.advance dt
  .next (if s.live then s.writeRecord sample else s)

end Sys2Proof.Machine
end

