-- ==== Sys2Proof/Machine/Admission.lean ====
section
/-! DEFINITION. Admission (R21, R55 to R59, R249, R258, R271, R275, R287): the usable window, what a sample charges, the
template-plan check, reservations, shedding and resuming. -/

namespace Sys2Proof.Machine

open Sys2Proof

/-- The share of a resource at a capacity step, in 1/1,024 (Table 20.3). -/
def stepShare : Nat → Nat → Nat
  | 1, 1 => 896 | 2, 1 => 768 | 3, 1 => 640 | 4, 1 => 512 | 5, 1 => 512 | 6, 1 => 384 | 7, 1 => 256
  | 5, 2 => 768 | 6, 2 => 512 | 7, 2 => 512
  | 5, 3 => 768 | 6, 3 => 512 | 7, 3 => 512
  | 6, 4 => 512 | 7, 4 => 512
  | 7, 5 => 512
  | 7, 6 => 768
  | _, _ => 1024

/-- The budgeted power of a step in milliwatts (Table 20.3). -/
def stepBudget : Nat → Nat
  | 0 => 438000 | 1 => 416000 | 2 => 394000 | 3 => 372000 | 4 => 350000 | 5 => 338500 | 6 => 302000
  | _ => 264200

/-- The usable window U in tenths of a nanosecond (Table 3.4). -/
def usableWindow (source : CueSource) (period : Nat) : Nat :=
  match source with
  | .internal => period * 9998 - 200000
  | .pin => period * 9990 - 200000
  | .link => period * 9998 - 202000

/-! ### What a sample charges -/

/-- The strip height of a codec (R245). -/
def stripRows : Nat → Nat
  | 1 => 16 | 2 => 64 | _ => 128

/-- Bytes per sample of a bit depth (R245). -/
def depthBytes (d : Nat) : Nat := if d > 8 then 2 else 1

/-- Bytes per pixel in the strip of a CSI-2 data type (Table 12.2). -/
def dataTypeBytes : Nat → Nat
  | 0x1E => 2 | 0x24 => 3 | 0x2A => 1 | 0x2B => 2 | 0x2C => 2
  | _ => 0

/-- Bytes per sample of an audio format (Table 12.9). -/
def audioBytes (format : Nat) : Nat := if format = 0 then 2 else 4

/-- The bytes of one FEED at most: the audio block's exact length (R272). -/
def Stream.feedBytes (st : Stream) : Nat :=
  match st.kind with
  | .decode => st.decode.maxAuBytes
  | .jpeg => st.jpeg.maxImageBytes
  | .audio => st.audio.channels * st.audio.block * audioBytes st.audio.format
  | .camera | .encode => 0

/-- The largest picture of a stream. -/
def Stream.picture (st : Stream) : Nat × Nat :=
  match st.kind with
  | .camera => (st.camera.width, st.camera.height)
  | .decode => (st.decode.maxWidth, st.decode.maxHeight)
  | .jpeg => (st.jpeg.maxWidth, st.jpeg.maxHeight)
  | .encode => (st.encode.width, st.encode.height)
  | .audio => (0, 0)

/-- A scaler pass's charge in nanoseconds (R286). -/
def passCharge (outPx inPx : Nat) : Nat := max (ceilDiv outPx 4) (ceilDiv inPx 64)

/-- What one sample of a stream charges each resource in nanoseconds of one unit: 0 the samplers, codes 1 to 7 of Table 20.3
with 7 the host reads, 8 the JPEG units, 9 the audio front end, 10 the host writes (R242, R280, R286, R291, R329). -/
def Stream.charge (st : Stream) (digest : Word256) (r : Nat) : Nat :=
  let wh := st.picture
  let px := wh.1 * wh.2
  let cast := if st.cast = 0 then 0 else Config.castCharge digest r
  let hostReads := ceilDiv st.feedBytes 100
  match r with
  | 3 => if st.kind = .decode then max (ceilDiv (st.decode.framesPerAu * px) 16) (4 * st.decode.maxAuBytes) else 0
  | 4 => if st.kind = .encode then ceilDiv px 4 else 0
  | 5 => sumNat (st.outputs.map fun o => passCharge (o.outW * o.outH) (if o.crop = 1 then o.cropW * o.cropH else px))
  | 7 => hostReads
  | 8 => if st.kind = .jpeg then max (ceilDiv px 2) (2 * st.jpeg.maxImageBytes) else 0
  | 9 =>
    if st.kind = .audio then 1000 + ceilDiv (st.audio.block / st.audio.hop * st.audio.channels * 1000000000) 409600 else 0
  | 10 => (if st.cast = 0 then 0 else Config.castCharge digest 7) + (if st.kind = .encode then st.encode.hostSize / 200 else 0)
  | _ => cast

/-- The units of a resource. -/
def resourceUnits : Nat → Nat
  | 0 | 1 | 2 | 5 => 8
  | 3 | 4 => 4
  | 8 => 2
  | _ => 1

/-- The shares admission uses: a capacity step's, and the host link's. -/
structure Shares where
  level : Nat
  host : Nat
  deriving DecidableEq, Repr

/-- The share of a resource. -/
def Shares.of (h : Shares) (r : Nat) : Nat := if r = 7 || r = 10 then h.host else stepShare h.level r

/-- The shares admission uses now. -/
def State.shares (s : State) : Shares := ⟨s.cue.stepLevel, s.host.hostShare⟩

/-- The stream has a place in the template plan: ADMITTED, RUNNING, or PAUSED with a cause other than CAPACITY (R314). -/
def Stream.inPlan (st : Stream) : Bool :=
  match st.state with
  | .admitted | .running => true
  | .paused => st.cause ≠ .capacity
  | .declared | .closed => false

/-- Samples in one carrying cue under a period (Table 3.3). -/
def Stream.perCueAt (st : Stream) (period : Nat) : Nat :=
  if st.minInterval ≠ 0 then ceilDiv period st.minInterval else st.samples

/-- The work of one sample of a stream whose stages follow one another: its chain with both reserves (R56). -/
def Stream.chainTime (st : Stream) (digest : Word256) : Nat :=
  st.charge digest 3 + st.charge digest 4 + st.charge digest 5 + st.charge digest 8 + st.charge digest 9
    + (if st.cast = 0 then 0 else
        Config.castChain digest + Config.castReserve digest + Config.castWidenReserve digest st.widen)

/-- The totals of one residue fit: every resource's work within U and its share (R56). -/
def residueFits (u : Nat) (h : Shares) (period : Nat) (l : List (Stream × Word256)) : Bool :=
  (upto 11).all fun r =>
    10 * 1024 * sumNat (l.map fun e => e.1.perCueAt period * e.1.charge e.2 r)
      ≤ u * resourceUnits r * h.of r

/-- The decode work of the streams that name a cluster fits within U and its share on each cluster (R56, R241). -/
def clustersFit (u : Nat) (h : Shares) (period : Nat) (l : List (Stream × Word256)) : Bool :=
  (upto 4).all fun k =>
    10 * 1024 * sumNat ((l.filter fun e => e.1.decode.cluster = some k).map fun e => e.1.perCueAt period * e.1.charge e.2 3)
      ≤ u * h.of 3

/-- A set of streams fits a period and shares by its totals (R56, R287): per residue up to a least common multiple of 4,096,
else as one plan in which every stream presents its samples in every cue. -/
def planFits (source : CueSource) (period : Nat) (h : Shares) (l : List (Stream × Word256)) : Bool :=
  let u := usableWindow source period
  let m := l.foldl (fun m e => Nat.lcm m (max 1 e.1.cadence)) 1
  (l.all fun e => 10 * e.1.chainTime e.2 ≤ u)
    && sumNat (l.map fun e => if e.1.kind = .audio then e.1.audio.channels else 0) ≤ 1024
    && (if m ≤ 4096 then
        (upto m).all fun c => (fun k => residueFits u h period k && clustersFit u h period k) (l.filter fun e => e.1.carries c)
      else residueFits u h period l && clustersFit u h period l)

/-- The streams of the plan with their cast contents. -/
def State.planned (s : State) : List (Stream × Word256) :=
  (s.streams.filter fun e => e.2.inPlan).map fun e => (e.2, s.castDigest e.1)

/-! ### Reservations -/

/-- What a stream needs reserved: location, bytes of one buffer, how many, and the pool where host software gives it. -/
structure Need where
  dram : Bool
  size : Nat
  count : Nat
  pool : Option Nat := none
  deriving DecidableEq, Repr

/-- Lines of n bytes, in bytes. -/
def lineBytes (n : Nat) : Nat := 64 * ceilDiv n 64

/-- The frame buffers of one picture (R248): one, or two bands when it exceeds 64 MiB. -/
def frameBuffers (w h b : Nat) : List Nat :=
  let bytes := fun (rows : Nat) => w * rows * b * 3 / 2 + 16 * (ceilDiv w 16 * ceilDiv rows 16)
  if bytes h ≤ 67108864 then [bytes h] else [bytes 2176, bytes (h - 2176)]

/-- Bytes of an element of an output format (Table 12.7). -/
def outElemBytes (fmt : Nat) : Nat := widthOf' fmt
where
  /-- FP32 4, FP16 and BF16 2, E4M3 and E5M2 1. -/
  widthOf' : Nat → Nat
    | 0x01 => 4
    | 0x02 | 0x03 => 2
    | _ => 1

/-- The channels of an output. -/
def OutputCfg.channelCount (o : OutputCfg) : Nat := if o.channels = 2 then 1 else 3

/-- The bytes of one set of an output (R281, R245): a tensor's rows of elements one after another, or a picture's strips. -/
def OutputCfg.bytes (o : OutputCfg) : Nat :=
  if o.kind = 0 then o.outW * o.outH * o.channelCount * outElemBytes o.dFmt
  else o.outH * 3 / 2 * lineBytes (o.outW * depthBytes o.bitDepth)

/-- The buffers a stream's admission reserves beside those of its cast content (R249, R258, R271, R275, R189). -/
def State.needs (s : State) (st : Stream) : List Need :=
  let n := s.perCue st
  let wh := st.picture
  let outs := (st.outputs.filter fun _ => st.kind ≠ .encode).map fun o => Need.mk false o.bytes (2 * n + 2) none
  let deck : List Need := if st.cast = 0 then [] else [⟨false, 1024, 1, none⟩]
  let own : List Need :=
    match st.kind with
    | .camera =>
      [⟨false, 16 * lineBytes (wh.1 * dataTypeBytes st.camera.dataType), (2 * n + 1) * ceilDiv wh.2 16, none⟩]
    | .decode =>
      let b := depthBytes st.decode.bitDepth
      let h := stripRows st.decode.codec
      let strips := ceilDiv wh.2 h
      [⟨true, st.decode.maxAuBytes, 3 * n, none⟩, ⟨false, h * 3 / 2 * lineBytes (wh.1 * b), 2 * n * strips, none⟩,
       ⟨true, strips * (4096 + 24 * wh.1 * b), 2, none⟩]
        ++ (frameBuffers wh.1 wh.2 b).map fun f => Need.mk true f (st.decode.references + 2) st.decode.pool
    | .jpeg => [⟨true, st.jpeg.maxImageBytes, 3 * n, none⟩, ⟨false, 32 * lineBytes wh.1, 2 * n * ceilDiv wh.2 8, none⟩]
    | .audio =>
      [⟨false, st.feedBytes, 3 * n, none⟩]
        ++ (if st.audio.history = 0 then [] else
            [⟨true, st.audio.history * st.audio.channels * 80 * outElemBytes st.audio.outFmt, 1, none⟩])
    | .encode => (frameBuffers wh.1 wh.2 1).map fun f => Need.mk true f (st.encode.references + 1) none
  own ++ outs ++ deck

/-- Buffers of a pool that can still be reserved for a group: those no minimum covers, or, for an expert stream, those of the
group's own minimum that no stream has reserved. -/
def State.reservable (s : State) (w : Wardrobe) (g p : Nat) (expert : Bool) (taken : List (Nat × Nat)) : Nat :=
  match aget w.pools p with
  | none => 0
  | some pool =>
    if !s.poolUsable pool g then 0
    else if expert then w.minimum g p - s.streamReserved g p - agetD taken p 0
    else pool.count - w.minimaSum p

/-- n buffers more of pool p reserved for group g. -/
def reserveIn (g p n : Nat) (expert : Bool) (wt : Wardrobe × List (Nat × Nat)) : Wardrobe × List (Nat × Nat) :=
  let w := if expert then wt.1 else wt.1.setMinimum g p (wt.1.minimum g p + n)
  (w, aset wt.2 p (agetD wt.2 p 0 + n))

/-- n buffers reserved over a list of pools, in its order. -/
def State.reserveOver (s : State) (g : Nat) (expert : Bool) :
    List Nat → Nat → Wardrobe × List (Nat × Nat) → Option (Wardrobe × List (Nat × Nat))
  | _, 0, wt => some wt
  | [], _ + 1, _ => none
  | p :: l, n + 1, wt =>
    let k := min (n + 1) (s.reservable wt.1 g p expert wt.2)
    State.reserveOver s g expert l (n + 1 - k) (if k = 0 then wt else reserveIn g p k expert wt)

/-- The pools of a location that hold buffers of a size, smallest class first. -/
def State.poolsFor (s : State) (dram : Bool) (size : Nat) : List Nat :=
  (upto 8).flatMap fun c =>
    (s.wardrobe.pools.filter fun e => e.2.dram = dram && e.2.cls = c && size ≤ classBytes c).map (·.1)

/-- Every need of a stream reserved in its group's minima (R21), or none. -/
def State.reserve (s : State) (n : Nat) (st : Stream) : Option State :=
  let expert := st.script ≠ 0
  let first : Option (Wardrobe × List (Nat × Nat)) := some (s.wardrobe, [])
  let named := if st.cast = 0 then [] else Config.castBuffers (s.castDigest n)
  let a := named.foldl (fun wt e => wt.bind (s.reserveOver st.group expert [e.1] e.2)) first
  let b := (s.needs st).foldl (fun wt d =>
    let pools := match d.pool with
      | some p => [p]
      | none => s.poolsFor d.dram d.size
    wt.bind (s.reserveOver st.group expert pools d.count)) a
  b.map fun wt =>
    ({ s with wardrobe := wt.1 }).modStream n fun x => { x with reserved := wt.2 }

/-! ### Decisions -/

/-- Firmware packs the plan it has found to fit by its totals: a free value (log entry 10). -/
def State.packs (s : State) : Bool × State :=
  let d := s.draw
  (Config.packs d.1, d.2)

/-- A phase for a stream: the declared one, or one that fits, where firmware's choice among them is free (R56). -/
def State.choosePhase (s : State) (st : Stream) (fits : Nat → Bool) : Option Nat × State :=
  match st.phase with
  | some p => (if fits p then some p else none, s)
  | none =>
    let l := (upto (max 1 st.cadence)).filter fits
    let d := s.draw
    (l[Config.phaseChoice d.1 % max 1 l.length]?, d.2)

/-- The next admission number. -/
def State.nextAdmission (s : State) : Nat := 1 + (s.streams.map fun e => e.2.admittedAt).foldl max 0

/-- Admission of stream n under R56: its phase set, its reservations made, or none. -/
def State.admitStream (s : State) (n : Nat) : Option State :=
  match aget s.streams n with
  | none => none
  | some st =>
    let d := s.castDigest n
    let others := s.planned
    let r := s.choosePhase st fun p =>
      planFits s.cue.source s.cue.period s.shares (others ++ [({ st with phase := some p }, d)])
    match r.1 with
    | none => none
    | some p =>
      let k := r.2.packs
      if !k.1 then none
      else match k.2.reserve n st with
        | none => none
        | some s' => some (s'.modStream n fun st => { st with phase := some p, admittedAt := s.nextAdmission })

/-- Stream numbers in order of priority and then of admission (R58). -/
def State.shedOrder (s : State) : List Nat :=
  let l := s.streams.filter fun e => e.2.state ≠ .declared
  (l.foldr insertStream []).map (·.1)
where
  /-- An entry put in its place by priority, then by admission. -/
  insertStream (e : Nat × Stream) : List (Nat × Stream) → List (Nat × Stream)
    | [] => [e]
    | d :: l =>
      if e.2.priority < d.2.priority || (e.2.priority = d.2.priority && e.2.admittedAt < d.2.admittedAt) then
        e :: d :: l
      else d :: insertStream e l

/-- The template plan rebuilt (R58): streams kept in order of priority and then of admission; a RUNNING one that no longer fits
is PAUSED with cause CAPACITY and loses its reservations and its place. -/
def State.shed (s : State) : State :=
  (s.shedOrder.foldl (fun (acc : List (Stream × Word256) × State) n =>
    match aget acc.2.streams n with
    | none => acc
    | some st =>
      if !st.inPlan then acc
      else
        let l := acc.1 ++ [(st, acc.2.castDigest n)]
        if st.state ≠ .running || planFits acc.2.cue.source acc.2.cue.period acc.2.shares l then (l, acc.2)
        else (acc.1, (acc.2.unreserve n).pauseStream n .capacity)) ([], s)).2

/-- Streams paused with cause CAPACITY resume in order, as far as the plan allows (R58). -/
def State.resumeShed (s : State) : State :=
  s.shedOrder.foldl (fun s n => match aget s.streams n with
    | none => s
    | some st =>
      if st.state = .paused && st.cause = .capacity && !st.closing then
        match s.admitStream n with
        | some s' => (s'.modStream n fun x => { x with admittedAt := st.admittedAt }).resumeStream n
        | none => s
      else s) s

end Sys2Proof.Machine
end

