-- ==== Sys2Proof/Machine/Draws.lean ====
section
/-! DEFINITION. Decks and draws (R188 to R191): the deck of a seed, the test deck, and the draw function. -/

namespace Sys2Proof.Machine

open Sys2Proof

/-- The 1,024 bytes of the deck of a seed (R189). -/
def deckBytes (seed : Word256) : List Byte := shake256 1024 (asciiBytes "VY8DECK1" ++ bytes256 seed)

/-- The 256 cards in a deck's bytes. -/
def cardsOf (bs : List Byte) : List Word32 := (upto 256).map fun k => BitVec.ofNat 32 (fieldAt bs (4 * k) 4)

/-- The cards of the deck of a seed (R189). -/
def deckCards (seed : Word256) : List Word32 := cardsOf (deckBytes seed)

/-- The test deck (R190). -/
def testCards : List Word32 := (upto 256).map fun k => BitVec.ofNat 32 (k * 0x01010101)

/-- One round of the draw function (R191): the pair (a, b) after round r. -/
def drawRound (cards : List Word32) (number : Word32) (purpose r : Nat) (ab : Word32 × Word32) : Word32 × Word32 :=
  let k := (ab.1.toNat ^^^ (64 * r) ^^^ purpose) % 256
  (ab.2 ^^^ (ab.1 + cards.getD k 0 + number).rotateLeft 11, ab.1)

/-- draw(d, s, q, i) of R191. -/
def drawBits (cards : List Word32) (number : Word32) (purpose : Nat) (index : Word64) : Word32 :=
  let start : Word32 × Word32 := (index.setWidth 32, (index >>> 32).setWidth 32)
  let ab := (upto 4).foldl (fun ab r => drawRound cards number purpose r ab) start
  ab.1 ^^^ ab.2

/-- Draw purposes (Table 9.1). -/
abbrev drawRand : Nat := 0
abbrev drawDropout : Nat := 1
abbrev drawStochastic : Nat := 2
abbrev drawSampler : Nat := 3

/-- The bits a deck slot gives a unit: no deck gives zeros, and no word that draws runs without one (R209). -/
def slotDraw (d : Option Deck) (purpose : Nat) (index : Nat) : Word32 :=
  match d with
  | some k => drawBits (deckCards k.seed) (BitVec.ofNat 32 k.number) purpose (BitVec.ofNat 64 index)
  | none => 0

end Sys2Proof.Machine
end

