-- ==== Sys2Proof/Machine/Formats.lean ====
section
/-! DEFINITION. Number formats (R115 to R126): exact values, element layouts, rounding, FP32 arithmetic, narrowing and block
scales, and scale entries with their tags (R127 to R129). -/

namespace Sys2Proof.Machine

open Sys2Proof

/-- An exact value: (−1)^neg × m × 2^e, an infinity, or a NaN. -/
inductive Num where
  | fin (neg : Bool) (m : Nat) (e : Int)
  | inf (neg : Bool)
  | nan
  deriving DecidableEq, Repr

/-- Rounding modes (Table 6.4); STOCHASTIC carries u of R123. -/
inductive Rnd where
  | nearestEven
  | towardZero
  | stochastic (u : Nat)
  deriving DecidableEq, Repr

/-- +0. -/
def Num.zero : Num := .fin false 0 0

/-- The value of an integer. -/
def Num.ofInt (i : Int) : Num := .fin (i < 0) i.natAbs 0

/-- The value is a zero. -/
def Num.isZero : Num → Bool
  | .fin _ m _ => m = 0
  | .inf _ | .nan => false

/-- The value is finite. -/
def Num.isFin : Num → Bool
  | .fin _ _ _ => true
  | .inf _ | .nan => false

/-- The sign. -/
def Num.neg : Num → Bool
  | .fin n _ _ | .inf n => n
  | .nan => false

/-- The value with its sign turned. -/
def Num.negate : Num → Num
  | .fin n m e => .fin (!n) m e
  | .inf n => .inf (!n)
  | .nan => .nan

/-- The value times 2^k. -/
def Num.scale (k : Int) : Num → Num
  | .fin n m e => .fin n m (e + k)
  | .inf n => .inf n
  | .nan => .nan

/-- m × 2^e as an integer count of 2^b, for b ≤ e. -/
def aligned (m : Nat) (e b : Int) : Nat := m * 2 ^ (e - b).toNat

/-- A signed value as a signed count of 2^b. -/
def signedAligned (n : Bool) (m : Nat) (e b : Int) : Int := if n then -(aligned m e b : Int) else aligned m e b

/-- The exact sum. An exact zero from values of different sign is +0. -/
def Num.add : Num → Num → Num
  | .nan, _ | _, .nan => .nan
  | .inf a, .inf b => if a = b then .inf a else .nan
  | .inf a, .fin _ _ _ => .inf a
  | .fin _ _ _, .inf b => .inf b
  | .fin n m e, .fin n' m' e' =>
    let b := min e e'
    let t := signedAligned n m e b + signedAligned n' m' e' b
    if t = 0 then .fin (n && n') 0 b else .fin (t < 0) t.natAbs b

/-- The exact product. -/
def Num.mul : Num → Num → Num
  | .nan, _ | _, .nan => .nan
  | .inf a, .inf b => .inf (a != b)
  | .inf a, .fin n m _ | .fin n m _, .inf a => if m = 0 then .nan else .inf (a != n)
  | .fin n m e, .fin n' m' e' => .fin (n != n') (m * m') (e + e')

/-- The quotient, exact or with enough bits and a sticky last bit for one rounding to FP32. -/
def Num.div : Num → Num → Num
  | .nan, _ | _, .nan => .nan
  | .inf _, .inf _ => .nan
  | .inf a, .fin n _ _ => .inf (a != n)
  | .fin n _ _, .inf a => .fin (n != a) 0 0
  | .fin n m e, .fin n' m' e' =>
    if m' = 0 then (if m = 0 then .nan else .inf (n != n'))
    else
      let k := 64 + m'.log2
      let q := m * 2 ^ k / m'
      let r := m * 2 ^ k % m'
      .fin (n != n') (2 * q + (if r = 0 then 0 else 1)) (e - e' - k - 1)

/-- The whole part of a square root, by halving an interval that holds it. -/
def isqrtIn : Nat → Nat → Nat → Nat → Nat
  | 0, _, lo, _ => lo
  | f + 1, n, lo, hi =>
    let mid := (lo + hi + 1) / 2
    if mid * mid ≤ n then isqrtIn f n mid hi else isqrtIn f n lo (mid - 1)

/-- floor(sqrt(n)). -/
def isqrt (n : Nat) : Nat := isqrtIn (n.log2 / 2 + 2) n 0 (2 ^ (n.log2 / 2 + 1))

/-- The square root, with enough bits and a sticky last bit for one rounding to FP32. -/
def Num.sqrt : Num → Num
  | .nan => .nan
  | .inf n => if n then .nan else .inf false
  | .fin n m e =>
    if m = 0 then .fin n 0 0
    else if n then .nan
    else
      let e' := if e % 2 = 0 then e - 64 else e - 65
      let v := m * 2 ^ (e - e').toNat
      let r := isqrt v
      .fin false (2 * r + (if r * r = v then 0 else 1)) (e' / 2 - 1)

/-- a < b; false where either is NaN. -/
def Num.lt : Num → Num → Bool
  | .nan, _ | _, .nan => false
  | .inf a, .inf b => a && !b
  | .inf a, .fin _ _ _ => a
  | .fin _ _ _, .inf b => !b
  | .fin n m e, .fin n' m' e' =>
    let b := min e e'
    signedAligned n m e b < signedAligned n' m' e' b

/-- a = b in value; false where either is NaN. -/
def Num.eqv : Num → Num → Bool
  | .nan, _ | _, .nan => false
  | a, b => !a.lt b && !b.lt a

/-- a ≤ b; false where either is NaN. -/
def Num.le (a b : Num) : Bool := a.lt b || a.eqv b

/-! ### Layouts -/

/-- A floating-point element layout (Table 6.2): exponent bits, mantissa bits, bias, the code magnitude of the largest finite
value, and whether the codes above it hold an infinity or NaNs. -/
structure Layout where
  ebits : Nat
  fbits : Nat
  bias : Nat
  maxCode : Nat
  hasInf : Bool
  hasNan : Bool
  deriving DecidableEq, Repr

/-- FP32. -/
def layout32 : Layout := ⟨8, 23, 127, 0x7F7FFFFF, true, true⟩

/-- The floating-point layout of a format code (Tables 6.1 and 6.2). -/
def layoutOf : Nat → Option Layout
  | 0x01 => some layout32
  | 0x02 => some ⟨5, 10, 15, 0x7BFF, true, true⟩
  | 0x03 => some ⟨8, 7, 127, 0x7F7F, true, true⟩
  | 0x04 | 0x08 => some ⟨4, 3, 7, 0x7E, false, true⟩
  | 0x05 | 0x09 => some ⟨5, 2, 15, 0x7B, true, true⟩
  | 0x0A => some ⟨2, 3, 1, 0x1F, false, false⟩
  | 0x0B => some ⟨3, 2, 3, 0x1F, false, false⟩
  | 0x0C => some ⟨2, 1, 1, 0x7, false, false⟩
  | _ => none

/-- The width of an element in bits (Table 6.1); 0 for a code that names no format. -/
def widthOf : Nat → Nat
  | 0x01 | 0x18 => 32
  | 0x02 | 0x03 => 16
  | 0x04 | 0x05 | 0x08 | 0x09 | 0x0D | 0x1F => 8
  | 0x0A | 0x0B => 6
  | 0x0C | 0x10 => 4
  | _ => 0

/-- The block length L of a block format (Table 6.1); 0 for the others. -/
def blockLen : Nat → Nat
  | 0x08 | 0x09 | 0x0A | 0x0B | 0x0C | 0x0D => 32
  | 0x10 => 16
  | _ => 0

/-- emax of a block format (Table 6.6). -/
def emaxOf : Nat → Int
  | 0x08 => 8 | 0x09 => 15 | 0x0A => 2 | 0x0B => 4 | 0x0C => 2 | 0x10 => 2
  | _ => 0

/-- The width class of an array operand: 4, 8 or 16 (Table 5.1); 0 for a format no array takes. -/
def classOf : Nat → Nat
  | 0x02 | 0x03 => 16
  | 0x04 | 0x05 | 0x08 | 0x09 | 0x0A | 0x0B | 0x0D => 8
  | 0x0C | 0x10 => 4
  | _ => 0

/-- The value of a code of a floating-point layout (R117). -/
def Layout.decode (l : Layout) (code : Nat) : Num :=
  let neg := bitOf code (l.ebits + l.fbits)
  let mag := bitsOf code 0 (l.ebits + l.fbits)
  let e := mag / 2 ^ l.fbits
  let f := mag % 2 ^ l.fbits
  if l.maxCode < mag then
    if l.hasInf && mag = (2 ^ l.ebits - 1) * 2 ^ l.fbits then .inf neg else .nan
  else if e = 0 then .fin neg f (1 - (l.bias : Int) - l.fbits)
  else .fin neg (2 ^ l.fbits + f) ((e : Int) - l.bias - l.fbits)

/-- The value of an element code (R117, R118). -/
def elemValue (fmt code : Nat) : Num :=
  match layoutOf fmt with
  | some l => l.decode code
  | none =>
    if fmt = 0x0D then (Num.ofInt (signedOf 8 code)).scale (-6)
    else if fmt = 0x10 then .fin (bitOf code 3) (code % 8) 0
    else if fmt = 0x18 then Num.ofInt (signedOf 32 code)
    else if fmt = 0x1F then (if code = 255 then .nan else .fin false 1 ((code : Int) - 127))
    else .nan

/-- The integer code of an element, for INT32 accumulation (R103). -/
def elemInt (fmt code : Nat) : Int :=
  if fmt = 0x0D then signedOf 8 code
  else if bitOf code 3 then -((code % 8 : Nat) : Int) else ((code % 8 : Nat) : Int)

/-- The code counts as the largest finite magnitude (R112, clip codes of Tables 6.2 and 6.3). -/
def isClip (fmt code : Nat) : Bool :=
  match layoutOf fmt with
  | some l => bitsOf code 0 (l.ebits + l.fbits) = l.maxCode
  | none =>
    if fmt = 0x0D then code = 0x7F || code = 0x80 || code = 0x81
    else if fmt = 0x10 then code % 8 = 7 else false

/-! ### Rounding -/

/-- A magnitude m × 2^e rounded to a count of 2^q (Table 6.4, R123). -/
def roundMag (r : Rnd) (m : Nat) (e q : Int) : Nat :=
  if q ≤ e then m * 2 ^ (e - q).toNat
  else
    let sh := (q - e).toNat
    let k := m / 2 ^ sh
    let rem := m % 2 ^ sh
    match r with
    | .towardZero => k
    | .nearestEven => if 2 * rem > 2 ^ sh || (2 * rem = 2 ^ sh && k % 2 = 1) then k + 1 else k
    | .stochastic u => if rem * 65536 / 2 ^ sh + u ≥ 65536 then k + 1 else k

/-- The code magnitude a finite magnitude rounds to in a layout, without regard to its largest finite value. -/
def Layout.roundCode (l : Layout) (r : Rnd) (m : Nat) (e : Int) : Nat :=
  if m = 0 then 0
  else
    let emin : Int := 1 - (l.bias : Int) - l.fbits
    let q := max emin ((m.log2 : Int) + e - l.fbits)
    (q - emin).toNat * 2 ^ l.fbits + roundMag r m e q

/-- The FP32 code of a value, rounded to nearest even, infinite on overflow, with the canonical NaN (R105, R122, R124). -/
def Num.toF32 : Num → Word32
  | .nan => 0x7FC00000
  | .inf n => if n then 0xFF800000 else 0x7F800000
  | .fin n m e =>
    let c := min (layout32.roundCode .nearestEven m e) 0x7F800000
    BitVec.ofNat 32 (c + (if n then 2 ^ 31 else 0))

/-- The value of an FP32 word. -/
def f32 (w : Word32) : Num := layout32.decode w.toNat

/-- The largest finite FP32 value with a sign. -/
def f32Max (neg : Bool) : Num := .fin neg (2 ^ 24 - 1) 104

/-- One FP32 rounding of a finite value that fixes the largest magnitude on overflow: the value and whether it overflowed
(R105, R121). -/
def Num.round32 (x : Num) : Num × Bool :=
  match x with
  | .fin n m e =>
    if layout32.roundCode .nearestEven m e > 0x7F7FFFFF then (f32Max n, true) else (f32 x.toF32, false)
  | _ => (x, false)

/-- FP32 operations, correctly rounded. -/
def fadd (a b : Word32) : Word32 := ((f32 a).add (f32 b)).toF32
def fsub (a b : Word32) : Word32 := ((f32 a).add (f32 b).negate).toF32
def fmul (a b : Word32) : Word32 := ((f32 a).mul (f32 b)).toF32
def ffma (a b c : Word32) : Word32 := (((f32 a).mul (f32 b)).add (f32 c)).toF32
def fdiv (a b : Word32) : Word32 := ((f32 a).div (f32 b)).toF32
def fsqrt (a : Word32) : Word32 := (f32 a).sqrt.toF32

/-- The FP32 word is a NaN. -/
def isNaN32 (w : Word32) : Bool := f32 w = .nan

/-- The FP32 word is finite. -/
def isFin32 (w : Word32) : Bool := (f32 w).isFin

/-- The value lies in [a, b]. -/
def inRange32 (w a b : Word32) : Bool := (f32 a).le (f32 w) && (f32 w).le (f32 b)

/-! ### Narrowing -/

/-- A narrowed element: its code, whether it saturated to a clip code, whether its source was infinite or NaN and cannot be
held, and whether it flushed. -/
structure Narrowed where
  code : Nat
  saturated : Bool := false
  nonfinite : Bool := false
  flushed : Bool := false
  deriving DecidableEq, Repr

/-- A finite value rounded to an integer with the mode, as an integer. -/
def roundInt (r : Rnd) (n : Bool) (m : Nat) (e : Int) : Int :=
  let k := roundMag r m e 0
  if n then -(k : Int) else k

/-- Narrowing of a value (already divided by its block scale) to a format (R122, Table 6.5). -/
def narrow (fmt : Nat) (r : Rnd) (x : Num) : Narrowed :=
  match layoutOf fmt with
  | some l =>
    let sign := fun (n : Bool) => if n then 2 ^ (l.ebits + l.fbits) else 0
    let clip := fun (n : Bool) => l.maxCode + sign n
    let infCode := fun (n : Bool) => (2 ^ l.ebits - 1) * 2 ^ l.fbits + sign n
    let wide := fmt = 0x01 || fmt = 0x02 || fmt = 0x03
    match x with
    | .nan =>
      if !l.hasNan then { code := 0, nonfinite := true }
      else { code := if wide then (2 ^ l.ebits - 1) * 2 ^ l.fbits + 2 ^ (l.fbits - 1)
                     else if l.hasInf then 0x7E else 0x7F
             nonfinite := fmt = 0x08 || fmt = 0x09 }
    | .inf n =>
      if !l.hasNan then { code := 0, nonfinite := true }
      else if l.hasInf then { code := infCode n, nonfinite := fmt = 0x09 }
      else { code := clip n, saturated := true, nonfinite := fmt = 0x08 }
    | .fin n m e =>
      let c := l.roundCode r m e
      if c ≤ l.maxCode then { code := c + sign n, flushed := m ≠ 0 && c = 0 }
      else if wide then { code := if r = .towardZero then clip n else infCode n }
      else { code := clip n, saturated := true }
  | none =>
    if fmt = 0x18 then
      match x with
      | .nan => { code := 0 }
      | .inf n => { code := if n then 2 ^ 31 else 2 ^ 31 - 1, saturated := true }
      | .fin n m e =>
        let i := roundInt r n m e
        let j := clampInt i (-(2 ^ 31)) (2 ^ 31 - 1)
        { code := unsignedOf 32 j, saturated := i ≠ j, flushed := m ≠ 0 && i = 0 }
    else
      match x with
      | .nan | .inf _ => { code := 0, nonfinite := true }
      | .fin n m e =>
        -- MXINT8 counts 2^−6; INT4B counts units
        let k := roundMag r m (if fmt = 0x0D then e + 6 else e) 0
        let top := if fmt = 0x0D then 127 else 7
        let j := min k top
        { code := if fmt = 0x0D then unsignedOf 8 (if n then -(j : Int) else j) else j + (if n then 8 else 0)
          saturated := k > top
          flushed := m ≠ 0 && k = 0 }

/-- floor(log2) of a non-zero finite magnitude (R125). -/
def floorLog2 (m : Nat) (e : Int) : Int := (m.log2 : Int) + e

/-- The larger magnitude of two finite values, as (m, e). -/
def largerMag (a b : Nat × Int) : Nat × Int :=
  let k := min a.2 b.2
  if aligned a.1 a.2 k < aligned b.1 b.2 k then b else a

/-- The computed scale exponent of a block (R125): 0 when all are zero. -/
def computedScale (fmt : Nat) (block : List Num) : Int :=
  let a := block.foldl (fun acc x => match x with
    | .fin _ m e => if m = 0 then acc else if acc.1 = 0 then (m, e) else largerMag acc (m, e)
    | _ => acc) (0, 0)
  if a.1 = 0 then 0 else floorLog2 a.1 a.2 - emaxOf fmt

/-- A scale exponent held to −127 to 127 (R126), and whether it was clamped. -/
def clampScale (s : Int) : Int × Bool := (clampInt s (-127) 127, s < -127 || 127 < s)

/-! ### Bytes of elements -/

/-- Element i of a row of w-bit elements (R120). -/
def elemAt (row : List Byte) (w i : Nat) : Nat :=
  let first := w * i / 8
  bitsOf (fieldAtBytes row first) (w * i % 8) w
where
  /-- Five bytes of the row from an offset, as a number. -/
  fieldAtBytes (row : List Byte) (first : Nat) : Nat := leNat ((row.drop first).take 5)

/-- The bytes of a row of w-bit element codes, padded with zero bits to whole bytes (R120). -/
def packElems (w : Nat) (codes : List Nat) : List Byte :=
  let v := codes.foldr (fun c acc => c % 2 ^ w + 2 ^ w * acc) 0
  leBytes (ceilDiv (w * codes.length) 8) v

/-! ### Scale entries -/

/-- The number of 1 bits of a 16-bit word. -/
def ones16 (n : Nat) : Nat := sumNat ((upto 16).map fun i => bitsOf n i 1)

/-- A scale entry (Table 6.7). -/
def scaleEntry (scale kb rc : Nat) (weight : Bool) : Nat :=
  let v := scale % 256 + 256 * (kb % 8) + 2048 * (rc % 8) + 16384 * b2n weight
  v + 32768 * (ones16 v % 2)

/-- The entry carries the expected tag and good parity (R129). -/
def scaleTagOk (entry kb rc : Nat) (weight : Bool) : Bool :=
  bitsOf entry 8 3 = kb % 8 && bitsOf entry 11 3 = rc % 8 && bitOf entry 14 = weight && ones16 entry % 2 = 0

/-- FP32 values used by the operations. -/
abbrev one32 : Word32 := 0x3F800000
abbrev half32 : Word32 := 0x3F000000
abbrev nan32 : Word32 := 0x7FC00000

/-- The FP32 word of a number. -/
def natF32 (n : Nat) : Word32 := (Num.ofInt n).toF32

/-- a < b, a ≤ b and a = b as FP32 values; false for NaN. -/
def flt (a b : Word32) : Bool := (f32 a).lt (f32 b)
def fle (a b : Word32) : Bool := (f32 a).le (f32 b)
def feq (a b : Word32) : Bool := (f32 a).eqv (f32 b)

/-- The larger of two FP32 values; +0 counts as larger than −0, and a NaN gives NaN (Table 8.4, R167). -/
def fmax (a b : Word32) : Word32 :=
  if isNaN32 a || isNaN32 b then nan32
  else if flt a b then b else if flt b a then a
  else if a = 0 || b = 0 then 0 else a

/-- The smaller of two FP32 values; −0 counts as smaller than +0. -/
def fmin (a b : Word32) : Word32 :=
  if isNaN32 a || isNaN32 b then nan32
  else if flt a b then a else if flt b a then b
  else if a = 0x80000000 || b = 0x80000000 then 0x80000000 else a

end Sys2Proof.Machine
end

