-- ==== Sys2Proof/Machine/Words.lean ====
section
/-! DEFINITION. The fields of the array, vector and sampler instruction words (Tables 5.2, 8.1 and 9.3) and of tensor
descriptors (Table 8.3), and their legal values: check 1 of Tables 5.3 and 8.2 and of R200. -/

namespace Sys2Proof.Machine

open Sys2Proof

/-- The lines of the House (R63). -/
abbrev houseLines : Nat := 6291456

/-! ### Array words -/

/-- An array instruction word, field by field (Table 5.2). -/
structure ArrayWord where
  op : Nat
  split : Nat
  part : Nat
  aFmt : Nat
  wFmt : Nat
  aScaled : Bool
  wScaled : Bool
  int32 : Bool
  init : Nat
  dest : Nat
  rowsig : Bool
  layer : Nat
  m : Nat
  k : Nat
  res60 : Nat
  kb0 : Nat
  n : Nat
  aAddr : Nat
  aPitch : Nat
  wAddr : Nat
  wPitch : Nat
  oAddr : Nat
  oPitch : Nat
  iAddr : Nat
  asAddr : Nat
  wsAddr : Nat
  aRow0 : Nat
  wCol0 : Nat
  res254 : Nat
  deriving DecidableEq, Repr

/-- The fields of an array word. -/
def arrayWordOf (v : Word256) : ArrayWord :=
  let f := fun (lo w : Nat) => bitsOf v.toNat lo w
  { op := f 0 4, split := f 4 2, part := f 6 2, aFmt := f 8 6, wFmt := f 14 6, aScaled := f 20 1 = 1, wScaled := f 21 1 = 1
    int32 := f 22 1 = 1, init := f 23 2, dest := f 25 2, rowsig := f 27 1 = 1, layer := f 28 4, m := f 32 17, k := f 49 11
    res60 := f 60 1, kb0 := f 61 3, n := f 64 10, aAddr := f 74 23, aPitch := f 97 12, wAddr := f 109 23, wPitch := f 132 12
    oAddr := f 144 23, oPitch := f 167 12, iAddr := f 179 23, asAddr := f 202 23, wsAddr := f 225 23, aRow0 := f 248 3
    wCol0 := f 251 3, res254 := f 254 2 }

/-- Part width in columns (Table 5.6). -/
def partWidth (split : Nat) : Nat := 512 / 2 ^ split

/-- Parts of a split mode (Table 5.6). -/
def partCount (split : Nat) : Nat := 2 ^ split

/-- The largest K of a width class (Table 5.2). -/
def classK : Nat → Nat
  | 4 => 1024 | 8 => 512 | _ => 256

/-- The N limit of a class in a split mode (Table 5.6). -/
def classN (cls split : Nat) : Nat := if cls = 16 then partWidth split / 2 else partWidth split

/-- Lines of a row of n elements of w bits (R92). -/
def rowLines (n w : Nat) : Nat := ceilDiv (n * w) 512

/-- The word loads a block: MATMUL with K not 0 (R94, R111). -/
def ArrayWord.loads (w : ArrayWord) : Bool := w.op = 1 && w.k ≠ 0

/-- The word writes its results to the House. -/
def ArrayWord.toHouse (w : ArrayWord) : Bool := w.dest = 0 || w.dest = 2

/-- The word delivers its results to the vector engine. -/
def ArrayWord.toVector (w : ArrayWord) : Bool := w.dest = 1 || w.dest = 2

/-- Lines of an output, bias or partial row. -/
def ArrayWord.outLines (w : ArrayWord) : Nat := ceilDiv (4 * w.n) 64

/-- Check 1 of Table 5.3: every field within its legal values, the SPLIT equality and unused fields apart. -/
def ArrayWord.legal (w : ArrayWord) : Bool :=
  let cls := classOf w.aFmt
  (w.op = 1 || w.op = 2) && w.split ≤ 2 && w.part < partCount w.split && cls ≠ 0 && classOf w.wFmt = cls
    && (!w.aScaled || blockLen w.aFmt ≠ 0) && (!w.wScaled || blockLen w.wFmt ≠ 0)
    && (!w.int32 || ((w.aFmt = 0x0D || w.aFmt = 0x10) && (w.wFmt = 0x0D || w.wFmt = 0x10) && !w.aScaled && !w.wScaled))
    && w.init ≤ 2 && w.dest ≤ 2 && w.m ≤ 65536 && w.k ≤ classK cls && w.res60 = 0 && w.n ≤ classN cls w.split
    && (w.k = 0 || (w.aAddr < houseLines && w.aPitch ≠ 0))
    && (!w.loads || (w.wAddr < houseLines && w.wPitch ≠ 0))
    && (!w.toHouse || (w.oAddr < houseLines && (w.m ≤ 1 || w.outLines ≤ w.oPitch)))
    && (w.init = 0 || w.iAddr < houseLines) && (!w.aScaled || w.k = 0 || w.asAddr < houseLines)
    && (!w.wScaled || !w.loads || w.wsAddr < houseLines) && w.res254 = 0

/-- The operands the word reads: line, lines from row to row, lines of a row, rows (R92, R128, R111). -/
def ArrayWord.reads (w : ArrayWord) : List (Nat × Nat × Nat × Nat) :=
  let aw := widthOf w.aFmt
  let a := if w.k = 0 then [] else [(w.aAddr, w.aPitch, rowLines w.k aw, w.m)]
  let b := if w.loads then [(w.wAddr, w.wPitch, rowLines w.n (widthOf w.wFmt), w.k)] else []
  let i := if w.init = 1 then [(w.iAddr, 1, w.outLines, 1)]
    else if w.init = 2 then [(w.iAddr, w.oPitch, w.outLines, w.m)] else []
  let an := ceilDiv (2 * ceilDiv w.k (blockLen w.aFmt)) 64
  let as := if w.aScaled && w.k ≠ 0 then [(w.asAddr, an, an, w.m)] else []
  let wn := ceilDiv (2 * w.n) 64
  let ws := if w.wScaled && w.loads then [(w.wsAddr, wn, wn, ceilDiv w.k (blockLen w.wFmt))] else []
  a ++ b ++ i ++ as ++ ws

/-- The operand the word writes to the House. -/
def ArrayWord.writes (w : ArrayWord) : List (Nat × Nat × Nat × Nat) :=
  if w.toHouse then [(w.oAddr, w.oPitch, w.outLines, w.m)] else []

/-! ### Vector words -/

/-- A vector instruction word, field by field (Table 8.1). -/
structure VecWord where
  op : Nat
  aFmt : Nat
  dFmt : Nat
  rnd : Nat
  aSrc : Nat
  bSrc : Nat
  dDst : Nat
  slot : Nat
  len : Nat
  sa : Nat
  sb : Nat
  aAddr : Nat
  bAddr : Nat
  dAddr : Nat
  deriving DecidableEq, Repr

/-- The fields of a vector word. -/
def vecWordOf (v : BitVec 128) : VecWord :=
  let f := fun (lo w : Nat) => bitsOf v.toNat lo w
  { op := f 0 8, aFmt := f 8 6, dFmt := f 14 6, rnd := f 20 2, aSrc := f 22 2, bSrc := f 24 2, dDst := f 26 2, slot := f 28 4
    len := f 32 15, sa := f 47 6, sb := f 53 6, aAddr := f 59 23, bAddr := f 82 23, dAddr := f 105 23 }

/-- How an operation uses B (Table 8.4). -/
inductive BUse where
  | none_ | houseOrScalar | mask | maskOrNone | rows | indices | exponents | params
  deriving DecidableEq, Repr

/-- How the operation uses B; none for a code that is no operation (Table 8.4, R214). -/
def vecBUse : Nat → Option BUse
  | 0x01 | 0x02 | 0x03 | 0x04 | 0x05 | 0x06 | 0x18 | 0x19 | 0x1A => some .houseOrScalar
  | 0x07 | 0x08 | 0x09 | 0x0A | 0x0B | 0x0C | 0x10 | 0x11 | 0x12 | 0x13 | 0x14 | 0x15 | 0x16 | 0x20 | 0x21 | 0x23
  | 0x28 | 0x29 | 0x30 | 0x31 | 0x32 | 0x44 => some .none_
  | 0x17 | 0x42 | 0x43 => some .mask
  | 0x22 => some .exponents
  | 0x33 => some .maskOrNone
  | 0x34 | 0x35 => some .rows
  | 0x40 | 0x41 => some .indices
  | 0x60 | 0x61 | 0x62 | 0x63 | 0x64 | 0x65 => some .params
  | _ => none

/-- Operations 0x60 to 0x65, whose operands are lines and whose B is a parameter line (R214). -/
def isVision (op : Nat) : Bool := 0x60 ≤ op && op ≤ 0x65

/-- The operations of which a link group holds at most one (R176). -/
def isRowOp (op : Nat) : Bool := 0x30 ≤ op && op ≤ 0x35

/-- The operation reads A. -/
def readsA (op : Nat) : Bool := op ≠ 0x28 && op ≠ 0x44

/-- The mask comparisons, whose result is one bit per element. -/
def isCompare (op : Nat) : Bool := op = 0x18 || op = 0x19 || op = 0x1A

/-- A non-block format that elementwise operations take (R166). -/
def isPlain (fmt : Nat) : Bool :=
  fmt = 0x01 || fmt = 0x02 || fmt = 0x03 || fmt = 0x04 || fmt = 0x05 || fmt = 0x18

/-- A plain floating format. -/
def isPlainFloat (fmt : Nat) : Bool := isPlain fmt && fmt ≠ 0x18

/-- The formats of A and D that an operation allows (R166, Table 8.4, R216, R223). -/
def vecFormatsOk (op a d : Nat) : Bool :=
  let floating := isPlainFloat a && isPlainFloat d
  match op with
  | 0x08 | 0x09 | 0x0A | 0x0B | 0x0C | 0x12 | 0x13 | 0x14 | 0x15 | 0x33 | 0x34 | 0x35 => floating
  | 0x18 | 0x19 | 0x1A => isPlain a
  | 0x21 | 0x22 => a = 0x01 && blockLen d ≠ 0
  | 0x23 => blockLen a ≠ 0 && isPlain d
  | 0x28 => isPlain a && d = 0x18
  | 0x29 => isPlainFloat a && isPlain d
  | 0x32 => isPlain a && d = 0x18
  | 0x44 => isPlain d && isPlain a
  | 0x60 => isPlain a && (d = 0x01 || classOf d ≠ 0)
  | 0x61 | 0x65 => isPlainFloat a && isPlain d
  | 0x62 => a = 0x01 || a = 0x02 || a = 0x03
  | 0x63 | 0x64 => true
  | _ => isPlain a && isPlain d

/-- B_SRC is allowed (Table 8.4). -/
def vecBSrcOk (op bSrc : Nat) : Bool :=
  match vecBUse op with
  | none => false
  | some .none_ => bSrc ≤ 2
  | some .houseOrScalar | some .exponents => bSrc ≤ 1
  | some .maskOrNone => bSrc = 0 || bSrc = 2
  | some .mask | some .rows | some .indices | some .params => bSrc = 0

/-- The word draws random bits (R192). -/
def VecWord.draws (w : VecWord) : Bool := w.op = 0x28 || w.op = 0x29 || w.rnd = 2

/-- The fields of check 1 of Table 8.2 that the word alone shows. -/
def VecWord.legal (w : VecWord) : Bool :=
  (vecBUse w.op).isSome && vecFormatsOk w.op w.aFmt w.dFmt && w.rnd ≤ 2 && w.aSrc ≤ 2 && vecBSrcOk w.op w.bSrc && w.dDst ≤ 2
    && (if isVision w.op then w.aSrc = 0 && w.dDst = 0 &&
          (w.len = 0 || ((w.op = 0x63 && (w.len ≤ 16384 || w.len = 0x7FFF)) || (w.op = 0x64 && (w.len ≤ 1024 || w.len = 0x7FFF))))
        else w.len ≤ 16384 || w.len = 0x7FFF)
    && (w.op ≠ 0x42 || w.dDst = 0) && (w.op ≠ 0x43 || w.dDst ≤ 1)
    && (w.aSrc ≠ 0 || !readsA w.op || w.aAddr < houseLines)
    && (w.bSrc ≠ 0 || vecBUse w.op = some .none_ || w.bAddr < houseLines)
    && (w.dDst = 1 || w.dAddr < houseLines)

/-- A tensor descriptor (Table 8.3), or a count-mode operand as one row (R159). -/
structure Desc where
  base : Nat
  fmt : Nat
  rank : Nat
  side : Bool
  kb0 : Nat
  rc0 : Nat
  e0 : Nat
  e1 : Nat
  e2 : Nat
  e3 : Nat
  p1 : Nat
  p2 : Nat
  p3 : Nat
  scaleBase : Nat
  lorigin : Nat
  l1 : Nat
  l2 : Nat
  l3 : Nat
  deriving DecidableEq, Repr

/-- The descriptor in a line's 64 bytes. -/
def descOf (bs : List Byte) : Desc :=
  let f := fieldAt bs
  { base := f 0 4, fmt := f 4 1, rank := f 5 1, side := bitOf (f 6 1) 0, kb0 := bitsOf (f 7 1) 0 3, rc0 := bitsOf (f 7 1) 3 3
    e0 := f 8 4, e1 := f 12 4, e2 := f 16 4, e3 := f 20 4, p1 := f 24 4, p2 := f 28 4, p3 := f 32 4, scaleBase := f 36 4
    lorigin := f 40 8, l1 := f 48 4, l2 := f 52 4, l3 := f 56 4 }

/-- Every descriptor field within its legal values (Table 8.3); `write` adds the pitch rule of R164 for rows of w bits. -/
def descLegal (bs : List Byte) (write : Bool) (w : Nat) : Bool :=
  let d := descOf bs
  d.base < houseLines && d.fmt < 64 && 1 ≤ d.rank && d.rank ≤ (if d.side then 2 else 4)
    && fieldAt bs 6 1 ≤ 1 && fieldAt bs 7 1 < 64
    && d.e0 ≤ 262144 && d.e1 ≤ 65536 && d.e2 ≤ 65536 && d.e3 ≤ 65536
    && (d.rank ≥ 2 || d.e1 = 1) && (d.rank ≥ 3 || d.e2 = 1) && (d.rank ≥ 4 || d.e3 = 1)
    && d.p1 < houseLines && d.p2 < houseLines && d.p3 < houseLines
    && (blockLen d.fmt = 0 || d.scaleBase < houseLines) && fieldAt bs 60 4 = 0
    && (!write || (rowLines d.e0 w ≤ d.p1 && (d.e2 ≤ 1 || d.e1 * d.p1 ≤ d.p2)
          && (d.e3 ≤ 1 || d.e2 * d.p2 ≤ d.p3)))

/-- Rows of a descriptor. -/
def Desc.rows (d : Desc) : Nat := d.e1 * d.e2 * d.e3

/-- The line of row r, counted with i1 fastest (R164). -/
def Desc.rowLine (d : Desc) (r : Nat) : Nat :=
  d.base + r % d.e1 * d.p1 + r / d.e1 % d.e2 * d.p2 + r / (d.e1 * d.e2) * d.p3

/-- The logical index of element i0 of row r (R165). -/
def Desc.logical (d : Desc) (r i0 : Nat) : Nat :=
  (d.lorigin + i0 + d.l1 * (r % d.e1) + d.l2 * (r / d.e1 % d.e2) + d.l3 * (r / (d.e1 * d.e2))) % 2 ^ 64

/-- The lines the elements cover, from the base line. -/
def Desc.lines (d : Desc) (w : Nat) : Nat :=
  (d.e1 - 1) * d.p1 + (d.e2 - 1) * d.p2 + (d.e3 - 1) * d.p3 + rowLines d.e0 w

/-- Rows and entries per row of the descriptor's scale tensor, for block length l (R165). -/
def Desc.scaleShape (d : Desc) (l : Nat) : Nat × Nat :=
  if d.side then (ceilDiv d.e1 l, d.e0) else (d.rows, ceilDiv d.e0 l)

/-- The line and byte offset of scale entry (row, column) from a base line, for rows of n entries (R128). -/
def scaleByte (base n row col : Nat) : Nat := 64 * (base + row * ceilDiv (2 * n) 64) + 2 * col

/-! ### Sampler words -/

/-- A sampler instruction word, field by field (Table 9.3). -/
structure SampWord where
  lAddr : Nat
  lFmt : Nat
  maskOn : Bool
  v : Nat
  topk : Nat
  mAddr : Nat
  rAddr : Nat
  temp : Word32
  topp : Word32
  drawIndex : Nat
  reserved : Bool
  deriving DecidableEq, Repr

/-- The fields of a sampler word (R199, Table 9.3). -/
def sampWordOf (v : Word256) : SampWord :=
  let f := fun (lo w : Nat) => bitsOf v.toNat lo w
  { lAddr := f 0 23, lFmt := f 23 6, maskOn := f 29 1 = 1, v := f 32 19, topk := f 51 7, mAddr := f 64 23, rAddr := f 87 23
    temp := BitVec.ofNat 32 (f 128 32), topp := BitVec.ofNat 32 (f 160 32), drawIndex := f 192 64
    reserved := f 30 2 ≠ 0 || f 58 6 ≠ 0 || f 110 18 ≠ 0 }

/-- Check 1 of R200. -/
def SampWord.legal (w : SampWord) : Bool :=
  w.lAddr < houseLines && (w.lFmt = 0x01 || w.lFmt = 0x02 || w.lFmt = 0x03) && !w.reserved && w.v ≤ 262144
    && 1 ≤ w.topk && w.topk ≤ 64 && (!w.maskOn || w.mAddr < houseLines) && w.rAddr < houseLines
    && (w.temp = 0 || inRange32 w.temp 0x3C800000 0x42800000)
    && (f32 0).lt (f32 w.topp) && (f32 w.topp).le (f32 0x3F800000)

/-- The word runs greedily: TEMP is +0. -/
def SampWord.greedy (w : SampWord) : Bool := w.temp = 0

end Sys2Proof.Machine
end

