-- ==== Sys2Proof/Machine/Units.lean ====
section
/-! DEFINITION. What arrays, vector engines and samplers share: held operands (R91), sealing (R93), the row-range scoreboard
(R221), queues, the expert run commands (R114, R187, R209), the widening ladder (R132 to R138) and known-answer tests. -/

namespace Sys2Proof.Machine

open Sys2Proof

/-! ### Operands -/

/-- The group whose buffers an owner's instructions may use. -/
def State.ownerGroup (s : State) : Owner → Nat
  | .run id => match aget s.inflight id with
    | some f => s.ringGroup f.ring
    | none => 0
  | .chain k => match aget s.samples k with
    | some m => match aget s.streams m.stream with
      | some st => st.group
      | none => 0
    | none => 0

/-- House lines [line, line + lines) lie within one buffer that group g holds. -/
def State.holds (s : State) (g line lines : Nat) : Bool :=
  match s.locate false (64 * line) with
  | some (p, k, o) => match s.bufAt p k with
    | some b => b.state == .held && b.group == g && o + 64 * lines ≤ s.poolBytes p
    | none => false
  | none => false

/-- An operand of rows lies within one buffer that group g holds: its extent is (rows − 1) × pitch plus a row (R91). -/
def State.holdsRows (s : State) (g : Nat) (o : Nat × Nat × Nat × Nat) : Bool :=
  s.holds g o.1 ((o.2.2.2 - 1) * o.2.1 + o.2.2.1)

/-- The House buffer that holds a line is sealed (R23). -/
def State.lineSealed (s : State) (line : Nat) : Bool :=
  match s.heldBuf (64 * line) with
  | some b => b.sealed
  | none => false

/-- The House buffer that holds a line becomes sealed (R76, R93). -/
def State.sealLine (s : State) (line : Nat) : State :=
  match s.locate false (64 * line) with
  | some (p, k, _) => s.modBuf p k fun b => { b with sealed := true }
  | none => s

/-- The owner registers once as a reader of the buffer that holds a line (R22). -/
def State.readerOf (s : State) (o : Owner) (line : Nat) : State :=
  match s.locate false (64 * line) with
  | some (p, k, _) => s.modBuf p k fun b =>
      if b.readers.contains (ownerId o) then b else { b with readers := ownerId o :: b.readers }
  | none => s

/-- The owner registers as the writer of the buffer that holds a line (R22). -/
def State.writerOf (s : State) (o : Owner) (line : Nat) : State := s.setWriter (64 * line) (ownerId o)

/-- No line of an extent waits for a rebuild, or fails its code for good: a reading unit uses no byte of such a line (R68, R70, R72). -/
def State.linesClean (s : State) (line lines : Nat) : Bool :=
  !(s.house.rebuilding.any fun e => line ≤ e.1 && e.1 < line + lines)
    && !((s.house.bad ++ s.house.poisonedLines).any fun l => line ≤ l && l < line + lines)

/-! ### The row-range scoreboard (R221) -/

/-- A row of the tile that has not been signalled lies in lines [line, line + lines). -/
def Tile.blocks (t : Tile) (line lines : Nat) : Bool :=
  overlap t.line ((t.rows - 1) * t.pitch + t.width) line lines
    && (upto t.rows).any fun r =>
      (t.withheld || t.watermark ≤ r) && overlap (t.line + r * t.pitch) t.width line lines

/-- Every row that lies in an operand has been signalled by every writer tile queued before `before` (R221, R222). -/
def State.rowsReady (s : State) (before : Option Nat) (o : Nat × Nat × Nat × Nat) : Bool :=
  s.scoreboard.all fun e =>
    (match before with
      | some t => t ≤ e.1
      | none => false)
    || e.2.rows = 0 || o.2.2.2 = 0
    || !overlap e.2.line ((e.2.rows - 1) * e.2.pitch + e.2.width) o.1 ((o.2.2.2 - 1) * o.2.1 + o.2.2.1)
    || (upto o.2.2.2).all fun r => !e.2.blocks (o.1 + r * o.2.1) o.2.2.1

/-- The next free scoreboard number: entries are numbered in queue order. -/
def State.nextTile (s : State) : Nat := 1 + (s.scoreboard.map (·.1)).foldl max 0

/-- A writer tile registered: its number and the state. -/
def State.addTile (s : State) (t : Tile) : Nat × State :=
  (s.nextTile, { s with scoreboard := s.scoreboard ++ [(s.nextTile, t)] })

/-- RANGE_SIGNAL (R221): the tile's rows are signalled; withheld ones are seen on release. -/
def State.signalTile (s : State) (t : Option Nat) : State :=
  match t with
  | some k => { s with scoreboard := amod s.scoreboard k fun e => { e with
      watermark := e.rows, signalledAt := s.time.elapsed } }
  | none => s

/-- A range of House bytes signalled complete (R22, R360): the writer tiles that lie in it are signalled. -/
def State.signalRange (s : State) (a n : Nat) : State :=
  (s.scoreboard.filter fun e => a ≤ 64 * e.2.line && 64 * (e.2.line + e.2.pitch * (e.2.rows - 1) + e.2.width) ≤ a + n).foldl
    (fun (t : State) e => t.signalTile (some e.1)) s

/-! ### Widening entries (R131) -/

/-- A widening entry (Table 6.8). -/
structure WidenEntry where
  clip : Bool
  flush : Bool
  clipShare : Nat
  flushShare : Nat
  deriving DecidableEq, Repr

/-- A widening entry's 8 bytes. -/
def widenEntryOf (v : Nat) : WidenEntry :=
  { clip := bitOf v 8, flush := bitOf v 9, clipShare := bitsOf v 16 16, flushShare := bitsOf v 32 8 }

/-- The widening entries of a cue script (Table 13.14): slot and entry. -/
def Script.widening (c : Script) : List (Nat × WidenEntry) :=
  let at_ := 64 + 16 * fieldAt c.bytes 8 4
  (upto (fieldAt c.bytes 12 4)).map fun i =>
    let v := fieldAt c.bytes (at_ + 8 * i) 8
    (v % 256, widenEntryOf v)

/-- The widening entry of a clip slot of a sample's chain, if the layer is watched: a script's at the expert level, else the
cast file's (R131, R138). -/
def State.watch (s : State) (k slot : Nat) : Option WidenEntry :=
  match aget s.samples k with
  | none => none
  | some m => match aget s.streams m.stream with
    | none => none
    | some st => match aget s.scripts st.script with
      | some c => aget c.widening slot
      | none => (Config.castWiden (s.castDigest m.stream) slot).map widenEntryOf

/-- The widening entry that an owner's slot has. -/
def State.ownerWatch (s : State) (o : Owner) (slot : Nat) : Option WidenEntry :=
  match o with
  | .chain k => s.watch k slot
  | .run _ => none

/-- A fired trigger is answered (R137, R138): one rung wider within the allowance and the reserve, or DEGRADED.  The answer is
true when a re-run starts.  `top` says that the run was at the last rung of Table 6.9. -/
def State.widen (s : State) (k slot : Nat) (top flush : Bool) : Bool × State :=
  match aget s.samples k with
  | none => (false, s)
  | some m =>
    let rung := agetD m.widenSlots slot 0 + 1
    let cost := Config.castRerun (s.castDigest m.stream) slot rung
    if top then (false, s.modSample k fun m => m.reach ⟨.degraded, 0x42 + 256 * slot⟩)
    else if m.widenLeft = 0 || cost > m.widenReserve then
      (false, s.modSample k fun m => m.reach ⟨.degraded, 0x41 + 256 * slot⟩)
    else
      let bit := fun (i : Nat) (now : Bool) => if bitOf m.widenDetail i || now then 2 ^ i else 0
      let detail := slot + bit 8 (!flush) + bit 9 flush + bit 11 (rung ≥ 2)
      (true, (s.trace 6 0 0 (slot + 16 * rung) m.stream).modSample k fun m => { m with
        widenLeft := m.widenLeft - 1, widenReserve := m.widenReserve - cost, widenCount := m.widenCount + 1
        widenDetail := detail, widenSlots := aset m.widenSlots slot rung })

/-- The withheld signals of a layer are released (R136). -/
def State.releaseLayer (s : State) (k slot : Nat) : State :=
  { s with scoreboard := s.scoreboard.map fun e =>
      if e.2.sample = k && e.2.slot = slot && e.2.withheld then
        (e.1, { e.2 with withheld := false, signalledAt := s.time.elapsed }) else e }

/-- The layer's signals are withheld now. -/
def State.layerWithheld (s : State) (k slot : Nat) : Bool :=
  s.scoreboard.any fun e => e.2.sample = k && e.2.slot = slot && e.2.withheld

/-- A clip slot of every array, and the flush slot of every vector engine with it, cleared (R112, R185). -/
def State.clearSlot (s : State) (slot : Nat) : State :=
  { s with
    arrays := s.arrays.map fun a => { a with
      clipSeen := modAt a.clipSeen slot Counter.clear, clipHit := modAt a.clipHit slot Counter.clear }
    vecs := s.vecs.map fun v => { v with flushBlocks := modAt v.flushBlocks slot Counter.clear } }

/-! ### Sample outcomes from instructions -/

/-- A sample's chain ends here with an outcome that a SAMPLE record tells (R130, R140, R327). -/
def State.endChain (s : State) (k : Nat) (o : Outcome) : State :=
  ((s.dropChain k).releaseSample k).modSample k fun m => m.finishWith o

/-- A scale retry draws its unit's time from the chain's reserve (R401). -/
def State.drawReserve (s : State) (o : Owner) (cost : Nat) : State :=
  match o with
  | .chain k => s.modSample k fun m => { m with reserveLeft := m.reserveLeft - cost }
  | .run _ => s

/-! ### Queues -/

/-- A job of the owner is queued or running somewhere. -/
def State.hasJobs (s : State) (o : Owner) : Bool :=
  s.arrays.any (fun a => a.parts.any fun q => q.queue.any fun j => j.owner = o)
  || s.vecs.any (fun v => v.parts.any fun q => q.queue.any fun j => j.owner = o)
  || s.samps.any (fun b => b.queue.any fun j => j.owner = o)

/-- The owner registers with the buffers that an instruction reads and writes. -/
def State.registerRows (s : State) (o : Owner) (reads writes : List (Nat × Nat × Nat × Nat)) : State :=
  let s := reads.foldl (fun (t : State) r => t.readerOf o r.1) s
  writes.foldl (fun (t : State) r => t.writerOf o r.1) s

/-- A tile for an instruction of a chain; a run registers none. -/
def State.tileFor (s : State) (o : Owner) (slot unit index : Nat) (withheld : Bool) (w : List (Nat × Nat × Nat × Nat)) :
    Option Nat × State :=
  match o with
  | .run _ => (none, s)
  | .chain k =>
    let r := w.headD (0, 0, 0, 0)
    let t : Tile := { line := r.1, pitch := r.2.1, width := r.2.2.1, rows := r.2.2.2, withheld := withheld, sample := k
                      slot := slot, unit := unit, index := index }
    let e := s.addTile t
    (some e.1, e.2)

/-- An array whose clock is gated is ungated in the cycle in which an instruction is queued (R97). -/
def ArrayBlk.ungate (a : ArrayBlk) (now : Nat) : ArrayBlk :=
  if a.gated then { a with gated := false, wakeAt := now + 27 } else a

/-- An array word queued on its part. -/
def State.queueArray (s : State) (a : Nat) (o : Owner) (word : Word256) : State :=
  let w := arrayWordOf word
  let s := s.registerRows o w.reads w.writes
  let t := s.tileFor o w.layer 0x01 (4 * a + w.part) ((s.ownerWatch o w.layer).isSome) w.writes
  let now := s.time.elapsed
  let j : ArrayJob := { word := word, owner := o, tile := t.1, queuedAt := now }
  t.2.modArray a fun b =>
    let b := b.ungate now
    { b with parts := modAt b.parts w.part fun q => { q with queue := q.queue ++ [j] } }

/-- Room for n more instructions on an array part or a vector part (R98, R154). -/
def roomFor (queued n : Nat) : Bool := queued + n ≤ 32

/-! ### Vector operands in the House -/

/-- The operand a descriptor or a count-mode line gives, with the registers S61 to S63 for the tag and index origins (R159,
R160, R163). -/
def State.vecDesc (s : State) (descriptor : Bool) (line fmt len : Nat) (s61 s62 s63 : Word32) : Desc :=
  if descriptor then descOf (s.readMem false (64 * line) 64)
  else
    let lines := rowLines len (widthOf fmt)
    { base := line, fmt := fmt, rank := 1, side := bitOf s61.toNat 6, kb0 := bitsOf s61.toNat 0 3
      rc0 := bitsOf s61.toNat 3 3, e0 := len, e1 := 1, e2 := 1, e3 := 1, p1 := lines, p2 := 0, p3 := 0
      scaleBase := line + lines, lorigin := s62.toNat + 2 ^ 32 * s63.toNat, l1 := 0, l2 := 0, l3 := 0 }

/-- The count-mode length: LEN, or S[SB] under 0x7FFF (R158). -/
def VecWord.count (w : VecWord) (sb : Word32) : Nat := if w.len = 0x7FFF then sb.toNat else w.len

/-- The line of the buffer that an operand of a vector word names, for registration: the data line of a descriptor. -/
def State.operandLine (s : State) (descriptor : Bool) (op line : Nat) : Nat :=
  if descriptor && !isVision op then fieldAt (s.readMem false (64 * line) 4) 0 4 % houseLines else line

/-- Lines named by the words 0x60 to 0x65 in their parameter line beside A, B and D: (reads, writes). -/
def State.visionLines (s : State) (w : VecWord) : List Nat × List Nat :=
  let f := fun (i : Nat) => fieldAt (s.readMem false (64 * w.bAddr) 64) i 4 % houseLines
  match w.op with
  | 0x60 => ([], if blockLen w.dFmt = 0 then [] else [f 44])
  | 0x65 => ([f 44], [])
  | 0x62 => ([f 40], [])
  | 0x64 => ([f 0, f 8], [f 4])
  | _ => ([], [])

/-- A vector word queued on part p of engine e. -/
def State.queueVec (s : State) (e p : Nat) (o : Owner) (descriptor : Bool) (vl : Nat) (word : BitVec 128) : State :=
  let w := vecWordOf word
  let line := s.operandLine descriptor w.op
  let more := s.visionLines w
  let reads := (if w.aSrc = 0 && readsA w.op then [line w.aAddr] else [])
    ++ (if w.bSrc = 0 && vecBUse w.op ≠ some .none_ then [line w.bAddr] else []) ++ more.1
  let writes := (if w.dDst ≠ 1 then [line w.dAddr] else []) ++ more.2
  let one := fun (l : Nat) => (l, 0, 1, 1)
  let s := s.registerRows o (reads.map one) (writes.map one)
  let d := if isVision w.op then { s.vecDesc false w.dAddr w.dFmt 0 0 0 0 with e1 := 0 }
    else s.vecDesc descriptor w.dAddr (if isCompare w.op then 0 else w.dFmt) w.len 0 0 0
  let width := if isCompare w.op then rowLines d.e0 1 else rowLines d.e0 (widthOf w.dFmt)
  let rows := if w.dDst = 1 then [] else [(d.base, d.p1, width, d.e1 * d.e2 * d.e3)]
  let t := s.tileFor o 16 0x02 (4 * e + p) false rows
  let j : VecJob := { word := word, owner := o, descriptor := descriptor, vl := vl, tile := t.1, queuedAt := s.time.elapsed }
  t.2.modVec e fun v => { v with parts := modAt v.parts p fun q => { q with
    queue := q.queue ++ [j], descriptor := descriptor, vl := vl } }

/-- A sampler word queued. -/
def State.queueSamp (s : State) (b : Nat) (o : Owner) (word : Word256) : State :=
  let w := sampWordOf word
  let reads := [w.lAddr] ++ (if w.maskOn then [w.mAddr] else [])
  let one := fun (l : Nat) => (l, 0, 1, 1)
  let s := s.registerRows o (reads.map one) [one w.rAddr]
  let t := s.tileFor o 16 0x04 b false [(w.rAddr, 1, 1, 1)]
  t.2.modSamp b fun x => { x with queue := x.queue ++ [{ word := word, owner := o, tile := t.1 }] }

/-- The deck of a chain (its stream's seed and number, R188) or of a run (its ring's, R195). -/
def State.ownerDeck (s : State) : Owner → Option Deck
  | .run id => match aget s.inflight id with
    | some f => match aget s.rings f.ring with
      | some r => r.deck
      | none => none
    | none => none
  | .chain k => match aget s.samples k with
    | some m => match aget s.streams m.stream with
      | some st => some { seed := st.seed, number := st.number }
      | none => none
    | none => none

/-- DECK_LOAD (R195): the owner's deck in slot j of bay b. -/
def State.loadDeck (s : State) (b j : Nat) (o : Owner) : State :=
  s.modSamp b fun x => { x with decks := x.decks.set j (s.ownerDeck o) }

/-! ### Expert runs -/

/-- The words from index i that one link group takes: up to one more than a well-formed group may have (R176). -/
def groupWords : Nat → List Nat → List Nat
  | 0, _ => []
  | _ + 1, [] => []
  | n + 1, w :: l =>
    if (vecWordOf (BitVec.ofNat 128 w)).dDst ≠ 0 then
      match l with
      | v :: _ => if (vecWordOf (BitVec.ofNat 128 v)).aSrc = 1 then w :: groupWords n l else [w]
      | [] => [w]
    else [w]

/-- A VEC_RUN can begin on an engine: nothing of it is queued and no other run holds its registers (R186). -/
def State.engineFree (s : State) (e : Nat) : Bool :=
  let v := s.vec e
  v.savedScalars.isEmpty && v.parts.all fun q => q.queue.isEmpty

/-- The next words of a run are queued (R114, R187, R209); a VEC_RUN begins with its ring's scalar image in the registers. -/
def State.feedRun (s : State) (id : Nat) (f : InFlight) : State :=
  match f.work with
  | .run r =>
    if !r.eligible || s.hasJobs (.run id) then s
    else match r.kind with
      | .array =>
        let w := r.words.getD r.index 0
        if roomFor (((s.array r.unit).parts.getD (bitsOf w 6 2) {}).queue.length) 1 then
          (s.setWork id (.run { r with active := true })).queueArray r.unit (.run id) (BitVec.ofNat 256 w)
        else s
      | .sampler =>
        if (s.samp r.unit).queue.length < 64 then
          ((s.setWork id (.run { r with active := true })).loadDeck r.unit 4 (.run id)).queueSamp r.unit (.run id)
            (BitVec.ofNat 256 (r.words.getD r.index 0))
        else s
      | .vector =>
        if !r.active && !s.engineFree r.unit then s
        else
          let image := match aget s.rings f.ring with
            | some g => g.scalars
            | none => []
          let s := if r.active then s else
            (s.modVec r.unit fun v => { v with savedScalars := v.scalars, scalars := image }).loadDeck r.unit r.part (.run id)
          let s := s.setWork id (.run { r with active := true })
          (groupWords 9 (r.words.drop r.index)).foldl (fun (t : State) w =>
            t.queueVec r.unit r.part (.run id) r.descriptor r.vl (BitVec.ofNat 128 w)) s
  | _ => s

/-- Every run that can go on goes on, in acceptance order. -/
def State.feedRuns (s : State) : State :=
  s.inflight.foldl (fun (t : State) e => match aget t.inflight e.1 with
    | some f => t.feedRun e.1 f
    | none => t) s

/-- A run ends (R114, R187, R209): a VEC_RUN's registers return to its ring's image and firmware's are restored. -/
def State.endRun (s : State) (id : Nat) (ring : Nat) (r : RunWork) (o : Outcome) : State :=
  let s := (s.dropJobs (.run id)).unregister (ownerId (.run id))
  let v := s.vec r.unit
  let s := if r.kind = .vector && r.active then
      (s.modRing ring fun g => { g with scalars := v.scalars }).modVec r.unit fun v => { v with
        scalars := v.savedScalars, savedScalars := [] }
    else s
  s.finish id o 0

/-- A word of an owner has completed with a status and its flags: a run goes on or ends; a chain ends on SCALE_MISMATCH
(R130). -/
def State.wordDone (s : State) (o : Owner) (st : Status) (flags : Nat) : State :=
  match o with
  | .chain k => if st = .scaleMismatch then s.endChain k ⟨.scaleMismatch, 0⟩ else s
  | .run id => match aget s.inflight id with
    | none => s
    | some f => match f.work with
      | .run r =>
        let all := r.flags ||| flags
        let bits := if r.kind = .vector then 4096 * all else 0
        if st = .done || st = .recomputed || st = .empty then
          let again := r.recomputed || st = .recomputed
          let r' := { r with index := r.index + 1, recomputed := again, flags := all }
          if r.index + 1 < r.words.length then s.setWork id (.run r')
          else s.endRun id f.ring r' ⟨if again then .recomputed else .done, bits⟩
        else s.endRun id f.ring r ⟨st, r.index + bits⟩
      | _ => s

/-- Words of n bytes each in a buffer of R86. -/
def State.wordsAt (s : State) (name count n : Nat) : List Nat :=
  (upto count).map fun i => leNat (s.readMem (bufDram name) (bufAddr name + n * i) n)

/-- COUNT is no count of words a run command may give (1 to 4,096). -/
def countFails (count : Nat) : Bool := count = 0 || count > 4096

/-- The WORDS buffer of a run is not a place in a pool, or has no room for a legal COUNT of words of the size. -/
def wordsFail (s : State) (name size count : Nat) : Bool :=
  match s.locate (bufDram name) (bufAddr name) with
  | some (p, _, o) => !countFails count && o + size * count > s.poolBytes p
  | none => true

/-- The WORDS buffer is held by the issuing ring's group. -/
def wordsOwned (s : State) (q name : Nat) : Bool :=
  match s.heldBuf name with
  | some b => b.group = s.ringGroup q
  | none => false

/-- The time of one cue, in tenths of a nanosecond, that no planned stream charges to one unit of a resource. -/
def State.unreserved (s : State) (r : Nat) : Nat :=
  let u := usableWindow s.cue.source s.cue.period
  let charged := sumNat (s.planned.map fun e => 10 * e.1.perCueAt s.cue.period * e.1.charge e.2 r)
  u * s.shares.of r / 1024 - ceilDiv charged (resourceUnits r)

/-- Nanoseconds of a count of 600 MHz cycles, rounded up. -/
def ns600 (c : Nat) : Nat := ceilDiv (5 * c) 3

/-- Nanoseconds of a count of 1.2 GHz cycles (CD08), rounded up. -/
def ns1200 (c : Nat) : Nat := ceilDiv (5 * c) 6

/-! ### Known-answer tests -/

/-- A test command's end (R114, R187, R264, R295, R396): DONE, or DEVICE_FAULT and FAULTED on a wrong answer. -/
def State.testDone (s : State) (id : Nat) (kind : TestKind) (ns : Nat) (wrong : Bool) (after : Nat → State → State) :
    State :=
  match aget s.inflight id with
  | some f => match f.work with
    | .test k unit node since =>
      if k ≠ kind || s.time.elapsed < since + ns then s
      else if wrong then s.enterFaulted clsSelfTest (node % 65536)
      else (after unit s).finish id ⟨.done, 0⟩ 0
    | _ => s
  | none => s

/-- The unit number and the index of the node a command's TARGET names. -/
def targetUnit (s : State) (p : Packet) : Nat :=
  match findNode s p.target.toNat with
  | some n => n.unit
  | none => 0

/-- A unit's repetition is recorded against its rate (R398): the times kept, and whether the rate is exceeded. -/
def recordRepeat (now : Nat) (times : List Nat) : List Nat × Bool := (withinSecond now times, overRate now times)

end Sys2Proof.Machine
end

