-- ==== Sys2Proof/Machine/Arrays.lean ====
section
/-! DEFINITION. Matrix arrays: checks, shadow loads, row entry, arithmetic, residue failures, scale retries, clip counts and
widening, split modes, and the class 0x06 commands (R88 to R114, R127 to R138). -/

namespace Sys2Proof.Machine

open Sys2Proof

/-! ### Arithmetic (R103 to R106) -/

/-- The factor 2^(code − 127) of an E8M0 scale code; 255 is NaN (R118). -/
def scaleFactor (code : Nat) : Num := elemValue 0x1F code

/-- The exact sum of values. -/
def sumNum (l : List Num) : Num := l.foldl Num.add .zero

/-- The infinities and NaNs among values, summed: finite when there are none (R105). -/
def specialOf (l : List Num) : Num := sumNum (l.filter fun x => !x.isFin)

/-- A running sum and, once a rounding step has overflowed from finite operands, the fixed result (R105). -/
structure Running where
  acc : Num
  fixed : Option Num := none

/-- One rounding step of the running sum. -/
def Running.step (r : Running) (f : Num → List Num) : Running :=
  match r.fixed with
  | some _ => r
  | none =>
    -- the steps in order; the last one is the new running sum
    (f r.acc).foldl (fun (q : Running) x => match q.fixed with
      | some _ => q
      | none =>
        let y := x.round32
        if y.2 then { q with fixed := some y.1 } else { q with acc := y.1 }) r

/-- The FP32 result of an element and whether it saturated: the initial value, then blocks of products with their scale
factors (R103, R105).  `wide` is the 16-bit class, where each product is added by itself. -/
def elementF32 (init : Num) (blocks : List (List Num × Num)) (wide : Bool) : Word32 × Bool :=
  let special := specialOf (init :: blocks.flatMap fun b => b.2 :: b.1)
  if !special.isFin then (special.toF32, false)
  else
    let r := blocks.foldl (fun (r : Running) b =>
      if wide then b.1.foldl (fun (r : Running) p => r.step fun acc => [acc.add p]) r
      else
        let sum := (sumNum b.1).round32
        let scaled := (sum.1.mul b.2).round32
        r.step fun acc => [sumNum b.1, sum.1.mul b.2, acc.add scaled.1]) { acc := init }
    match r.fixed with
    | some x => (x.toF32, true)
    | none => (r.acc.toF32, false)

/-- The INT32 result of an element and whether it saturated (R103, R104). -/
def elementI32 (init : Int) (products : List Int) : Word32 × Bool :=
  let t := products.foldl (· + ·) init
  let c := clampInt t (-(2 ^ 31)) (2 ^ 31 - 1)
  (BitVec.ofNat 32 (unsignedOf 32 c), c ≠ t)

/-- The accumulation block length of R103 (Table 5.1). -/
def accumulationLen (aFmt wFmt : Nat) : Nat :=
  if classOf aFmt = 4 then (if aFmt = 0x0C && wFmt = 0x0C then 32 else 16) else 32

/-- A list cut into pieces of l elements. -/
def chunks {α : Type} (l : Nat) (xs : List α) : List (List α) :=
  (upto (ceilDiv xs.length l)).map fun j => (xs.drop (j * l)).take l

/-- The result of row m and column n: activation codes, weight codes, their scale codes by own block, the initial word. -/
def ArrayWord.element (w : ArrayWord) (a b : List Nat) (sa sb : List Nat) (init : Word32) : Word32 × Bool :=
  if w.int32 then
    elementI32 (signedOf 32 init.toNat) ((a.zip b).map fun e => elemInt w.aFmt e.1 * elemInt w.wFmt e.2)
  else
    let products := (a.zip b).map fun e => (elemValue w.aFmt e.1).mul (elemValue w.wFmt e.2)
    let l := accumulationLen w.aFmt w.wFmt
    let one : Num := .fin false 1 0
    let factor := fun (scaled : Bool) (fmt : Nat) (codes : List Nat) (j : Nat) =>
      if scaled then scaleFactor (codes.getD (j * l / blockLen fmt) 127) else one
    let pieces := chunks l products
    let blocks := (pieces.zip (upto pieces.length)).map fun e =>
      (e.1, (factor w.aScaled w.aFmt sa e.2).mul (factor w.wScaled w.wFmt sb e.2))
    elementF32 (f32 init) blocks (classOf w.aFmt = 16)

/-- Element codes of a row at a line (R92, R120). -/
def State.rowCodes (s : State) (line fmt n : Nat) : List Nat :=
  let w := widthOf fmt
  let bytes := s.readMem false (64 * line) (ceilDiv (n * w) 8)
  (upto n).map fun i => elemAt bytes w i

/-- The initial word of element (m, n) (R103). -/
def State.initWord (s : State) (w : ArrayWord) (m n : Nat) : Word32 :=
  let at_ := fun (line : Nat) => BitVec.ofNat 32 (leNat (s.readMem false (64 * line + 4 * n) 4))
  match w.init with
  | 1 => at_ w.iAddr
  | 2 => at_ (w.iAddr + m * w.oPitch)
  | _ => 0

/-- The stationary block of a MATMUL read from memory: weight rows and weight scale entries (R92, R99, R128). -/
def State.readBlock (s : State) (w : ArrayWord) : Block :=
  let bits := widthOf w.wFmt
  let row := ceilDiv (w.n * bits) 8
  { wFmt := w.wFmt, k := w.k, n := w.n, scaled := w.wScaled
    rows := (upto w.k).flatMap fun k => s.readMem false (64 * (w.wAddr + k * w.wPitch)) row
    scales := if !w.wScaled then [] else (upto (ceilDiv w.k (blockLen w.wFmt))).flatMap fun j =>
      s.readMem false (scaleByte w.wsAddr w.n j 0) (2 * w.n) }

/-- All results of an instruction, row after row, with the number that saturated (R103 to R105, R110, R111). -/
def State.arrayResults (s : State) (w : ArrayWord) (block : Option Block) : List (Word32 × Bool) :=
  if w.k = 0 then
    (upto w.m).flatMap fun m => (upto w.n).map fun n => (s.initWord w m n, false)
  else match block with
    | none => []
    | some b =>
      let bits := widthOf w.wFmt
      let rowBytes := ceilDiv (w.n * bits) 8
      let rows := (upto w.k).map fun k =>
        let r := (b.rows.drop (k * rowBytes)).take rowBytes
        (upto w.n).map fun n => elemAt r bits n
      let nbA := ceilDiv w.k (blockLen w.aFmt)
      let nbW := ceilDiv w.k (blockLen w.wFmt)
      let cols := (upto w.n).map fun n =>
        (rows.map fun r => r.getD n 0, (upto nbW).map fun j => fieldAt b.scales (2 * (j * w.n + n)) 1)
      (upto w.m).flatMap fun m =>
        let a := s.rowCodes (w.aAddr + m * w.aPitch) w.aFmt w.k
        let sa := if w.aScaled then
            (upto nbA).map fun j => leNat (s.readMem false (scaleByte w.asAddr nbA m j) 1) else []
        (cols.zip (upto w.n)).map fun c => w.element a c.1.1 sa c.1.2 (s.initWord w m c.2)

/-! ### Scale tags (R99, R129) -/

/-- The entry at a byte of the House carries the tag. -/
def State.tagAt (s : State) (byte kb rc : Nat) (weight : Bool) : Bool :=
  scaleTagOk (leNat (s.readMem false byte 2)) kb rc weight

/-- Every activation scale entry carries its tag. -/
def State.actTagsOk (s : State) (w : ArrayWord) : Bool :=
  let nb := ceilDiv w.k (blockLen w.aFmt)
  !w.aScaled || w.k = 0 || (upto w.m).all fun m => (upto nb).all fun j =>
    s.tagAt (scaleByte w.asAddr nb m j) (w.kb0 + j) (w.aRow0 + m) false

/-- Every weight scale entry carries its tag. -/
def State.weightTagsOk (s : State) (w : ArrayWord) : Bool :=
  !w.wScaled || (upto (ceilDiv w.k (blockLen w.wFmt))).all fun j => (upto w.n).all fun n =>
    s.tagAt (scaleByte w.wsAddr w.n j n) (w.kb0 + j) (w.wCol0 + n) true

/-! ### Checks (Table 5.3) -/

/-- The block that a REUSE names is the active one (check 2). -/
def reuseOk (w : ArrayWord) (active : Option Block) : Bool :=
  match active with
  | some b => b.wFmt = w.wFmt && b.k = w.k && b.n = w.n && b.scaled = w.wScaled
  | none => false

/-- The first check of Table 5.3 that fails, on array a with a block active. -/
def State.arrayCheck (s : State) (a : Nat) (o : Owner) (w : ArrayWord) (active : Option Block) : Option Status :=
  let blk := s.array a
  if !w.legal then some .outOfRange
  else if w.split ≠ blk.split || (w.op = 2 && !reuseOk w active) || (w.toVector && (s.vec a).split ≠ blk.split) then
    some .wrongState
  else if w.m = 0 || w.n = 0 then some .empty
  else if !((w.reads ++ w.writes).all fun r => s.holdsRows (s.ownerGroup o) r) then some .outOfRange
  else none

/-! ### Queue positions -/

/-- A part of an array. -/
def State.arrayPart (s : State) (a p : Nat) : ArrayPart := (s.array a).parts.getD p {}

/-- A part of an array changed. -/
def State.modArrayPart (s : State) (a p : Nat) (f : ArrayPart → ArrayPart) : State :=
  s.modArray a fun b => { b with parts := modAt b.parts p f }

/-- The job's rows are streaming. -/
def ArrayJob.streaming (j : ArrayJob) : Bool :=
  match j.phase with
  | .streaming _ => true
  | .queued | .loading _ _ => false

/-- The number of jobs at the head of a queue whose rows have entered. -/
def enteredCount (q : List ArrayJob) : Nat := (q.takeWhile ArrayJob.streaming).length

/-- The queue position of the next MATMUL whose load has not begun, with every earlier MATMUL's row 0 entered (R96). -/
def nextLoad (q : List ArrayJob) : Option Nat :=
  let i := (q.takeWhile fun j => j.streaming || !(arrayWordOf j.word).loads).length
  match q[i]? with
  | some j => if j.phase = .queued then some i else none
  | none => none

/-- Job i of a part changed. -/
def State.modArrayJob (s : State) (a p i : Nat) (f : ArrayJob → ArrayJob) : State :=
  s.modArrayPart a p fun q => { q with queue := modAt q.queue i f }

/-- The vector part of the same number can take rows: it has issued an instruction with A_SRC 2 and holds none (R177). -/
def State.canDeliver (s : State) (a p : Nat) : Bool :=
  let v := (s.vec a).parts.getD p {}
  match v.queue with
  | j :: _ => j.phase == .issued && (vecWordOf j.word).aSrc == 2 && v.delivered.isNone
  | [] => false

/-- Array cycles per row: 1, or the pace of the link group a delivery feeds (R177). -/
def State.pace (s : State) (a p : Nat) (w : ArrayWord) : Nat :=
  if !w.toVector then 1
  else match ((s.vec a).parts.getD p {}).queue with
    | [] => 1
    | j :: l =>
      let stages := 1 + (l.takeWhile fun x => (vecWordOf x.word).aSrc = 1).length
      max 1 (stages * ceilDiv w.n j.vl)

/-! ### Shadow loads (R96, R99) -/

/-- SHADOW_LOAD_START: the part begins to write the next MATMUL's block. -/
def State.shadowLoad (s : State) (a p : Nat) : State :=
  let part := s.arrayPart a p
  match nextLoad part.queue with
  | none => s
  | some i => match part.queue[i]? with
    | none => s
    | some j =>
      let w := arrayWordOf j.word
      let free := match part.swapAt with
        | some t => t + ns600 (partWidth (s.array a).split + 1)
        | none => 0
      let now := s.time.elapsed
      let wRows := (w.reads.drop 1).take 1
      if (s.arrayCheck a j.owner w none).isSome || now < free || now < (s.array a).splitAt
          || !(wRows.all fun r => s.rowsReady j.tile r && s.linesClean r.1 ((r.2.2.2 - 1) * r.2.1 + r.2.2.1))
          || !s.weightTagsOk w then s
      else
        let s := s.modArrayJob a p i fun j => { j with phase := .loading now (i = 0), block := some (s.readBlock w) }
        s.modArrayPart a p fun q => { q with shadow := some (s.readBlock w) }

/-! ### Completion -/

/-- The idle time of an array begins when its last instruction has left (R97). -/
def ArrayBlk.settle (a : ArrayBlk) (now : Nat) : ArrayBlk :=
  if a.parts.all fun q => q.queue.isEmpty then { a with idleSince := now } else a

/-- Job i of a part has completed with a status. -/
def State.finishArray (s : State) (a p i : Nat) (j : ArrayJob) (st : Status) : State :=
  let now := s.time.elapsed
  let s := s.modArrayPart a p fun q => { q with queue := q.queue.eraseIdx i, last := st }
  let s := s.modArray a fun b => ({ b with instructions := b.instructions.inc }).settle now
  (s.wordDone j.owner st 0).feedRuns

/-- The clip counts of a slot over every array (R132): seen and hit. -/
def State.clipCounts (s : State) (slot : Nat) : Nat × Nat :=
  (sumNat (s.arrays.map fun a => (a.clipSeen.getD slot {}).val), sumNat (s.arrays.map fun a => (a.clipHit.getD slot {}).val))

/-- An instruction of a chain's layer is still queued on some array. -/
def State.layerQueued (s : State) (o : Owner) (slot : Nat) : Bool :=
  s.arrays.any fun a => a.parts.any fun q => q.queue.any fun j => j.owner = o && (arrayWordOf j.word).layer = slot

/-- WIDENING_TRIGGER (R132, R136, R137): after the last instruction of a watched layer's run the clip trigger is evaluated;
the withheld signals are released, or a re-run starts. -/
def State.clipTrigger (s : State) (o : Owner) (slot aFmt : Nat) : State :=
  match o with
  | .run _ => s
  | .chain k => match s.watch k slot with
    | none => s
    | some e =>
      if s.layerQueued o slot then s
      else
        let c := s.clipCounts slot
        if e.clip && c.2 * 65536 > e.clipShare * c.1 then
          let r := s.widen k slot (aFmt = 0x03) false
          if r.1 then r.2.clearSlot slot else r.2.releaseLayer k slot
        else s.releaseLayer k slot

/-- Rows of 4-byte results written from a line with a pitch. -/
def State.writeResultRows (s : State) (line pitch : Nat) (rows : List (List Word32)) : State :=
  (rows.zip (upto rows.length)).foldl (fun (t : State) r =>
    t.writeMem false (64 * (line + r.2 * pitch)) (r.1.flatMap fun v => leBytes 4 v.toNat)) s

/-- The results of an instruction are written, delivered and sealed, and its clip codes counted (R93, R110, R112, R177). -/
def State.arrayEffect (s : State) (a p : Nat) (j : ArrayJob) : State :=
  let w := arrayWordOf j.word
  let res := s.arrayResults w j.block
  let sat := (res.filter (·.2)).length
  let rows := chunks w.n (res.map (·.1))
  let sealed := (w.k ≠ 0 && s.lineSealed w.aAddr) || (w.loads && s.lineSealed w.wAddr)
  let hits := if w.k = 0 then 0 else sumNat ((upto w.m).map fun m =>
    ((s.rowCodes (w.aAddr + m * w.aPitch) w.aFmt w.k).filter fun c => isClip w.aFmt c).length)
  let s := s.modArray a fun b => { b with
    saturated := b.saturated.add 32 sat
    clipSeen := modAt b.clipSeen w.layer (Counter.add 32 (w.m * w.k))
    clipHit := modAt b.clipHit w.layer (Counter.add 32 hits) }
  let s := if !w.toHouse then s else
    let s := s.writeResultRows w.oAddr w.oPitch rows
    if sealed then s.sealLine w.oAddr else s
  if !w.toVector then s else
    let link : LinkData :=
      { values := res.map (·.1), e0 := w.n, e1 := w.m, e2 := 1, e3 := 1, lorigin := 0, l1 := w.n, l2 := 0, l3 := 0
        isInt := w.int32, sealed := sealed
        layer := if (s.ownerWatch j.owner w.layer).isSome then some w.layer else none }
    s.modVec a fun v => { v with parts := modAt v.parts p fun q => { q with delivered := some link } }

/-- The operands of an instruction that waits for no line rebuild. -/
def State.operandsClean (s : State) (w : ArrayWord) : Bool :=
  w.reads.all fun r => s.linesClean r.1 ((r.2.2.2 - 1) * r.2.1 + r.2.2.1)

/-- ARRAY_INSTRUCTION_COMPLETE (R95): the head instruction's last row is complete. -/
def State.arrayComplete (s : State) (a p : Nat) : State :=
  match (s.arrayPart a p).queue with
  | [] => s
  | j :: _ =>
    let w := arrayWordOf j.word
    if !j.streaming || s.time.elapsed < j.doneAt || (w.toVector && !s.canDeliver a p) || !s.operandsClean w then s
    else
      let s := s.arrayEffect a p j
      let s := s.signalTile j.tile
      let s := s.modArray a fun b => { b with
        recomputed := if j.repeated || j.restarted then b.recomputed.inc else b.recomputed
        scaleRetries := if j.scaleRetry then b.scaleRetries.inc else b.scaleRetries }
      let s := s.finishArray a p 0 j (if j.repeated || j.restarted then .recomputed else .done)
      s.clipTrigger j.owner w.layer w.aFmt

/-! ### Row entry (R94, R95, R97, R111) -/

/-- The time at which the shadow-load conditions of R97 hold for a job, if they will. -/
def loadedAt (j : ArrayJob) : Option Nat :=
  if !(arrayWordOf j.word).loads then some 0
  else match j.phase with
    | .loading t idle => some (if idle then t + ns600 512 else t)
    | .queued | .streaming _ => none

/-- Row 0 of job i enters: the block is swapped, rows and waits are counted. -/
def State.enterRow0 (s : State) (a p i : Nat) (j : ArrayJob) (ready : Nat) : State :=
  let w := arrayWordOf j.word
  let part := s.arrayPart a p
  let now := s.time.elapsed
  let from_ := max part.lastRowAt j.queuedAt
  let gap := 3 * (now - from_) / 5
  let bubble := min gap (3 * (ready - from_) / 5)
  let pace := s.pace a p w
  let last := now + ns600 (w.m * pace)
  let drain := if w.k = 0 then 8 else partWidth (s.array a).split + 519
  let block := if w.loads then j.block else part.active
  let s := s.modArray a fun b => { b with
    rows := b.rows.add 32 (if w.k = 0 then 0 else w.m)
    bubble := b.bubble.add 32 bubble
    wait := b.wait.add 32 (gap - bubble + w.m * (pace - 1)) }
  let s := s.modArrayPart a p fun q => { q with
    active := if w.loads then j.block else q.active
    shadow := if w.loads then none else q.shadow
    swapAt := if w.loads then some now else q.swapAt
    lastRowAt := last }
  s.modArrayJob a p i fun j => { j with
    phase := .streaming now, block := block, doneAt := now + ns600 (w.m * pace + drain) }

/-- ARRAY_ROW0_ENTRY (R97): the next instruction of a part enters when its conditions hold; one that fails a check, or has an
empty extent, completes when it is at the head (R91, R98). -/
def State.row0Entry (s : State) (a p : Nat) : State :=
  let part := s.arrayPart a p
  let i := enteredCount part.queue
  match part.queue[i]? with
  | none => s
  | some j =>
    let w := arrayWordOf j.word
    let now := s.time.elapsed
    let blk := s.array a
    match s.arrayCheck a j.owner w part.active with
    | some st => if i = 0 then (s.signalTile j.tile).finishArray a p 0 j st else s
    | none => match loadedAt j with
      | none => s
      | some ready =>
        let aRows := if w.k = 0 then [] else w.reads.take 1
        if now < ready || now < part.lastRowAt || now < blk.wakeAt || now < blk.splitAt
            || !(aRows.all fun r => s.rowsReady j.tile r) || !s.operandsClean w || !s.actTagsOk w then s
        else s.enterRow0 a p i j ready

/-! ### Failures -/

/-- The bound of R109 in nanoseconds for an instruction of M rows in a part of width W. -/
def arrayRepeatCost (m split : Nat) : Nat := ns600 (m + partWidth split + 1543)

/-- An array part's instruction is repeated (R108): its block is reloaded and its rows stream again; the instructions behind it
load and enter again. -/
def State.repeatArray (s : State) (a p : Nat) : State :=
  let now := s.time.elapsed
  let split := (s.array a).split
  let restart := now + ns600 512
  s.modArrayPart a p fun q => match q.queue with
    | [] => q
    | j :: l =>
      let w := arrayWordOf j.word
      let j' := { j with
        phase := .streaming restart, repeated := true
        doneAt := restart + ns600 (w.m + if w.k = 0 then 8 else partWidth split + 519) }
      { q with
        queue := j' :: l.map fun x => { x with phase := .queued }
        active := if w.loads then j.block else q.active
        shadow := none, swapAt := some restart, lastRowAt := restart + ns600 w.m }

/-- ARRAY_RESIDUE_FAILURE (R101, R108, R398): the running instruction of a part is repeated; a second failure in the repetition,
or the rate of R398, is a persistent fault. -/
def State.residueFailure (s : State) (a p column row : Nat) : State :=
  let part := s.arrayPart a p
  match part.queue with
  | [] => s
  | j :: _ =>
    if !j.streaming then s
    else
      let w := arrayWordOf j.word
      let s := s.modArray a fun b => { b with
        residueErrors := b.residueErrors.inc, errorPart := p, errorColumn := column % 512, errorRow := row % 2 ^ 17 }
      let r := recordRepeat s.ms part.repeats
      if j.repeated || r.2 then s.enterFaulted clsArray (4 * a + p)
      else
        let s := s.modArrayPart a p fun q => { q with repeats := r.1 }
        (s.repeatArray a p).repeatUnit j.owner 0x01 (arrayRepeatCost w.m (s.array a).split) clsArray (4 * a + p)

/-- SCALE_TAG_MISMATCH on an array part (R99): the instruction about to enter is run once more from its first entries; a second
mismatch completes SCALE_MISMATCH with no result written. -/
def State.arrayScaleMismatch (s : State) (a p : Nat) : State :=
  let part := s.arrayPart a p
  let i := enteredCount part.queue
  match part.queue[i]? with
  | none => s
  | some j =>
    let w := arrayWordOf j.word
    if !(w.aScaled || (w.wScaled && w.loads)) || (s.arrayCheck a j.owner w part.active).isSome then s
    else if !j.scaleRetry then
      let s := s.modArrayJob a p i fun j => { j with phase := .queued, scaleRetry := true }
      let s := s.modArrayPart a p fun q => { q with shadow := none }
      (s.trace 5 clsArray (4 * a + p) w.layer s.cueNow).drawReserve j.owner (arrayRepeatCost w.m (s.array a).split)
    else if i ≠ 0 then s
    else
      let s := s.trace 5 clsArray (4 * a + p) (w.layer + 16) s.cueNow
      (s.modArray a fun b => { b with scaleMismatch := b.scaleMismatch.inc }).finishArray a p 0 j .scaleMismatch

/-! ### Modes, clocks and tests -/

/-- Every part of an array is idle. -/
def ArrayBlk.idle (a : ArrayBlk) : Bool := a.parts.all fun q => q.queue.isEmpty

/-- No block is active or shadowed in any part (R98). -/
def ArrayBlk.clearBlocks (a : ArrayBlk) : ArrayBlk :=
  { a with parts := a.parts.map fun q => { q with active := none, shadow := none, swapAt := none } }

/-- The split mode of an array is set (R98, R102): 64 cycles, and every block is cleared. -/
def ArrayBlk.setSplit (a : ArrayBlk) (mode now : Nat) : ArrayBlk :=
  { (a.clearBlocks) with split := mode, splitAt := now + ns600 64 }

/-- SPLIT_MODE_CHANGE (R102). -/
def State.arraySplitChange (s : State) (a mode : Nat) : State :=
  let b := s.array a
  let allowed : Bool := match b.fixed with
    | some m => m == mode
    | none => true
  if mode > 2 || !b.idle || !allowed then s else s.modArray a fun b => b.setSplit mode s.time.elapsed

/-- What ARRAY_SPLIT staged takes effect at a cue edge (R114). -/
def ArrayBlk.applyFix (a : ArrayBlk) (now : Nat) : ArrayBlk :=
  match a.stagedFix with
  | none => a
  | some 3 => { a with fixed := none, stagedFix := none }
  | some m =>
    let a := { a with fixed := some m, stagedFix := none }
    if a.split ≠ m && a.idle then a.setSplit m now else a

/-- ARRAY_CLOCK_GATE (R97): gated at the end of the 1,024th idle cycle. -/
def State.gateArray (s : State) (a : Nat) : State :=
  let b := s.array a
  if b.idle && b.idleSince + ns600 1024 ≤ s.time.elapsed then s.modArray a fun b => { b with gated := true } else s

/-! ### Commands (Table 5.11) -/

/-- A split-mode command's answer in SERVICE when an admitted stream's template plan uses the unit in another mode: which
plans do so is firmware's packing (log entry 10). -/
def State.planUsesOther (s : State) (unit : Nat) : Bool × State :=
  if s.host.state = .service && s.streams.any (fun e => e.2.inPlan && e.2.cast ≠ 0) then
    let d := s.draw
    (Config.planConflict d.1 unit, d.2)
  else (false, s)

/-- ARRAY_SPLIT. -/
def arraySplitCmd : Cmd where
  opcode := 0x0601
  admin := true
  target := .kind .array
  named := [(0, 1)]
  fails := fun _ p => [(0, p.u8 0 > 3)]
  body := fun s p =>
    let a := targetUnit s p
    let r := if p.u8 0 = 3 then (false, s) else s.planUsesOther a
    if r.1 then .refuse .wrongState r.2 else .ok (r.2.modArray a fun b => { b with stagedFix := some (p.u8 0) })

/-- The cost bound of array words in nanoseconds (R95, R97, R109, R114): each word by itself, the 16 ungating cycles, and the
reserve of the largest. -/
def arrayRunCost (words : List Nat) : Nat :=
  let ws := words.map fun v => arrayWordOf (BitVec.ofNat 256 v)
  let cost := fun (w : ArrayWord) =>
    if w.k = 0 then w.m + 9 else w.m + partWidth w.split + 520 + (if w.loads then 512 else 0)
  ns600 (16 + sumNat (ws.map cost) + (ws.map fun w => w.m + partWidth w.split + 1543).foldl max 0)

/-- ARRAY_RUN. -/
def arrayRunCmd : Cmd where
  opcode := 0x0602
  target := .kind .array
  named := [(0, 10)]
  fails := fun s p =>
    [(0, wordsFail s (p.u64 0) 32 (p.u16 8)), (8, countFails (p.u16 8))]
  owned := fun s p => wordsOwned s p.ring (p.u64 0)
  body := fun s p =>
    let words := s.wordsAt (p.u64 0) (p.u16 8) 32
    if 10 * arrayRunCost words > s.unreserved 1 then .refuse .notAdmitted s
    else
      .wait (.run { kind := .array, unit := targetUnit s p, words := words })
        (s.addReader (p.u64 0) (ownerId (.run s.nextId)))

/-- ARRAY_TEST. -/
def arrayTestCmd : Cmd where
  opcode := 0x0603
  admin := true
  states := [.standby]
  target := .kind .array
  body := fun s p => .wait (.test .array (targetUnit s p) (p.target.toNat % 2 ^ 28) s.time.elapsed) s

/-- ARRAY_SPLIT. -/
def execArraySplit (dt : Nat) (p : Packet) (s : State) : Host.Outcome State Fault Refusal :=
  .next ((s.advance dt).accept arraySplitCmd p)

/-- ARRAY_RUN. -/
def execArrayRun (dt : Nat) (p : Packet) (s : State) : Host.Outcome State Fault Refusal :=
  .next ((s.advance dt).accept arrayRunCmd p)

/-- ARRAY_TEST. -/
def execArrayTest (dt : Nat) (p : Packet) (s : State) : Host.Outcome State Fault Refusal :=
  .next ((s.advance dt).accept arrayTestCmd p)

/-- ARRAY_TEST_COMPLETE: after 3.2 ms; no block is active or shadowed afterwards (R98). -/
def execArrayTestComplete (dt id : Nat) (wrong : Bool) (s : State) : Host.Outcome State Fault Refusal :=
  .next ((s.advance dt).testDone id .array 3200000 wrong fun a t => t.modArray a ArrayBlk.clearBlocks)

/-- SHADOW_LOAD_START. -/
def execShadowLoadStart (dt array part : Nat) (s : State) : Host.Outcome State Fault Refusal :=
  let s := s.advance dt
  .next (if s.computing then s.shadowLoad array part else s)

/-- ARRAY_ROW0_ENTRY. -/
def execArrayRow0Entry (dt array part : Nat) (s : State) : Host.Outcome State Fault Refusal :=
  let s := s.advance dt
  .next (if s.computing then s.row0Entry array part else s)

/-- ARRAY_INSTRUCTION_COMPLETE. -/
def execArrayInstructionComplete (dt array part : Nat) (s : State) : Host.Outcome State Fault Refusal :=
  let s := s.advance dt
  .next (if s.computing then s.arrayComplete array part else s)

/-- ARRAY_RESIDUE_FAILURE. -/
def execArrayResidueFailure (dt array part column row : Nat) (s : State) : Host.Outcome State Fault Refusal :=
  let s := s.advance dt
  .next (if s.computing then s.residueFailure array part column row else s)

/-- ARRAY_CLOCK_GATE. -/
def execArrayClockGate (dt array : Nat) (s : State) : Host.Outcome State Fault Refusal :=
  let s := s.advance dt
  .next (if s.computing then s.gateArray array else s)

/-- SPLIT_MODE_CHANGE. -/
def execSplitModeChange (dt array mode : Nat) (s : State) : Host.Outcome State Fault Refusal :=
  let s := s.advance dt
  .next (if s.computing then s.arraySplitChange array mode else s)

end Sys2Proof.Machine
end

