-- ==== Sys2Proof/Machine/Links.lean ====
section
/-! DEFINITION. The Euwald link layer: reliable delivery (R354), retraining (R355), the 156.25 MHz reference (R444), and the hand-off of
blocks with their retained copies (R360, R362). -/

namespace Sys2Proof.Machine

open Sys2Proof

/-- A port changes state; the change is traced (Table 19.2). -/
def State.portMoves (s : State) (n : Nat) (goal : PortState) : State :=
  if (s.ewPort n).state = goal then s
  else (s.modEw n fun p => { p with state := goal, stallSince := none }).trace 9 0 0 (n + 16 * goal.code) 0

/-- The port goes DOWN, and retries a full training 100 ms later (R355). -/
def State.portDown (s : State) (n : Nat) : State :=
  (s.portMoves n .down).modEw n fun p => { p with downSince := s.time.elapsed, good := 0 }

/-- The port retrains from its saved equalisation (R355). -/
def State.portRetrains (s : State) (n : Nat) : State :=
  (s.portMoves n .retraining).modEw n fun p => { p with retrains := p.retrains.inc }

/-- Every unacknowledged flit is sent again (R354): counted, and one more replay of the oldest. -/
def EwPort.replayAll (p : EwPort) (now : Nat) : EwPort :=
  { p with
    replay := p.replay.map fun e => (e.1, now), replays := p.replays.add 32 p.replay.length, replayCount := p.replayCount + 1 }

/-- A replay on a port, a repetition of unit LINK_REPLAY; the eighth of one flit makes the port retrain (R355). -/
def State.replay (s : State) (n : Nat) : State :=
  if (s.ewPort n).replay.isEmpty then s
  else
    let s := (s.modEw n fun p => p.replayAll s.time.elapsed).trace 4 0 n 0x0D s.cueNow
    if 8 ≤ (s.ewPort n).replayCount then s.portRetrains n else s

/-- Flits up to SEQ `ack` leave the replay buffer (R354); an ACK of a flit not in it changes nothing. -/
def EwPort.acked (p : EwPort) (ack : Nat) : EwPort :=
  match p.replay.findIdx? fun e => e.1 = ack with
  | some i => { p with replay := p.replay.drop (i + 1), replayCount := 0, nakFor := none }
  | none => p

/-- The receiver takes a good flit (R354): DATA only in SEQ order; a gap sets NAK; one already taken is discarded. -/
def EwPort.take (p : EwPort) (f : Flit) : EwPort :=
  if !f.data then p
  else if f.seq = p.expectSeq then
    { p with
      expectSeq := (p.expectSeq + 1) % 4096, lastGood := f.seq, nak := false, flitsReceived := p.flitsReceived.inc
      freed := modAt p.freed f.channel fun x => (x + 1) % 2 ^ 32 }
  else if (f.seq + 4096 - p.expectSeq) % 4096 < 2048 then { p with nak := true }
  else p

/-- EWL_FLIT_RECEIVED (R350, R352, R354, R356): a DATA or IDLE flit as it leaves the FEC decoder. -/
def State.flitReceived (s : State) (n : Nat) (f : Flit) : State :=
  if (s.ewPort n).state ≠ .up then s
  else
    let now := s.time.elapsed
    let s := s.modEw n fun p => { p with
      fecCorrected := p.fecCorrected.add 32 f.corrected
      fecUncorrectable := if f.uncorrectable then p.fecUncorrectable.inc else p.fecUncorrectable }
    if f.uncorrectable || !f.crcOk then s.modEw n fun p => { p with crcErrors := p.crcErrors.inc, nak := true }
    else
      let s := s.modEw n fun p =>
        let p := (p.acked f.ack).take f
        { p with lastValid := now, peerFreed := f.credits }
      -- a NAK is answered once for the ACK it carries; a further replay of the same flits comes with the 2 µs
      let s := if f.nak && (s.ewPort n).nakFor ≠ some f.ack then
          (s.modEw n fun p => { p with nakFor := some f.ack }).replay n
        else s
      s.modEw n fun p => p.run now

/-- EWL_REPLAY_TIMEOUT (R354): the oldest unacknowledged flit has waited 2 µs. -/
def State.replayTimeout (s : State) (n : Nat) : State :=
  let p := s.ewPort n
  match p.replay with
  | [] => s
  | e :: _ => if p.state = .up && e.2 + 2000 ≤ s.time.elapsed then s.replay n else s

/-- EWL_NO_FLIT_TIMEOUT (R355): no valid flit has arrived for 2 µs. -/
def State.flitSilence (s : State) (n : Nat) : State :=
  if (s.ewPort n).state = .up && (s.ewPort n).lastValid + 2000 ≤ s.time.elapsed then s.portRetrains n else s

/-- EWL_LANE_LOCK_LOSS (R355). -/
def State.laneLost (s : State) (n : Nat) : State := if (s.ewPort n).state = .up then s.portRetrains n else s

/-- EWL_RETRAIN_COMPLETE (R355): unacknowledged flits are replayed and credits carry over, or the port is DOWN. -/
def State.retrained (s : State) (n : Nat) (ok : Bool) : State :=
  if (s.ewPort n).state ≠ .retraining then s
  else if !ok then s.portDown n
  else
    let now := s.time.elapsed
    let s := s.portMoves n .up
    let s := s.modEw n fun p => { p with lastValid := now, replayCount := 0, nakFor := none }
    let s := if (s.ewPort n).replay.isEmpty then s else s.modEw n fun p => p.replayAll now
    s.modEw n fun p => p.run now

/-- EWL_TRAINING_RETRY (R355): a DOWN port trains again after 100 ms.  The retry resumes only once the 156.25 MHz reference has
returned (R444), so it ends that reference's absence. -/
def State.trainingRetry (s : State) (n : Nat) : State :=
  if (s.ewPort n).state ≠ .down || s.time.elapsed < (s.ewPort n).downSince + 100000000 then s
  else
    let a := s.pwr.absent
    ({ s with pwr := { s.pwr with absent := a % 2 + a / 4 * 4 } }).portMoves n .training

/-- A port is enabled: it begins to train. -/
def State.enablePort (s : State) (n : Nat) : State :=
  if (s.ewPort n).state = .disabled then s.portMoves n .training else s

/-- The ports of a PORTS mask enabled (R366). -/
def State.enablePorts (s : State) (mask : Nat) : State :=
  ((upto 8).filter fun n => bitOf mask n).foldl (fun (t : State) n => t.enablePort n) s

/-- EW_REFCLK_LOSS (R444): every enabled port goes DOWN. -/
def State.ewLost (s : State) : State :=
  let a := s.pwr.absent
  let s := { s with pwr := { s.pwr with absent := a % 2 + 2 + a / 4 * 4 } }
  ((upto 8).filter fun n => (s.ewPort n).state ≠ .disabled).foldl (fun (t : State) n => t.portDown n) s

/-! ### Hand-off of blocks -/

/-- A retained block is sent (R360, R362): its data come from the retained copy. -/
def State.sendRetained (s : State) (r : Retained) (port : Option Nat) (dst address : Nat) : State :=
  let bytes := s.readMem true (bufAddr r.copy) r.length
  match port with
  | some p => s.putMessage p (s.header 0x01 dst address r.chain r.index r.length r.sealed) bytes
  | none => s

/-- One block of a House extent handed off (R360, R362): its retained copy is written to a DRAM buffer while it is read. -/
def State.handOff (s : State) (k dst chain index line bytes address : Nat) : State :=
  match aget s.samples k with
  | none => s
  | some m =>
    let sealed := s.lineSealed line
    match s.alloc (s.ownerGroup (.chain k)) true bytes none sealed with
    | .none_ _ t => t
    | .got a _ t =>
      let t := t.writeMem true a (t.readMem false (64 * line) bytes)
      let r : Retained := {
        chain := chain, index := index, address := address, length := bytes, dst := dst, sentAt := t.time.elapsed
        acked := false, cue := m.assigned, copy := bufName true a, sealed := sealed, line := line
        sample := some k }
      let t := { t with ewl := { t.ewl with
        retained := t.ewl.retained ++ [r], handoffSent := t.ewl.handoffSent.inc } }
      t.sendRetained r (t.blockPort dst index) dst address

/-- The hand-off slot of a chain: the extent goes in blocks of at most 65,536 bytes to consecutive addresses (R152, R360). -/
def State.slotHandoff (s : State) (k dst chain first line bytes address : Nat) : State :=
  if !s.otherMembers.contains dst then s
  else (upto (ceilDiv bytes 65536)).foldl (fun (t : State) i =>
    t.handOff k dst chain (first + i) (line + 1024 * i) (min 65536 (bytes - 65536 * i)) (address + 65536 * i)) s

/-! ### The commands -/

/-- EWL_FLIT_RECEIVED. -/
def execEwlFlitReceived (dt port : Nat) (flit : Flit) (s : State) : Host.Outcome State Fault Refusal :=
  .next ((s.advance dt).flitReceived port flit)

/-- EWL_REPLAY_TIMEOUT. -/
def execEwlReplayTimeout (dt port : Nat) (s : State) : Host.Outcome State Fault Refusal :=
  .next ((s.advance dt).replayTimeout port)

/-- EWL_NO_FLIT_TIMEOUT. -/
def execEwlNoFlitTimeout (dt port : Nat) (s : State) : Host.Outcome State Fault Refusal :=
  .next ((s.advance dt).flitSilence port)

/-- EWL_LANE_LOCK_LOSS. -/
def execEwlLaneLockLoss (dt port lane : Nat) (s : State) : Host.Outcome State Fault Refusal :=
  let s := s.advance dt
  .next (if lane < 8 then s.laneLost port else s)

/-- EWL_RETRAIN_COMPLETE. -/
def execEwlRetrainComplete (dt port : Nat) (ok : Bool) (s : State) : Host.Outcome State Fault Refusal :=
  .next ((s.advance dt).retrained port ok)

/-- EWL_TRAINING_RETRY. -/
def execEwlTrainingRetry (dt port : Nat) (s : State) : Host.Outcome State Fault Refusal :=
  let s := s.advance dt
  .next (if s.live then s.trainingRetry port else s)

/-- EW_REFCLK_LOSS. -/
def execEwRefclkLoss (dt : Nat) (s : State) : Host.Outcome State Fault Refusal := .next (s.advance dt).ewLost

end Sys2Proof.Machine
end

