-- ==== Sys2Proof/Machine/Registers.lean ====
section
/-! DEFINITION. What the block registers of BAR0 show (Tables 3.1 to 21.8), which of their fields a read clears (R8), and the
totals of R436. -/

namespace Sys2Proof.Machine

open Sys2Proof

/-- A counter of a block: its register offset, the counter, and the block with it changed. -/
abbrev CounterLens (α : Type) : Type := Nat × (α → Counter) × ((Counter → Counter) → α → α)

/-- The counter at an offset. -/
def lensRead {α : Type} (l : List (CounterLens α)) (a : α) (off : Nat) : Option Nat :=
  (l.find? fun e => e.1 = off).map fun e => (e.2.1 a).val

/-- The block after an RC read of an offset. -/
def lensClear {α : Type} (l : List (CounterLens α)) (off : Nat) (a : α) : α :=
  match l.find? fun e => e.1 = off with
  | some e => e.2.2 Counter.clear a
  | none => a

/-- The totals of a block's counters (R436), by offset. -/
def lensTotals {α : Type} (l : List (CounterLens α)) (base : Nat) (a : α) : List (Nat × Nat) :=
  l.map fun e => (base + e.1, (e.2.1 a).total)

/-- The 32-bit event counters of HOST (Table 14.5). -/
def hostCounters : List (CounterLens HostBlk) :=
  [(0x8, (·.retrains), fun f h => { h with retrains := f h.retrains }),
   (0x28, (·.readTimeouts), fun f h => { h with readTimeouts := f h.readTimeouts }),
   (0x2C, (·.writeRefused), fun f h => { h with writeRefused := f h.writeRefused }),
   (0x30, (·.badAccess), fun f h => { h with badAccess := f h.badAccess }),
   (0x34, (·.poisonedIn), fun f h => { h with poisonedIn := f h.poisonedIn }),
   (0x38, (·.errorCompletions), fun f h => { h with errorCompletions := f h.errorCompletions }),
   (0x3C, (·.l1Residency), fun f h => { h with l1Residency := f h.l1Residency })]

/-- The 32-bit event counters of CUE (Table 3.2). -/
def cueCounters : List (CounterLens CueBlk) :=
  [(0x2C, (·.stale), fun f c => { c with stale := f c.stale }),
   (0x30, (·.excess), fun f c => { c with excess := f c.excess }),
   (0x34, (·.missed), fun f c => { c with missed := f c.missed }),
   (0x38, (·.pinEarly), fun f c => { c with pinEarly := f c.pinEarly }),
   (0x3C, (·.pinMissing), fun f c => { c with pinMissing := f c.pinMissing })]

/-- The 32-bit event counters of HOUSE (Table 4.3). -/
def houseCounters : List (CounterLens House) :=
  [(0x0, (·.errors), fun f h => { h with errors := f h.errors }),
   (0xC, (·.poisoned), fun f h => { h with poisoned := f h.poisoned }),
   (0x10, (·.sealedReads), fun f h => { h with sealedReads := f h.sealedReads }),
   (0x14, (·.sealedWrites), fun f h => { h with sealedWrites := f h.sealedWrites }),
   (0x18, (·.poisonReads), fun f h => { h with poisonReads := f h.poisonReads })]

/-- The 32-bit event counters of WARDROBE (Table 4.5). -/
def wardrobeCounters : List (CounterLens Wardrobe) :=
  [(0x4, (·.doubleFree), fun f w => { w with doubleFree := f w.doubleFree }),
   (0x8, (·.noResource), fun f w => { w with noResource := f w.noResource }),
   (0xC, (·.fallback), fun f w => { w with fallback := f w.fallback })]

/-- The 32-bit event counters of ARRAYb (Table 5.10). -/
def arrayCounters : List (CounterLens ArrayBlk) :=
  [(0x4, (·.rows), fun f a => { a with rows := f a.rows }),
   (0x8, (·.bubble), fun f a => { a with bubble := f a.bubble }),
   (0xC, (·.wait), fun f a => { a with wait := f a.wait }),
   (0x10, (·.instructions), fun f a => { a with instructions := f a.instructions }),
   (0x14, (·.residueErrors), fun f a => { a with residueErrors := f a.residueErrors }),
   (0x18, (·.recomputed), fun f a => { a with recomputed := f a.recomputed }),
   (0x1C, (·.scaleRetries), fun f a => { a with scaleRetries := f a.scaleRetries }),
   (0x20, (·.scaleMismatch), fun f a => { a with scaleMismatch := f a.scaleMismatch }),
   (0x24, (·.saturated), fun f a => { a with saturated := f a.saturated })]

/-- The 32-bit event counters of VECb (Tables 8.7 and 10.11). -/
def vecCounters : List (CounterLens VecBlk) :=
  [(0x4, (·.steps), fun f v => { v with steps := f v.steps }),
   (0x8, (·.instructions), fun f v => { v with instructions := f v.instructions }),
   (0xC, (·.parityErrors), fun f v => { v with parityErrors := f v.parityErrors }),
   (0x10, (·.recomputed), fun f v => { v with recomputed := f v.recomputed }),
   (0x14, (·.scaleRetries), fun f v => { v with scaleRetries := f v.scaleRetries }),
   (0x18, (·.scaleMismatch), fun f v => { v with scaleMismatch := f v.scaleMismatch }),
   (0x1C, (·.saturated), fun f v => { v with saturated := f v.saturated }),
   (0x20, (·.saturate), fun f v => { v with saturate := f v.saturate }),
   (0x24, (·.nonfinite), fun f v => { v with nonfinite := f v.nonfinite }),
   (0x28, (·.clamp), fun f v => { v with clamp := f v.clamp }),
   (0x2C, (·.oob), fun f v => { v with oob := f v.oob }),
   (0x30, (·.rowFlag), fun f v => { v with rowFlag := f v.rowFlag })] ++
  [(0x200, (·.tapSkip), fun f v => { v with tapSkip := f v.tapSkip }),
   (0x204, (·.emptyWindows), fun f v => { v with emptyWindows := f v.emptyWindows }),
   (0x208, (·.degenerate), fun f v => { v with degenerate := f v.degenerate }),
   (0x20C, (·.overflow), fun f v => { v with overflow := f v.overflow }),
   (0x210, (·.suppressed), fun f v => { v with suppressed := f v.suppressed }),
   (0x214, (·.tracksStarted), fun f v => { v with tracksStarted := f v.tracksStarted }),
   (0x218, (·.tracksEnded), fun f v => { v with tracksEnded := f v.tracksEnded }),
   (0x21C, (·.trackFull), fun f v => { v with trackFull := f v.trackFull }),
   (0x220, (·.scoreboardWait), fun f v => { v with scoreboardWait := f v.scoreboardWait })]

/-- The 32-bit event counters of SAMPb (Table 9.6). -/
def sampCounters : List (CounterLens SampBlk) :=
  [(0x4, (·.tokens), fun f b => { b with tokens := f b.tokens }),
   (0x8, (·.greedy), fun f b => { b with greedy := f b.greedy }),
   (0xC, (·.noToken), fun f b => { b with noToken := f b.noToken }),
   (0x10, (·.infinite), fun f b => { b with infinite := f b.infinite }),
   (0x14, (·.words), fun f b => { b with words := f b.words }),
   (0x18, (·.compareErrors), fun f b => { b with compareErrors := f b.compareErrors }),
   (0x1C, (·.parityErrors), fun f b => { b with parityErrors := f b.parityErrors }),
   (0x20, (·.recomputed), fun f b => { b with recomputed := f b.recomputed }),
   (0x24, (·.deckReloads), fun f b => { b with deckReloads := f b.deckReloads })]

/-- The 32-bit event counters of CODECn (Table 11.10). -/
def codecCounters : List (CounterLens CodecBlk) :=
  [(0x4, (·.picturesDecoded), fun f c => { c with picturesDecoded := f c.picturesDecoded }),
   (0x8, (·.strips), fun f c => { c with strips := f c.strips }),
   (0xC, (·.picturesEncoded), fun f c => { c with picturesEncoded := f c.picturesEncoded }),
   (0x10, (·.rejected), fun f c => { c with rejected := f c.rejected }),
   (0x14, (·.unsupported), fun f c => { c with unsupported := f c.unsupported }),
   (0x18, (·.concealed), fun f c => { c with concealed := f c.concealed }),
   (0x1C, (·.degraded), fun f c => { c with degraded := f c.degraded }),
   (0x20, (·.rebuilds), fun f c => { c with rebuilds := f c.rebuilds }),
   (0x24, (·.reencodes), fun f c => { c with reencodes := f c.reencodes }),
   (0x28, (·.refErrors), fun f c => { c with refErrors := f c.refErrors }),
   (0x2C, (·.dpbOverflow), fun f c => { c with dpbOverflow := f c.dpbOverflow }),
   (0x30, (·.rcOverrun), fun f c => { c with rcOverrun := f c.rcOverrun })]

/-- The 32-bit event counters of INGEST (Table 12.10). -/
def ingestCounters : List (CounterLens Ingest) :=
  [(0x4, (·.frames), fun f g => { g with frames := f g.frames }),
   (0x8, (·.corrupt), fun f g => { g with corrupt := f g.corrupt }),
   (0xC, (·.substituted), fun f g => { g with substituted := f g.substituted }),
   (0x10, (·.fed), fun f g => { g with fed := f g.fed }),
   (0x14, (·.feedTimeout), fun f g => { g with feedTimeout := f g.feedTimeout }),
   (0x18, (·.audioFrames), fun f g => { g with audioFrames := f g.audioFrames }),
   (0x1C, (·.audioGaps), fun f g => { g with audioGaps := f g.audioGaps })]

/-- The 32-bit event counters of a CSI-2 port (Table 12.10). -/
def portCounters : List (CounterLens Csi2Port) :=
  [(0x4, (·.frames), fun f p => { p with frames := f p.frames }),
   (0x8, (·.crc), fun f p => { p with crc := f p.crc }),
   (0xC, (·.eccCorrected), fun f p => { p with eccCorrected := f p.eccCorrected }),
   (0x10, (·.headerErrors), fun f p => { p with headerErrors := f p.headerErrors }),
   (0x14, (·.discarded), fun f p => { p with discarded := f p.discarded }),
   (0x18, (·.phyErrors), fun f p => { p with phyErrors := f p.phyErrors })]

/-- The 32-bit event counters of a JPEG unit (Table 12.11). -/
def jpegCounters : List (CounterLens JpegUnit) :=
  [(0x4, (·.images), fun f j => { j with images := f j.images }),
   (0x8, (·.rejected), fun f j => { j with rejected := f j.rejected }),
   (0xC, (·.entropyErrors), fun f j => { j with entropyErrors := f j.entropyErrors }),
   (0x10, (·.recomputed), fun f j => { j with recomputed := f j.recomputed })]

/-- The 32-bit event counters of a scaler (Table 12.12). -/
def scalerCounters : List (CounterLens Scaler) :=
  [(0x4, (·.passes), fun f c => { c with passes := f c.passes }),
   (0x8, (·.substitutions), fun f c => { c with substitutions := f c.substitutions }),
   (0xC, (·.cropAdjusted), fun f c => { c with cropAdjusted := f c.cropAdjusted }),
   (0x10, (·.parityErrors), fun f c => { c with parityErrors := f c.parityErrors }),
   (0x14, (·.recomputed), fun f c => { c with recomputed := f c.recomputed })]

/-- The 32-bit event counters of DRAM (Table 16.5). -/
def dramCounters : List (CounterLens Dram) :=
  [(0x4, (·.refetched), fun f d => { d with refetched := f d.refetched }),
   (0x8, (·.lost), fun f d => { d with lost := f d.lost }),
   (0xC, (·.rebuilt), fun f d => { d with rebuilt := f d.rebuilt }),
   (0x10, (·.poisoned), fun f d => { d with poisoned := f d.poisoned }),
   (0x14, (·.writeCodeErrors), fun f d => { d with writeCodeErrors := f d.writeCodeErrors }),
   (0x18, (·.sealedReads), fun f d => { d with sealedReads := f d.sealedReads }),
   (0x1C, (·.sealedWrites), fun f d => { d with sealedWrites := f d.sealedWrites }),
   (0x20, (·.poisonReads), fun f d => { d with poisonReads := f d.poisonReads }),
   (0x24, (·.agePromotions), fun f d => { d with agePromotions := f d.agePromotions })]

/-- The 32-bit event counters of EWL (Table 15.8). -/
def ewlCounters : List (CounterLens Ewl) :=
  [(0x14, (·.excursions), fun f e => { e with excursions := f e.excursions }),
   (0x18, (·.handoffSent), fun f e => { e with handoffSent := f e.handoffSent }),
   (0x1C, (·.handoffReceived), fun f e => { e with handoffReceived := f e.handoffReceived }),
   (0x20, (·.handoffResent), fun f e => { e with handoffResent := f e.handoffResent }),
   (0x24, (·.heartbeatLate), fun f e => { e with heartbeatLate := f e.heartbeatLate }),
   (0x28, (·.badMessages), fun f e => { e with badMessages := f e.badMessages })]

/-- The 32-bit event counters of a Euwald port (Table 15.8). -/
def ewPortCounters : List (CounterLens EwPort) :=
  [(0x8, (·.fecCorrected), fun f p => { p with fecCorrected := f p.fecCorrected }),
   (0xC, (·.fecUncorrectable), fun f p => { p with fecUncorrectable := f p.fecUncorrectable }),
   (0x10, (·.crcErrors), fun f p => { p with crcErrors := f p.crcErrors }),
   (0x14, (·.replays), fun f p => { p with replays := f p.replays }),
   (0x18, (·.retrains), fun f p => { p with retrains := f p.retrains }),
   (0x1C, (·.flitsSent), fun f p => { p with flitsSent := f p.flitsSent }),
   (0x20, (·.flitsReceived), fun f p => { p with flitsReceived := f p.flitsReceived }),
   (0x24, (·.creditStall), fun f p => { p with creditStall := f p.creditStall })]

/-- The 32-bit event counters of SEC (Table 18.7). -/
def secCounters : List (CounterLens Sec) :=
  [(0x70, (·.authFailures), fun f c => { c with authFailures := f c.authFailures }),
   (0x74, (·.reports), fun f c => { c with reports := f c.reports }),
   (0x78, (·.flashErrors), fun f c => { c with flashErrors := f c.flashErrors })]

/-- The 32-bit event counters of OBS (Table 19.3). -/
def obsCounters : List (CounterLens Obs) :=
  [(0x10, (·.dropped), fun f o => { o with dropped := f o.dropped }),
   (0x14, (·.pinDropped), fun f o => { o with pinDropped := f o.pinDropped }),
   (0x1C, (·.bscanRefused), fun f o => { o with bscanRefused := f o.bscanRefused })]

/-- The 32-bit event counters of PWR (Table 20.6). -/
def pwrCounters : List (CounterLens Pwr) :=
  [(0x20, (·.stepChanges), fun f p => { p with stepChanges := f p.stepChanges }),
   (0x24, (·.trips), fun f p => { p with trips := f p.trips }),
   (0x30, (·.restEntries), fun f p => { p with restEntries := f p.restEntries })]

/-- The 32-bit event counters of MGMT (Table 21.8). -/
def mgmtCounters : List (CounterLens Mgmt) :=
  [(0x48, (·.timeouts), fun f m => { m with timeouts := f m.timeouts }),
   (0x4C, (·.refused), fun f m => { m with refused := f m.refused }),
   (0x50, (·.pecErrors), fun f m => { m with pecErrors := f m.pecErrors })]

/-! ### Blocks of Table 1.3 -/

/-- The block at a position of Table 1.3 and its unit. -/
inductive Block19 where
  | host | cue | house | wardrobe | array (b : Nat) | vec (b : Nat) | samp (b : Nat) | codec (c : Nat) | ingest | jpeg
  | scale | dram | ewl | sec | obs | pwr | time | mgmt
  deriving DecidableEq, Repr

/-- The block at a position of Table 1.3, HOST at 0. -/
def blockAt (k : Nat) : Option Block19 :=
  if k = 0 then some .host else if k = 1 then some .cue else if k = 2 then some .house else if k = 3 then some .wardrobe
  else if k < 12 then some (.array (k - 4)) else if k < 20 then some (.vec (k - 12))
  else if k < 28 then some (.samp (k - 20)) else if k < 32 then some (.codec (k - 28))
  else if k = 32 then some .ingest else if k = 33 then some .jpeg else if k = 34 then some .scale
  else if k = 35 then some .dram else if k = 36 then some .ewl else if k = 37 then some .sec
  else if k = 38 then some .obs else if k = 39 then some .pwr else if k = 40 then some .time
  else if k = 41 then some .mgmt else none

/-- The low or high half of a 64-bit field, by the offset within it. -/
def half (v k : Nat) : Nat := bitsOf v (32 * (k / 4)) 32

/-- A word of a byte list. -/
def wordAt (bs : List Byte) (i : Nat) : Nat := fieldAt bs i 4

/-- The code of R2. -/
def steppingCode : Nat := if Config.steppingB0 then 0x10 else 0x00

/-- The certificate's bytes (R413). -/
def certificate : List Byte := (upto 3796).map Config.certificateByte

/-- The Provisional ID of R468. -/
def i3cPid : Nat := 2 ^ 32 + Config.identity % 2 ^ 32

/-- DEVICE_STATE (Table 14.5). -/
def HostBlk.stateWord (h : HostBlk) : Nat :=
  h.state.code + 8 * b2n h.rehearsal + 256 * (if h.state = .faulted then h.fault else 0) + 65536 * h.bootStep

/-- Word of the HOST block (R348, Table 14.5). -/
def hostWord (s : State) (o : Nat) : Nat :=
  let h := s.host
  match lensRead hostCounters h o with
  | some v => v
  | none =>
    if o = 0 then h.stateWord
    else if o = 4 then
      if h.linkUp then h.speed + 16 * h.width + 512 * b2n h.flit + 1024 * b2n h.l0p + 2048 * linkPowerCode h.power else 0
    else if o = 0xC then
      b2n h.adminEnable + 16 * h.adminSize + 256 * b2n h.adminInterrupt + 65536 * h.adminVector
    else if o = 0x10 || o = 0x14 then half h.adminSubmit (o - 0x10)
    else if o = 0x18 || o = 0x1C then half h.adminComplete (o - 0x18)
    else if o = 0x20 || o = 0x24 then half (s.fnOf 0).window (o - 0x20)
    else if 0x108 ≤ o && o < 0x300 && o % 8 = 0 then
      let f := s.fnOf ((o - 0x100) / 8)
      f.ringFirst + 65536 * f.ringCount
    else if 0x408 ≤ o && o < 0x600 then half (s.fnOf ((o - 0x400) / 8)).window (o % 8)
    else 0

/-- Word of an MSI-X table entry (R340): address, data, mask. -/
def msixWord (f : Fn) (o : Nat) : Nat :=
  let e := agetD f.msix (o / 16) {}
  match o % 16 with
  | 0 => bitsOf e.address 0 32
  | 4 => bitsOf e.address 32 32
  | 8 => e.data
  | _ => b2n e.masked

/-- Word of a pending-bit array. -/
def pbaWord (f : Fn) (o vectors : Nat) : Nat :=
  sumNat ((upto 32).map fun i =>
    if 8 * o + i < vectors && (agetD f.msix (8 * o + i) {}).pending then 2 ^ i else 0)

/-- Word of the CUE block (R49, Table 3.2).  NUMBER_HI and EDGE show what the last NUMBER_LO read latched. -/
def cueWord (s : State) (o : Nat) : Nat :=
  let c := s.cue
  match lensRead cueCounters c o with
  | some v => v
  | none =>
    if o = 0 then c.period
    else if o = 4 then c.nextPeriod + 2 ^ 31 * b2n c.stagedAt.isSome
    else if o = 8 then bitsOf s.cueNow 0 32
    else if o = 0xC then c.numberHi
    else if o = 0x10 || o = 0x14 then half c.edgeLatch (o - 0x10)
    else if o = 0x18 || o = 0x1C then half c.epoch (o - 0x18)
    else if o = 0x20 then c.source.code + 16 * b2n c.outEnable + 32 * b2n c.fallback
    else if o = 0x24 then c.slack % 2 ^ 32
    else if o = 0x28 then c.stepLevel
    else 0

/-- House buffers in state SCRUBBING. -/
def State.houseScrubs (s : State) : Nat :=
  sumNat (s.wardrobe.pools.map fun e => if e.2.dram then 0 else e.2.scrubbing)

/-- Word of the HOUSE block (R77, Table 4.3). -/
def houseWord (s : State) (o : Nat) : Nat :=
  let h := s.house
  match lensRead houseCounters h o with
  | some v => v
  | none =>
    if o = 4 then h.errorLine
    else if o = 8 then h.errorBank + 256 * h.errorReader
    else if o = 0x1C then b2n (s.houseScrubs ≠ 0) + 65536 * (s.houseScrubs % 65536)
    else if 0x400 ≤ o && o < 0x800 then (agetD h.bankErrors ((o - 0x400) / 4) {}).val
    else 0

/-- Word of a pool's registers (Table 4.5). -/
def poolWord (w : Wardrobe) (k : Nat) (o : Nat) : Nat :=
  match aget w.pools k with
  | none => 0
  | some p =>
    match o with
    | 0x0 => half p.base 0
    | 0x4 => half p.base 4
    | 0x8 => 1 + 2 * b2n p.dram + 4 * p.cls + 65536 * (match p.owner with
        | some g => g
        | none => 0xFFFF)
    | 0xC => p.count
    | 0x10 => p.free
    | 0x14 => w.minimaSum k
    | 0x18 => p.peak
    | 0x1C => p.scrubbing
    | _ => 0

/-- Word of the WARDROBE block (R85, Table 4.5). -/
def wardrobeWord (s : State) (o : Nat) : Nat :=
  let w := s.wardrobe
  match lensRead wardrobeCounters w o with
  | some v => v
  | none =>
    if o = 0 then w.pools.length + 65536 * w.minima.length
    else if o = 0x10 then w.lastDoublePool + 65536 * w.lastDoubleBuffer
    else if 0x1000 ≤ o && o < 0x2000 then poolWord w ((o - 0x1000) / 64) ((o - 0x1000) % 64)
    else 0

/-- BUSY bits of up to four parts. -/
def busyBits (l : List Bool) : Nat := sumNat ((l.zip (upto 4)).map fun e => b2n e.1 * 2 ^ e.2)

/-- Word of an ARRAYb block (R113, Table 5.10). -/
def arrayWord (a : ArrayBlk) (o : Nat) : Nat :=
  match lensRead arrayCounters a o with
  | some v => v
  | none =>
    if o = 0 then a.split + 4 * b2n a.fixed.isSome + 256 * busyBits (a.parts.map fun p => !p.queue.isEmpty)
    else if o = 0x28 then a.errorPart + 16 * a.errorColumn
    else if o = 0x2C then a.errorRow
    else if 0x40 ≤ o && o < 0x50 then
      let p := a.parts.getD ((o - 0x40) / 4) {}
      p.last.code + 256 * min p.queue.length 63 + 65536 * b2n p.active.isSome
    else if 0x100 ≤ o && o < 0x180 then
      (if o % 8 = 0 then a.clipSeen.getD ((o - 0x100) / 8) {} else a.clipHit.getD ((o - 0x100) / 8) {}).val
    else 0

/-- Word of a VECb block (R185, Tables 8.7 and 10.11). -/
def vecWord (v : VecBlk) (o : Nat) : Nat :=
  match lensRead vecCounters v o with
  | some n => n
  | none =>
    if o = 0 then v.split + 4 * b2n v.fixed.isSome + 256 * busyBits (v.parts.map fun p => !p.queue.isEmpty)
      + 4096 * busyBits (v.parts.map (·.rehearsal))
    else if o = 0x34 then v.errorPart + 16 * v.errorLane
    else if 0x40 ≤ o && o < 0x60 then
      let p := v.parts.getD ((o - 0x40) / 8) {}
      if o % 8 = 0 then b2n p.descriptor + 65536 * p.vl
      else p.last.code + 256 * min p.queue.length 63 + 65536 * p.flags
    else if 0x100 ≤ o && o < 0x140 then (v.flushBlocks.getD ((o - 0x100) / 4) {}).val
    else 0

/-- DECK_CHECK:CRC, the CRC-32C of the deck in a slot (Table 9.6); 0 for none. -/
def deckCheck (d : Option Deck) : Nat :=
  match d with
  | some k => crc32c (deckBytes k.seed)
  | none => 0

/-- Word of a SAMPb block (R207, Table 9.6). -/
def sampWord (b : SampBlk) (o : Nat) : Nat :=
  match lensRead sampCounters b o with
  | some v => v
  | none =>
    if o = 0 then b2n (b.queue.any (·.issued)) + 2 * min b.queue.length 127
      + 256 * sumNat ((b.decks.zip (upto 5)).map fun e => b2n e.1.isSome * 2 ^ e.2)
    else if 0x40 ≤ o && o < 0x54 then deckCheck (b.decks.getD ((o - 0x40) / 4) none)
    else if 0x60 ≤ o && o < 0x74 then match b.decks.getD ((o - 0x60) / 4) none with
      | some d => d.number
      | none => 0
    else 0

/-- Word of a CODECn block (R263, Table 11.10). -/
def codecWord (c : CodecBlk) (now o : Nat) : Nat :=
  match lensRead codecCounters c o with
  | some v => v
  | none =>
    if o = 0 then b2n c.decoding.isSome + 2 * b2n c.encoding.isSome + 4 * b2n (c.rebuilding.isSome && now < c.rebuildUntil)
    else if o = 0x34 then c.errorStream
    else if o = 0x38 then c.errorCause
    else 0

/-- Word of the INGEST block (R292, Table 12.10). -/
def ingestWord (g : Ingest) (o : Nat) : Nat :=
  match lensRead ingestCounters g o with
  | some v => v
  | none =>
    if o = 0 then sumNat ((g.ports.zip (upto 16)).map fun e => b2n e.1.enabled * 2 ^ e.2)
    else if o = 0x20 then g.errorStream
    else if o = 0x24 then g.errorCause
    else if 0x1000 ≤ o && o < 0x1400 then
      let p := g.ports.getD ((o - 0x1000) / 64) {}
      match lensRead portCounters p ((o - 0x1000) % 64) with
      | some v => v
      | none => if (o - 0x1000) % 64 = 0 then p.lanes + 8 * b2n p.enabled + 16 * p.rate else 0
    else 0

/-- Word of the JPEG block (R293, Table 12.11). -/
def jpegWord (l : List JpegUnit) (o : Nat) : Nat :=
  if o < 0x40 then
    let j := l.getD (o / 0x20) {}
    match lensRead jpegCounters j (o % 0x20) with
    | some v => v
    | none => if o % 0x20 = 0 then b2n j.work.isSome else 0
  else 0

/-- Word of the SCALE block (R294, Table 12.12). -/
def scaleWord (l : List Scaler) (o : Nat) : Nat :=
  if o < 0x100 then
    let c := l.getD (o / 0x20) {}
    match lensRead scalerCounters c (o % 0x20) with
    | some v => v
    | none => if o % 0x20 = 0 then b2n c.work.isSome else 0
  else 0

/-- A set of unit numbers as bits. -/
def bitsSet (l : List Nat) : Nat := sumNat (l.eraseDups.map fun i => 2 ^ i)

/-- Word of the DRAM block (R395, Table 16.5). -/
def dramWord (s : State) (o : Nat) : Nat :=
  let d := s.dram
  match lensRead dramCounters d o with
  | some v => v
  | none =>
    if o = 0 then d.grain + 8 * b2n d.selfRefresh + 16 * b2n d.filling + 256 * bitsSet d.doubled + 65536 * d.trained
    else if o = 0x28 || o = 0x2C then half d.lostLast (o - 0x28)
    else if o = 0x30 then d.lostChannel + 256 * d.lostContent
    else if 0x1000 ≤ o && o < 0x1800 then
      let k := (o - 0x1000) / 0x100
      match (o - 0x1000) % 0x100 with
      | 0 => agetD d.dieTemp k 0 + 256 * agetD d.diePeak k 0
      | 4 => (agetD d.dieDoublings k {}).val
      | 8 => (agetD d.dieLost k {}).val
      | _ => 0
    else if 0x2000 ≤ o && o < 0x2400 then
      let c := (o - 0x2000) / 8
      if o % 8 = 0 then (agetD d.channelErrors c {}).val
      else agetD d.channelMargin c 0 + 256 * b2n (d.passed.contains c)
    else 0

/-- Bytes held in retained copies (Table 15.8). -/
def Ewl.retainedBytes (e : Ewl) : Nat := sumNat (e.retained.map (·.length))

/-- Word of the EWL block (R375, Table 15.8). -/
def ewlWord (s : State) (o : Nat) : Nat :=
  let e := s.ewl
  match lensRead ewlCounters e o with
  | some v => v
  | none =>
    if o = 0 then e.cascade.code + 16 * e.role + 256 * e.member + 4096 * e.members + 131072 * b2n e.resilient
    else if o = 4 then e.epoch
    else if o = 8 then sumNat (e.table.map fun m => if m.2.lost then 2 ^ m.1 else 0)
    else if o = 0xC then unsignedOf 32 e.syncOffset
    else if o = 0x10 then e.timeParent + 256 * e.timePort + 65536 * e.timeHops
    else if o = 0x30 || o = 0x34 then half e.retainedBytes (o - 0x30)
    else if 0x1000 ≤ o && o < 0x1800 then
      let p := e.ports.getD ((o - 0x1000) / 0x100) {}
      let k := (o - 0x1000) % 0x100
      match lensRead ewPortCounters p k with
      | some v => v
      | none =>
        if k = 0 then p.state.code + 16 * p.peerMember + 256 * p.peerPort
        else if k = 4 then p.delay
        else 0
    else 0

/-- The log entry whose SEQUENCE is n, if it is held. -/
def Sec.entry (c : Sec) (n : Nat) : Option LogEntry := c.log.find? fun e => e.sequence = n

/-- Word of the log window: the last 4,096 entries by SEQUENCE (R427). -/
def logWord (c : Sec) (o : Nat) : Nat :=
  match c.log.find? fun e => e.sequence % 4096 = o / 64 with
  | some e => wordAt e.bytes (o % 64)
  | none => 0

/-- Word of the SEC block (R429, Table 18.7). -/
def secWord (s : State) (o : Nat) : Nat :=
  let c := s.sec
  match lensRead secCounters c o with
  | some v => v
  | none =>
    if o = 0 then b2n c.unsealed + 2 * b2n c.encoded + 4 * c.bootSource + 16 * b2n c.slot0Revoked + 256 * c.floor
      + 65536 * c.version
    else if o = 8 || o = 0xC then half Config.identity (o - 8)
    else if o = 0x10 || o = 0x14 then half c.build (o - 0x10)
    else if 0x20 ≤ o && o < 0x40 then wordAt (bytes256 c.imageHash) (o - 0x20)
    else if o = 0x40 || o = 0x44 then half c.logCount (o - 0x40)
    else if 0x48 ≤ o && o < 0x68 then wordAt (bytes256 c.logDigest) (o - 0x48)
    else if o = 0x7C then b2n c.locked
    else if 0x80 ≤ o && o < 0x180 then wordAt (bytes256 (c.castKeys.getD ((o - 0x80) / 32) 0)) ((o - 0x80) % 32)
    else if o = 0x180 then c.pushLength
    else if o = 0x184 then 256 * c.pushCause
    else if 0x1000 ≤ o && o < 0x1ED4 then wordAt certificate (o - 0x1000)
    else if 0x2000 ≤ o && o < 0x3000 then wordAt c.lastReport (o - 0x2000)
    else if 0x80000 ≤ o && o < 0xC0000 then logWord c (o - 0x80000)
    else 0

/-- Word of the OBS block (R440, Table 19.3). -/
def obsWord (s : State) (k : Nat) : Nat :=
  match lensRead obsCounters s.obs k with
  | some v => v
  | none =>
    if k = 0 || k = 4 then half s.obs.mask k
    else if k = 8 || k = 0xC then half s.obs.sequence (k - 8)
    else if k = 0x18 then s.obs.generation
    else 0

/-- Domain n runs on the 25 MHz reference, or the 100 MHz or 156.25 MHz one (Table 20.1). -/
def domainReference (n : Nat) : Nat := if n = 22 then 1 else if 23 ≤ n && n ≤ 30 then 2 else 0

/-- Domains REST stops (R445). -/
def State.restStops (s : State) (n : Nat) : Bool :=
  n < 8 || (9 ≤ n && n ≤ 12) || (31 ≤ n && n ≤ 35) ||
    (23 ≤ n && n ≤ 30 && (s.ewl.ports.getD (n - 23) {}).state ≠ .up)

/-- The PLL of domain n is locked: out of reset, its reference present, not stopped by REST, a fault or a lost lock (R443 to
R445, R452; a PLL is taken to lock at once, log entry 18). -/
def State.pllLocked (s : State) (n : Nat) : Bool :=
  s.host.bootStep ≠ 0 && !(domainReference n ≠ 0 && bitOf s.pwr.absent (domainReference n - 1))
    && !(s.pwr.rest && s.restStops n) && !s.pwr.unlocked.contains n
    && !(s.pwr.stopped && !(n = 22 || 36 ≤ n))

/-- Domain n is gated or stopped (Table 20.6): idle, by a trip, by a physical capacity step, in self-refresh, or its PLL. -/
def State.domainGated (s : State) (n : Nat) : Bool :=
  !s.pllLocked n || s.pwr.gated.contains n
    || (s.pwr.trip && (n < 8 || (9 ≤ n && n ≤ 12) || n = 35))
    || (n < 8 && (s.array n).gated)
    || (n < 8 && stepShare s.cue.physicalStep 1 * 8 / 1024 ≤ n)
    || (14 ≤ n && n ≤ 21 && s.dram.selfRefresh)
    || (23 ≤ n && n ≤ 30 && (s.ewl.ports.getD (n - 23) {}).state = .disabled)
    || (31 ≤ n && n ≤ 34 && !((upto 4).any fun k => (s.ingest.ports.getD (4 * (n - 31) + k) {}).enabled))

/-- Word of the PWR block (R455, Table 20.6). -/
def pwrWord (s : State) (o : Nat) : Nat :=
  let p := s.pwr
  match lensRead pwrCounters p o with
  | some v => v
  | none =>
    let doms := fun (f : Nat → Bool) => sumNat ((upto 40).map fun n => if f n then 2 ^ n else 0)
    if o = 0 then b2n p.rest + 16 * p.stepNext + 128 * b2n p.trip + 256 * b2n p.therm
    else if o = 4 then p.limit
    else if o = 8 then p.milliwatts
    else if o = 0xC then p.average
    else if o = 0x10 then p.coreMilliamps
    else if o = 0x14 then p.coreMillivolts
    else if o = 0x18 then p.logicTemp + 256 * p.logicSensor
    else if o = 0x1C then p.dramTemp
    else if o = 0x28 then p.tripCause
    else if o = 0x2C then p.resetKind + 16 * p.resetPrevious
    else if o = 0x34 then p.absent
    else if o = 0x40 || o = 0x44 then (if s.host.bootStep = 0 then 0 else half (doms s.domainGated) (o - 0x40))
    else if o = 0x48 || o = 0x4C then half (doms s.pllLocked) (o - 0x48)
    else if 0x100 ≤ o && o < 0x280 then agetD p.sensors ((o - 0x100) / 4) 0
    else 0

/-- Word of the TIME block (R45, Table 3.1). -/
def timeWord (t : TimeBlk) (o : Nat) : Nat :=
  if o = 0 then half t.now 0
  else if o = 4 then t.nowHi
  else if o = 8 then unsignedOf 32 t.rateAdj
  else if o = 0xC then unsignedOf 32 t.slewRemain
  else if o = 0x10 then half t.ppsTime 0
  else if o = 0x14 then t.ppsHi
  else if o = 0x18 then b2n t.ppsEnabled + 2 * b2n t.ppsLocked + 4 * b2n t.ppsLost + 65536 * t.ppsRejected.val
  else 0

/-- Word of the MGMT block (R471, Table 21.8). -/
def mgmtWord (s : State) (o : Nat) : Nat :=
  match lensRead mgmtCounters s.mgmt o with
  | some v => v
  | none =>
    let known := s.host.bootStep > 2
    if s.host.bootStep = 0 && (o < 0x48 || 0x2000 ≤ o) then 0
    else if o = 0 then s.host.state.code + 256 * (if s.host.state = .faulted then s.host.fault else 0)
      + 65536 * s.host.bootStep
    else if o = 4 then (if known then steppingCode else 0)
    else if o = 8 || o = 0xC then (if known then half Config.identity (o - 8) else 0)
    else if o = 0x10 then pwrWord s 0 + 65536 * (b2n s.mgmt.crossed + 2 * b2n s.mgmt.stepped + 4 * b2n s.mgmt.tripped)
    else if o = 0x14 then s.pwr.logicTemp + 256 * s.pwr.dramTemp
    else if o = 0x18 then s.pwr.milliwatts
    else if o = 0x1C then s.pwr.coreMilliamps
    else if o = 0x20 || o = 0x24 then half s.sec.logCount (o - 0x20)
    else if 0x28 ≤ o && o < 0x48 then wordAt (bytes256 s.sec.logDigest) (o - 0x28)
    else if o = 0x58 || o = 0x5C then half i3cPid (o - 0x58)
    else if 0x1000 ≤ o && o < 0x1ED4 then wordAt certificate (o - 0x1000)
    else if 0x2000 ≤ o && o < 0x3000 then wordAt s.sec.lastReport (o - 0x2000)
    else 0

/-- The 32-bit word at an offset of a block window. -/
def blockWord (s : State) (b : Block19) (o : Nat) : Nat :=
  match b with
  | .host =>
    if 0x80000 ≤ o && o < 0x88000 then msixWord (s.fnOf 0) (o - 0x80000)
    else if 0x90000 ≤ o && o < 0x90100 then pbaWord (s.fnOf 0) (o - 0x90000) 2048
    else hostWord s o
  | .cue => cueWord s o
  | .house => houseWord s o
  | .wardrobe => wardrobeWord s o
  | .array a => arrayWord (s.array a) o
  | .vec v => vecWord (s.vec v) o
  | .samp b => sampWord (s.samp b) o
  | .codec c => codecWord (s.codecs.getD c {}) s.time.elapsed o
  | .ingest => ingestWord s.ingest o
  | .jpeg => jpegWord s.jpegs o
  | .scale => scaleWord s.scalers o
  | .dram => dramWord s o
  | .ewl => ewlWord s o
  | .sec => secWord s o
  | .obs => obsWord s o
  | .pwr => pwrWord s o
  | .time => timeWord s.time o
  | .mgmt => mgmtWord s o

/-- What an RC read of a word of a block clears (R8, R471: not through BAR0 for MGMT). -/
def clearWord (s : State) (b : Block19) (o : Nat) : State :=
  match b with
  | .host => { s with host := lensClear hostCounters o s.host }
  | .cue => { s with cue := lensClear cueCounters o s.cue }
  | .house =>
    if 0x400 ≤ o && o < 0x800 then
      { s with house := { s.house with bankErrors := amod s.house.bankErrors ((o - 0x400) / 4) Counter.clear } }
    else { s with house := lensClear houseCounters o s.house }
  | .wardrobe =>
    if 0x1000 ≤ o && o < 0x2000 && (o - 0x1000) % 64 = 0x18 then
      s.modPool ((o - 0x1000) / 64) fun p => { p with peak := 0 }
    else { s with wardrobe := lensClear wardrobeCounters o s.wardrobe }
  | .array a => s.modArray a (lensClear arrayCounters o)
  | .vec v => s.modVec v (lensClear vecCounters o)
  | .samp b => s.modSamp b (lensClear sampCounters o)
  | .codec c => s.modCodec c (lensClear codecCounters o)
  | .ingest =>
    if 0x1000 ≤ o && o < 0x1400 then
      { s with ingest := { s.ingest with
          ports := modAt s.ingest.ports ((o - 0x1000) / 64) (lensClear portCounters ((o - 0x1000) % 64)) } }
    else { s with ingest := lensClear ingestCounters o s.ingest }
  | .jpeg => { s with jpegs := modAt s.jpegs (o / 0x20) (lensClear jpegCounters (o % 0x20)) }
  | .scale => { s with scalers := modAt s.scalers (o / 0x20) (lensClear scalerCounters (o % 0x20)) }
  | .dram =>
    let d := s.dram
    if 0x1000 ≤ o && o < 0x1800 then
      let k := (o - 0x1000) / 0x100
      match (o - 0x1000) % 0x100 with
      | 0 => { s with dram := { d with diePeak := amod d.diePeak k fun _ => 0 } }
      | 4 => { s with dram := { d with dieDoublings := amod d.dieDoublings k Counter.clear } }
      | 8 => { s with dram := { d with dieLost := amod d.dieLost k Counter.clear } }
      | _ => s
    else if 0x2000 ≤ o && o < 0x2400 && o % 8 = 0 then
      { s with dram := { d with channelErrors := amod d.channelErrors ((o - 0x2000) / 8) Counter.clear } }
    else { s with dram := lensClear dramCounters o d }
  | .ewl =>
    if 0x1000 ≤ o && o < 0x1800 then
      { s with ewl := { s.ewl with
          ports := modAt s.ewl.ports ((o - 0x1000) / 0x100) (lensClear ewPortCounters ((o - 0x1000) % 0x100)) } }
    else { s with ewl := lensClear ewlCounters o s.ewl }
  | .sec => { s with sec := lensClear secCounters o s.sec }
  | .obs => { s with obs := lensClear obsCounters o s.obs }
  | .pwr => { s with pwr := lensClear pwrCounters o s.pwr }
  | .time =>
    if o = 0x18 then { s with time := { s.time with ppsRejected := s.time.ppsRejected.clear } } else s
  | .mgmt => s

/-- What a read latches: NOW_HI by NOW_LO, PPS_HI by PPS_LO, NUMBER_HI and EDGE by NUMBER_LO (Tables 3.1 and 3.2). -/
def latchWord (s : State) (b : Block19) (o : Nat) : State :=
  match b with
  | .time =>
    if o = 0 then { s with time := { s.time with nowHi := half s.time.now 4 } }
    else if o = 0x10 then { s with time := { s.time with ppsHi := half s.time.ppsTime 4 } }
    else s
  | .cue =>
    if o = 8 then { s with cue := { s.cue with numberHi := bitsOf s.cueNow 32 32, edgeLatch := s.cue.edge } } else s
  | _ => s

/-- One 32-bit read of a block window: the value, and the state with what the read latches and clears. -/
def State.readWord (s : State) (b : Block19) (o : Nat) : Nat × State :=
  let s' := latchWord s b o
  (blockWord s' b o, clearWord s' b o)

/-! ### Totals -/

/-- A block whose counters' totals start anew (R436). -/
def lensZero {α : Type} (l : List (CounterLens α)) (a : α) : α :=
  l.foldl (fun a e => e.2.2 (fun c => { c with total := 0 }) a) a

/-- Every total of the device as (block position, register offset, total) (R436); the BOOT entry of the log comes before STANDBY. -/
def State.totals (s : State) : List (Nat × Nat × Nat) :=
  let at_ := fun (k : Nat) (l : List (Nat × Nat)) => l.map fun e => (k, e.1, e.2)
  let units := fun {α : Type} (k : Nat) (l : List (CounterLens α)) (us : List α) =>
    ((us.zip (upto us.length)).map fun e => at_ (k + e.2) (lensTotals l 0 e.1)).flatten
  let slots := fun (base stride : Nat) (l : List Counter) =>
    (l.zip (upto l.length)).map fun e => (base + stride * e.2, e.1.total)
  at_ 0 (lensTotals hostCounters 0 s.host) ++ at_ 1 (lensTotals cueCounters 0 s.cue)
    ++ at_ 2 (lensTotals houseCounters 0 s.house ++ s.house.bankErrors.map fun e => (0x400 + 4 * e.1, e.2.total))
    ++ at_ 3 (lensTotals wardrobeCounters 0 s.wardrobe)
    ++ units 4 arrayCounters s.arrays
    ++ ((s.arrays.zip (upto 8)).map fun e => at_ (4 + e.2) (slots 0x100 8 e.1.clipSeen ++ slots 0x104 8 e.1.clipHit)).flatten
    ++ units 12 vecCounters s.vecs
    ++ ((s.vecs.zip (upto 8)).map fun e => at_ (12 + e.2) (slots 0x100 4 e.1.flushBlocks)).flatten
    ++ units 20 sampCounters s.samps
    ++ units 28 codecCounters s.codecs
    ++ at_ 32 (lensTotals ingestCounters 0 s.ingest
        ++ ((s.ingest.ports.zip (upto 16)).map fun e => lensTotals portCounters (0x1000 + 0x40 * e.2) e.1).flatten)
    ++ at_ 33 ((s.jpegs.zip (upto 2)).map fun e => lensTotals jpegCounters (0x20 * e.2) e.1).flatten
    ++ at_ 34 ((s.scalers.zip (upto 8)).map fun e => lensTotals scalerCounters (0x20 * e.2) e.1).flatten
    ++ at_ 35 (lensTotals dramCounters 0 s.dram
        ++ s.dram.dieDoublings.map (fun e => (0x1004 + 0x100 * e.1, e.2.total))
        ++ s.dram.dieLost.map (fun e => (0x1008 + 0x100 * e.1, e.2.total))
        ++ s.dram.channelErrors.map (fun e => (0x2000 + 8 * e.1, e.2.total)))
    ++ at_ 36 (lensTotals ewlCounters 0 s.ewl
        ++ ((s.ewl.ports.zip (upto 8)).map fun e => lensTotals ewPortCounters (0x1000 + 0x100 * e.2) e.1).flatten)
    ++ at_ 37 ((0x40, s.sec.logCount - 1) :: lensTotals secCounters 0 s.sec)
    ++ at_ 38 (lensTotals obsCounters 0 s.obs) ++ at_ 39 (lensTotals pwrCounters 0 s.pwr)
    ++ at_ 40 [(0x18, s.time.ppsRejected.total)] ++ at_ 41 (lensTotals mgmtCounters 0 s.mgmt)

end Sys2Proof.Machine
end

