-- ==== Sys2Proof/Machine/Device.lean ====
section
/-! DEFINITION. Device and ring commands of class 0x01 (Table 13.9): NOP, DEVICE_START, DEVICE_STOP and the ring commands
(R297, R302, R312, R315, R339, R340). -/

namespace Sys2Proof.Machine

open Sys2Proof

/-- The device's new state is shown and posted (R312, Table 13.8). -/
def State.enterState (s : State) (d : DevState) : State :=
  ({ s with host := { s.host with state := d } }).postEvent 0x0007 .done d.code 0

/-- NOP. -/
def nopCmd : Cmd where
  opcode := 0x0100
  states := [.boot, .standby, .service, .draining]

/-- DEVICE_START (R312): it completes at the next edge. -/
def deviceStartCmd : Cmd where
  opcode := 0x0101
  admin := true
  states := [.standby]
  body := fun s _ => .wait .deviceStart (s.tellMembers 0x06 [3])

/-- Every RUNNING stream is PAUSED with cause STOP and the device drains (R312). -/
def State.startDraining (s : State) : State :=
  (s.enterState .draining).pauseRunning .stop

/-- DEVICE_STOP (R312): it acts on acceptance and completes on entry to STANDBY. -/
def deviceStopCmd : Cmd where
  opcode := 0x0102
  admin := true
  states := [.service]
  body := fun s _ => .wait .deviceStop ((s.tellMembers 0x06 [4]).startDraining)

/-- The function is the PF or an enabled VF (R333). -/
def State.fnEnabled (s : State) (fn : Nat) : Bool := fn = 0 || (s.host.vfEnable && fn ≤ s.host.numVfs)

/-- The VF whose range holds ring q, if any (R339). -/
def State.rangeOwner (s : State) (q : Nat) : Nat :=
  match s.host.fns.find? fun e => e.1 ≠ 0 && e.2.ringFirst ≤ q && q < e.2.ringFirst + e.2.ringCount with
  | some e => e.1
  | none => 0

/-- The state of a ring; DISABLED when it was never created. -/
def State.ringState (s : State) (q : Nat) : RingState :=
  match aget s.rings q with
  | some r => r.state
  | none => .disabled

/-- A ring's deck buffer goes back to the Wardrobe. -/
def State.freeDeck (s : State) (q : Nat) : State :=
  match aget s.rings q with
  | some r => match r.deck with
    | some d => match d.buffer with
      | some w => (s.releaseName w).modRing q fun r => { r with deck := none }
      | none => s.modRing q fun r => { r with deck := none }
    | none => s
  | none => s

/-- RING_CREATE (R297, R315, R339, R340). -/
def ringCreateCmd : Cmd where
  opcode := 0x0103
  admin := true
  named := [(0, 7), (8, 18)]
  fails := fun s p =>
    let q := p.u16 0
    let fn := p.u8 2
    [(0, q = 0 || q > 16383 || s.rangeOwner q ≠ fn), (2, fn > 63 || !s.fnEnabled fn),
     (3, p.u8 3 < 6 || p.u8 3 > 16),
     (4, p.u16 4 = 0 || p.u16 4 > 1023 || (match s.groupOwner (p.u16 4) with
        | some f => f ≠ fn
        | none => false)),
     (6, p.u8 6 > 3), (8, !bitOf (p.u8 6) 0 && p.u64 8 % 64 ≠ 0), (16, p.u64 16 % 64 ≠ 0),
     (24, p.u16 24 > 2047 || (fn ≠ 0 && p.u16 24 ≥ 32))]
  legal := fun s p => s.ringState (p.u16 0) = .disabled
  body := fun s p =>
    let s := s.freeDeck (p.u16 0)
    let r : Ring := { state := .enabled, metadata := bitOf (p.u8 6) 0, fn := p.u8 2, group := p.u16 4, sizeLog2 := p.u8 3
                      interruptAll := bitOf (p.u8 6) 1, vector := p.u16 24, submitBase := p.u64 8
                      completeBase := p.u64 16 }
    .ok { s with rings := aset s.rings (p.u16 0) r, groupFn := aset s.groupFn (p.u16 4) (p.u8 2) }

/-- A stream not CLOSED was declared by ring q, or writes its records there (R315). -/
def State.ringInUse (s : State) (q : Nat) : Bool :=
  s.streams.any fun e => e.2.state ≠ .closed && (e.2.ring = q || e.2.metaRing = q)

/-- RING_DESTROY (R315). -/
def ringDestroyCmd : Cmd where
  opcode := 0x0104
  admin := true
  states := [.standby, .service, .draining]
  named := [(0, 2)]
  fails := fun _ p => [(0, p.u16 0 = 0 || p.u16 0 > 16383)]
  legal := fun s p => s.ringState (p.u16 0) ≠ .disabled && s.uncompleted (p.u16 0) = 0 && !s.ringInUse (p.u16 0)
  body := fun s p => .ok (s.modRing (p.u16 0) fun r => { r with state := .disabled, cause := 0 })

/-- RING_RESET (R302): accepted for a HALTED ring, it takes effect when the ring's accepted commands have completed. -/
def ringResetCmd : Cmd where
  opcode := 0x0105
  admin := true
  states := [.standby, .service, .draining]
  named := [(0, 2)]
  fails := fun _ p => [(0, p.u16 0 = 0 || p.u16 0 > 16383)]
  legal := fun s p => s.ringState (p.u16 0) = .halted
  body := fun s p => .wait (.ringReset (p.u16 0)) s

/-- RING_RESET_TAKES_EFFECT (R302). -/
def State.ringResetDone (s : State) (id : Nat) : State :=
  match aget s.inflight id with
  | some f => match f.work with
    | .ringReset q =>
      if s.uncompleted q = 0 then (s.modRing q Ring.restart).finish id ⟨.done, 0⟩ 0 else s
    | _ => s
  | none => s

/-- NOP: checked, completes DONE. -/
def execNop (dt : Nat) (p : Packet) (s : State) : Host.Outcome State Fault Refusal :=
  .next ((s.advance dt).accept nopCmd p)

/-- DEVICE_START. -/
def execDeviceStart (dt : Nat) (p : Packet) (s : State) : Host.Outcome State Fault Refusal :=
  .next ((s.advance dt).accept deviceStartCmd p)

/-- DEVICE_STOP. -/
def execDeviceStop (dt : Nat) (p : Packet) (s : State) : Host.Outcome State Fault Refusal :=
  .next ((s.advance dt).accept deviceStopCmd p)

/-- RING_CREATE. -/
def execRingCreate (dt : Nat) (p : Packet) (s : State) : Host.Outcome State Fault Refusal :=
  .next ((s.advance dt).accept ringCreateCmd p)

/-- RING_DESTROY. -/
def execRingDestroy (dt : Nat) (p : Packet) (s : State) : Host.Outcome State Fault Refusal :=
  .next ((s.advance dt).accept ringDestroyCmd p)

/-- RING_RESET. -/
def execRingReset (dt : Nat) (p : Packet) (s : State) : Host.Outcome State Fault Refusal :=
  .next ((s.advance dt).accept ringResetCmd p)

/-- RING_RESET_TAKES_EFFECT. -/
def execRingResetTakesEffect (dt id : Nat) (s : State) : Host.Outcome State Fault Refusal :=
  .next ((s.advance dt).ringResetDone id)

end Sys2Proof.Machine
end

