-- ==== Sys2Proof/Machine/Functions.lean ====
section
/-! DEFINITION. The functions of the vector engine that Table 8.4 gives an accuracy bound (R166 to R169): their exact values to
well beyond FP32 precision, and a result anywhere within the bound, where the choice is a free value (log entry 12). -/

namespace Sys2Proof.Machine

open Sys2Proof

/-- ln 2 in units of 2^−128. -/
def ln2Fixed : Int := 235865763225513294137944142764154484399

/-- The square root of 2 ÷ π in units of 2^−512. -/
def sqrt2PiFixed : Int := 10697882941511424397293500015364354887670230752785184888277991584920498876964013379298362876763972203892841639265813833772190366515915579397298803626285567

/-- A finite value in units of 2^−p, rounded down. -/
def toFixed (p : Nat) (neg : Bool) (m : Nat) (e : Int) : Int :=
  let k := e + p
  let v : Int := if k ≥ 0 then (m * 2 ^ k.toNat : Nat) else (m / 2 ^ (-k).toNat : Nat)
  if neg then -v else v

/-- A count of 2^−p as a value. -/
def ofFixed (p : Nat) (v : Int) : Num := .fin (v < 0) v.natAbs (-(p : Int))

/-- The sum of r^n ÷ n! from term number n on, in units of 2^−128. -/
def expTerms : Nat → Int → Nat → Int → Int
  | 0, _, _, _ => 0
  | f + 1, r, n, t => t + expTerms f r (n + 1) (t * r / (2 ^ 128 * (n + 1 : Nat)))

/-- e^x for a finite x, to 100 bits and more. -/
def expNum (x : Num) : Num :=
  match x with
  | .fin neg m e =>
    if (Num.fin false 200 0).lt (.fin false m e) then .fin false 1 (if neg then -400 else 400)
    else
      let v := toFixed 128 neg m e
      let k := v / ln2Fixed
      .fin false (expTerms 48 (v - k * ln2Fixed) 0 (2 ^ 128)).toNat (k - 128)
  | _ => .zero

/-- The sum of z^(2i+1) ÷ (2i+1) from term i on, in units of 2^−128. -/
def atanhTerms : Nat → Int → Nat → Int → Int
  | 0, _, _, _ => 0
  | f + 1, zz, i, t => t / (2 * i + 1 : Nat) + atanhTerms f zz (i + 1) (t * zz / 2 ^ 128)

/-- The natural logarithm of a positive finite value. -/
def logNum (m : Nat) (e : Int) : Num :=
  if m = 0 then .zero
  else
    let l := m.log2
    -- x = f × 2^k with f in about [0.71, 1.42)
    let f := toFixed 128 false m (-(l : Int))
    let up := f > 481231938336009023090067544955250113854
    let f := if up then f / 2 else f
    let k := e + l + (if up then 1 else 0)
    let z := (f - 2 ^ 128) * 2 ^ 128 / (f + 2 ^ 128)
    ofFixed 128 (2 * atanhTerms 40 (z * z / 2 ^ 128) 0 z + k * ln2Fixed)

/-- 1. -/
def Num.one : Num := .fin false 1 0

/-- 1 ÷ (1 + e^−x). -/
def sigmoidNum (x : Num) : Num :=
  match x with
  | .fin neg m e =>
    let t := expNum (.fin true m e)
    if neg then t.div (Num.one.add t) else Num.one.div (Num.one.add t)
  | _ => .zero

/-- The hyperbolic tangent. -/
def tanhNum (x : Num) : Num :=
  match x with
  | .fin neg m e =>
    if (Num.fin false m e).lt (.fin false 1 (-13)) then
      x.add ((x.mul (x.mul x)).div (.fin true 3 0))
    else
      let t := expNum (.fin true m (e + 1))
      let r := (Num.one.add t.negate).div (Num.one.add t)
      if neg then r.negate else r
  | _ => .zero

/-- The alternating sum of (x²÷2)^n ÷ (n! (2n+1)) from term n on, in units of 2^−512. -/
def erfTerms : Nat → Int → Nat → Int → Int
  | 0, _, _, _ => 0
  | f + 1, h, n, t => t / (2 * n + 1 : Nat) + erfTerms f h (n + 1) (-(t * h) / (2 ^ 512 * (n + 1 : Nat)))

/-- 1 + erf(x ÷ √2) for abs(x) at most 16. -/
def onePlusErf (neg : Bool) (m : Nat) (e : Int) : Num :=
  let v := toFixed 512 neg m e
  let h := v * v / 2 ^ 513
  let s := erfTerms 600 h 0 (2 ^ 512)
  ofFixed 512 (2 ^ 512 + v * sqrt2PiFixed / 2 ^ 512 * s / 2 ^ 512)

/-- x × (1 + erf(x ÷ √2)) ÷ 2. -/
def geluNum (x : Num) : Num :=
  match x with
  | .fin neg m e =>
    if (Num.fin false 16 0).lt (.fin false m e) then (if neg then .fin true 1 (-400) else x)
    else (x.mul (onePlusErf neg m e)).scale (-1)
  | _ => .zero

/-- An FP32 word k steps further in the order of values. -/
def stepWord (w : Word32) (k : Int) : Word32 :=
  let mag : Int := (w.toNat % 2 ^ 31 : Nat)
  let v := (if bitOf w.toNat 31 then -mag else mag) + k
  BitVec.ofNat 32 (v.natAbs + if v < 0 || (v = 0 && bitOf w.toNat 31) then 2 ^ 31 else 0)

/-- The distance between two finite values. -/
def Num.dist (a b : Num) : Num :=
  match a.add b.negate with
  | .fin _ m e => .fin false m e
  | x => x

/-- One unit in the last place at a finite value. -/
def ulpOf : Num → Num
  | .fin _ m e => if m = 0 then .fin false 1 (-149) else .fin false 1 (max (-149) (floorLog2 m e - 23))
  | _ => .zero

/-- A result within n ulp of an exact value: the rounded value, moved by a free number of steps as far as the bound allows. -/
def within (n op : Nat) (exact : Num) (a b : Word32) : Word32 :=
  let r := exact.toF32
  let c := stepWord r (clampInt (Config.ulps op a b) (-(n : Int)) n)
  match f32 r, f32 c with
  | .fin _ _ _, .fin s m e =>
    if ((Num.fin s m e).dist exact).le ((ulpOf exact).mul (.fin false n 0)) then c else r
  | _, _ => r

/-- RECIP (IEEE 754 at the limits, ≤ 1 ulp). -/
def vRecip (a : Word32) : Word32 :=
  match f32 a with
  | .fin _ m _ => if m = 0 then fdiv 0x3F800000 a else within 1 0x08 (Num.one.div (f32 a)) a 0
  | _ => fdiv 0x3F800000 a

/-- RSQRT. -/
def vRsqrt (a : Word32) : Word32 :=
  match f32 a with
  | .fin neg m _ =>
    if m = 0 then fdiv 0x3F800000 a
    else if neg then 0x7FC00000
    else within 1 0x0A (Num.one.div (f32 a).sqrt) a 0
  | .inf neg => if neg then 0x7FC00000 else 0
  | .nan => 0x7FC00000

/-- EXP. -/
def vExp (a : Word32) : Word32 :=
  match f32 a with
  | .fin _ _ _ => within 2 0x0B (expNum (f32 a)) a 0
  | .inf neg => if neg then 0 else 0x7F800000
  | .nan => 0x7FC00000

/-- LOG. -/
def vLog (a : Word32) : Word32 :=
  match f32 a with
  | .fin neg m e =>
    if m = 0 then 0xFF800000
    else if neg then 0x7FC00000
    else within 2 0x0C (logNum m e) a 0
  | .inf neg => if neg then 0x7FC00000 else 0x7F800000
  | .nan => 0x7FC00000

/-- SIGMOID. -/
def vSigmoid (a : Word32) : Word32 :=
  match f32 a with
  | .fin _ _ _ => within 2 0x12 (sigmoidNum (f32 a)) a 0
  | .inf neg => if neg then 0 else 0x3F800000
  | .nan => 0x7FC00000

/-- TANH. -/
def vTanh (a : Word32) : Word32 :=
  match f32 a with
  | .fin _ _ _ => within 2 0x13 (tanhNum (f32 a)) a 0
  | .inf neg => if neg then 0xBF800000 else 0x3F800000
  | .nan => 0x7FC00000

/-- GELU. -/
def vGelu (a : Word32) : Word32 :=
  match f32 a with
  | .fin _ _ _ => within 4 0x14 (geluNum (f32 a)) a 0
  | .inf neg => if neg then 0x80000000 else 0x7F800000
  | .nan => 0x7FC00000

/-- SILU. -/
def vSilu (a : Word32) : Word32 :=
  match f32 a with
  | .fin _ _ _ => within 3 0x15 ((f32 a).mul (sigmoidNum (f32 a))) a 0
  | .inf neg => if neg then 0x80000000 else 0x7F800000
  | .nan => 0x7FC00000

end Sys2Proof.Machine
end

