-- ==== Sys2Proof/Machine/Vision.lean ====
section
/-! DEFINITION. The convolution, pooling and detection operations 0x60 to 0x65 of the vector engine: parameter lines, operands
and what each writes (R210 to R231). -/

namespace Sys2Proof.Machine

open Sys2Proof

/-- What a vector operation does when it completes: bytes written to the House, the link's data, a scalar register, and the
counts of Tables 8.7 and 10.11. -/
structure VecEffect where
  writes : List (Nat × List Byte) := []
  link : Option LinkData := none
  scalar : Option (Nat × Word32) := none
  saturate : Nat := 0
  saturated : Nat := 0
  nonfinite : Nat := 0
  clamp : Nat := 0
  oob : Nat := 0
  row : Nat := 0
  flushBlocks : Nat := 0
  flushed : Nat := 0
  empty : Nat := 0
  degenerate : Nat := 0
  overflow : Nat := 0
  suppressed : Nat := 0
  started : Nat := 0
  ended : Nat := 0
  full : Nat := 0
  tapSkip : Nat := 0
  draws : Nat := 0
  steps : Nat := 0

/-- One level of the binary tree of R167. -/
def pairUp {α : Type} (f : α → α → α) : List α → List α
  | a :: b :: l => f a b :: pairUp f l
  | l => l

/-- The tree sum of R167, by levels. -/
def treeFold {α : Type} (f : α → α → α) (d : α) : Nat → List α → α
  | 0, l => l.headD d
  | n + 1, l => if l.length ≤ 1 then l.headD d else treeFold f d n (pairUp f l)

/-- The FP32 tree sum over element indices (R167). -/
def treeSum (l : List Word32) : Word32 := treeFold fadd 0 (l.length.log2 + 1) l

/-- A value of a format as FP32 (R167). -/
def widen32 (fmt code : Nat) : Word32 := if fmt = 0x18 then BitVec.ofNat 32 code else (elemValue fmt code).toF32

/-- Elements of w bits from a line. -/
def State.bitsAt (s : State) (line w n : Nat) : List Nat :=
  let bytes := s.readMem false (64 * line) (ceilDiv (n * w) 8)
  (upto n).map fun i => elemAt bytes w i

/-- A row of a format as FP32 words. -/
def State.row32 (s : State) (line fmt n : Nat) : List Word32 := (s.bitsAt line (widthOf fmt) n).map (widen32 fmt)

/-- The rounding mode of a word for an element with a logical index, drawing from a deck (R123, R192). -/
def rndFor (rnd : Nat) (deck : Option Deck) (index : Nat) : Rnd :=
  match rnd with
  | 0 => .nearestEven
  | 1 => .towardZero
  | _ => .stochastic ((slotDraw deck drawStochastic index).toNat % 65536)

/-! ### Convolution and pooling parameters (R210 to R215) -/

/-- The parameter line of UNROLL, POOL and DWCONV (Table 10.2). -/
structure ConvParams where
  kind : Nat
  r : Nat
  s : Nat
  strideY : Nat
  strideX : Nat
  tag0 : Nat
  dilY : Nat
  dilX : Nat
  padTop : Nat
  padBottom : Nat
  padLeft : Nat
  padRight : Nat
  hIn : Nat
  wIn : Nat
  hOut : Nat
  wOut : Nat
  c : Nat
  rLo : Nat
  rHi : Nat
  sLo : Nat
  sHi : Nat
  pad : Word32
  m0 : Nat
  mrows : Nat
  aux : Nat
  lorigin : Nat
  k0 : Nat
  kcount : Nat

/-- The fields of a parameter line. -/
def convParamsOf (b : List Byte) : ConvParams :=
  let f := fieldAt b
  { kind := f 0 1, r := f 1 1, s := f 2 1, strideY := f 3 1, strideX := f 4 1, tag0 := f 5 1, dilY := f 6 2, dilX := f 8 2
    padTop := f 10 2, padBottom := f 12 2, padLeft := f 14 2, padRight := f 16 2, hIn := f 18 2, wIn := f 20 2
    hOut := f 22 2, wOut := f 24 2, c := f 26 2, rLo := f 28 1, rHi := f 29 1, sLo := f 30 1, sHi := f 31 1
    pad := BitVec.ofNat 32 (f 32 4), m0 := f 36 4, mrows := f 40 4, aux := f 44 4, lorigin := f 48 8, k0 := f 56 2
    kcount := f 58 2 }

/-- An output extent of R210. -/
def outExtent (inE padA padB dil taps stride : Nat) : Int :=
  ((inE + padA + padB : Nat) - (dil * (taps - 1) : Nat) - 1 : Int) / (stride : Int) + 1

/-- Cp of R211. -/
def paddedChannels (c : Nat) : Nat := if c < 32 then c else ceilDiv c 32 * 32

/-- Live taps of the rectangle. -/
def ConvParams.taps (q : ConvParams) : Nat := (q.rHi - q.rLo + 1) * (q.sHi - q.sLo + 1)

/-- The live K (Table 10.1). -/
def ConvParams.liveK (q : ConvParams) : Nat := q.taps * paddedChannels q.c

/-- Every field within its legal values (Table 10.2). -/
def ConvParams.legal (q : ConvParams) (op : Nat) (block : Bool) : Bool :=
  (match op with
    | 0x60 => q.kind = 0
    | 0x61 => 1 ≤ q.kind && q.kind ≤ 3
    | _ => q.kind = 4)
    && 1 ≤ q.r && q.r ≤ 31 && 1 ≤ q.s && q.s ≤ 31 && 1 ≤ q.strideY && q.strideY ≤ 16 && 1 ≤ q.strideX && q.strideX ≤ 16
    && q.tag0 < 64 && 1 ≤ q.dilY && q.dilY ≤ 4095 && 1 ≤ q.dilX && q.dilX ≤ 4095
    && q.padTop ≤ 4095 && q.padBottom ≤ 4095 && q.padLeft ≤ 4095 && q.padRight ≤ 4095
    && 1 ≤ q.hIn && q.hIn ≤ 16384 && 1 ≤ q.wIn && q.wIn ≤ 16384
    && 1 ≤ q.hOut && (q.hOut : Int) = outExtent q.hIn q.padTop q.padBottom q.dilY q.r q.strideY
    && 1 ≤ q.wOut && (q.wOut : Int) = outExtent q.wIn q.padLeft q.padRight q.dilX q.s q.strideX
    && 1 ≤ q.c && q.c ≤ 16384 && q.rLo ≤ q.rHi && q.rHi < q.r && q.sLo ≤ q.sHi && q.sHi < q.s
    && isFin32 q.pad && q.m0 < q.hOut * q.wOut && q.mrows ≤ 65536 && q.m0 + q.mrows ≤ q.hOut * q.wOut
    && (op = 0x61 || (op = 0x60 && !block) || q.aux < houseLines)
    && (if op = 0x60 then q.k0 < q.liveK && q.k0 % 32 = 0 && q.kcount ≤ q.liveK - q.k0 else q.k0 = 0 && q.kcount = 0)

/-- The input position of output position m and tap (r, s), or none in the padding. -/
def ConvParams.source (q : ConvParams) (m r s : Nat) : Option (Nat × Nat) :=
  let iy : Int := ((m / q.wOut * q.strideY + r * q.dilY : Nat) : Int) - q.padTop
  let ix : Int := ((m % q.wOut * q.strideX + s * q.dilX : Nat) : Int) - q.padLeft
  if 0 ≤ iy && iy < q.hIn && 0 ≤ ix && ix < q.wIn then some (iy.toNat, ix.toNat) else none

/-- The line of an input pixel. -/
def ConvParams.pixelLine (q : ConvParams) (base fmt : Nat) (p : Nat × Nat) : Nat :=
  base + (p.1 * q.wIn + p.2) * rowLines q.c (widthOf fmt)

/-- Output rows for which filter row or column t is inside the map: the tap is live (R213). -/
def tapLive (outE inE stride dil pad t : Nat) : Bool :=
  (upto outE).any fun y =>
    let i : Int := ((y * stride + t * dil : Nat) : Int) - pad
    0 ≤ i && i < inE

/-- The dead taps of the layer (R213). -/
def ConvParams.deadTaps (q : ConvParams) : Nat :=
  let rows := (upto q.r).filter fun t => tapLive q.hOut q.hIn q.strideY q.dilY q.padTop t
  let cols := (upto q.s).filter fun t => tapLive q.wOut q.wIn q.strideX q.dilX q.padLeft t
  let span := fun (l : List Nat) => match l with
    | [] => 0
    | a :: _ => l.foldl max a - a + 1
  q.r * q.s - span rows * span cols

/-- The positions of the stripe. -/
def ConvParams.positions (q : ConvParams) : List Nat := (upto q.mrows).map (· + q.m0)

/-! ### Narrowing of one block (R122, R125, R126, R133, R170) -/

/-- A narrowed block: its element codes, its scale exponent, and its counts. -/
structure NarrowedBlock where
  codes : List Nat
  scale : Int
  saturate : Nat
  nonfinite : Nat
  clamp : Nat
  flushed : Nat
  exceeds : Bool

/-- A block format whose elements hold no NaN: an infinity or a NaN takes the whole block (Table 6.5). -/
def blockWide (fmt : Nat) : Bool :=
  match layoutOf fmt with
  | some l => !l.hasNan
  | none => true

/-- A block narrowed with a scale exponent, each value with its own rounding; `share` is FLUSH_SHARE.  One that its format cannot hold
gets scale code 255 and element codes 0 (Table 6.5). -/
def narrowBlock (fmt share : Nat) (exponent : Int) (l : List (Num × Rnd)) : NarrowedBlock :=
  let c := clampScale exponent
  let rs := l.map fun e => narrow fmt e.2 (e.1.scale (-c.1))
  let z := (l.filter fun e => e.1.isFin && !e.1.isZero).length
  let f := (rs.filter (·.flushed)).length
  if blockWide fmt && l.any fun e => !e.1.isFin then
    { codes := rs.map fun _ => 0, scale := 128, saturate := 0, nonfinite := (l.filter fun e => !e.1.isFin).length, clamp := 0
      flushed := 0, exceeds := false }
  else
  { codes := rs.map (·.code), scale := c.1, saturate := (rs.filter (·.saturated)).length
    nonfinite := (rs.filter (·.nonfinite)).length, clamp := b2n c.2, flushed := f, exceeds := f * 256 > share * z }

/-- The counts of narrowed blocks added to an effect. -/
def VecEffect.addBlocks (e : VecEffect) (bs : List NarrowedBlock) : VecEffect :=
  { e with
    saturate := e.saturate + sumNat (bs.map (·.saturate))
    nonfinite := e.nonfinite + sumNat (bs.map (·.nonfinite))
    clamp := e.clamp + sumNat (bs.map (·.clamp))
    flushed := e.flushed + sumNat (bs.map (·.flushed))
    flushBlocks := e.flushBlocks + (bs.filter (·.exceeds)).length }

/-- The counts of narrowed elements of a non-block format added to an effect. -/
def VecEffect.addNarrowed (e : VecEffect) (rs : List Narrowed) : VecEffect :=
  { e with
    saturate := e.saturate + (rs.filter (·.saturated)).length
    nonfinite := e.nonfinite + (rs.filter (·.nonfinite)).length
    flushed := e.flushed + (rs.filter (·.flushed)).length }

/-- A list cut into pieces of l elements. -/
def pieces {α : Type} (l : Nat) (xs : List α) : List (List α) :=
  (upto (ceilDiv xs.length l)).map fun j => (xs.drop (j * l)).take l

/-- A scale entry's two bytes at its place in a scale tensor. -/
def scaleWrite (base n row col : Nat) (scale : Int) (kb rc : Nat) (weight : Bool) : Nat × List Byte :=
  (scaleByte base n row col, leBytes 2 (scaleEntry (scale + 127).toNat kb rc weight))

/-! ### UNROLL, DWCONV and POOL (R216, R218, R219) -/

/-- The element k of output position m: its value, its rounding and whether it draws (R212, R216). -/
def State.unrollElem (s : State) (w : VecWord) (q : ConvParams) (deck : Option Deck) (m k : Nat) : Num × Rnd × Bool :=
  let cp := paddedChannels q.c
  let nS := q.sHi - q.sLo + 1
  let t := k / cp
  let c := k % cp
  let r := q.rLo + t / nS
  let col := q.sLo + t % nS
  if c ≥ q.c then (.zero, .nearestEven, false)
  else match q.source m r col with
    | none => (f32 q.pad, .nearestEven, false)
    | some p =>
      let code := (s.bitsAt (q.pixelLine w.aAddr w.aFmt p) (widthOf w.aFmt) (c + 1)).getD c 0
      let index := q.lorigin + m * q.r * q.s * cp + (r * q.s + col) * cp + c
      (if w.aFmt = 0x18 then Num.ofInt (signedOf 32 code) else elemValue w.aFmt code, rndFor w.rnd deck index, w.rnd = 2)

/-- UNROLL (R216). -/
def State.unroll (s : State) (w : VecWord) (q : ConvParams) (deck : Option Deck) (share vl : Nat) : VecEffect :=
  let width := widthOf w.dFmt
  let l := blockLen w.dFmt
  let rowAt := fun (i : Nat) => w.dAddr + i * rowLines q.kcount width
  let nb := ceilDiv q.kcount l
  q.positions.foldl (fun (e : VecEffect) m =>
    let i := m - q.m0
    let es : List (Num × Rnd × Bool) := (upto q.kcount).map fun k => s.unrollElem w q deck m (q.k0 + k)
    let drawn := (es.filter fun (x : Num × Rnd × Bool) => x.2.2).length
    let e := { e with draws := e.draws + drawn }
    if l = 0 then
      let rs : List Narrowed := es.map fun x => narrow w.dFmt x.2.1 x.1
      let e := e.addNarrowed rs
      { e with writes := (64 * rowAt i, packElems width (rs.map fun (x : Narrowed) => x.code)) :: e.writes }
    else
      let bs : List NarrowedBlock := (pieces l (es.map fun x => (x.1, x.2.1))).map fun b =>
        narrowBlock w.dFmt share (computedScale w.dFmt (b.map (·.1))) b
      let scales := (bs.zip (upto nb)).map fun b =>
        scaleWrite q.aux nb i b.2 b.1.scale (bitsOf q.tag0 0 3 + b.2) (bitsOf q.tag0 3 3 + i) false
      let e := e.addBlocks bs
      { e with writes := scales ++ (64 * rowAt i, packElems width (bs.flatMap fun (x : NarrowedBlock) => x.codes)) :: e.writes })
    { steps := q.mrows * ceilDiv q.kcount vl, tapSkip := if q.m0 = 0 && q.k0 = 0 then q.deadTaps else 0 }

/-- The rows a DWCONV or POOL writes, from the value of each (position, channel). -/
def convRows (w : VecWord) (q : ConvParams) (deck : Option Deck) (value : Nat → Nat → Word32) (e : VecEffect) :
    VecEffect :=
  let width := widthOf w.dFmt
  q.positions.foldl (fun (e : VecEffect) m =>
    let rs := (upto q.c).map fun c => narrow w.dFmt (rndFor w.rnd deck (q.lorigin + m * q.c + c)) (f32 (value m c))
    let e := (e.addNarrowed rs)
    { e with
      draws := e.draws + (if w.rnd = 2 then q.c else 0)
      writes := (64 * (w.dAddr + (m - q.m0) * rowLines q.c width), packElems width (rs.map (·.code))) :: e.writes }) e

/-- The in-map input value of a tap and channel as FP32. -/
def State.tapValue (s : State) (w : VecWord) (q : ConvParams) (m r col c : Nat) : Option Word32 :=
  (q.source m r col).map fun p =>
    widen32 w.aFmt ((s.bitsAt (q.pixelLine w.aAddr w.aFmt p) (widthOf w.aFmt) (c + 1)).getD c 0)

/-- The taps of the live rectangle in ascending (r, s). -/
def ConvParams.liveTaps (q : ConvParams) : List (Nat × Nat) :=
  (upto (q.rHi - q.rLo + 1)).flatMap fun i => (upto (q.sHi - q.sLo + 1)).map fun j => (q.rLo + i, q.sLo + j)

/-- All taps in ascending (r, s). -/
def ConvParams.allTaps (q : ConvParams) : List (Nat × Nat) :=
  (upto q.r).flatMap fun i => (upto q.s).map fun j => (i, j)

/-- DWCONV (R218). -/
def State.dwconv (s : State) (w : VecWord) (q : ConvParams) (deck : Option Deck) (vl : Nat) : VecEffect :=
  let rl := rowLines q.c 32
  let word := fun (line c : Nat) => BitVec.ofNat 32 (leNat (s.readMem false (64 * line + 4 * c) 4))
  let value := fun (m c : Nat) =>
    q.liveTaps.foldl (fun acc t =>
      ffma ((s.tapValue w q m t.1 t.2 c).getD q.pad) (word (q.aux + (t.1 * q.s + t.2) * rl) c) acc)
      (word (q.aux + q.r * q.s * rl) c)
  convRows w q deck value
    { steps := q.mrows * (q.taps + 1) * ceilDiv q.c vl, tapSkip := if q.m0 = 0 then q.deadTaps else 0 }

/-- One pooled value (R219). -/
def State.poolValue (s : State) (w : VecWord) (q : ConvParams) (m c : Nat) : Word32 :=
  let inMap := q.allTaps.filterMap fun t => s.tapValue w q m t.1 t.2 c
  match q.kind with
  | 1 => match inMap with
    | [] => 0
    | a :: l => l.foldl fmax (fmax a a)
  | 2 => if inMap.isEmpty then 0 else fdiv (treeSum inMap) (natF32 inMap.length)
  | _ =>
    if inMap.isEmpty then q.pad
    else fdiv (treeSum (q.allTaps.map fun t => (s.tapValue w q m t.1 t.2 c).getD q.pad)) (natF32 (q.r * q.s))

/-- POOL (R219). -/
def State.poolOp (s : State) (w : VecWord) (q : ConvParams) (deck : Option Deck) (vl : Nat) : VecEffect :=
  let empties := (q.positions.filter fun m => q.allTaps.all fun t => (q.source m t.1 t.2).isNone).length
  convRows w q deck (s.poolValue w q) { steps := q.mrows * q.r * q.s * ceilDiv q.c vl, empty := empties }

/-! ### Candidates (R223 to R228) -/

/-- A candidate (Table 10.6). -/
structure Cand where
  x0 : Word32
  y0 : Word32
  x1 : Word32
  y1 : Word32
  score : Word32
  cls : Nat
  head : Nat
  flags : Nat
  position : Nat
  track : Nat

/-- A candidate's 32 bytes. -/
def Cand.bytes (c : Cand) : List Byte :=
  leBytes 4 c.x0.toNat ++ leBytes 4 c.y0.toNat ++ leBytes 4 c.x1.toNat ++ leBytes 4 c.y1.toNat ++ leBytes 4 c.score.toNat
    ++ leBytes 2 c.cls ++ leBytes 1 c.head ++ leBytes 1 c.flags ++ leBytes 4 c.position ++ leBytes 4 c.track

/-- The candidate in 32 bytes. -/
def candOf (b : List Byte) : Cand :=
  let w := fun (i : Nat) => BitVec.ofNat 32 (fieldAt b i 4)
  { x0 := w 0, y0 := w 4, x1 := w 8, y1 := w 12, score := w 16, cls := fieldAt b 20 2, head := fieldAt b 22 1
    flags := fieldAt b 23 1, position := fieldAt b 24 4, track := fieldAt b 28 4 }

/-- Candidates from a line. -/
def State.cands (s : State) (line n : Nat) : List Cand :=
  (upto n).map fun i => candOf (s.readMem false (64 * line + 32 * i) 32)

/-- A candidate with flag bit i set. -/
def Cand.flag (c : Cand) (i : Nat) : Cand := { c with flags := c.flags ||| 2 ^ i }

/-- The box-decode parameter line (Table 10.5). -/
structure BoxParams where
  format : Nat
  flags : Nat
  head : Nat
  anchors : Nat
  classes : Nat
  gridH : Nat
  gridW : Nat
  cap : Nat
  stride : Word32
  scoreMin : Word32
  sx : Word32
  sy : Word32
  ox : Word32
  oy : Word32
  frameW : Nat
  frameH : Nat
  anchorLine : Nat
  pos0 : Nat
  zero : Nat

/-- The fields of a box-decode line. -/
def boxParamsOf (b : List Byte) : BoxParams :=
  let f := fieldAt b
  let w := fun (i : Nat) => BitVec.ofNat 32 (f i 4)
  { format := f 0 1, flags := f 1 1, head := f 2 1, anchors := f 3 1, classes := f 4 2, gridH := f 6 2, gridW := f 8 2
    cap := f 10 2, stride := w 12, scoreMin := w 16, sx := w 20, sy := w 24, ox := w 28, oy := w 32, frameW := f 36 2
    frameH := f 38 2, anchorLine := f 40 4, pos0 := f 44 4, zero := f 48 16 }

/-- An FP32 parameter in [0, 1]. -/
def unitRange (w : Word32) : Bool := inRange32 w 0 one32

/-- Every field within its legal values (Table 10.5). -/
def BoxParams.legal (q : BoxParams) : Bool :=
  let positive := fun (w : Word32) => isFin32 w && flt 0 w
  q.format ≤ 2 && q.flags < 8 && 1 ≤ q.anchors && q.anchors ≤ 16 && 1 ≤ q.classes && q.classes ≤ 1024
    && 1 ≤ q.gridH && q.gridH ≤ 16384 && 1 ≤ q.gridW && q.gridW ≤ 16384 && 1 ≤ q.cap && q.cap ≤ 16384
    && positive q.stride && unitRange q.scoreMin && positive q.sx && positive q.sy && isFin32 q.ox && isFin32 q.oy
    && 1 ≤ q.frameW && q.frameW ≤ 16384 && 1 ≤ q.frameH && q.frameH ≤ 16384
    && (q.format ≠ 0 || q.anchorLine < houseLines) && q.zero = 0

/-- Values per input row. -/
def BoxParams.fields (q : BoxParams) : Nat := 4 + b2n (bitOf q.flags 0) + q.classes

/-- Input rows. -/
def BoxParams.inputs (q : BoxParams) : Nat := q.gridH * q.gridW * q.anchors

/-- The corners of a box in model-input pixels (R224): aw and ah are the anchor's pair. -/
def BoxParams.corners (q : BoxParams) (x y : Nat) (t : Nat → Word32) (aw ah : Word32) : List Word32 :=
  let cx0 := fmul (fadd (natF32 x) half32) q.stride
  let cy0 := fmul (fadd (natF32 y) half32) q.stride
  match q.format with
  | 0 =>
    let cx := fadd cx0 (fmul (t 0) aw)
    let cy := fadd cy0 (fmul (t 1) ah)
    let w2 := fdiv (fmul aw (vExp (fmin (t 2) 0x41800000))) 0x40000000
    let h2 := fdiv (fmul ah (vExp (fmin (t 3) 0x41800000))) 0x40000000
    [fsub cx w2, fsub cy h2, fadd cx w2, fadd cy h2]
  | 1 =>
    [fsub cx0 (fmul (t 0) q.stride), fsub cy0 (fmul (t 1) q.stride), fadd cx0 (fmul (t 2) q.stride),
     fadd cy0 (fmul (t 3) q.stride)]
  | _ => [t 0, t 1, t 2, t 3]

/-- The class and score of an input row (R225): the largest class probability, the lowest index on ties. -/
def BoxParams.score (q : BoxParams) (t : Nat → Word32) : Nat × Word32 :=
  let prob := fun (w : Word32) => if bitOf q.flags 1 then vSigmoid w else w
  let first := 4 + b2n (bitOf q.flags 0)
  let ps := (upto q.classes).map fun i => prob (t (first + i))
  let best := (upto q.classes).foldl (fun b i => if flt (ps.getD b 0) (ps.getD i 0) then i else b) 0
  let obj := prob (t 4)
  let bad := ps.any isNaN32 || (bitOf q.flags 0 && isNaN32 obj)
  (best, if bad then nan32 else if bitOf q.flags 0 then fmul (ps.getD best 0) obj else ps.getD best 0)

/-- What an input row forms: no candidate, a dropped one, or a candidate (R225). -/
inductive Formed where
  | none_ | degenerate | cand (c : Cand)

/-- The candidate of position p and anchor a (R224, R225). -/
def State.formCand (s : State) (w : VecWord) (q : BoxParams) (i : Nat) : Formed :=
  let row := s.row32 (w.aAddr + i * rowLines q.fields (widthOf w.aFmt)) w.aFmt q.fields
  let t := fun (k : Nat) => row.getD k 0
  let sc := q.score t
  if !(isNaN32 sc.2) && !(fle q.scoreMin sc.2) then .none_
  else
    let a := i % q.anchors
    let p := i / q.anchors
    let word := fun (k : Nat) => BitVec.ofNat 32 (leNat (s.readMem false (64 * q.anchorLine + 4 * k) 4))
    let c := q.corners (p % q.gridW) (p / q.gridW) t (word (2 * a)) (word (2 * a + 1))
    let at_ := fun (k : Nat) => c.getD k 0
    let x := fun (k : Nat) => fadd (fmul (at_ k) q.sx) q.ox
    let y := fun (k : Nat) => fadd (fmul (at_ k) q.sy) q.oy
    let m := [x 0, y 1, x 2, y 3]
    let clip := bitOf q.flags 2
    let hold := fun (v : Word32) (top : Nat) => fmin (fmax v 0) (natF32 top)
    let z := if clip then
        [hold (x 0) q.frameW, hold (y 1) q.frameH, hold (x 2) q.frameW, hold (y 3) q.frameH] else m
    let g := fun (k : Nat) => z.getD k 0
    if isNaN32 sc.2 || !(m.all isFin32) || fle (g 2) (g 0) || fle (g 3) (g 1) then .degenerate
    else
      let changed := clip && !((m.zip z).all fun e => feq e.1 e.2)
      .cand { x0 := g 0, y0 := g 1, x1 := g 2, y1 := g 3, score := sc.2, cls := sc.1, head := q.head, flags := b2n changed
              position := (q.pos0 + i) % 2 ^ 32, track := 0 }

/-- An entry put in its place by a strict order. -/
def insertBy {α : Type} (lt : α → α → Bool) (a : α) : List α → List α
  | [] => [a]
  | b :: l => if lt a b then a :: b :: l else b :: insertBy lt a l

/-- A list in a strict order, earlier entries first on ties. -/
def sortBy {α : Type} (lt : α → α → Bool) (l : List α) : List α := l.foldl (fun acc a => insertBy lt a acc) []

/-- BOX_DECODE (R225, R226): `have_` candidates are in D already; the new total goes to S[SB]. -/
def State.boxDecode (s : State) (w : VecWord) (q : BoxParams) (have_ vl : Nat) : VecEffect :=
  let formed := (upto q.inputs).map fun i => s.formCand w q i
  let all := formed.filterMap fun f => match f with
    | .cand c => some c
    | .none_ | .degenerate => none
  let dropped := (formed.filter fun f => match f with
    | .degenerate => true
    | .none_ | .cand _ => false).length
  let room := q.cap - have_
  let excess := all.length - room
  let kept :=
    if excess = 0 then all
    else
      let best := (sortBy (fun (a b : Cand) => flt b.score a.score
        || (feq a.score b.score && a.position < b.position)) all).take room
      (sortBy (fun (a b : Cand) => a.position < b.position) best).map fun c => c.flag 1
  { writes := [(64 * w.dAddr + 32 * have_, kept.flatMap Cand.bytes)]
    scalar := some (w.sb, BitVec.ofNat 32 (have_ + kept.length)), degenerate := dropped, overflow := excess
    steps := 2 * q.inputs * ceilDiv q.fields vl + 15 * ceilDiv q.cap vl }

/-- The intersection over union of two boxes (R227). -/
def iou (a b : Cand) : Word32 :=
  let iw := fmax 0 (fsub (fmin a.x1 b.x1) (fmax a.x0 b.x0))
  let ih := fmax 0 (fsub (fmin a.y1 b.y1) (fmax a.y0 b.y0))
  let inter := fmul iw ih
  let area := fun (c : Cand) => fmul (fsub c.x1 c.x0) (fsub c.y1 c.y0)
  let union := fsub (fadd (area a) (area b)) inter
  if fle union 0 then 0 else fdiv inter union

/-- The walk of NMS (R228): kept candidates, then the numbers suppressed and left unexamined. -/
def nmsWalk (limit : Word32) (agnostic : Bool) (maxOut : Nat) : Nat → List Cand → List Cand → Nat → List Cand × Nat × Nat
  | 0, kept, rest, n => (kept, n, rest.length)
  | _ + 1, kept, [], n => (kept, n, 0)
  | f + 1, kept, c :: l, n =>
    if kept.length = maxOut then (kept, n, (c :: l).length)
    else
      let hit := fun (d : Cand) => (agnostic || d.cls = c.cls) && flt limit (iou c d)
      let l' := l.filter fun d => !hit d
      nmsWalk limit agnostic maxOut f (kept ++ [c]) l' (n + (l.length - l'.length))

/-- NMS (R228) over n candidates. -/
def State.nms (s : State) (w : VecWord) (line : List Byte) (n vl : Nat) : VecEffect :=
  let limit := BitVec.ofNat 32 (fieldAt line 0 4)
  let maxOut := fieldAt line 4 2
  let order := sortBy (fun (a b : Cand) => flt b.score a.score || (feq a.score b.score && (a.head < b.head
    || (a.head = b.head && a.position < b.position)))) (s.cands w.aAddr n)
  let r := nmsWalk limit (bitOf (fieldAt line 6 1) 0) maxOut (n + 1) [] order 0
  let kept := if r.2.2 = 0 then r.1 else r.1.map fun c => c.flag 1
  { writes := [(64 * w.dAddr, kept.flatMap Cand.bytes)], scalar := some (w.sb, BitVec.ofNat 32 kept.length)
    suppressed := r.2.1, overflow := r.2.2, steps := ceilDiv n vl * (15 + maxOut) }

/-- The NMS parameter line is legal (R228). -/
def nmsLegal (line : List Byte) : Bool :=
  unitRange (BitVec.ofNat 32 (fieldAt line 0 4)) && 1 ≤ fieldAt line 4 2 && fieldAt line 4 2 ≤ 1024
    && fieldAt line 6 1 ≤ 1 && fieldAt line 7 57 = 0

/-! ### Track association (R229 to R231) -/

/-- The tracking parameter line (Table 10.7). -/
structure TrackParams where
  tableIn : Nat
  tableOut : Nat
  embLine : Nat
  e : Nat
  embFmt : Nat
  flags : Nat
  alpha : Word32
  iouGate : Word32
  embGate : Word32
  newScore : Word32
  maxMisses : Nat
  confirmHits : Nat
  zero : Nat
  mu : Word32
  beta : Word32
  capture : Nat
  stream : Nat

/-- The fields of a tracking line. -/
def trackParamsOf (b : List Byte) : TrackParams :=
  let f := fieldAt b
  let w := fun (i : Nat) => BitVec.ofNat 32 (f i 4)
  { tableIn := f 0 4, tableOut := f 4 4, embLine := f 8 4, e := f 12 2, embFmt := f 14 1, flags := f 15 1, alpha := w 16
    iouGate := w 20, embGate := w 24, newScore := w 28, maxMisses := f 32 1, confirmHits := f 33 1
    zero := f 34 2 + f 56 8, mu := w 36, beta := w 40, capture := f 44 8, stream := f 52 4 }

/-- CAPACITY of the table at a line (R230). -/
def State.trackCapacity (s : State) (line : Nat) : Nat := fieldAt (s.readMem false (64 * line) 64) 6 2

/-- The lines of a track table. -/
def trackTableLines (cap e : Nat) : Nat := 1 + cap + cap * ceilDiv (4 * e) 64

/-- Every field within its legal values (Table 10.7). -/
def TrackParams.legal (q : TrackParams) (cap : Nat) : Bool :=
  let n := trackTableLines cap q.e
  q.tableIn < houseLines && q.tableOut < houseLines && q.embLine < houseLines && 1 ≤ cap && cap ≤ 1024
    && !overlap q.tableIn n q.tableOut n && 1 ≤ q.e && q.e ≤ 512
    && (q.embFmt = 1 || q.embFmt = 2 || q.embFmt = 3) && q.flags ≤ 1
    && unitRange q.alpha && unitRange q.iouGate && unitRange q.embGate && unitRange q.newScore
    && 1 ≤ q.confirmHits && q.zero = 0 && unitRange q.mu && unitRange q.beta

/-- A track table entry with its embedding (Table 10.8). -/
structure Track where
  id : Nat
  state : Nat
  misses : Nat
  hits : Nat
  cls : Nat
  box : Cand
  vx : Word32
  vy : Word32
  age : Nat
  lastTime : Nat
  origin : Nat
  cost : Word32
  emb : List Word32

/-- A box as a candidate with no other content. -/
def boxOnly (x0 y0 x1 y1 : Word32) : Cand :=
  { x0 := x0, y0 := y0, x1 := x1, y1 := y1, score := 0, cls := 0, head := 0, flags := 0, position := 0, track := 0 }

/-- The entries of a table. -/
def State.readTracks (s : State) (line cap e : Nat) : List Track :=
  (upto cap).map fun i =>
    let b := s.readMem false (64 * (line + 1 + i)) 64
    let f := fieldAt b
    let w := fun (k : Nat) => BitVec.ofNat 32 (f k 4)
    { id := f 0 4, state := f 4 1, misses := f 5 1, hits := f 6 1, cls := f 8 2
      box := boxOnly (w 12) (w 16) (w 20) (w 24), vx := w 28, vy := w 32, age := f 36 4, lastTime := f 40 8
      origin := f 48 4, cost := w 52
      emb := s.row32 (line + 1 + cap + i * ceilDiv (4 * e) 64) 0x01 e }

/-- An entry's 64 bytes; a free entry is zero. -/
def Track.bytes (t : Track) : List Byte :=
  if t.id = 0 then List.replicate 64 0
  else
    leBytes 4 t.id ++ leBytes 1 t.state ++ leBytes 1 t.misses ++ leBytes 1 t.hits ++ [0] ++ leBytes 2 t.cls ++ [0, 0]
      ++ leBytes 4 t.box.x0.toNat ++ leBytes 4 t.box.y0.toNat ++ leBytes 4 t.box.x1.toNat ++ leBytes 4 t.box.y1.toNat
      ++ leBytes 4 t.vx.toNat ++ leBytes 4 t.vy.toNat ++ leBytes 4 t.age ++ leBytes 8 t.lastTime ++ leBytes 4 t.origin
      ++ leBytes 4 t.cost.toNat ++ List.replicate 8 0

/-- A free entry. -/
def freeTrack (e : Nat) : Track :=
  { id := 0, state := 0, misses := 0, hits := 0, cls := 0, box := boxOnly 0 0 0 0, vx := 0, vy := 0, age := 0, lastTime := 0
    origin := 0, cost := 0, emb := List.replicate e 0 }

/-- The unit vector of an embedding: times RSQRT of its sum of squares, or 0 (R231 step 2). -/
def unitVector (v : List Word32) : List Word32 :=
  let q := treeSum (v.map fun x => fmul x x)
  if feq q 0 then v.map fun _ => 0
  else
    let r := vRsqrt q
    v.map fun x => fmul x r

/-- The predicted box of a track (step 1). -/
def Track.predicted (t : Track) : Cand :=
  let k := natF32 (t.misses + 1)
  let dx := fmul t.vx k
  let dy := fmul t.vy k
  boxOnly (fadd t.box.x0 dx) (fadd t.box.y0 dy) (fadd t.box.x1 dx) (fadd t.box.y1 dy)

/-- Whether detection and track are eligible, and their cost (step 3). -/
def TrackParams.pair (q : TrackParams) (d : Cand) (emb : List Word32) (t : Track) : Option Word32 :=
  let dot := treeSum ((emb.zip t.emb).map fun e => fmul e.1 e.2)
  let dist := fmin (fmax (fdiv (fsub one32 dot) 0x40000000) 0) one32
  let v := iou d t.predicted
  if (fle q.iouGate v || fle dist q.embGate) && (!bitOf q.flags 0 || d.cls = t.cls) then
    some (fadd (fmul q.alpha (fsub one32 v)) (fmul (fsub one32 q.alpha) dist))
  else none

/-- Greedy assignment (step 4): (track entry, rank, cost), pairs taken in order. -/
def greedy : List (Nat × Nat × Word32) → List (Nat × Nat × Word32) → List (Nat × Nat × Word32)
  | [], done => done
  | x :: l, done =>
    if done.any fun d => d.1 = x.1 || d.2.1 = x.2.1 then greedy l done else greedy l (done ++ [x])

/-- A matched track (step 5). -/
def TrackParams.matched (q : TrackParams) (t : Track) (d : Cand) (emb : List Word32) (cost : Word32) : Track :=
  let centre := fun (a b : Word32) => fmul (fadd a b) half32
  let k := natF32 (t.misses + 1)
  let smooth := fun (old new : Word32) => fadd (fmul q.beta old) (fmul (fsub one32 q.beta) (fdiv new k))
  let hits := min (t.hits + 1) 255
  { t with
    box := boxOnly d.x0 d.y0 d.x1 d.y1
    vx := smooth t.vx (fsub (centre d.x0 d.x1) (centre t.box.x0 t.box.x1))
    vy := smooth t.vy (fsub (centre d.y0 d.y1) (centre t.box.y0 t.box.y1))
    emb := unitVector ((t.emb.zip emb).map fun e => fadd (fmul q.mu e.1) (fmul (fsub one32 q.mu) e.2))
    hits := hits, misses := 0
    state := if hits ≥ q.confirmHits || t.state = 3 then 2 else t.state
    cls := d.cls, lastTime := q.capture, origin := q.stream, cost := cost, age := t.age + 1 }

/-- An unmatched track (step 6), or none when it ends. -/
def TrackParams.missed (q : TrackParams) (t : Track) : Option Track :=
  let m := min (t.misses + 1) 255
  if t.state = 1 || m > q.maxMisses then none
  else some { t with misses := m, state := if t.state = 2 then 3 else t.state, age := t.age + 1 }

/-- The next ID from n upward that no live track holds, wrapping from 0xFFFFFFFF to 1. -/
def nextTrackId (live : List Nat) : Nat → Nat → Nat
  | 0, n => n
  | f + 1, n =>
    let n := if n = 0 || n > 0xFFFFFFFF then 1 else n
    if live.contains n then nextTrackId live f (n + 1) else n

/-- The state of step 7: entries, candidates so far, NEXT_ID, and the counts. -/
structure Starting where
  tracks : List Track
  cands : List Cand := []
  nextId : Nat
  started : Nat := 0
  full : Nat := 0

/-- One detection of step 7 and 8: matched, a new track, or no track. -/
def TrackParams.start (q : TrackParams) (found : List (Nat × Nat × Word32)) (embs : List (List Word32)) (z : Starting)
    (e : Cand × Nat) : Starting :=
  let d := e.1
  match found.find? fun f => f.2.1 = e.2 with
  | some f => { z with cands := z.cands ++ [{ d with track := (z.tracks.getD f.1 (freeTrack q.e)).id }] }
  | none =>
    if !fle q.newScore d.score then { z with cands := z.cands ++ [d] }
    else match z.tracks.findIdx? fun t => t.id = 0 with
      | none => { z with cands := z.cands ++ [d.flag 3], full := z.full + 1 }
      | some i =>
        let id := nextTrackId (z.tracks.map (·.id)) (z.tracks.length + 2) z.nextId
        let t : Track :=
          { id := id, state := if q.confirmHits = 1 then 2 else 1, misses := 0, hits := 1, cls := d.cls
            box := boxOnly d.x0 d.y0 d.x1 d.y1, vx := 0, vy := 0, age := 0, lastTime := q.capture, origin := q.stream
            cost := 0, emb := embs.getD e.2 [] }
        { z with
          tracks := z.tracks.set i t, cands := z.cands ++ [{ d.flag 2 with track := id }]
          nextId := nextTrackId (id :: z.tracks.map (·.id)) (z.tracks.length + 3) (id + 1), started := z.started + 1 }

/-- TRACK_ASSOC (R231) over n candidates. -/
def State.trackAssoc (s : State) (w : VecWord) (q : TrackParams) (n vl : Nat) : VecEffect :=
  let cap := s.trackCapacity q.tableIn
  let dets := s.cands w.aAddr n
  let embs := (upto n).map fun j => unitVector (s.row32 (q.embLine + j * rowLines q.e (widthOf q.embFmt)) q.embFmt q.e)
  let tracks := s.readTracks q.tableIn cap q.e
  let pairs := (tracks.zip (upto cap)).flatMap fun t => if t.1.id = 0 then [] else
    (dets.zip (upto n)).filterMap fun d => (q.pair d.1 (embs.getD d.2 []) t.1).map fun c => (t.2, d.2, c)
  let idOf := fun (i : Nat) => (tracks.getD i (freeTrack q.e)).id
  let order := sortBy (fun (a b : Nat × Nat × Word32) => flt a.2.2 b.2.2 || (feq a.2.2 b.2.2 && (idOf a.1 < idOf b.1
    || (idOf a.1 = idOf b.1 && a.2.1 < b.2.1)))) pairs
  let found := greedy order []
  let after := (tracks.zip (upto cap)).map fun t =>
    if t.1.id = 0 then (t.1, false)
    else match found.find? fun f => f.1 = t.2 with
      | some f => (q.matched t.1 (dets.getD f.2.1 (boxOnly 0 0 0 0)) (embs.getD f.2.1 []) f.2.2, false)
      | none => match q.missed t.1 with
        | some t' => (t', false)
        | none => (freeTrack q.e, true)
  let ended := (after.filter (·.2)).length
  let header := s.readMem false (64 * q.tableIn) 64
  let z := (dets.zip (upto n)).foldl (q.start found embs) { tracks := after.map (·.1), nextId := fieldAt header 0 4 }
  let live := (z.tracks.filter fun t => t.id ≠ 0).length
  let embLines := ceilDiv (4 * q.e) 64
  { writes := [(64 * w.dAddr, z.cands.flatMap Cand.bytes),
      (64 * q.tableOut, leBytes 4 z.nextId ++ leBytes 2 live ++ leBytes 2 cap ++ List.replicate 56 0),
      (64 * (q.tableOut + 1), z.tracks.flatMap Track.bytes)]
      ++ (z.tracks.zip (upto cap)).map fun t =>
        (64 * (q.tableOut + 1 + cap + t.2 * embLines), t.1.emb.flatMap fun v => leBytes 4 v.toNat)
    started := z.started, ended := ended, full := z.full
    steps := ceilDiv (n * cap * q.e) vl + 21 * ceilDiv (n * cap) vl + 2 * (n + cap) }

/-! ### Operands and checks of the six operations (R214) -/

/-- Operand extents of a word, as (reads, D, TABLE_OUT or scales): line and lines. -/
def State.visionOperands (s : State) (w : VecWord) (n : Nat) :
    List (Nat × Nat) × List (Nat × Nat) :=
  let line := s.readMem false (64 * w.bAddr) 64
  match w.op with
  | 0x62 =>
    let q := boxParamsOf line
    ([(w.aAddr, q.inputs * rowLines q.fields (widthOf w.aFmt)), (w.bAddr, 1)]
      ++ (if q.format = 0 then [(q.anchorLine, ceilDiv (8 * q.anchors) 64)] else []), [(w.dAddr, ceilDiv (32 * q.cap) 64)])
  | 0x63 => ([(w.aAddr, ceilDiv (32 * n) 64), (w.bAddr, 1)], [(w.dAddr, ceilDiv (32 * min n (fieldAt line 4 2)) 64)])
  | 0x64 =>
    let q := trackParamsOf line
    let t := trackTableLines (s.trackCapacity q.tableIn) q.e
    ([(w.aAddr, ceilDiv (32 * n) 64), (w.bAddr, 1), (q.embLine, n * rowLines q.e (widthOf q.embFmt)), (q.tableIn, t)],
      [(w.dAddr, ceilDiv (32 * n) 64), (q.tableOut, t)])
  | _ =>
    let q := convParamsOf line
    let width := widthOf w.dFmt
    let map := (w.aAddr, q.hIn * q.wIn * rowLines q.c (widthOf w.aFmt))
    if w.op = 0x60 then
      let l := blockLen w.dFmt
      ([map, (w.bAddr, 1)], (w.dAddr, q.mrows * rowLines q.kcount width) ::
        (if l = 0 then [] else [(q.aux, q.mrows * ceilDiv (2 * ceilDiv q.kcount l) 64)]))
    else if w.op = 0x65 then
      ([map, (w.bAddr, 1), (q.aux, (q.r * q.s + 1) * rowLines q.c 32)], [(w.dAddr, q.mrows * rowLines q.c width)])
    else ([map, (w.bAddr, 1)], [(w.dAddr, q.mrows * rowLines q.c width)])

/-- The parameter line, and the scalar it constrains, are legal (check 1). -/
def State.visionLegal (s : State) (w : VecWord) (sa : Word32) : Bool :=
  let line := s.readMem false (64 * w.bAddr) 64
  match w.op with
  | 0x62 =>
    let q := boxParamsOf line
    q.legal && sa.toNat ≤ q.cap
  | 0x63 => nmsLegal line
  | 0x64 =>
    let q := trackParamsOf line
    q.legal (s.trackCapacity q.tableIn)
  | _ => (convParamsOf line).legal w.op (blockLen w.dFmt ≠ 0)

/-- The operation has nothing to do (check 3). -/
def State.visionEmpty (s : State) (w : VecWord) (n : Nat) : Bool :=
  match w.op with
  | 0x62 => false
  | 0x63 | 0x64 => n = 0
  | _ =>
    let q := convParamsOf (s.readMem false (64 * w.bAddr) 64)
    q.mrows = 0 || (w.op = 0x60 && q.kcount = 0)

/-- What one of the six operations does. -/
def State.visionEffect (s : State) (w : VecWord) (deck : Option Deck) (share n vl : Nat) (sa : Word32) : VecEffect :=
  let line := s.readMem false (64 * w.bAddr) 64
  match w.op with
  | 0x60 => s.unroll w (convParamsOf line) deck share vl
  | 0x61 => s.poolOp w (convParamsOf line) deck vl
  | 0x62 => s.boxDecode w (boxParamsOf line) sa.toNat vl
  | 0x63 => s.nms w line n vl
  | 0x64 => s.trackAssoc w (trackParamsOf line) n vl
  | _ => s.dwconv w (convParamsOf line) deck vl

end Sys2Proof.Machine
end

