-- ==== Sys2Proof/Machine/VectorOps.lean ====
section
/-! DEFINITION. What the vector operations 0x01 to 0x44 compute (R166 to R175, R192, R197, R198) and how their results are
narrowed, placed and passed on (R121, R122, R164, R165, R170). -/

namespace Sys2Proof.Machine

open Sys2Proof

/-! ### Elementwise operations -/

/-- An INT32 word as an integer. -/
def i32 (w : Word32) : Int := signedOf 32 w.toNat

/-- An integer as an INT32 word. -/
def ofI32 (i : Int) : Word32 := BitVec.ofNat 32 (unsignedOf 32 i)

/-- An integer held to the INT32 range, and whether it was outside. -/
def satI32 (i : Int) : Word32 × Bool :=
  let c := clampInt i (-(2 ^ 31)) (2 ^ 31 - 1)
  (ofI32 c, c ≠ i)

/-- An INT32 result for which the manual states no saturation: exact in range, free outside (log entry 12). -/
def openI32 (op : Nat) (a b : Word32) (i : Int) : Word32 × Bool :=
  if (satI32 i).2 then (Config.vecUnstated op a b, false) else (ofI32 i, false)

/-- An elementwise operation on INT32 words: the result and whether it saturated (Table 8.4, R167). -/
def intOp (op : Nat) (a b sa sb : Word32) : Word32 × Bool :=
  let x := i32 a
  let y := i32 b
  let bit := fun (c : Bool) => ((if c then 1 else 0 : Word32), false)
  match op with
  | 0x01 => satI32 (x + y)
  | 0x02 => satI32 (x - y)
  | 0x03 => satI32 (x * y)
  | 0x04 => openI32 op a b (x * y + i32 sa)
  | 0x05 => (if x < y then b else a, false)
  | 0x06 => (if y < x then b else a, false)
  | 0x07 => openI32 op a b x.natAbs
  | 0x10 => (if x < 0 then 0 else a, false)
  | 0x11 => if x < 0 then openI32 op a sa (x * i32 sa) else (a, false)
  | 0x16 => (ofI32 (min (max x (i32 sa)) (i32 sb)), false)
  | 0x17 => (if b = 0 then sa else a, false)
  | 0x18 => bit (y < x)
  | 0x19 => bit (y ≤ x)
  | 0x1A => bit (x = y)
  | _ => (a, false)

/-- An elementwise operation on FP32 words (Table 8.4, R167).  For SELECT b is the mask bit, for DROPOUT the draw. -/
def floatOp (op : Nat) (a b sa sb : Word32) : Word32 :=
  let bit := fun (c : Bool) => (if c then 1 else 0 : Word32)
  match op with
  | 0x01 => fadd a b
  | 0x02 => fsub a b
  | 0x03 => fmul a b
  | 0x04 => ffma a b sa
  | 0x05 => fmax a b
  | 0x06 => fmin a b
  | 0x07 => if isNaN32 a then nan32 else BitVec.ofNat 32 (a.toNat % 2 ^ 31)
  | 0x08 => vRecip a
  | 0x09 => fsqrt a
  | 0x0A => vRsqrt a
  | 0x0B => vExp a
  | 0x0C => vLog a
  | 0x10 => fmax a 0
  | 0x11 => if isNaN32 a then nan32 else if fle 0 a then a else fmul a sa
  | 0x12 => vSigmoid a
  | 0x13 => vTanh a
  | 0x14 => vGelu a
  | 0x15 => vSilu a
  | 0x16 => fmin (fmax a sa) sb
  | 0x17 => if b = 0 then sa else a
  | 0x18 => bit (flt b a)
  | 0x19 => bit (fle b a)
  | 0x1A => bit (feq a b)
  | 0x29 => if sa.toNat ≤ b.toNat / 2 then fmul a sb else 0
  | _ => a

/-! ### Row operations -/

/-- RSUM of a row (R167). -/
def rowSum (isInt : Bool) (l : List Word32) : Word32 × Nat :=
  if isInt then
    let t := treeFold (fun (x y : Word32 × Nat) =>
      let z := satI32 (i32 x.1 + i32 y.1)
      (z.1, x.2 + y.2 + b2n z.2)) (0, 0) (l.length.log2 + 1) (l.map fun w => (w, 0))
    t
  else (treeSum (l.map fun w => if isNaN32 w then nan32 else w), 0)

/-- RMAX of a row. -/
def rowMax (isInt : Bool) (l : List Word32) : Word32 :=
  match l with
  | [] => 0
  | a :: r => if isInt then r.foldl (fun x y => if i32 x < i32 y then y else x) a else r.foldl fmax (fmax a a)

/-- ARGMAX of a row: the lowest index on ties, the first NaN if any. -/
def rowArgmax (isInt : Bool) (l : List Word32) : Word32 :=
  match (if isInt then none else l.findIdx? isNaN32) with
  | some i => BitVec.ofNat 32 i
  | none =>
    let at_ := fun (i : Nat) => l.getD i 0
    let less := fun (i j : Nat) => if isInt then decide (i32 (at_ i) < i32 (at_ j)) else flt (at_ i) (at_ j)
    BitVec.ofNat 32 ((upto l.length).foldl (fun b i => if less b i then i else b) 0)

/-- SOFTMAX of a row with its active positions, and whether the row is flagged (R168). -/
def softmaxRow (l : List Word32) (active : List Bool) : List Word32 × Bool :=
  let on := (l.zip active).map fun e => e.2 && e.1 ≠ 0xFF800000
  let tops := ((l.zip active).filter fun e => e.2 && e.1 = 0x7F800000).length
  if l.any isNaN32 then (l.map fun _ => nan32, false)
  else if !on.any id then (l.map fun _ => 0, true)
  else if tops ≠ 0 then
    ((l.zip active).map fun e => if e.2 && e.1 = 0x7F800000 then fdiv one32 (natF32 tops) else 0, false)
  else
    let mx := ((l.zip active).filter (·.2)).foldl (fun m e => fmax m e.1) 0xFF800000
    let es := (l.zip active).map fun e => if e.2 then vExp (fsub e.1 mx) else 0
    let z := treeSum es
    (((l.zip active).zip es).map fun e =>
      if e.1.2 then within 4 0x33 ((f32 e.2).div (f32 z)) e.1.1 z else 0, false)

/-- LAYERNORM of a row (R169). -/
def layernormRow (l gamma beta : List Word32) (eps : Word32) : List Word32 × Bool :=
  let n := natF32 l.length
  if l.any isNaN32 then (l.map fun _ => nan32, false)
  else
    let mu := fdiv (treeSum l) n
    let v := fdiv (treeSum (l.map fun a => fmul (fsub a mu) (fsub a mu))) n
    let t := fadd v eps
    if feq t 0 then ((upto l.length).map fun i => beta.getD i 0, true)
    else
      let r := vRsqrt t
      ((l.zip (upto l.length)).map fun e =>
        within 4 0x34 (f32 (fadd (fmul (fmul (fsub e.1 mu) r) (gamma.getD e.2 0)) (beta.getD e.2 0))) e.1 t, false)

/-- RMSNORM of a row (R169). -/
def rmsnormRow (l gamma : List Word32) (eps : Word32) : List Word32 × Bool :=
  if l.any isNaN32 then (l.map fun _ => nan32, false)
  else
    let t := fadd (fdiv (treeSum (l.map fun a => fmul a a)) (natF32 l.length)) eps
    if feq t 0 then (l.map fun _ => 0, true)
    else
      let r := vRsqrt t
      ((l.zip (upto l.length)).map fun e =>
        within 4 0x35 (f32 (fmul (fmul e.1 r) (gamma.getD e.2 0))) e.1 t, false)

/-- PERMUTE of a row with group length g: the values and the elements given +0 (R174). -/
def permuteRow (g : Nat) (l idx : List Word32) : List Word32 × Nat :=
  let out := (l.zip (upto l.length)).map fun e =>
    let start := e.2 / g * g
    let present := min g (l.length - start)
    let i := i32 (idx.getD e.2 0)
    if 0 ≤ i && i < present then (l.getD (start + i.toNat) 0, 0) else ((0 : Word32), 1)
  (out.map (·.1), sumNat (out.map (·.2)))

/-- GATHER of a row (R175). -/
def gatherRow (l idx : List Word32) : List Word32 × Nat :=
  let out := idx.map fun x =>
    let i := i32 x
    if 0 ≤ i && i < l.length then (l.getD i.toNat 0, 0) else ((0 : Word32), 1)
  (out.map (·.1), sumNat (out.map (·.2)))

/-- EXPAND over a whole operand: each position's value, none where the mask bit is 0; and the elements given +0 (R173). -/
def expandSeq : List Word32 → List Bool → List (Option Word32) × Nat
  | _, [] => ([], 0)
  | l, false :: m =>
    let r := expandSeq l m
    (none :: r.1, r.2)
  | [], true :: m =>
    let r := expandSeq [] m
    (some 0 :: r.1, r.2 + 1)
  | a :: l, true :: m =>
    let r := expandSeq l m
    (some a :: r.1, r.2)

/-! ### Operands -/

/-- Rows of a link. -/
def LinkData.rows (d : LinkData) : Nat := d.e1 * d.e2 * d.e3

/-- The logical index of element i0 of row r of a link's stream (R165). -/
def LinkData.logical (d : LinkData) (r i0 : Nat) : Nat :=
  (d.lorigin + i0 + d.l1 * (r % d.e1) + d.l2 * (r / d.e1 % d.e2) + d.l3 * (r / (d.e1 * d.e2))) % 2 ^ 64

/-- The element codes of a House operand, row after row. -/
def State.codesOf (s : State) (d : Desc) (w : Nat) : List Nat :=
  (upto d.rows).flatMap fun r => s.bitsAt (d.rowLine r) w d.e0

/-- The scale code of element i0 of row r of a block-format operand (R165, R128). -/
def State.scaleCodeAt (s : State) (d : Desc) (l r i0 : Nat) : Nat :=
  let shape := d.scaleShape l
  let at_ := if d.side then (r / l, i0) else (r, i0 / l)
  leNat (s.readMem false (scaleByte d.scaleBase shape.2 at_.1 at_.2) 1)

/-- The values of a House operand as FP32 or INT32 words, with the products that saturated (R121, R167). -/
def State.valuesOf (s : State) (d : Desc) (fmt : Nat) : List (Word32 × Bool) :=
  let l := blockLen fmt
  let codes := s.codesOf d (widthOf fmt)
  if l = 0 then codes.map fun c => (widen32 fmt c, false)
  else (codes.zip (upto codes.length)).map fun c =>
    let v := ((elemValue fmt c.1).mul (elemValue 0x1F (s.scaleCodeAt d l (c.2 / d.e0) (c.2 % d.e0)))).round32
    (v.1.toF32, v.2)

/-- Every scale entry of a block-format operand carries its tag (R165, R171). -/
def State.descTagsOk (s : State) (d : Desc) (fmt : Nat) : Bool :=
  let l := blockLen fmt
  let shape := d.scaleShape l
  l = 0 || (upto shape.1).all fun i => (upto shape.2).all fun j =>
    scaleTagOk (leNat (s.readMem false (scaleByte d.scaleBase shape.2 i j) 2))
      (d.kb0 + if d.side then i else j) (d.rc0 + if d.side then j else i) d.side

/-- What a word computes before conversion: the values, whether they are INT32, rows and row length, and counts. -/
structure VecRaw where
  values : List (Option Word32)
  isInt : Bool
  e0 : Nat
  saturate : Nat := 0
  oob : Nat := 0
  row : Nat := 0
  count : Option Nat := none

/-- The rows of a list. -/
def rowsOf {α : Type} (e0 : Nat) (l : List α) : List (List α) := pieces e0 l

/-- The computation of a word over A's values in rows of e0, B's words, and the scalars it read (Table 8.4).  `index` gives the
logical index of position i for the draws of RAND and DROPOUT. -/
def vecCompute (w : VecWord) (a : LinkData) (b : List Word32) (sa sb : Word32) (deck : Option Deck) (index : Nat → Nat) :
    VecRaw :=
  let n := a.values.length
  let isInt := a.isInt
  let some_ := fun (l : List Word32) => l.map some
  let rows := rowsOf a.e0 a.values
  let bRow := fun (r : Nat) => (b.drop (r * a.e0 % max 1 b.length)).take a.e0
  let perRow := fun (f : Nat → List Word32 → Word32) =>
    some_ ((rows.zip (upto rows.length)).map fun e => f e.2 e.1)
  match w.op with
  | 0x28 => { values := (upto n).map fun i => some (slotDraw deck drawRand (index i)), isInt := true, e0 := a.e0 }
  | 0x29 =>
    { values := (a.values.zip (upto n)).map fun e => some (floatOp 0x29 e.1 (slotDraw deck drawDropout (index e.2)) sa sb)
      isInt := false, e0 := a.e0 }
  | 0x30 =>
    let sums := rows.map (rowSum isInt)
    { values := some_ (sums.map (·.1)), isInt := isInt, e0 := 1, saturate := sumNat (sums.map (·.2)) }
  | 0x31 => { values := perRow fun _ l => rowMax isInt l, isInt := isInt, e0 := 1 }
  | 0x32 => { values := perRow fun _ l => rowArgmax isInt l, isInt := true, e0 := 1 }
  | 0x33 =>
    let out := (rows.zip (upto rows.length)).map fun e =>
      softmaxRow e.1 (if w.bSrc = 2 then e.1.map fun _ => true else (bRow e.2).map fun m => m ≠ 0)
    { values := some_ (out.flatMap (·.1)), isInt := false, e0 := a.e0, row := (out.filter (·.2)).length }
  | 0x34 =>
    let out := rows.map fun l => layernormRow l (b.take a.e0) (b.drop a.e0) sa
    { values := some_ (out.flatMap (·.1)), isInt := false, e0 := a.e0, row := (out.filter (·.2)).length }
  | 0x35 =>
    let out := rows.map fun l => rmsnormRow l (b.take a.e0) sa
    { values := some_ (out.flatMap (·.1)), isInt := false, e0 := a.e0, row := (out.filter (·.2)).length }
  | 0x40 =>
    let out := (rows.zip (upto rows.length)).map fun e => permuteRow sa.toNat e.1 (bRow e.2)
    { values := some_ (out.flatMap (·.1)), isInt := isInt, e0 := a.e0, oob := sumNat (out.map (·.2)) }
  | 0x41 =>
    let be0 := if rows.length = 0 then 0 else b.length / rows.length
    let out := (rows.zip (rowsOf be0 b)).map fun e => gatherRow e.1 e.2
    { values := some_ (out.flatMap (·.1)), isInt := isInt, e0 := be0, oob := sumNat (out.map (·.2)) }
  | 0x42 =>
    let kept := ((a.values.zip b).filter fun e => e.2 ≠ 0).map (·.1)
    { values := some_ kept, isInt := isInt, e0 := a.e0, count := some kept.length }
  | 0x43 =>
    let r := expandSeq a.values (b.map fun m => m ≠ 0)
    { values := r.1, isInt := isInt, e0 := a.e0, oob := r.2 }
  | 0x44 => { values := List.replicate n (some sa), isInt := isInt, e0 := a.e0 }
  | _ =>
    let bAt := fun (i : Nat) => if w.bSrc = 1 then sb else b.getD (i % max 1 b.length) 0
    let vs := (a.values.zip (upto n)).map fun e =>
      if isInt then intOp w.op e.1 (bAt e.2) sa sb else (floatOp w.op e.1 (bAt e.2) sa sb, false)
    { values := some_ (vs.map (·.1)), isInt := isInt, e0 := a.e0, saturate := (vs.filter (·.2)).length }

/-! ### Results -/

/-- A result word converted to a non-block format. -/
def convertWord (fmt : Nat) (rnd : Rnd) (isInt : Bool) (v : Word32) : Narrowed :=
  if fmt = 0x18 && isInt then { code := v.toNat }
  else narrow fmt rnd (if isInt then Num.ofInt (i32 v) else f32 v)

/-- Element codes of rows of e0 written to a destination; a position with none keeps its contents (R164, R173). -/
def State.placeCodes (s : State) (d : Desc) (width e0 : Nat) (codes : List (Option Nat)) : List (Nat × List Byte) :=
  ((rowsOf e0 codes).zip (upto (ceilDiv codes.length e0))).map fun r =>
    let line := d.rowLine r.2
    let old := if r.1.all Option.isSome then [] else s.bitsAt line width r.1.length
    (64 * line, packElems width ((r.1.zip (upto r.1.length)).map fun c => c.1.getD (old.getD c.2 0)))

/-- The blocks of a result of rows of e0: for each scale entry (row, column) its element positions in order (R165). -/
def blockPositions (d : Desc) (l e0 rows : Nat) : List ((Nat × Nat) × List Nat) :=
  if d.side then
    (upto (ceilDiv rows l)).flatMap fun j => (upto e0).map fun n =>
      ((j, n), ((upto l).filter fun i => j * l + i < rows).map fun i => (j * l + i) * e0 + n)
  else
    (upto rows).flatMap fun r => (upto (ceilDiv e0 l)).map fun j =>
      ((r, j), ((upto l).filter fun i => j * l + i < e0).map fun i => r * e0 + j * l + i)

/-- A block narrowing (R125, R126, R170): element codes by position, scale writes, and the counts. -/
def vecBlocks (fmt share : Nat) (d : Desc) (e0 : Nat) (vals : List (Num × Rnd)) (carried : Option (Nat → Int)) :
    List Nat × List (Nat × List Byte) × List NarrowedBlock :=
  let l := blockLen fmt
  let rows := vals.length / max 1 e0
  let n := (d.scaleShape l).2
  let at_ := fun (i : Nat) => vals.getD i (Num.zero, Rnd.nearestEven)
  let pos := blockPositions d l e0 rows
  let bs := (pos.zip (upto pos.length)).map fun p =>
    let b := p.1.2.map at_
    let s := match carried with
      | some f => f p.2
      | none => computedScale fmt (b.map (·.1))
    (p.1, narrowBlock fmt share s b)
  let flat := bs.flatMap fun b => b.1.2.zip b.2.codes
  let table := flat.foldl (fun (t : List (Nat × Nat)) e => aset t e.1 e.2) []
  let kb := fun (rc : Nat × Nat) => if d.side then rc.1 else rc.2
  let rc := fun (p : Nat × Nat) => if d.side then p.2 else p.1
  (table.map (·.2),
    bs.map fun b => scaleWrite d.scaleBase n b.1.1.1 b.1.1.2 b.2.scale (d.kb0 + kb b.1.1) (d.rc0 + rc b.1.1) d.side,
    bs.map (·.2))

/-- Passes of an operation (Table 8.4). -/
def vecPasses (op : Nat) : Nat := if op = 0x33 || op = 0x34 then 3 else if op = 0x35 || op = 0x41 then 2 else 1

end Sys2Proof.Machine
end

