-- ==== Sys2Proof/Machine/Vector.lean ====
section
/-! DEFINITION. Vector engines: checks, issue, completion, link groups, parity failures and rehearsal mode, contexts, split modes
and the class 0x07 vector commands (R154 to R187, R214, R235, R236). -/

namespace Sys2Proof.Machine

open Sys2Proof

/-! ### Queues and operands -/

/-- A part of a vector engine. -/
def State.vecPart (s : State) (e p : Nat) : VecPart := (s.vec e).parts.getD p {}

/-- A part of a vector engine changed. -/
def State.modVecPart (s : State) (e p : Nat) (f : VecPart → VecPart) : State :=
  s.modVec e fun v => { v with parts := modAt v.parts p f }

/-- The head job of a part changed. -/
def State.modVecHead (s : State) (e p : Nat) (f : VecJob → VecJob) : State :=
  s.modVecPart e p fun q => match q.queue with
    | j :: l => { q with queue := f j :: l }
    | [] => q

/-- A scalar register of the bay. -/
def State.scalar (s : State) (e i : Nat) : Word32 := (s.vec e).scalars.getD i 0

/-- The job with the scalar registers it reads at issue (R160). -/
def State.readScalars (s : State) (e : Nat) (j : VecJob) : VecJob :=
  let w := vecWordOf j.word
  { j with sa := s.scalar e w.sa, sb := s.scalar e w.sb, s61 := s.scalar e 61, s62 := s.scalar e 62, s63 := s.scalar e 63 }

/-- The operand of a job at a line, of a length in count mode (R159, R163). -/
def State.jobDesc (s : State) (j : VecJob) (line fmt len : Nat) : Desc :=
  s.vecDesc j.descriptor line fmt len j.s61 j.s62 j.s63

/-- The count-mode lengths of B and D for a word of length n. -/
def bCount (w : VecWord) (n : Nat) : Nat := if w.op = 0x22 then ceilDiv n (blockLen w.dFmt) else n
def dCount (w : VecWord) (n : Nat) : Nat := if 0x30 ≤ w.op && w.op ≤ 0x32 then 1 else n

/-- The word reads B from the House. -/
def VecWord.readsB (w : VecWord) : Bool := w.bSrc = 0 && vecBUse w.op ≠ some .none_

/-- Format and bits per element of B (Table 8.4). -/
def VecWord.bFmt (w : VecWord) : Nat × Nat :=
  match vecBUse w.op with
  | some .mask | some .maskOrNone => (0, 1)
  | some .rows => (0x01, 32)
  | some .indices | some .exponents => (0x18, 32)
  | _ => (w.aFmt, widthOf w.aFmt)

/-- Bits per element of D: one for a comparison's mask. -/
def VecWord.dWidth (w : VecWord) : Nat := if isCompare w.op then 1 else widthOf w.dFmt

/-- A's operand: its own, or for RAND and FILL the shape of the result. -/
def State.descA (s : State) (j : VecJob) : Desc :=
  let w := vecWordOf j.word
  let n := w.count j.sb
  if readsA w.op then s.jobDesc j w.aAddr w.aFmt n
  else s.jobDesc j (if w.dDst = 1 then w.aAddr else w.dAddr) w.dFmt n

/-- B's operand; in count mode LAYERNORM's β row follows its γ row (R159). -/
def State.descB (s : State) (j : VecJob) : Desc :=
  let w := vecWordOf j.word
  let d := s.jobDesc j w.bAddr w.bFmt.1 (bCount w (w.count j.sb))
  if w.op = 0x34 && !j.descriptor then { d with e1 := 2 } else d

/-- The result's operand. -/
def State.descD (s : State) (j : VecJob) : Desc :=
  let w := vecWordOf j.word
  s.jobDesc j w.dAddr w.dFmt (dCount w (w.count j.sb))

/-- The stream a word with A_SRC 1 or 2 takes. -/
def VecPart.source (q : VecPart) (aSrc : Nat) : Option LinkData :=
  if aSrc = 1 then q.link else if aSrc = 2 then q.delivered else none

/-! ### Checks (Table 8.2) -/

/-- The scalar values that Table 8.4 constrains. -/
def scalarsLegal (w : VecWord) (sa sb : Word32) : Bool :=
  let isInt := w.aFmt = 0x18
  match w.op with
  | 0x16 => if isInt then !(i32 sb < i32 sa) else !flt sb sa
  | 0x29 => !bitOf sa.toNat 31
  | 0x34 | 0x35 => !isNaN32 sa && !flt sa 0
  | 0x40 => [1, 2, 4, 8, 16, 32, 64, 128].contains sa.toNat
  | _ => true

/-- The operands the word names in the House are in the shape of its row length and row count. -/
def shapeOk (w : VecWord) (descriptor : Bool) (e0 rows : Nat) (b d : Desc) : Bool :=
  let same := fun (x : Desc) => x.e0 = e0 && (!descriptor || x.rows = rows)
  let hasD := w.dDst ≠ 1
  match w.op with
  | 0x30 | 0x31 | 0x32 => !hasD || !descriptor || d.e0 * d.rows = rows
  | 0x34 => b.e0 = e0 && b.rows ≥ 2 && (!hasD || same d)
  | 0x35 => b.e0 = e0 && b.rows ≥ 1 && (!hasD || same d)
  | 0x41 => e0 ≤ 4096 && b.rows = rows && (!hasD || (d.e0 = b.e0 && d.rows = b.rows))
  | 0x42 => same b && (!descriptor || e0 * rows ≤ d.e0 * d.rows)
  | 0x43 => !hasD || (d.e0 = b.e0 && d.rows = b.rows)
  | 0x22 => (w.bSrc = 1 || !descriptor || b.e0 * b.rows = (d.scaleShape (blockLen w.dFmt)).1 * (d.scaleShape (blockLen w.dFmt)).2)
      && (!hasD || same d)
  | _ => (!w.readsB || same b) && (!hasD || same d)

/-- Check 1: fields, scalars and descriptors. -/
def State.vecLegal (s : State) (j : VecJob) : Bool :=
  let w := vecWordOf j.word
  let bytes := fun (line : Nat) => s.readMem false (64 * line) 64
  if isVision w.op then
    w.legal && (w.len ≠ 0x7FFF || j.sb.toNat ≤ (if w.op = 0x64 then 1024 else 16384)) && s.visionLegal w j.sa
  else
    let a := s.descA j
    let b := s.descB j
    let d := s.descD j
    w.legal && (w.len ≠ 0x7FFF || j.sb.toNat ≤ 16384) && scalarsLegal w j.sa j.sb
      && (!j.descriptor ||
        ((w.aSrc ≠ 0 || !readsA w.op || (descLegal (bytes w.aAddr) false 0 && a.fmt = w.aFmt))
          && (!w.readsB || (descLegal (bytes w.bAddr) false 0 && (w.bFmt.2 = 1 || b.fmt = w.bFmt.1)))
          && (w.dDst = 1 || (descLegal (bytes w.dAddr) true w.dWidth && (isCompare w.op || d.fmt = w.dFmt)))))
      && (w.aSrc ≠ 0 || shapeOk w j.descriptor a.e0 a.rows b d)

/-- The array instruction of a part that delivers next (R177). -/
def State.nextDelivery (s : State) (a p : Nat) : Option ArrayJob :=
  (s.arrayPart a p).queue.find? fun j => (arrayWordOf j.word).toVector

/-- The word takes A from the link and the link's stream fits it (R176). -/
def linkFits (w : VecWord) (j : VecJob) (l : LinkData) (b d : Desc) : Bool :=
  w.len ≠ 0x7FFF && !([0x33, 0x34, 0x35, 0x41, 0x42, 0x43].contains w.op) && (w.aFmt = (if l.isInt then 0x18 else 0x01))
    && (j.descriptor || w.len = l.e0) && shapeOk w j.descriptor l.e0 l.rows b d && l.stage < 7
    && !(l.rowOp && isRowOp w.op)

/-- The word takes A from the array part of the same number (R177). -/
def State.deliveryFits (s : State) (e p : Nat) (j : VecJob) (w : VecWord) (b d : Desc) : Bool :=
  match s.nextDelivery e p with
  | none => false
  | some x =>
    let v := arrayWordOf x.word
    x.owner = j.owner && (s.vec e).split = (s.array e).split && w.aFmt = (if v.int32 then 0x18 else 0x01)
      && (j.descriptor || w.count j.sb = v.n) && shapeOk w j.descriptor v.n v.m b d

/-- Check 2: length mode, link group, delivery, and a deck for words that draw (R209). -/
def State.vecGroupOk (s : State) (e p : Nat) (j : VecJob) (next : Option VecJob) : Bool :=
  let w := vecWordOf j.word
  let q := s.vecPart e p
  let isRun : Bool := match j.owner with
    | .run _ => true
    | .chain _ => false
  let deckOk := !w.draws || (s.ownerDeck j.owner).isSome
  if isVision w.op then deckOk
  else
    let b := s.descB j
    let d := s.descD j
    deckOk && (!j.descriptor || w.len = 0)
      && (match w.aSrc with
        | 1 => match q.link with
          | some l => linkFits w j l b d
          | none => false
        | 2 => !isRun && s.deliveryFits e p j w b d
        | _ => true)
      && (w.dDst = 0 ||
        ((w.dFmt = 0x01 || w.dFmt = 0x18) && (match next with
          | some n =>
            let x := vecWordOf n.word
            x.aSrc = 1 && x.aFmt = w.dFmt && n.owner = j.owner
          | none => !isRun)))

/-- Check 3: the length or an extent is zero. -/
def State.vecEmpty (s : State) (j : VecJob) : Bool :=
  let w := vecWordOf j.word
  if isVision w.op then s.visionEmpty w (w.count j.sb)
  else
    let zero := fun (d : Desc) => d.e0 = 0 || d.rows = 0
    (!j.descriptor && w.count j.sb = 0)
      || (j.descriptor && ((w.aSrc = 0 && zero (s.descA j)) || (w.readsB && zero (s.descB j))
        || (w.dDst ≠ 1 && zero (s.descD j))))

/-- Extents of a House operand: its elements and, for a block format, its scale tensor. -/
def descExtents (d : Desc) (width fmt : Nat) : List (Nat × Nat) :=
  let l := blockLen fmt
  let shape := d.scaleShape l
  (d.base, d.lines width) :: (if l = 0 then [] else [(d.scaleBase, shape.1 * ceilDiv (2 * shape.2) 64)])

/-- Extents the word reads and writes. -/
def State.vecExtents (s : State) (j : VecJob) : List (Nat × Nat) × List (Nat × Nat) :=
  let w := vecWordOf j.word
  if isVision w.op then s.visionOperands w (w.count j.sb)
  else
    ((if w.aSrc = 0 && readsA w.op then descExtents (s.descA j) (widthOf w.aFmt) w.aFmt else [])
      ++ (if w.readsB then [((s.descB j).base, (s.descB j).lines w.bFmt.2)] else []),
     if w.dDst = 1 then [] else descExtents (s.descD j) w.dWidth (if isCompare w.op then 0 else w.dFmt))

/-- Check 4: operands lie in held buffers; for 0x60 to 0x65 no D range overlaps an A or B range (R214). -/
def State.vecHeld (s : State) (j : VecJob) : Bool :=
  let w := vecWordOf j.word
  let x := s.vecExtents j
  let g := s.ownerGroup j.owner
  ((x.1 ++ x.2).all fun o => s.holds g o.1 o.2)
    && (!isVision w.op || x.2.all fun d => (x.1.take 2).all fun a => !overlap d.1 d.2 a.1 a.2)

/-- The first check of Table 8.2 that fails, check 5 apart. -/
def State.vecCheck (s : State) (e p : Nat) (j : VecJob) (next : Option VecJob) : Option Status :=
  if !s.vecLegal j then some .outOfRange
  else if !s.vecGroupOk e p j next then some .wrongState
  else if s.vecEmpty j then some .empty
  else if !s.vecHeld j then some .outOfRange
  else none

/-- Check 5: the scale pre-check (R171). -/
def State.vecTagsOk (s : State) (j : VecJob) : Bool :=
  let w := vecWordOf j.word
  isVision w.op || w.aSrc ≠ 0 || !readsA w.op || s.descTagsOk (s.descA j) w.aFmt

/-! ### Issue (R161) -/

/-- The part of a job's inputs that the scoreboard knows. -/
def State.inputsReady (s : State) (j : VecJob) : Bool :=
  (s.vecExtents j).1.all fun o => s.rowsReady j.tile (o.1, 0, o.2, 1) && s.linesClean o.1 o.2

/-- When the last scoreboard signal that a job waited for was made (R237). -/
def State.signalTime (s : State) (j : VecJob) : Nat :=
  ((s.scoreboard.filter fun t => (match j.tile with
      | some k => t.1 < k
      | none => true) && (s.vecExtents j).1.any fun o =>
        overlap t.2.line ((t.2.rows - 1) * t.2.pitch + t.2.width) o.1 o.2).map fun t => t.2.signalledAt).foldl max 0

/-- The head job of a part leaves with a status and flags. -/
def State.finishVec (s : State) (e p : Nat) (j : VecJob) (st : Status) (flags : Nat) : State :=
  let s := s.modVecPart e p fun q => { q with
    queue := q.queue.drop 1, last := st, flags := flags, doneAt := s.time.elapsed
    rehearsal := q.rehearsal && (match q.queue.drop 1 with
      | n :: _ => (vecWordOf n.word).aSrc = 1
      | [] => false) }
  let s := s.modVec e fun v => { v with instructions := v.instructions.inc }
  (s.wordDone j.owner st flags).feedRuns

/-- VECTOR_INSTRUCTION_ISSUE: the head instruction is checked, and issued when its inputs are there. -/
def State.vecIssue (s : State) (e p : Nat) : State :=
  let q := s.vecPart e p
  match q.queue with
  | [] => s
  | j :: rest =>
    let w := vecWordOf j.word
    let isRun : Bool := match j.owner with
      | .run _ => true
      | .chain _ => false
    if j.phase = .issued || s.time.elapsed < (s.vec e).splitAt || (w.dDst ≠ 0 && rest.isEmpty && !isRun) then s
    else
      let j := s.readScalars e j
      match s.vecCheck e p j rest.head? with
      | some st =>
        let s := s.modVecPart e p fun q => { q with link := none }
        (s.signalTile j.tile).finishVec e p j st 0
      | none =>
        if !s.inputsReady j || !s.vecTagsOk j then s
        else
          let waited := s.signalTime j - max j.queuedAt q.doneAt
          let s := s.modVec e fun v => { v with scoreboardWait := v.scoreboardWait.add 32 (6 * waited / 5) }
          s.modVecHead e p fun _ => { j with phase := .issued }

/-! ### Completion (R179, R160, R162) -/

/-- FLUSH_SHARE of a slot's widening entry, 128 when there is none (R133, R170). -/
def State.flushShare (s : State) (o : Owner) (slot : Nat) : Nat :=
  match s.ownerWatch o slot with
  | some x => x.flushShare
  | none => 128

/-- The stream a word takes as A, and the products of a block-format source that saturated. -/
def State.inputA (s : State) (e p : Nat) (j : VecJob) : LinkData × Nat :=
  let w := vecWordOf j.word
  match (s.vecPart e p).source w.aSrc with
  | some l => (l, 0)
  | none =>
    let d := s.descA j
    let vs := if readsA w.op then s.valuesOf d w.aFmt else List.replicate (d.e0 * d.rows) (0, false)
    ({ values := vs.map (·.1), e0 := d.e0, e1 := d.e1, e2 := d.e2, e3 := d.e3, lorigin := d.lorigin, l1 := d.l1, l2 := d.l2
       l3 := d.l3, isInt := w.aFmt = 0x18 && readsA w.op || (w.op = 0x44 && w.aFmt = 0x18)
       sealed := readsA w.op && s.lineSealed d.base }, (vs.filter (·.2)).length)

/-- B's words: mask bits, indices, exponents, row vectors or values. -/
def State.inputB (s : State) (j : VecJob) : List Word32 :=
  let w := vecWordOf j.word
  if !w.readsB then []
  else
    let d := s.descB j
    (s.codesOf d w.bFmt.2).map fun c => if w.bFmt.2 = 1 then BitVec.ofNat 32 c else widen32 w.bFmt.1 c

/-- What an operation 0x01 to 0x44 does. -/
def State.plainEffect (s : State) (e p : Nat) (j : VecJob) (deck : Option Deck) : VecEffect :=
  let w := vecWordOf j.word
  let ain := s.inputA e p j
  let a := ain.1
  let d := s.descD j
  let inHouse := w.dDst ≠ 1
  let raw := vecCompute w a (s.inputB j) j.sa j.sb deck fun i =>
    if inHouse then d.logical (i / max 1 d.e0) (i % max 1 d.e0) else a.logical (i / max 1 a.e0) (i % max 1 a.e0)
  let logical := fun (i : Nat) =>
    if inHouse then d.logical (i / max 1 d.e0) (i % max 1 d.e0)
    else a.logical (i / max 1 raw.e0) (i % max 1 raw.e0)
  let steps := vecPasses w.op * a.rows * ceilDiv a.e0 j.vl
  let base : VecEffect :=
    { saturate := raw.saturate, saturated := ain.2, oob := raw.oob, row := raw.row, steps := steps
      scalar := raw.count.map fun n => (w.sb, BitVec.ofNat 32 n)
      draws := (if w.op = 0x28 || w.op = 0x29 then raw.values.length else 0)
        + (if w.rnd = 2 then (raw.values.filter Option.isSome).length else 0) }
  let sealed := a.sealed || (w.readsB && s.lineSealed (s.descB j).base)
  if isCompare w.op then
    { base with writes := s.placeCodes d 1 d.e0 (raw.values.map fun v => v.map (·.toNat)) }
  else if blockLen w.dFmt ≠ 0 then
    let vals := (raw.values.zip (upto raw.values.length)).map fun v =>
      (f32 (v.1.getD 0), rndFor w.rnd deck (logical v.2))
    let bWords := s.inputB j
    let carried := if w.op = 0x22 then
        some fun (k : Nat) => signedOf 16 ((if w.bSrc = 1 then j.sb else bWords.getD k 0).toNat) else none
    let r := vecBlocks w.dFmt (s.flushShare j.owner w.slot) d raw.e0 vals carried
    { base.addBlocks r.2.2 with
      writes := r.2.1 ++ s.placeCodes d (widthOf w.dFmt) raw.e0 (r.1.map some) }
  else
    let rs := (raw.values.zip (upto raw.values.length)).map fun v =>
      v.1.map fun x => convertWord w.dFmt (rndFor w.rnd deck (logical v.2)) raw.isInt x
    let out := base.addNarrowed (rs.filterMap id)
    let writes := if inHouse then
        s.placeCodes d (widthOf w.dFmt) d.e0 (rs.map fun r => r.map (·.code)) else []
    let one := raw.e0 = 1 && a.e0 ≠ 1
    let link : Option LinkData := if w.dDst = 0 then none else some
      { values := rs.map fun r => match r with
          | some x => BitVec.ofNat 32 x.code
          | none => 0
        e0 := raw.e0, e1 := a.e1, e2 := a.e2, e3 := a.e3
        lorigin := if inHouse then d.lorigin else a.lorigin
        l1 := if inHouse && !one then d.l1 else a.l1, l2 := if inHouse && !one then d.l2 else a.l2
        l3 := if inHouse && !one then d.l3 else a.l3
        isInt := w.dFmt = 0x18, stage := if w.aSrc = 1 then a.stage + 1 else 0
        rowOp := (w.aSrc = 1 && a.rowOp) || isRowOp w.op, sealed := sealed, layer := a.layer }
    { out with writes := writes, link := link }

/-- The flags of an instruction (Table 8.7): OOB, ROW, SATURATE, CLAMP, FLUSH, NONFINITE. -/
def VecEffect.flags (x : VecEffect) : Nat :=
  b2n (x.oob ≠ 0) + 2 * b2n (x.row ≠ 0) + 4 * b2n (x.saturate ≠ 0) + 8 * b2n (x.clamp ≠ 0) + 16 * b2n (x.flushed ≠ 0)
    + 32 * b2n (x.nonfinite ≠ 0)

/-- The counts of an effect added to the engine's registers. -/
def VecBlk.count (v : VecBlk) (x : VecEffect) (slot : Nat) : VecBlk :=
  { v with
    steps := v.steps.add 32 x.steps, saturated := v.saturated.add 32 x.saturated, saturate := v.saturate.add 32 x.saturate
    nonfinite := v.nonfinite.add 32 x.nonfinite, clamp := v.clamp.add 32 x.clamp, oob := v.oob.add 32 x.oob
    rowFlag := v.rowFlag.add 32 x.row, flushBlocks := modAt v.flushBlocks slot (Counter.add 32 x.flushBlocks)
    tapSkip := v.tapSkip.add 32 x.tapSkip, emptyWindows := v.emptyWindows.add 32 x.empty
    degenerate := v.degenerate.add 32 x.degenerate, overflow := v.overflow.add 32 x.overflow
    suppressed := v.suppressed.add 32 x.suppressed, tracksStarted := v.tracksStarted.add 32 x.started
    tracksEnded := v.tracksEnded.add 32 x.ended, trackFull := v.trackFull.add 32 x.full
    scalars := match x.scalar with
      | some r => v.scalars.set r.1 r.2
      | none => v.scalars }

/-- The flush trigger of a watched layer fires (R133): known when the narrowing completes. -/
def State.flushTrigger (s : State) (o : Owner) (slot blocks : Nat) : State :=
  match o with
  | .run _ => s
  | .chain k => match s.watch k slot with
    | some x =>
      if x.flush && blocks ≠ 0 then s.modSample k fun m => { m with
        flushSlots := if m.flushSlots.contains slot then m.flushSlots else slot :: m.flushSlots }
      else s
    | none => s

/-- A group fed from a watched layer withholds its output while the layer's is withheld (R136). -/
def State.withholdFed (s : State) (j : VecJob) (layer : Option Nat) : State :=
  match j.owner, layer, j.tile with
  | .chain k, some slot, some t =>
    if s.layerWithheld k slot then
      { s with scoreboard := amod s.scoreboard t fun x => { x with withheld := true, slot := slot } }
    else s
  | _, _, _ => s

/-- Bytes stored at House byte addresses. -/
def State.storeAll (s : State) (l : List (Nat × List Byte)) : State :=
  l.foldl (fun (t : State) x => t.writeMem false x.1 x.2) s

/-- Buffers written by an instruction with a sealed operand become sealed (R162). -/
def State.sealOutputs (s : State) (sealed : Bool) (l : List (Nat × Nat)) : State :=
  if sealed then l.foldl (fun (t : State) x => t.sealLine x.1) s else s

/-- VECTOR_INSTRUCTION_COMPLETE (R179): the issued head instruction completes and writes its results and scalar register. -/
def State.vecComplete (s : State) (e p : Nat) : State :=
  let q := s.vecPart e p
  match q.queue with
  | [] => s
  | j :: _ =>
    let w := vecWordOf j.word
    let x := s.vecExtents j
    if j.phase ≠ .issued || (w.aSrc = 2 && q.delivered.isNone) || !(x.1.all fun o => s.linesClean o.1 o.2) then s
    else
      let deck := (s.samp e).decks.getD p none
      let share := s.flushShare j.owner w.slot
      let fx := if isVision w.op then s.visionEffect w deck share (w.count j.sb) j.vl j.sa else s.plainEffect e p j deck
      let source := if isVision w.op then none else q.source w.aSrc
      let sealed := (x.1.any fun o => s.lineSealed o.1) || (match source with
        | some l => l.sealed
        | none => false)
      let layer := match source with
        | some l => l.layer
        | none => none
      let s := (s.storeAll fx.writes).sealOutputs sealed x.2
      let s := s.modVec e fun v => v.count fx w.slot
      let s := s.modSamp e fun b => { b with words := b.words.add 32 fx.draws }
      let s := s.modVecPart e p fun q => { q with
        link := fx.link, delivered := if w.aSrc = 2 then none else q.delivered }
      let s := s.modVec e fun v => { v with
        recomputed := if j.repeated || j.restarted then v.recomputed.inc else v.recomputed
        scaleRetries := if j.scaleRetry then v.scaleRetries.inc else v.scaleRetries }
      let s := ((s.flushTrigger j.owner w.slot fx.flushBlocks).withholdFed j layer).signalTile j.tile
      s.finishVec e p j (if j.repeated || j.restarted then .recomputed else .done) fx.flags

/-! ### Failures (R171, R180 to R182) -/

/-- Lane time of a word in cycles of CD08 (Tables 8.5 and 10.10): rows, row length and vector length. -/
def laneTime (op rows e0 vl : Nat) : Nat :=
  2 * vecPasses op * rows * ceilDiv e0 vl + 16 * (vecPasses op - 1) * rows

/-- Rows and row length a word works on. -/
def State.vecShape (s : State) (j : VecJob) : Nat × Nat :=
  let w := vecWordOf j.word
  let n := w.count j.sb
  if !j.descriptor then (1, n)
  else
    let d := if w.aSrc = 0 then s.descA j else s.descD j
    (d.rows, d.e0)

/-- Lane time of a job. -/
def State.vecLane (s : State) (j : VecJob) : Nat :=
  let w := vecWordOf j.word
  if isVision w.op then 2 * (s.visionEffect w none 128 (w.count j.sb) j.vl j.sa).steps
  else
    let x := s.vecShape j
    laneTime w.op x.1 x.2 j.vl

/-- The jobs of the head's link group. -/
def headGroup (q : List VecJob) : List VecJob :=
  match q with
  | [] => []
  | j :: l => j :: l.takeWhile fun x => (vecWordOf x.word).aSrc = 1

/-- VECTOR_PARITY_FAILURE (R180 to R182, R196, R398): the head's link group is repeated in rehearsal mode; a deck slot that
failed is reloaded first, and a mismatch of the generator's copies is counted with the sampler; a second failure in the repetition is a persistent fault. -/
def State.vecParity (s : State) (e p lane : Nat) (deckSlot compare : Bool) : State :=
  let q := s.vecPart e p
  match q.queue with
  | [] => s
  | j :: _ =>
    if j.phase ≠ .issued then s
    else
      let s := s.modVec e fun v => { v with
        parityErrors := v.parityErrors.inc, errorPart := p, errorLane := lane % 512 }
      let s := s.modSamp e fun b => { b with compareErrors := if compare then b.compareErrors.inc else b.compareErrors }
      let s := if deckSlot then
          (s.modSamp e fun b => { b with parityErrors := b.parityErrors.inc, deckReloads := b.deckReloads.inc }).loadDeck e p
            j.owner
        else s
      let r := recordRepeat s.ms q.repeats
      if j.repeated || r.2 then s.enterFaulted clsVector (4 * e + p)
      else
        let g := headGroup q.queue
        let w := vecWordOf j.word
        let lanes := sumNat (g.map fun x => s.vecLane x)
        let fed := w.aSrc = 2
        let cost := ns1200 (96 + lanes + 4 * (g.length - 1))
          + (if fed then match s.nextDelivery e p with
              | some x => arrayRepeatCost (arrayWordOf x.word).m (s.array e).split
              | none => 0
            else 0)
        let s := s.modVecPart e p fun q => { q with
          repeats := r.1, rehearsal := true
          queue := (q.queue.take g.length).map (fun x => { x with repeated := true }) ++ q.queue.drop g.length }
        s.repeatUnit j.owner (if fed then 0x03 else 0x02) cost clsVector (4 * e + p)

/-- SCALE_TAG_MISMATCH on a vector part (R130, R171): the head instruction's read starts again; a second mismatch completes
SCALE_MISMATCH. -/
def State.vecScaleMismatch (s : State) (e p : Nat) : State :=
  match (s.vecPart e p).queue with
  | [] => s
  | j :: rest =>
    let j := s.readScalars e j
    let w := vecWordOf j.word
    if j.phase ≠ .queued || blockLen w.aFmt = 0 || w.aSrc ≠ 0 || !readsA w.op || (s.vecCheck e p j rest.head?).isSome then s
    else if !j.scaleRetry then
      let s := s.trace 5 clsVector (4 * e + p) w.slot s.cueNow
      (s.modVecHead e p fun x => { x with scaleRetry := true }).drawReserve j.owner (ns1200 (96 + s.vecLane j))
    else
      let s := s.trace 5 clsVector (4 * e + p) (w.slot + 16) s.cueNow
      let s := s.modVec e fun v => { v with scaleMismatch := v.scaleMismatch.inc }
      (s.modVecPart e p fun q => { q with link := none }).finishVec e p j .scaleMismatch 0

/-! ### Contexts (R183, R184) -/

/-- Open partial sums of a tree after some elements: entry k covers 2^k elements (Table 8.6). -/
def openSums : Nat → List Word32 → List Word32
  | 0, _ => []
  | f + 1, l =>
    (if l.length % 2 = 1 then l.getLastD 0 else 0) :: openSums f (pairUp fadd (l.take (l.length / 2 * 2)))

/-- Mask bits set among the first n elements of a COMPRESS or EXPAND. -/
def State.packedSoFar (s : State) (j : VecJob) (n : Nat) : Nat :=
  let op := (vecWordOf j.word).op
  if op = 0x42 || op = 0x43 then (((s.inputB j).take n).filter fun m => m ≠ 0).length else 0

/-- A saved context's bytes (Table 8.6). -/
def State.contextBytes (s : State) (e p position : Nat) (g : List VecJob) (q : VecPart) : List Byte :=
  let eight := fun (f : VecJob → List Byte) (n : Nat) =>
    (upto 8).flatMap fun i => match g[i]? with
      | some j => f j
      | none => List.replicate n 0
  let tree := match g with
    | j :: _ =>
      if isRowOp (vecWordOf j.word).op then
        let a := (s.inputA e p j).1
        let done := position % max 1 a.e0
        openSums 20 ((a.values.drop (position - done)).take done)
      else List.replicate 20 0
    | [] => List.replicate 20 0
  let body := (eight (fun j => leBytes 16 j.word.toNat) 16)
    ++ leBytes 1 (b2n q.descriptor + 2 * b2n q.rehearsal) ++ leBytes 1 g.length ++ leBytes 2 q.vl ++ leBytes 4 q.flags
    ++ leBytes 8 position ++ List.replicate 8 0
    ++ (eight (fun j => leBytes 4 j.sa.toNat ++ leBytes 4 j.sb.toNat) 8)
    ++ (eight (fun j => leBytes 4 (s.packedSoFar j position)) 4) ++ List.replicate 8 0
    ++ (tree.flatMap fun v => leBytes 4 v.toNat) ++ List.replicate 16 0 ++ List.replicate 156 0
  body ++ leBytes 4 (crc32c body)

/-- CONTEXT_SAVE (R183): the head's unfinished group leaves the part and its context is written to a held 512-byte buffer. -/
def State.contextSave (s : State) (e p line position : Nat) : State :=
  let q := s.vecPart e p
  match q.queue with
  | [] => s
  | j :: _ =>
    let isChain : Bool := match j.owner with
      | .chain _ => true
      | .run _ => false
    if j.phase ≠ .issued || !isChain || !s.holds (s.ownerGroup j.owner) line 8 then s
    else
      let g := headGroup q.queue
      let bytes := s.contextBytes e p position g q
      let saved : SavedContext :=
        { jobs := g, descriptor := q.descriptor, vl := q.vl, flags := q.flags, position := position }
      let s := s.writeMem false (64 * line) bytes
      let s := { s with contexts := aset s.contexts line saved }
      s.modVecPart e p fun q => { q with queue := q.queue.drop g.length, rehearsal := false }

/-- CONTEXT_RESTORE (R184): the saved group continues at POSITION on a part, with its VL held to the part's lanes and its deck
loaded (R195); a context whose CHECK fails starts the operation again as a recompute. -/
def State.contextRestore (s : State) (e p line : Nat) : State :=
  let q := s.vecPart e p
  match aget s.contexts line with
  | none => s
  | some c => match c.jobs with
    | [] => s
    | j :: _ =>
      let busy : Bool := match q.queue with
        | x :: _ => x.phase == .issued
        | [] => false
      if busy || p ≥ partCount (s.vec e).split || !roomFor q.queue.length c.jobs.length then s
      else
        let bytes := s.readMem false (64 * line) 512
        let ok := fieldAt bytes 508 4 = (crc32c (bytes.take 508)) % 2 ^ 32
        let vl := min c.vl (partWidth (s.vec e).split)
        let jobs := c.jobs.map fun x => { x with
          vl := vl, position := if ok then c.position else 0, repeated := x.repeated || !ok }
        let s := { s with contexts := adel s.contexts line }
        let s := s.modVecPart e p fun q => { q with
          queue := jobs ++ q.queue, descriptor := c.descriptor, vl := vl, flags := c.flags, rehearsal := q.rehearsal || !ok }
        let s := s.loadDeck e p j.owner
        if ok then s
        else s.repeatUnit j.owner 0x02 (ns1200 (96 + sumNat (c.jobs.map fun x => s.vecLane x) + 4 * (c.jobs.length - 1)))
          clsVector (4 * e + p)

/-! ### Modes and commands (R154, R187) -/

/-- Every part of an engine is idle. -/
def VecBlk.idle (v : VecBlk) : Bool := v.parts.all fun q => q.queue.isEmpty

/-- The split mode of an engine is set: 32 cycles of CD08. -/
def VecBlk.setSplit (v : VecBlk) (mode now : Nat) : VecBlk := { v with split := mode, splitAt := now + ns1200 32 }

/-- VECTOR_SPLIT_MODE_CHANGE (R154). -/
def State.vecSplitChange (s : State) (e mode : Nat) : State :=
  let v := s.vec e
  let allowed : Bool := match v.fixed with
    | some m => m == mode
    | none => true
  if mode > 2 || !v.idle || !allowed then s else s.modVec e fun v => v.setSplit mode s.time.elapsed

/-- What VEC_SPLIT staged takes effect at a cue edge (R187). -/
def VecBlk.applyFix (v : VecBlk) (now : Nat) : VecBlk :=
  match v.stagedFix with
  | none => v
  | some 3 => { v with fixed := none, stagedFix := none }
  | some m =>
    let v := { v with fixed := some m, stagedFix := none }
    if v.split ≠ m && v.idle then v.setSplit m now else v

/-- VEC_SPLIT. -/
def vecSplitCmd : Cmd where
  opcode := 0x0701
  admin := true
  target := .kind .vectorEngine
  named := [(0, 1)]
  fails := fun _ p => [(0, p.u8 0 > 3)]
  body := fun s p =>
    let e := targetUnit s p
    let r := if p.u8 0 = 3 then (false, s) else s.planUsesOther (8 + e)
    if r.1 then .refuse .wrongState r.2 else .ok (r.2.modVec e fun v => { v with stagedFix := some (p.u8 0) })

/-- VEC_SCALARS (R186): it reads COUNT values from host memory into the ring's image. -/
def vecScalarsCmd : Cmd where
  opcode := 0x0702
  named := [(0, 2), (8, 8)]
  fails := fun _ p => [(0, p.u8 0 + p.u8 1 > 64), (1, p.u8 1 = 0)]
  body := fun s p => readHost p (p.u64 8) (4 * p.u8 1) s
  withData := fun s p _ data =>
    .ok (s.modRing p.ring fun r => { r with
      scalars := (upto (p.u8 1)).foldl (fun l i => l.set (p.u8 0 + i) (BitVec.ofNat 32 (fieldAt data (4 * i) 4))) r.scalars })

/-- The cost bound of vector words in nanoseconds (Table 8.5, R180, R187). -/
def State.vecRunCost (s : State) (words : List Nat) (e : Nat) (ring : Nat) (descriptor : Bool) (vl : Nat) : Nat :=
  let image := match aget s.rings ring with
    | some g => g.scalars
    | none => []
  let job := fun (v : Nat) =>
    let w := vecWordOf (BitVec.ofNat 128 v)
    let at_ := fun (i : Nat) => image.getD i 0
    let top : Word32 := if w.len = 0x7FFF then 16384 else at_ w.sb
    ({ word := BitVec.ofNat 128 v, owner := .run e, descriptor := descriptor, vl := vl, sa := at_ w.sa, sb := top
       s61 := at_ 61, s62 := at_ 62, s63 := at_ 63 } : VecJob)
  let lanes := words.map fun v => 96 + s.vecLane (job v)
  ns1200 (sumNat lanes + lanes.foldl max 0)

/-- VEC_RUN. -/
def vecRunCmd : Cmd where
  opcode := 0x0703
  target := .kind .vectorEngine
  named := [(0, 14)]
  fails := fun s p =>
    let split := (s.vec (targetUnit s p)).split
    [(0, wordsFail s (p.u64 0) 16 (p.u16 8)), (8, countFails (p.u16 8)), (10, p.u8 10 ≥ partCount split),
     (11, p.u8 11 > 1), (12, p.u16 12 = 0 || p.u16 12 > partWidth split)]
  owned := fun s p => wordsOwned s p.ring (p.u64 0)
  body := fun s p =>
    let words := s.wordsAt (p.u64 0) (p.u16 8) 16
    let e := targetUnit s p
    if 10 * s.vecRunCost words e p.ring (p.u8 11 = 1) (p.u16 12) > s.unreserved 2 then .refuse .notAdmitted s
    else
      .wait (.run { kind := .vector, unit := e, part := p.u8 10, words := words, descriptor := p.u8 11 = 1, vl := p.u16 12 })
        (s.addReader (p.u64 0) (ownerId (.run s.nextId)))

/-- VEC_TEST. -/
def vecTestCmd : Cmd where
  opcode := 0x0704
  admin := true
  states := [.standby]
  target := .kind .vectorEngine
  body := fun s p => .wait (.test .vector (targetUnit s p) (p.target.toNat % 2 ^ 28) s.time.elapsed) s

/-- VEC_SPLIT. -/
def execVecSplit (dt : Nat) (p : Packet) (s : State) : Host.Outcome State Fault Refusal :=
  .next ((s.advance dt).accept vecSplitCmd p)

/-- VEC_SCALARS. -/
def execVecScalars (dt : Nat) (p : Packet) (s : State) : Host.Outcome State Fault Refusal :=
  .next ((s.advance dt).accept vecScalarsCmd p)

/-- VEC_RUN. -/
def execVecRun (dt : Nat) (p : Packet) (s : State) : Host.Outcome State Fault Refusal :=
  .next ((s.advance dt).accept vecRunCmd p)

/-- VEC_TEST. -/
def execVecTest (dt : Nat) (p : Packet) (s : State) : Host.Outcome State Fault Refusal :=
  .next ((s.advance dt).accept vecTestCmd p)

/-- VEC_TEST_COMPLETE: after 1.6 ms. -/
def execVecTestComplete (dt id : Nat) (wrong : Bool) (s : State) : Host.Outcome State Fault Refusal :=
  .next ((s.advance dt).testDone id .vector 1600000 wrong fun _ t => t)

/-- VECTOR_INSTRUCTION_ISSUE. -/
def execVectorInstructionIssue (dt engine part : Nat) (s : State) : Host.Outcome State Fault Refusal :=
  let s := s.advance dt
  .next (if s.computing then s.vecIssue engine part else s)

/-- VECTOR_INSTRUCTION_COMPLETE. -/
def execVectorInstructionComplete (dt engine part : Nat) (s : State) : Host.Outcome State Fault Refusal :=
  let s := s.advance dt
  .next (if s.computing then s.vecComplete engine part else s)

/-- VECTOR_PARITY_FAILURE. -/
def execVectorParityFailure (dt engine part lane : Nat) (deckSlot compare : Bool) (s : State) :
    Host.Outcome State Fault Refusal :=
  let s := s.advance dt
  .next (if s.computing then s.vecParity engine part lane deckSlot compare else s)

/-- CONTEXT_SAVE. -/
def execContextSave (dt engine part line position : Nat) (s : State) : Host.Outcome State Fault Refusal :=
  let s := s.advance dt
  .next (if s.computing then s.contextSave engine part line position else s)

/-- CONTEXT_RESTORE. -/
def execContextRestore (dt engine part line : Nat) (s : State) : Host.Outcome State Fault Refusal :=
  let s := s.advance dt
  .next (if s.computing then s.contextRestore engine part line else s)

/-- VECTOR_SPLIT_MODE_CHANGE. -/
def execVectorSplitModeChange (dt engine mode : Nat) (s : State) : Host.Outcome State Fault Refusal :=
  let s := s.advance dt
  .next (if s.computing then s.vecSplitChange engine mode else s)

/-- SCALE_TAG_MISMATCH (R99, R130): on a vector part or an array part. -/
def execScaleTagMismatch (dt : Nat) (vector : Bool) (unit part : Nat) (s : State) : Host.Outcome State Fault Refusal :=
  let s := s.advance dt
  .next (if !s.computing then s else if vector then s.vecScaleMismatch unit part else s.arrayScaleMismatch unit part)

end Sys2Proof.Machine
end

