-- ==== Sys2Proof/Machine/Sampler.lean ====
section
/-! DEFINITION. Random bits and token sampling: the commands of Table 9.7, the sampler's checks (R200), its pipeline (R201 to
R203), its timing (R205) and its failures (R196, R206). -/

namespace Sys2Proof.Machine

open Sys2Proof

/-! ### The pipeline -/

/-- What a row of logits yields. -/
structure TokenResult where
  token : Nat := 0xFFFFFFFF
  prob : Word32 := 0
  keptProb : Word32 := 0
  kept : Nat := 0
  flags : Nat := 0
  alt1 : Nat × Word32 := (0xFFFFFFFF, 0)
  alt2 : Nat × Word32 := (0xFFFFFFFF, 0)
  deriving DecidableEq, Repr

/-- The k entries of largest scaled value with a probability above zero, ties by ascending index, and their probabilities
(R201 step 3). -/
def candidatesOf (k : Nat) (ss ps : List Word32) : List (Nat × Word32) :=
  let l := (((ss.zip ps).zip (upto ss.length)).filter fun e => e.1.2 ≠ 0).map fun e => (e.1.1, e.2, e.1.2)
  let lt := fun (a b : Word32 × Nat × Word32) => flt b.1 a.1 || (!(flt a.1 b.1) && a.2.1 < b.2.1)
  ((sortBy lt l).take k).map (·.2)

/-- Prefix sums over candidate probabilities, one rounding per addition (R201 step 4). -/
def runningSums : Word32 → List Word32 → List Word32
  | _, [] => []
  | c, p :: l => let d := fadd c p
    d :: runningSums d l

/-- The size of the kept set: the shortest run of candidates whose sum reaches P, else every candidate. -/
def keptCount (topp : Word32) (sums : List Word32) : Nat :=
  match sums.findIdx? fun c => fle topp c with
  | some i => i + 1
  | none => sums.length

/-- Steps 4 and 5 of R201 over the candidates: top-p, then the greedy or the drawn choice. -/
def chooseToken (w : SampWord) (bits : Word32) (flags : Nat) (cands : List (Nat × Word32)) : TokenResult :=
  let sums := runningSums 0 (cands.map (·.2))
  let kept := keptCount w.topp sums
  let c := sums.getD (kept - 1) 0
  let i :=
    if w.greedy then 0
    else
      let f := (Num.fin false (bits.toNat / 256) (-24)).toF32
      let t := fmul f c
      ((sums.take kept).findIdx? fun x => flt t x).getD (kept - 1)
  let chosen := cands.getD i (0xFFFFFFFF, 0)
  let others := cands.take i ++ cands.drop (i + 1)
  { token := chosen.1, prob := chosen.2, keptProb := c, kept := kept, flags := flags
    alt1 := others.getD 0 (0xFFFFFFFF, 0), alt2 := others.getD 1 (0xFFFFFFFF, 0) }

/-- What a sampler word yields for a row of logits widened to FP32, its mask bits and the bits of its draw (R201, R202). -/
def sampleRow (w : SampWord) (logits : List Word32) (mask : List Bool) (bits : Word32) : TokenResult :=
  let g := b2n w.greedy
  let t : Word32 := if w.greedy then one32 else w.temp
  let ss := (logits.zip mask).map fun e => if e.2 then fdiv e.1 t else 0xFF800000
  let tops := (ss.filter fun x => x = 0x7F800000).length
  if logits.any isNaN32 then { flags := g + 4 }
  else if ss.all fun x => x = 0xFF800000 then { flags := g + 8 }
  else if tops ≠ 0 then
    let p := fdiv one32 (natF32 tops)
    chooseToken w bits (g + 2) (candidatesOf w.topk ss (ss.map fun x => if x = 0x7F800000 then p else 0))
  else if logits.length = 1 then chooseToken w bits g [(0, one32)]
  else
    let mx := ss.foldl fmax 0xFF800000
    let es := ss.map fun x => if x = 0xFF800000 then 0 else vExp (fsub x mx)
    let z := treeSum es
    chooseToken w bits g (candidatesOf w.topk ss (es.map fun e => fdiv e z))

/-- The result line (R203, Table 9.5); the status bytes are those of the record, set when the record is written. -/
def TokenResult.line (r : TokenResult) (w : SampWord) (o : Outcome) : List Byte :=
  let d := w.drawIndex
  List.replicate 16 0 ++ leBytes 1 o.status.code ++ leBytes 3 o.detail ++ leBytes 4 r.token ++ leBytes 4 (d % 2 ^ 24)
    ++ leBytes 4 r.prob.toNat ++ leBytes 4 r.keptProb.toNat ++ leBytes 1 r.kept ++ leBytes 1 r.flags
    ++ leBytes 2 (d / 2 ^ 24) ++ leBytes 8 d ++ leBytes 4 r.alt1.1 ++ leBytes 4 r.alt1.2.toNat
    ++ leBytes 4 r.alt2.1 ++ leBytes 4 r.alt2.2.toNat

/-- The outcome a row with no token gives (R204). -/
def TokenResult.outcome (r : TokenResult) : Option Outcome :=
  if bitOf r.flags 2 then some ⟨.degraded, 0x51⟩
  else if bitOf r.flags 3 then some ⟨.degraded, 0x52⟩
  else none

/-! ### Instructions -/

/-- The House lines of the operands of a sampler word: logits, mask when it applies, result. -/
def SampWord.operands (w : SampWord) : List (Nat × Nat) :=
  [(w.lAddr, rowLines w.v (widthOf w.lFmt)), (w.rAddr, 1)] ++ (if w.maskOn then [(w.mAddr, rowLines w.v 1)] else [])

/-- The first failing check of R200. -/
def State.sampCheck (s : State) (o : Owner) (w : SampWord) : Option Status :=
  let g := s.ownerGroup o
  if !w.legal then some .outOfRange
  else if w.v = 0 then some .empty
  else if !(w.operands.all fun e => s.holds g e.1 e.2) then some .outOfRange
  else none

/-- Cycles of CD08 from an instruction's issue to its result (R205). -/
def sampResultCycles (v : Nat) : Nat := 2 * ceilDiv v 256 + 320

/-- Cycles of CD08 from an instruction's issue to the next one's (R205). -/
def sampNextCycles (v : Nat) : Nat := 2 * ceilDiv v 256 + 64

/-- Instructions of a sampler that have issued. -/
def issuedCount (q : List SampJob) : Nat := (q.takeWhile fun j => j.issued).length

/-- The time from which the next instruction of a sampler may issue: its distance after the one before it (R205). -/
def SampBlk.nextIssue (b : SampBlk) : Nat :=
  match b.queue.take (issuedCount b.queue) |>.getLast? with
  | some j => j.issuedAt + ns1200 (sampNextCycles (sampWordOf j.word).v)
  | none => 0

/-- A sampler instruction leaves the queue and its owner learns its status. -/
def State.finishSamp (s : State) (b : Nat) (j : SampJob) (st : Status) : State :=
  let s := s.modSamp b fun x => { x with queue := x.queue.drop 1 }
  (s.wordDone j.owner st 0).feedRuns

/-- SAMPLER_INSTRUCTION_ISSUE (R200, R205): the next instruction in order of arrival is checked; one that fails completes when
it is at the head; another begins once its logits and mask are complete and its distance has passed. -/
def State.sampIssue (s : State) (b : Nat) : State :=
  let q := (s.samp b).queue
  let i := issuedCount q
  match q[i]? with
  | none => s
  | some j =>
    let w := sampWordOf j.word
    match s.sampCheck j.owner w with
    | some st => if i = 0 then (s.signalTile j.tile).finishSamp b j st else s
    | none =>
      let reads := w.operands.filter fun e => e.1 ≠ w.rAddr
      if s.time.elapsed < (s.samp b).nextIssue || !(reads.all fun e => s.rowsReady j.tile (e.1, e.2, e.2, 1))
          || !(reads.all fun e => s.linesClean e.1 e.2) then s
      else s.modSamp b fun x => { x with
        queue := modAt x.queue i fun j => { j with issued := true, issuedAt := s.time.elapsed } }

/-- The result of a sampler word on the House as it stands. -/
def State.sampResult (s : State) (b : Nat) (w : SampWord) : TokenResult :=
  let logits := s.row32 w.lAddr w.lFmt w.v
  let mask := if w.maskOn then (s.bitsAt w.mAddr 1 w.v).map fun x => decide (x = 1) else List.replicate w.v true
  let bits := slotDraw ((s.samp b).decks.getD 4 none) drawSampler w.drawIndex
  sampleRow w logits mask bits

/-- The counters of Table 9.6 after a row. -/
def SampBlk.count (x : SampBlk) (w : SampWord) (r : TokenResult) (repeated : Bool) : SampBlk :=
  let inc := fun (c : Bool) (k : Counter) => if c then k.inc else k
  { x with
    tokens := inc (r.kept ≠ 0) x.tokens, greedy := inc w.greedy x.greedy, noToken := inc (r.kept = 0) x.noToken
    infinite := inc (bitOf r.flags 1) x.infinite, recomputed := inc repeated x.recomputed }

/-- SAMPLER_RESULT_WRITE (R203 to R205): the head's result line is written, sealed when the logits are (R200), its row is
signalled, and the instruction completes. -/
def State.sampWrite (s : State) (b : Nat) : State :=
  match (s.samp b).queue with
  | [] => s
  | j :: _ =>
    let w := sampWordOf j.word
    if !j.issued || s.time.elapsed < j.issuedAt + ns1200 (sampResultCycles w.v)
        || !(w.operands.all fun e => s.linesClean e.1 e.2) then s
    else
      let r := s.sampResult b w
      let sealed := s.lineSealed w.lAddr
      let o : Outcome := r.outcome.getD ⟨if j.repeated || j.restarted then .recomputed else .done, 0⟩
      let s := s.writeMem false (64 * w.rAddr) (r.line w o)
      let s := if sealed then s.sealLine w.rAddr else s
      let s := match j.owner, r.outcome with
        | .chain k, some d => s.modSample k fun m => m.reach d
        | _, _ => s
      let s := s.modSamp b fun x => x.count w r (j.repeated || j.restarted)
      (s.signalTile j.tile).finishSamp b j (if j.repeated || j.restarted then .recomputed else .done)

/-- SAMPLER_PARITY_FAILURE (R196, R206, R398): the running instruction is repeated from held logits; a deck slot that failed is
reloaded first; a second failure in the repetition, or the rate of R398, is a persistent fault. -/
def State.sampParity (s : State) (b : Nat) (compare deckSlot : Bool) : State :=
  let x := s.samp b
  match x.queue with
  | [] => s
  | j :: _ =>
    if !j.issued then s
    else
      let w := sampWordOf j.word
      let s := s.modSamp b fun x => { x with
        compareErrors := if compare then x.compareErrors.inc else x.compareErrors
        parityErrors := if compare then x.parityErrors else x.parityErrors.inc }
      let s := if deckSlot then
          (s.modSamp b fun x => { x with deckReloads := x.deckReloads.inc }).loadDeck b 4 j.owner
        else s
      let r := recordRepeat s.ms x.repeats
      if j.repeated || r.2 then s.enterFaulted clsSampler b
      else
        let now := s.time.elapsed
        let s := s.modSamp b fun x => { x with
          repeats := r.1
          queue := match x.queue with
            | [] => []
            | j :: l => { j with repeated := true, issuedAt := now } :: l.map fun y => { y with issued := false } }
        s.repeatUnit j.owner 0x04 (ns1200 (sampResultCycles w.v)) clsSampler b

/-! ### Commands (Table 9.7) -/

/-- The ring's deck built (R189, R209) in a 4 KiB House buffer of its group, once that buffer is had. -/
def State.seedRing (s : State) (q : Nat) (number : Nat) (seed : Word256) : Verdict :=
  match s.alloc (s.ringGroup q) false 4096 none false with
  | .none_ st t => .refuse st t
  | .got a _ t =>
    let t := (t.freeDeck q).writeMem false a (deckBytes seed)
    .ok (t.modRing q fun r => { r with deck := some { seed := seed, number := number, buffer := some a } })

/-- The seed in P16 to P47. -/
def seedOf (p : Packet) : Word256 := BitVec.ofNat 256 (p.par 16 32)

/-- RANDOM_SEED. -/
def randomSeedCmd : Cmd where
  opcode := 0x0710
  named := [(0, 4), (16, 32)]
  body := fun s p => s.seedRing p.ring (p.u32 0) (seedOf p)

/-- The cost bound of sampler words in nanoseconds (R195, R205, R206). -/
def sampRunCost (words : List Nat) : Nat :=
  let vs := words.map fun v => (sampWordOf (BitVec.ofNat 256 v)).v
  ns1200 (16 + sumNat (vs.map sampNextCycles) + 256 + (vs.map sampResultCycles).foldl max 0)

/-- A word of the run draws, and its ring holds no deck. -/
def sampNeedsDeck (s : State) (q : Nat) (words : List Nat) : Bool :=
  (match aget s.rings q with
    | some r => r.deck.isNone
    | none => true)
  && words.any fun v => !(sampWordOf (BitVec.ofNat 256 v)).greedy

/-- SAMPLE_RUN. -/
def sampleRunCmd : Cmd where
  opcode := 0x0711
  target := .kind .sampler
  named := [(0, 10)]
  fails := fun s p => [(0, wordsFail s (p.u64 0) 32 (p.u16 8)), (8, countFails (p.u16 8))]
  owned := fun s p => wordsOwned s p.ring (p.u64 0)
  legal := fun s p => !sampNeedsDeck s p.ring (s.wordsAt (p.u64 0) (p.u16 8) 32)
  body := fun s p =>
    let words := s.wordsAt (p.u64 0) (p.u16 8) 32
    if 10 * sampRunCost words > s.unreserved 0 then .refuse .notAdmitted s
    else
      .wait (.run { kind := .sampler, unit := targetUnit s p, words := words })
        (s.addReader (p.u64 0) (ownerId (.run s.nextId)))

/-- RANDOM_TEST. -/
def randomTestCmd : Cmd where
  opcode := 0x0712
  named := [(0, 2), (4, 12), (16, 32)]
  fails := fun _ p => [(0, p.u8 0 > 1), (1, p.u8 1 > 63)]
  body := fun s p =>
    let cards := if p.u8 0 = 0 then testCards else deckCards (seedOf p)
    let n : Word32 := BitVec.ofNat 32 (p.u32 4)
    let i : Word64 := BitVec.ofNat 64 (p.u64 8)
    .okResult ((drawBits cards n (p.u8 1) i).toNat + 2 ^ 32 * (drawBits cards n (p.u8 1) (i + 1)).toNat) s

/-- RANDOM_SEED. -/
def execRandomSeed (dt : Nat) (p : Packet) (s : State) : Host.Outcome State Fault Refusal :=
  .next ((s.advance dt).accept randomSeedCmd p)

/-- SAMPLE_RUN. -/
def execSampleRun (dt : Nat) (p : Packet) (s : State) : Host.Outcome State Fault Refusal :=
  .next ((s.advance dt).accept sampleRunCmd p)

/-- RANDOM_TEST. -/
def execRandomTest (dt : Nat) (p : Packet) (s : State) : Host.Outcome State Fault Refusal :=
  .next ((s.advance dt).accept randomTestCmd p)

/-- SAMPLER_INSTRUCTION_ISSUE. -/
def execSamplerInstructionIssue (dt bay : Nat) (s : State) : Host.Outcome State Fault Refusal :=
  let s := s.advance dt
  .next (if s.live then s.sampIssue bay else s)

/-- SAMPLER_RESULT_WRITE. -/
def execSamplerResultWrite (dt bay : Nat) (s : State) : Host.Outcome State Fault Refusal :=
  let s := s.advance dt
  .next (if s.live then s.sampWrite bay else s)

/-- SAMPLER_PARITY_FAILURE. -/
def execSamplerParityFailure (dt bay : Nat) (compare deckSlot : Bool) (s : State) : Host.Outcome State Fault Refusal :=
  let s := s.advance dt
  .next (if s.live then s.sampParity bay compare deckSlot else s)

end Sys2Proof.Machine
end

