-- ==== Sys2Proof/Machine/Cue.lean ====
section
/-! DEFINITION. Device time and the cue: the commands of Table 3.6, PPS alignment (R46, R47), cue edges and all that falls due at
one (R48 to R51, R57 to R61, R312, R314, R331, R362, R431 to R439, R451), the PIN source and the LINK source (R364). -/

namespace Sys2Proof.Machine

open Sys2Proof

/-! ### The grid -/

/-- The first whole microsecond strictly after a device time. -/
def nextMicro (t : Nat) : Nat := (t / 1000 + 1) * 1000

/-- The first EPOCH + k × P beyond a device time, k any whole number (R48, R60). -/
def edgeBeyond (epoch period now : Nat) : Nat :=
  let p := period * 1000
  ((epoch : Int) + (((now : Int) - epoch) / p + 1) * p).toNat

/-- The source makes its own edges by the period: INTERNAL and LINK (R48, R61). -/
def CueBlk.byPeriod (c : CueBlk) : Bool := c.source ≠ .pin

/-! ### Commands -/

/-- Every stream of the plan with a minimum interval reserved anew for its samples per cue under the period in force (R56). -/
def State.rereserve (s : State) : Option State :=
  s.streams.foldl (fun (o : Option State) e => o.bind fun (t : State) =>
    if e.2.inPlan && e.2.minInterval ≠ 0 then
      match aget (t.unreserve e.1).streams e.1 with
      | some st => (t.unreserve e.1).reserve e.1 st
      | none => some t
    else some t) (some s)

/-- Every admitted stream meets R56 under a period. -/
def State.periodFits (s : State) (period : Nat) : Bool :=
  planFits s.cue.source period s.shares s.planned
    && ({ s with cue := { s.cue with period := period } }).rereserve.isSome

/-- CUE_SET_PERIOD (R60): staged for the second edge after completion; the members learn it in a CUE message (R363). -/
def cueSetPeriodCmd : Cmd where
  opcode := 0x0401
  admin := true
  named := [(0, 4)]
  fails := fun _ p => [(0, p.u32 0 < 1000 || p.u32 0 > 1000000)]
  legal := fun s _ => s.cue.stagedAt.isNone
  body := fun s p =>
    let k := s.packs
    if !s.periodFits (p.u32 0) || !k.1 then .refuse .notAdmitted k.2
    else
      let at_ := s.cue.edges + 1
      let t := { k.2 with cue := { s.cue with nextPeriod := p.u32 0, stagedAt := some at_ } }
      .ok (t.tellMembers 0x0B (leBytes 4 (p.u32 0) ++ leBytes 8 at_))

/-- CUE_SET_EPOCH (R60). -/
def cueSetEpochCmd : Cmd where
  opcode := 0x0402
  admin := true
  states := [.standby]
  named := [(0, 8)]
  body := fun s p =>
    .ok { s with cue := { s.cue with
      epoch := p.u64 0
      nextEdge := if s.cue.byPeriod then edgeBeyond (p.u64 0) s.cue.period s.now else s.cue.nextEdge } }

/-- The cue block after CUE_SET_SOURCE (R60): from PIN to INTERNAL the last edge becomes EPOCH. -/
def CueBlk.setSource (c : CueBlk) (now : Nat) (pin out : Bool) : CueBlk :=
  let c' := { c with outEnable := out, fallback := false, missingRun := 0 }
  if pin then { c' with source := .pin, lastPin := c.lastEdge, nextEdge := if c.edges = 0 then c.nextEdge else c.lastEdge + c.period * 1000 }
  else if c.source = .pin && c.edges ≠ 0 then
    { c' with source := .internal, epoch := c.lastEdge, nextEdge := edgeBeyond c.lastEdge c.period now }
  else { c' with source := .internal }

/-- CUE_SET_SOURCE (R60). -/
def cueSetSourceCmd : Cmd where
  opcode := 0x0403
  admin := true
  states := [.standby]
  named := [(0, 2)]
  fails := fun _ p => [(0, p.u8 0 > 1), (1, p.u8 1 > 1)]
  body := fun s p => .ok { s with cue := s.cue.setSource s.now (p.u8 0 = 1) (p.u8 1 = 1) }

/-- TIME_STEER (R46, R60). -/
def timeSteerCmd : Cmd where
  opcode := 0x0404
  admin := true
  states := [.standby, .service, .draining]
  named := [(0, 12)]
  fails := fun _ p =>
    let rate := signedOf 32 (p.u32 0)
    let phase := signedOf 64 (p.u64 4)
    [(0, rate < -6553600 || rate > 6553600), (4, phase < -10000000 || phase > 10000000)]
  legal := fun s p => p.u64 4 = 0 || !s.time.ppsEnabled
  body := fun s p => .ok { s with time := { s.time with
    rateAdj := signedOf 32 (p.u32 0)
    slewRemain := if p.u64 4 = 0 then s.time.slewRemain else signedOf 64 (p.u64 4)
    slewFrac := if p.u64 4 = 0 then s.time.slewFrac else 0 } }

/-- A device time moved by a step, kept at or above 0. -/
def shifted (t : Nat) (d : Int) : Nat := ((t : Int) + d).toNat

/-- Device time stepped (R46, R60): the stored edge times move with it; EPOCH is the next whole microsecond, or moves under
PIN. -/
def State.stepTime (s : State) (goal : Nat) : State :=
  let d : Int := (goal : Int) - s.now
  let t := { s.time with
    now := goal, frac := 0, slewRemain := 0, slewFrac := 0
    lastPps := s.time.lastPps.map fun x => shifted x d }
  let c := { s.cue with lastEdge := shifted s.cue.lastEdge d, prevEdge := shifted s.cue.prevEdge d, lastPin := shifted s.cue.lastPin d }
  let c := if s.cue.byPeriod then { c with epoch := nextMicro goal, nextEdge := nextMicro goal }
    else { c with epoch := shifted c.epoch d, nextEdge := shifted c.nextEdge d }
  { s with time := t, cue := c }

/-- TIME_STEP (R46, R60). -/
def timeStepCmd : Cmd where
  opcode := 0x0405
  admin := true
  states := [.standby]
  named := [(0, 8)]
  body := fun s p => .ok (s.stepTime (p.u64 0))

/-- TIME_PPS (R47, R60): turning alignment on makes the next edge a first edge and starts the 1.5 s. -/
def timePpsCmd : Cmd where
  opcode := 0x0406
  admin := true
  states := [.standby, .service, .draining]
  named := [(0, 1)]
  fails := fun _ p => [(0, p.u8 0 > 1)]
  body := fun s p =>
    let on : Bool := p.u8 0 = 1
    .ok { s with time :=
      if on && !s.time.ppsEnabled then
        { s.time with ppsEnabled := true, lastPps := none, ppsGood := 0, ppsWaitFrom := s.time.elapsed }
      else if on then s.time
      else { s.time with ppsEnabled := false, ppsLocked := false, ppsGood := 0 } }

/-! ### PPS alignment (R47) -/

/-- The offset of a device time from the nearest whole second. -/
def secondOffset (t : Nat) : Int :=
  let r := t % 1000000000
  if r < 500000000 then (r : Int) else (r : Int) - 1000000000

/-- PPS_IN_EDGE: an edge that has passed the glitch filter is accepted or rejected by its interval; an accepted one within 10 ms
starts a slew by the negated offset. A member of a cascade ignores the pin (R61). -/
def State.ppsEdge (s : State) : State :=
  let t := s.time
  if !t.ppsEnabled || s.plainMember || s.host.state = .boot then s
  else
    let inTime : Bool := match t.lastPps with
      | some x => decide (x + 999900000 ≤ t.now ∧ t.now ≤ x + 1000100000)
      | none => true
    if !inTime then { s with time := { t with ppsRejected := t.ppsRejected.add 16 1 } }
    else
      let o := secondOffset t.now
      let t := { t with ppsTime := t.now, lastPps := some t.now, ppsWaitFrom := t.elapsed }
      if o.natAbs > 10000000 then
        ({ s with time := { t with ppsLocked := false, ppsGood := 0 } }).postEvent 0x0003 .done 1 t.now
      else
        let good := if o.natAbs ≤ 100 then t.ppsGood + 1 else 0
        { s with time := { t with
          slewRemain := if o = 0 then t.slewRemain else -o, slewFrac := if o = 0 then t.slewFrac else 0
          ppsGood := good, ppsLocked := 4 ≤ good || (t.ppsLocked && good ≠ 0) } }

/-- PPS_LOST: no edge accepted for 1.5 s; the next one is accepted without the interval check. -/
def State.ppsLose (s : State) : State :=
  let t := s.time
  if !t.ppsEnabled || t.elapsed < t.ppsWaitFrom + 1500000000 || s.host.state = .boot then s
  else
    ({ s with time := { t with
      ppsLost := true, ppsLocked := false, ppsGood := 0, lastPps := none, ppsWaitFrom := t.elapsed } }).postEvent
        0x0003 .done 2 0

/-! ### What falls due at an edge -/

/-- PERIOD_TAKES_EFFECT (R60): at its edge the staged period is in force and EPOCH becomes that edge; the Playbill shows it. -/
def State.takePeriod (s : State) (k at_ : Nat) : State :=
  if s.cue.stagedAt = some k then
    let c := { s.cue with period := s.cue.nextPeriod, stagedAt := none, epoch := at_ }
    let s := { s with cue := c, playbill := { s.playbill with cueSince := k } }
    (s.rereserve.getD s).playbillDue
  else s

/-- CAPACITY_STEP_APPLY (R58, R59, R330): steps whose edges have come take effect for admission and for the units, with the host
link's staged share and a period that took effect; the plan is rebuilt, streams are shed or resumed. -/
def State.applySteps (s : State) (k : Nat) (periodChanged : Bool) : State :=
  let decided := (s.cue.staged.filter fun x => x.admitEdge ≤ k).getLast?
  let phys := (s.cue.staged.filter fun x => x.physicalEdge ≤ k).getLast?
  let level := match decided with
    | some x => x.level
    | none => s.cue.stepLevel
  let host := match s.host.stagedShare with
    | some h => if h.2 ≤ k then h.1 else s.host.hostShare
    | none => s.host.hostShare
  let changed := decide (level ≠ s.cue.stepLevel) || decide (host ≠ s.host.hostShare) || periodChanged
  let freed := decide (level < s.cue.stepLevel) || decide (host > s.host.hostShare) || periodChanged
  let c := { s.cue with
    stepLevel := level
    physicalStep := match phys with
      | some x => x.level
      | none => s.cue.physicalStep
    staged := s.cue.staged.filter fun x => k < x.physicalEdge }
  let h := { s.host with
    hostShare := host
    stagedShare := match s.host.stagedShare with
      | some h => if h.2 ≤ k then none else some h
      | none => none }
  let s := { s with cue := c, host := h }
  if changed then
    let s := s.shed
    if freed then s.resumeShed else s
  else s

/-- ADMITTED always shows the shares in force from the next edge (R44): an update falls due when a staged one comes to be that. -/
def State.showShares (s : State) : State :=
  let v := if s.playbill.updating.isSome then s.playbill.staged else s.playbill.view
  if v.level = s.nextLevel && v.hostShare = s.nextHostShare && !(s.ewl.table.any fun e => e.2.stepEdge ≠ 0 && e.2.stepEdge = s.cue.edges)
  then s else s.playbillDue

/-- A sample of any stream has arrived unplanned or is still in progress (Table 13.6): one whose chain ended, or that completed
unplanned, only waits for its records to be written. -/
def State.samplesPending (s : State) : Bool := s.samples.any fun e =>
  e.2.arrived && !(e.2.finished && (!e.2.planned || e.2.outcomes.any fun o => o.status = .deadlineMissed))

/-- The commands in flight that wait for a device transition complete. -/
def State.finishAll (s : State) (w : Work) : State :=
  ((s.inflight.filter fun e => e.2.work = w).map (·.1)).foldl (fun (t : State) id => t.finish id ⟨.done, 0⟩ 0) s

/-- SERVICE_ENTRY and DRAINING_COMPLETE (R312). -/
def State.edgeTransitions (s : State) : State :=
  match s.host.state with
  | .standby =>
    if s.ewl.startDue || s.inflight.any fun e => e.2.work = .deviceStart then
      (({ s with ewl := { s.ewl with startDue := false } }).enterState .service).finishAll .deviceStart
    else s
  | .draining => if s.samplesPending then s else (s.enterState .standby).finishAll .deviceStop
  | _ => s

/-- What the split commands staged takes effect (R114, R187), and the runs accepted before the edge may begin. -/
def State.edgeUnits (s : State) : State :=
  let now := s.time.elapsed
  let begin_ := fun (e : Nat × InFlight) => (e.1, { e.2 with work := match e.2.work with
    | .run r => .run { r with eligible := true }
    | w => w })
  let s := { s with
    arrays := s.arrays.map fun (a : ArrayBlk) => a.applyFix now
    vecs := s.vecs.map fun (v : VecBlk) => v.applyFix now
    inflight := s.inflight.map begin_ }
  s.feedRuns

/-- Host traffic of one cue's plan in nanoseconds of the full link, for the width choice of R331. -/
def State.hostLoad (s : State) : Nat :=
  sumNat (s.planned.map fun e => e.1.perCueAt s.cue.period * max (e.1.charge e.2 7) (e.1.charge e.2 10))

/-- L0P_WIDTH_CHANGE (R331): an x16 link runs at x8 for a cue whose plan fits half the rate. -/
def State.edgeWidth (s : State) : State :=
  if s.host.linkUp && s.host.flit && s.host.width = 16 then
    let fits := 10 * 2048 * s.hostLoad ≤ usableWindow s.cue.source s.cue.period * s.host.hostShare
    { s with host := { s.host with l0p := fits } }
  else { s with host := { s.host with l0p := false } }

/-- RETAINED_COPY_FREE (R362): at the edge that begins cue k, copies of blocks whose consumer cue has closed are freed, and
blocks' indexes count anew (R357). -/
def State.freeRetained (s : State) (k : Nat) : State :=
  let done := s.ewl.retained.filter fun r => r.cue + 2 ≤ k
  let s := done.foldl (fun (t : State) r => t.releaseName r.copy) s
  { s with ewl := { s.ewl with retained := s.ewl.retained.filter fun r => k < r.cue + 2, received := [] } }

/-- An array job whose clock stood still for d ns. -/
def ArrayJob.delay (j : ArrayJob) (d : Nat) : ArrayJob := { j with
  doneAt := j.doneAt + d
  phase := match j.phase with
    | .queued => .queued
    | .loading t idle => .loading (t + d) idle
    | .streaming t => .streaming (t + d) }

/-- An array whose clock stood still for d ns. -/
def ArrayBlk.delay (a : ArrayBlk) (d : Nat) : ArrayBlk := { a with parts := a.parts.map fun q => { q with
  queue := q.queue.map fun j => j.delay d, swapAt := q.swapAt.map (· + d), lastRowAt := q.lastRowAt + d } }

/-- TRIP_RELEASE (R451): every trip condition has been clear for 1 ms; the gated arrays go on where they stood. -/
def State.releaseTrip (s : State) : State :=
  match s.pwr.tripClearSince with
  | some t =>
    if s.pwr.trip && t + 1000000 ≤ s.time.elapsed then
      let d := s.time.elapsed - s.pwr.trippedAt
      { s with
        pwr := { s.pwr with trip := false, therm := false, tripSince := none, tripClearSince := none }
        arrays := s.arrays.map fun a => a.delay d
        codecs := s.codecs.map fun (c : CodecBlk) => { c with rebuildUntil := c.rebuildUntil + d } }
    else s
  | none => s

/-- The physical reduction of the last decrease takes effect at its edge (R449). -/
def State.noteDecrease (s : State) (k : Nat) : State :=
  { s with pwr := { s.pwr with lastDecrease := s.pwr.lastDecrease.map fun (d : Decrease) =>
      if d.since.isNone && d.edge ≤ k then { d with since := some s.time.elapsed } else d } }

/-- Commands that wait for a snapshot and that none taken serves. -/
def State.snapshotWaiters (s : State) : List Nat :=
  ((s.inflight.filter fun e => e.2.work = .snapshot).map (·.1)).filter fun id =>
    !(s.obs.snapshots.any fun (x : Snapshot) => x.commands.contains id)

/-- A snapshot of every total as it stands (R437), serving some commands; one that falls due while another is being published is
published after it. -/
def State.takeSnapshot (s : State) (commands : List Nat) : State :=
  let x : Snapshot := { taken := s.time.elapsed, time := s.now, cue := s.cueNow, totals := s.totals, commands := commands }
  { s with obs := { s.obs with
      generation := if s.obs.snapshots.isEmpty then (s.obs.generation + 1) % 2 ^ 32 else s.obs.generation
      snapshots := s.obs.snapshots ++ [x] } }

/-! ### The edge -/

/-- CUE_EDGE (R48): everything that comes about at the edge with device time `at_`, in order. -/
def State.makeEdge (s : State) (at_ : Nat) : State :=
  let k := s.cue.edges
  let before := s
  let changed := s.cue.stagedAt = some k
  let c := { s.cue with
    edges := k + 1, edge := at_, lastEdge := at_, prevEdge := s.cue.lastEdge, linkEdgeAt := none
    lastPin := if s.cue.linkEdgeAt.isSome then s.cue.lastPin else at_ }
  let s := ({ s with cue := c }).takePeriod k at_
  let s := { s with cue := { s.cue with
    nextEdge := if s.cue.byPeriod then
        (if changed || s.cue.edges = 1 then at_ + s.cue.period * 1000 else edgeBeyond s.cue.epoch s.cue.period at_)
      else at_ + s.cue.period * 1000 } }
  let s := s.takeSnapshot s.snapshotWaiters
  let s := s.missDeadlines k
  let s := ((s.applySteps k changed).noteDecrease k).showShares
  let s := (s.reassign before.cue.lastEdge at_ k).examine at_ k
  let s := s.edgeTransitions
  let s := s.releaseTrip
  let s := ((s.edgeUnits).edgeWidth).freeRetained k
  let d := s.draw
  let slack := Config.freeNat d.1 % 2 ^ 32
  let s := d.2
  let out := s.cue.outEnable
  let s := { s with
    cue := { s.cue with
      slack := if k = 0 then before.cue.slack else slack
      outUntil := if out then s.time.elapsed + 1000 else s.cue.outUntil }
    outputs := if out then .cueOut :: s.outputs else s.outputs }
  (s.trace 1 0 0 (if k = 0 then 0 else slack) k).mirrorChanges

/-- An edge is due by the period or by the LINK source (R48, R61, R364). -/
def State.edgeDue (s : State) : Option Nat :=
  if !s.live then none
  else match s.cue.linkEdgeAt with
    | some t => if t ≤ s.now then some t else none
    | none => if s.cue.byPeriod && s.cue.nextEdge ≤ s.now then some s.cue.nextEdge else none

/-- CUE_EDGE. -/
def State.cueEdge (s : State) : State :=
  match s.edgeDue with
  | some t => s.makeEdge t
  | none => s

/-- A stage manager's PIN edge is made 5.0 µs later, on every member, at the time a CUE message carries (R364); a lone device
makes it at once. -/
def State.pinEdge (s : State) (at_ : Nat) : State :=
  if s.stageManager then
    ({ s with cue := { s.cue with linkEdgeAt := some (at_ + 5000), lastPin := at_ } }).tellMembers 0x0B (leBytes 8 (at_ + 5000))
  else s.makeEdge at_

/-- The pin makes the cue edges of this device (R51, R364: the stage manager's checks only). -/
def State.pinSource (s : State) : Bool := s.live && s.cue.source = .pin && !s.plainMember && s.cue.linkEdgeAt.isNone

/-- CUE_IN_EDGE (R51): an edge earlier than P × 0.999 after the last one is ignored and counted; one later
than P × 1.001 comes after the edge that CUE_IN_MISSING makes first. -/
def State.cueInEdge (s : State) : State :=
  if !s.pinSource || (s.cue.edges ≠ 0 && s.cue.lastPin + s.cue.period * 1001 < s.now) then s
  else if s.cue.edges ≠ 0 && s.now < s.cue.lastPin + s.cue.period * 999 then
    { s with cue := { s.cue with pinEarly := s.cue.pinEarly.inc } }
  else ({ s with cue := { s.cue with missingRun := 0 } }).pinEdge s.now

/-- CUE_IN_MISSING (R51): no edge by P × 1.001, so the device makes it; after four in a row it falls back to INTERNAL. -/
def State.cueInMissing (s : State) : State :=
  let late := s.cue.lastPin + s.cue.period * 1001
  if !s.pinSource || s.cue.edges = 0 || s.now < late then s
  else
    let run := s.cue.missingRun + 1
    let s := { s with cue := { s.cue with pinMissing := s.cue.pinMissing.inc, missingRun := run } }
    let s := s.pinEdge late
    if run < 4 then s
    else
      let c := { s.cue with source := .internal, fallback := true, epoch := late, missingRun := 0
                            nextEdge := late + s.cue.period * 1000 }
      (({ s with cue := c }).postEvent 0x0004 .done 0 late).tellMembers 0x0B (leBytes 8 late ++ leBytes 4 s.cue.period)

/-! ### Meanings -/

/-- CUE_SET_PERIOD. -/
def execCueSetPeriod (dt : Nat) (p : Packet) (s : State) : Host.Outcome State Fault Refusal :=
  .next ((s.advance dt).accept cueSetPeriodCmd p)

/-- CUE_SET_EPOCH. -/
def execCueSetEpoch (dt : Nat) (p : Packet) (s : State) : Host.Outcome State Fault Refusal :=
  .next ((s.advance dt).accept cueSetEpochCmd p)

/-- CUE_SET_SOURCE. -/
def execCueSetSource (dt : Nat) (p : Packet) (s : State) : Host.Outcome State Fault Refusal :=
  .next ((s.advance dt).accept cueSetSourceCmd p)

/-- TIME_STEER. -/
def execTimeSteer (dt : Nat) (p : Packet) (s : State) : Host.Outcome State Fault Refusal :=
  .next ((s.advance dt).accept timeSteerCmd p)

/-- TIME_STEP. -/
def execTimeStep (dt : Nat) (p : Packet) (s : State) : Host.Outcome State Fault Refusal :=
  .next ((s.advance dt).accept timeStepCmd p)

/-- TIME_PPS. -/
def execTimePps (dt : Nat) (p : Packet) (s : State) : Host.Outcome State Fault Refusal :=
  .next ((s.advance dt).accept timePpsCmd p)

/-- CUE_EDGE. -/
def execCueEdge (dt : Nat) (s : State) : Host.Outcome State Fault Refusal := .next (s.advance dt).cueEdge

/-- CUE_IN_EDGE. -/
def execCueInEdge (dt : Nat) (s : State) : Host.Outcome State Fault Refusal := .next (s.advance dt).cueInEdge

/-- CUE_IN_MISSING. -/
def execCueInMissing (dt : Nat) (s : State) : Host.Outcome State Fault Refusal := .next (s.advance dt).cueInMissing

/-- PPS_IN_EDGE. -/
def execPpsInEdge (dt : Nat) (s : State) : Host.Outcome State Fault Refusal := .next (s.advance dt).ppsEdge

/-- PPS_LOST. -/
def execPpsLost (dt : Nat) (s : State) : Host.Outcome State Fault Refusal := .next (s.advance dt).ppsLose

end Sys2Proof.Machine
end

