-- ==== Sys2Proof/Machine/Dram.lean ====
section
/-! DEFINITION. The DRAM controller: the maintenance commands of Table 16.6, refresh slices, recalibration and self-refresh (R379, R385,
R393, R394, R396).  Lost bursts are in Repairs.lean, the dies' sensors in Power.lean. -/

namespace Sys2Proof.Machine

open Sys2Proof

/-- A buffer of a DRAM pool is HELD or SCRUBBING. -/
def State.dramHeld (s : State) : Bool := s.wardrobe.pools.any fun e => e.2.dram && !e.2.bufs.isEmpty

/-- DRAM_INTERLEAVE (R379, R396): the grain is set, and the fill under it begins. -/
def dramInterleaveCmd : Cmd where
  opcode := 0x0D01
  admin := true
  states := [.standby]
  named := [(0, 1)]
  fails := fun _ p => [(0, p.u8 0 > 4)]
  legal := fun s _ => !s.dramHeld
  body := fun s p =>
    .wait (.dramInterleave (p.u8 0)) { s with dram := { s.dram with grain := p.u8 0, filling := true } }

/-- DRAM_INTERLEAVE_COMPLETE (R396): all DRAM outside the firmware region is zero with valid codes; the region has moved with its
contents. -/
def State.interleaved (s : State) (id : Nat) : State :=
  match aget s.inflight id with
  | some f => match f.work with
    | .dramInterleave _ =>
      let s := s.zeroMem true 0 firmwareBase
      ({ s with dram := { s.dram with filling := false } }).finish id ⟨.done, 0⟩ 0
    | _ => s
  | none => s

/-- DRAM_TEST (R393, R396). -/
def dramTestCmd : Cmd where
  opcode := 0x0D02
  admin := true
  states := [.standby]
  target := .kind .dramDie
  body := fun s p => .wait (.test .dram (targetUnit s p) (p.target.toNat % 2 ^ 28) s.time.elapsed) s

/-- DRAM_TEST_COMPLETE (R396): the bursts refetched and lost, or a persistent fault on a pattern miscompare. -/
def State.dramTested (s : State) (id : Nat) (wrong : Bool) (refetched lost : Nat) : State :=
  match aget s.inflight id with
  | some f => match f.work with
    | .test .dram _ node _ =>
      if wrong then s.enterFaulted clsSelfTest (node % 65536)
      else s.finish id ⟨.done, 0⟩ (refetched % 2 ^ 32 + 2 ^ 32 * (lost % 2 ^ 32))
    | _ => s
  | none => s

/-- DRAM_REFRESH_SLICE (R383, R385): a slice of a die begins at an access boundary; the controllers refresh whenever they are not in
self-refresh, where the dies do so themselves. -/
def State.refreshSlice (s : State) (die : Nat) : State :=
  if !s.live || s.dram.selfRefresh then s
  else { s with dram := { s.dram with refreshSlices := aset s.dram.refreshSlices die s.time.elapsed } }

/-- DRAM_RECALIBRATION (R393): a channel is recalibrated inside a refresh slice, 10 ms after its last one; its margin is shown. -/
def State.recalibrate (s : State) (channel margin : Nat) : State :=
  let due := match aget s.dram.recalibrated channel with
    | some t => t + 10000000 ≤ s.time.elapsed
    | none => true
  if !s.live || s.dram.selfRefresh || !due then s
  else { s with dram := { s.dram with
      recalibrated := aset s.dram.recalibrated channel s.time.elapsed
      channelMargin := aset s.dram.channelMargin channel (margin % 64) } }

/-- SELF_REFRESH_EXIT (R394, R445): a DRAM request ends REST and makes all eight controllers leave self-refresh; contents, codes and training results
are kept. -/
def State.exitSelfRefresh (s : State) : State :=
  if s.dram.selfRefresh then
    let s := s.leaveRest
    { s with dram := { s.dram with selfRefresh := false } }
  else s

/-- DRAM_INTERLEAVE. -/
def execDramInterleave (dt : Nat) (p : Packet) (s : State) : Host.Outcome State Fault Refusal :=
  .next ((s.advance dt).accept dramInterleaveCmd p)

/-- DRAM_INTERLEAVE_COMPLETE. -/
def execDramInterleaveComplete (dt id : Nat) (s : State) : Host.Outcome State Fault Refusal :=
  .next ((s.advance dt).interleaved id)

/-- DRAM_TEST. -/
def execDramTest (dt : Nat) (p : Packet) (s : State) : Host.Outcome State Fault Refusal :=
  .next ((s.advance dt).accept dramTestCmd p)

/-- DRAM_TEST_COMPLETE. -/
def execDramTestComplete (dt id : Nat) (wrong : Bool) (refetched lost : Nat) (s : State) : Host.Outcome State Fault Refusal :=
  .next ((s.advance dt).dramTested id wrong refetched lost)

/-- DRAM_REFRESH_SLICE. -/
def execDramRefreshSlice (dt die : Nat) (s : State) : Host.Outcome State Fault Refusal :=
  .next ((s.advance dt).refreshSlice die)

/-- DRAM_RECALIBRATION. -/
def execDramRecalibration (dt channel margin : Nat) (s : State) : Host.Outcome State Fault Refusal :=
  .next ((s.advance dt).recalibrate channel margin)

/-- SELF_REFRESH_EXIT. -/
def execSelfRefreshExit (dt : Nat) (s : State) : Host.Outcome State Fault Refusal :=
  .next (s.advance dt).exitSelfRefresh

end Sys2Proof.Machine
end

