-- ==== Sys2Proof/Machine/Power.lean ====
section
/-! DEFINITION. Power, sensors and clocks: rail and sensor samples and their averages (R447), thresholds (R448), capacity steps (R449,
R450), trips and shutdown (R451, R452), REST (R445), lost PLL locks (R444) and the cores' watchdogs (R399). -/

namespace Sys2Proof.Machine

open Sys2Proof

/-! ### Averages and thresholds (R447, R448) -/

/-- Samples of the last ns nanoseconds. -/
def recent (now ns : Nat) (l : List (Nat × Nat)) : List (Nat × Nat) := l.filter fun e => now < e.1 + ns

/-- The mean of samples, rounded down. -/
def meanOf (l : List (Nat × Nat)) : Nat := sumNat (l.map (·.2)) / l.length

/-- The hottest sensor from first up to, and not including, last. -/
def hottest (l : List (Nat × Nat)) (first last : Nat) : Nat :=
  (l.filter fun e => first ≤ e.1 && e.1 < last).foldl (fun m e => max m e.2) 0

/-- The least temperatures of Table 20.2 beyond which a threshold of a sensor is crossed: increase allowed, decrease, trip,
shutdown. -/
def sensorLimits (sensor : Nat) : List Nat := if sensor < 64 then [94, 98, 108, 115] else [87, 90, 97, 102]

/-- A crossing of a threshold (R448, R472): a THERMAL trace record, and the CROSSED cause of ALERT_N. -/
def State.crossing (s : State) (sensor reading : Nat) : State :=
  { s.trace 12 0 0 sensor reading with mgmt := { s.mgmt with crossed := true } }

/-- A sensor's new reading, with a crossing for each threshold between the old one and it. -/
def State.readSensor (s : State) (sensor c : Nat) : State :=
  let old := agetD s.pwr.sensors sensor 0
  let crossed := (sensorLimits sensor).filter fun t => decide (t ≤ old) != decide (t ≤ c)
  let s := crossed.foldl (fun (t : State) _ => t.crossing sensor c) s
  { s with pwr := { s.pwr with sensors := aset s.pwr.sensors sensor c } }

/-- The power thresholds of Table 20.2 that hold: P_100ms above LIMIT − 10 W and above LIMIT − 40 W, P_1ms above LIMIT and above
540 W, I_core above 530 A and above 480 A, the instantaneous current at 555 A. -/
def Pwr.above (p : Pwr) (instant : Nat) : List Bool :=
  [decide (p.limit * 1000 < p.average + 10000), decide (p.limit * 1000 < p.average + 40000), decide (p.limit * 1000 < p.milliwatts),
   decide (540000 < p.milliwatts), decide (530000 < p.coreMilliamps), decide (480000 < p.coreMilliamps), decide (555000 ≤ instant)]

/-- The time within the last 10 ms that P_1ms has been above LIMIT. -/
def Pwr.timeOver (p : Pwr) (now : Nat) : Nat :=
  sumNat (p.overLimitTimes.map fun e => e.2 - max e.1 (now - 10000000)) + (match p.overSince with
    | some t => now - max t (now - 10000000)
    | none => 0)

/-- The trip condition of Table 20.2 that holds, if any: its cause code and the sensor, 0 for a power condition. -/
def Pwr.tripCondition (p : Pwr) (now : Nat) : Option (Nat × Nat) :=
  match p.sensors.find? fun e => e.1 < 64 && 108 ≤ e.2 with
  | some e => some (1, e.1)
  | none => match p.sensors.find? fun e => 64 ≤ e.1 && 97 ≤ e.2 with
    | some e => some (2, e.1)
    | none =>
      if (match p.instantSince with
        | some t => decide (t + 5000 ≤ now)
        | none => false) then some (3, 0)
      else if 540000 < p.milliwatts || (match p.overSince with
        | some t => decide (t + 10000000 < now)
        | none => false) then some (4, 0)
      else none

/-- The sensor at a shutdown reading, if any (Table 20.2). -/
def Pwr.shutdown (p : Pwr) : Option Nat :=
  (p.sensors.find? fun e => (e.1 < 64 && 115 ≤ e.2) || (64 ≤ e.1 && 102 ≤ e.2)).map (·.1)

/-- Every column of "Step increase allowed" holds (Table 20.2). -/
def Pwr.coolEnough (p : Pwr) : Bool :=
  hottest p.sensors 0 64 ≤ 93 && hottest p.sensors 64 96 ≤ 86 && p.average + 40000 ≤ p.limit * 1000 && p.coreMilliamps ≤ 480000

/-! ### Capacity steps (R58, R449) -/

/-- A member reports the step it has decided to its stage manager (R449). -/
def State.reportStep (s : State) (level : Nat) : State :=
  if s.inCascade && s.ewl.role ≠ 1 then s.send 0x07 s.ewl.manager 0 0 0 false ([4] ++ leBytes 1 level) else s

/-- A capacity step decided (R58): for the next edge, or the one after it when less than 200 µs of the cue are left; a decrease
acts on the units one edge later; the Playbill is updated in the cue before admission uses it (R44). -/
def State.decideStep (s : State) (level : Nat) : State :=
  if level = s.pwr.stepNext then s
  else
    let e := s.cue.edges + (if s.cue.nextEdge < s.now + 200000 then 1 else 0)
    let lower := decide (s.pwr.stepNext < level)
    let x : StagedStep := { level := level, admitEdge := e, physicalEdge := if lower then e + 1 else e }
    let s := if lower then s else s.leaveRest
    let d : Decrease := { edge := e + 1, since := none, logic := s.pwr.logicTemp, dram := s.pwr.dramTemp, average := s.pwr.average }
    let s := { s with
      cue := { s.cue with staged := s.cue.staged ++ [x] }
      pwr := { s.pwr with
        stepNext := level, stepChanges := s.pwr.stepChanges.inc, decided := some s.cue.edges
        lastDecrease := if lower then some d else s.pwr.lastDecrease }
      mgmt := { s.mgmt with stepped := true } }
    ((if e = s.cue.edges then s.playbillDue else s).trace 8 0 0 level e).reportStep level

/-- A decrease is called for, and the hold of R449 does not forbid it. -/
def State.wantsDecrease (s : State) : Bool :=
  let p := s.pwr
  let thermal := 98 ≤ p.logicTemp || 90 ≤ p.dramTemp
  let average := p.limit * 1000 < p.average + 10000
  let held : Bool := match p.lastDecrease with
    | some d => match d.since with
      | some t => decide (s.time.elapsed < t + 100000000)
      | none => true
    | none => false
  let hotter : Bool := match p.lastDecrease with
    | some d => decide (d.logic + 2 ≤ p.logicTemp) || decide (d.dram + 2 ≤ p.dramTemp)
    | none => false
  let more : Bool := match p.lastDecrease with
    | some d => decide (d.average + 10000 ≤ p.average)
    | none => false
  (thermal && (!held || hotter)) || (average && (!held || more)) || 8000000 ≤ p.timeOver s.time.elapsed
    || 530000 < p.coreMilliamps

/-- An increase is allowed (R449): its columns have held for 1,000 ms and the higher budget fits. -/
def State.mayIncrease (s : State) : Bool :=
  let p := s.pwr
  (match p.increaseSince with
    | some t => decide (t + 1000000000 ≤ s.time.elapsed)
    | none => false)
    && 0 < p.stepNext && p.average + stepBudget (p.stepNext - 1) - stepBudget p.stepNext + 10000 ≤ p.limit * 1000

/-- CAPACITY_EVALUATION (R449): at most one step in a cue. -/
def State.evaluate (s : State) : State :=
  if !s.live || s.pwr.decided = some s.cue.edges then s
  else if s.wantsDecrease then (if s.pwr.stepNext < 7 then s.decideStep (s.pwr.stepNext + 1) else s)
  else if s.mayIncrease then s.decideStep (s.pwr.stepNext - 1)
  else s

/-! ### Trips and shutdown (R451, R452) -/

/-- EMERGENCY_TRIP (R451): domains are gated, THERM_N is asserted and step 7 is decided. -/
def State.declareTrip (s : State) (cause : Nat) : State :=
  let s := { s with
    pwr := { s.pwr with
      trip := true, therm := true, trippedAt := s.time.elapsed, trips := s.pwr.trips.inc, tripCause := cause }
    mgmt := { s.mgmt with tripped := true } }
  if s.live then s.decideStep 7 else s

/-- THERMAL_SHUTDOWN (R452): FAULTED with class THERMAL; the other domains stop and THERM_N stays asserted until a reset. -/
def State.thermalFault (s : State) (sensor : Nat) : State :=
  let s := s.enterFaulted clsThermal sensor
  { s with pwr := { s.pwr with stopped := true, therm := true } }

/-- After a sample: the hottest readings, how long increases have been allowed, and the trip and shutdown conditions. -/
def State.watchPower (s : State) : State :=
  let now := s.time.elapsed
  let logic := hottest s.pwr.sensors 0 64
  let s := { s with pwr := { s.pwr with
    logicTemp := logic
    logicSensor := match s.pwr.sensors.find? fun e => e.1 < 64 && e.2 = logic with
      | some e => e.1
      | none => 0
    dramTemp := hottest s.pwr.sensors 64 96
    increaseSince := if s.pwr.coolEnough then some (s.pwr.increaseSince.getD now) else none } }
  if s.host.state = .faulted then s
  else match s.pwr.shutdown with
    | some sensor => s.thermalFault sensor
    | none => match s.pwr.tripCondition now with
      | some (cause, sensor) =>
        let s := { s with pwr := { s.pwr with
          tripSince := some (s.pwr.tripSince.getD now), tripClearSince := none, tripSensor := sensor } }
        if s.pwr.trip then s else s.declareTrip cause
      | none => { s with pwr := { s.pwr with
          tripSince := none
          tripClearSince := if s.pwr.trip then some (s.pwr.tripClearSince.getD now) else none } }

/-- The power controller runs: the device is out of reset and its clocks have not been stopped. -/
def State.powered (s : State) : Bool := s.host.bootStep ≠ 0

/-- RAIL_SAMPLE (R447): the averages move on; THERMAL records tell the crossings. The record of a power threshold carries no sensor
and its reading is free. -/
def State.railSample (s : State) (milliwatts milliamps : Nat) : State :=
  let now := s.time.elapsed
  let p := s.pwr
  let h1 := recent now 1000000 ((now, milliwatts) :: p.history1)
  let h100 := recent now 100000000 ((now, milliwatts) :: p.history100)
  let hi := recent now 1000000 ((now, milliamps) :: p.currentHistory)
  let before := p.above (if p.instantSince.isSome then 555000 else 0)
  let q := { p with
    history1 := h1, history100 := h100, currentHistory := hi
    milliwatts := meanOf h1, average := meanOf h100, coreMilliamps := meanOf hi
    instantSince := if 555000 ≤ milliamps then some (p.instantSince.getD now) else none }
  let excess := decide (q.limit * 1000 < q.milliwatts)
  let q := { q with
    overSince := if excess then some (q.overSince.getD now) else none
    overLimitTimes := ((match q.overSince with
      | some t => if excess then [] else [(t, now)]
      | none => []) ++ q.overLimitTimes).filter fun e => now < e.2 + 10000000 }
  let n := ((before.zip (q.above milliamps)).filter fun b => b.1 != b.2).length
  let s := (upto n).foldl (fun (t : State) _ =>
    let d := t.draw
    d.2.crossing 0 (Config.freeNat d.1)) { s with pwr := q }
  s.watchPower

/-- The readings of sensors from number n on. -/
def State.readSensors (s : State) (n : Nat) (temps : List Nat) : State :=
  ((upto temps.length).zip temps).foldl (fun (t : State) e => t.readSensor (n + e.1) e.2) s

/-- DRAM_REFRESH_RATE_CHANGE (R385): a die whose sensor is above 85 °C refreshes at the doubled rate, and returns when all its sensors
have read 83 °C or below for 100 ms. -/
def Dram.rate (d : Dram) (now die hot : Nat) : Dram :=
  let since := if hot ≤ 83 then some ((aget d.dieCoolSince die).getD now) else none
  let cool : Bool := match since with
    | some t => decide (t + 100000000 ≤ now)
    | none => false
  let d := { d with dieCoolSince := match since with
    | some t => aset d.dieCoolSince die t
    | none => adel d.dieCoolSince die }
  if 85 < hot && !d.doubled.contains die then
    { d with doubled := die :: d.doubled, dieDoublings := aset d.dieDoublings die (agetD d.dieDoublings die {}).inc }
  else if cool then { d with doubled := d.doubled.filter (· ≠ die) }
  else d

/-- DRAM_SENSOR_SAMPLE (R385, R386, R447). -/
def State.dramSensors (s : State) (die : Nat) (temps : List Nat) : State :=
  let hot := temps.foldl max 0
  let d := s.dram.rate s.time.elapsed die hot
  let d := { d with
    dieTemp := aset d.dieTemp die hot, diePeak := aset d.diePeak die (max hot (agetD d.diePeak die 0)) }
  (({ s with dram := d }).readSensors (64 + 4 * die) temps).watchPower

/-- TRIP_HOLD_TIMEOUT (R452): a trip condition has held for 100 ms. -/
def State.tripHeld (s : State) : State :=
  match s.pwr.tripSince with
  | some t => if s.pwr.trip && t + 100000000 ≤ s.time.elapsed then s.thermalFault s.pwr.tripSensor else s
  | none => s

/-! ### REST (R445) -/

/-- Any buffer is being scrubbed. -/
def State.anyScrub (s : State) : Bool := s.wardrobe.pools.any fun e => 0 < e.2.scrubbing

/-- REST_ENTRY: the device is idle in STANDBY and no doorbell or BAR2 access has come for 10 ms. -/
def State.enterRest (s : State) : State :=
  if s.host.state ≠ .standby || s.pwr.rest || !s.inflight.isEmpty || s.anyScrub
      || s.time.elapsed < s.pwr.lastAccess + 10000000 then s
  else { s with
    pwr := { s.pwr with rest := true, restEntries := s.pwr.restEntries.inc }
    dram := { s.dram with selfRefresh := true } }

/-! ### Clocks and cores -/

/-- PLL_LOCK_LOSS (R444): the domain stops, and the device treats it as a CORE fault; which core is not stated. -/
def State.lostLock (s : State) (domain : Nat) : State :=
  if !s.pllLocked domain then s
  else
    let d := s.draw
    ({ d.2 with pwr := { d.2.pwr with unlocked := domain :: d.2.pwr.unlocked } }).enterFaulted clsCore (Config.freeNat d.1 % 12)

/-- CORE_INSTRUCTION_REFETCH (R398, R399): the line is fetched again from the firmware image; it changes no status, and the rate of
R398 holds for a core. -/
def State.refetchLine (s : State) (core : Nat) : State :=
  let r := recordRepeat s.ms (agetD s.cores core [])
  let s := { s with cores := aset s.cores core r.1, coreRefetches := s.coreRefetches + 1 }
  if r.2 then s.enterFaulted clsCore core else s.trace 4 clsCore core 0x0F s.cueNow

/-! ### The commands -/

/-- RAIL_SAMPLE. -/
def execRailSample (dt milliwatts coreMilliamps : Nat) (s : State) : Host.Outcome State Fault Refusal :=
  let s := s.advance dt
  .next (if s.powered then s.railSample milliwatts coreMilliamps else s)

/-- LOGIC_SENSOR_SAMPLE. -/
def execLogicSensorSample (dt : Nat) (temps : List Nat) (s : State) : Host.Outcome State Fault Refusal :=
  let s := s.advance dt
  .next (if s.powered then (s.readSensors 0 (temps.take 64)).watchPower else s)

/-- TRIP_HOLD_TIMEOUT. -/
def execTripHoldTimeout (dt : Nat) (s : State) : Host.Outcome State Fault Refusal := .next (s.advance dt).tripHeld

/-- DRAM_SENSOR_SAMPLE. -/
def execDramSensorSample (dt die : Nat) (temps : List Nat) (s : State) : Host.Outcome State Fault Refusal :=
  let s := s.advance dt
  .next (if s.powered && !s.pwr.stopped then s.dramSensors die (temps.take 4) else s)

/-- CAPACITY_EVALUATION. -/
def execCapacityEvaluation (dt : Nat) (s : State) : Host.Outcome State Fault Refusal := .next (s.advance dt).evaluate

/-- REST_ENTRY. -/
def execRestEntry (dt : Nat) (s : State) : Host.Outcome State Fault Refusal := .next (s.advance dt).enterRest

/-- REST_EXIT: a waking event. -/
def execRestExit (dt : Nat) (s : State) : Host.Outcome State Fault Refusal := .next (s.advance dt).leaveRest

/-- PLL_LOCK_LOSS. -/
def execPllLockLoss (dt domain : Nat) (s : State) : Host.Outcome State Fault Refusal := .next ((s.advance dt).lostLock domain)

/-- WATCHDOG_EXPIRY (R399): a core that has not checked in for 100 µs is a CORE fault. -/
def execWatchdogExpiry (dt core : Nat) (s : State) : Host.Outcome State Fault Refusal :=
  let s := s.advance dt
  .next (if s.powered then s.enterFaulted clsCore core else s)

/-- CORE_INSTRUCTION_REFETCH. -/
def execCoreInstructionRefetch (dt core : Nat) (s : State) : Host.Outcome State Fault Refusal :=
  let s := s.advance dt
  .next (if s.powered && s.host.state ≠ .faulted then s.refetchLine core else s)

end Sys2Proof.Machine
end

