-- ==== Sys2Proof/Machine/HostLink.lean ====
section
/-! DEFINITION. The host link: training and retraining (R328 to R330), going down (R344, R444) and its power states (R332). -/

namespace Sys2Proof.Machine

open Sys2Proof

/-- The raw rate of a link in bytes a second (Table 14.1). -/
def rawRate (speed width : Nat) : Nat := 128000000000 * width / 16 / 2 ^ (6 - speed)

/-- BANDWIDTH charged for a link (Table 14.1). -/
def payloadRate (speed width : Nat) : Nat :=
  match rawRate speed width with
  | 128000000000 => 100000000000
  | 64000000000 => 50000000000
  | 32000000000 => 25000000000
  | r => r * 78 / 100

/-- The HOST share a link gives (R330). -/
def hostShareOf (speed width : Nat) : Nat := 1024 * payloadRate speed width / 100000000000

/-- The host port's LINK trace record (Table 19.2), with the state codes of Table 15.8. -/
def State.traceHostPort (s : State) (code : Nat) : State := s.trace 9 0 0 (15 + 16 * code) 0

/-- LINK_RETRAIN (R330): the link trains to a speed and width; another rate changes the HOST share with the timing of a capacity step
and makes a Playbill update due in the cue before admission uses it. -/
def State.retrain (s : State) (speed width : Nat) (flit : Bool) : State :=
  let old := payloadRate s.host.speed s.host.width
  let new := payloadRate speed width
  let share := hostShareOf speed width
  let e := s.cue.edges + (if s.cue.nextEdge < s.now + 200000 then 1 else 0)
  let s := { s with
    host := { s.host with
      linkUp := true, speed := speed, width := width, flit := flit, l0p := false, power := .l0
      retrains := if s.host.linkUp then s.host.retrains.inc else s.host.retrains }
    pwr := { s.pwr with absent := s.pwr.absent - s.pwr.absent % 2 } }
  let s := s.traceHostPort 3
  if !s.live then { s with host := { s.host with hostShare := share, stagedShare := none } }
  else if old = new then s
  else
    let s := { s with host := { s.host with stagedShare := some (share, e) } }
    if e = s.cue.edges then s.playbillDue else s

/-- LINK_DOWN (R344): the device keeps its state; nothing is fetched, and writes meet Table 14.4. -/
def State.linkFalls (s : State) : State :=
  if s.host.linkUp then
    ({ s with host := { s.host with linkUp := false, l0p := false, power := .l0 } }).traceHostPort 1
  else s

/-- The conditions of Table 14.2 under which the idle link may enter a power state. -/
def State.mayIdle (s : State) (goal : LinkPower) : Bool :=
  let idle := s.time.elapsed - s.host.lastTransfer
  s.host.linkUp && s.host.powerEnabled && match goal with
    | .l0 => false
    | .l0s => !s.host.flit && s.host.power == .l0 && 1000 ≤ idle
    | .l1 => s.host.power == .l0 && 32000 ≤ idle
    | .l1p1 => s.host.state == .standby && s.host.power != .l1p2 && 32000 ≤ idle
    | .l1p2 => s.host.state == .standby && 1000000 ≤ idle

/-- LINK_POWER_ENTRY (R332). -/
def State.linkSleeps (s : State) (goal : LinkPower) : State :=
  if s.mayIdle goal then
    let since := if linkInL1 s.host.power then s.host.powerSince else s.time.elapsed
    { s with host := { s.host with power := goal, powerSince := since } }
  else s

/-- PCIE_REFCLK_LOSS (R444): the link goes down without a reset. -/
def State.pcieLost (s : State) : State :=
  ({ s with pwr := { s.pwr with absent := s.pwr.absent - s.pwr.absent % 2 + 1 } }).linkFalls

/-- LINK_RETRAIN. -/
def execLinkRetrain (dt speed width : Nat) (flit : Bool) (s : State) : Host.Outcome State Fault Refusal :=
  let s := s.advance dt
  .next (if s.powered then s.retrain speed width flit else s)

/-- LINK_DOWN. -/
def execLinkDown (dt : Nat) (s : State) : Host.Outcome State Fault Refusal := .next (s.advance dt).linkFalls

/-- LINK_POWER_ENTRY. -/
def execLinkPowerEntry (dt : Nat) (state : LinkPower) (s : State) : Host.Outcome State Fault Refusal :=
  .next ((s.advance dt).linkSleeps state)

/-- LINK_POWER_EXIT (R332): an inbound request or a write of the device's own. -/
def execLinkPowerExit (dt : Nat) (s : State) : Host.Outcome State Fault Refusal := .next (s.advance dt).wakeLink

/-- PCIE_REFCLK_LOSS. -/
def execPcieRefclkLoss (dt : Nat) (s : State) : Host.Outcome State Fault Refusal := .next (s.advance dt).pcieLost

end Sys2Proof.Machine
end

