-- ==== Sys2Proof/Machine/Playbill.lean ====
section
/-! DEFINITION. The Playbill (R27 to R44): node records, the header, what a virtual function sees, the expansion ROM, and the end of an
update.  Fields stand in ascending code order, children in slot order, the wings after the device's components (log entry 24). -/

namespace Sys2Proof.Machine

open Sys2Proof

/-! ### Records -/

/-- A field entry (R36): code, length, value, zeros to an 8-byte boundary. -/
def fieldBytes (code : Nat) (value : List Byte) : List Byte :=
  leBytes 2 code ++ leBytes 2 value.length ++ value ++ List.replicate ((4 - value.length % 8 + 8) % 8) 0

/-- What the records of the nodes below a node hold: their bytes, and how many nodes they are. -/
structure Records where
  bytes : List Byte := []
  children : Nat := 0
  nodes : Nat := 0

/-- Records one after another. -/
def Records.join (l : List Records) : Records :=
  ⟨l.flatMap (·.bytes), sumNat (l.map (·.children)), sumNat (l.map (·.nodes))⟩

/-- One node record (R32, Table 2.3): header, fields, children. -/
def nodeRecord (id : Nat) (kind : NodeKind) (status count parent : Nat) (fields : List (Nat × List Byte)) (below : Records) :
    Records :=
  let f := fields.flatMap fun e => fieldBytes e.1 e.2
  ⟨leBytes 4 id ++ leBytes 2 kind.code ++ leBytes 2 fields.length ++ leBytes 4 (32 + f.length + below.bytes.length)
    ++ leBytes 4 f.length ++ leBytes 4 parent ++ leBytes 2 below.children ++ leBytes 2 status ++ leBytes 4 count
    ++ leBytes 4 0 ++ f ++ below.bytes, 1, 1 + below.nodes⟩

/-- The NODE_ID of a slot (R34). -/
def nodeId (level stride d slot : Nat) : Nat := level * 2 ^ 28 + d * stride + slot

/-- UNIT. -/
def fUnit (n : Nat) : Nat × List Byte := (0x01, leBytes 2 n)

/-- CLOCK_DOMAIN. -/
def fClock (n : Nat) : Nat × List Byte := (0x05, leBytes 1 n)

/-- GEOMETRY. -/
def fGeometry (rows columns : Nat) : Nat × List Byte := (0x06, leBytes 4 rows ++ leBytes 4 columns)

/-- CAPACITY_BYTES. -/
def fBytes (n : Nat) : Nat × List Byte := (0x08, leBytes 8 n)

/-- BANDWIDTH. -/
def fBandwidth (n : Nat) : Nat × List Byte := (0x09, leBytes 8 n)

/-- RATE (R37). -/
def fRate (l : List (Nat × Nat)) : Nat × List Byte :=
  (0x0A, l.flatMap fun e => leBytes 2 e.1 ++ leBytes 2 0 ++ leBytes 8 e.2)

/-- The rates of an array: multiply-accumulates per second in each format of an array class (Tables 0.1 and 6.1). -/
def arrayRates : List (Nat × Nat) :=
  let m := 262144 * 600000000
  [(0x02, m / 4), (0x03, m / 4), (0x04, m), (0x05, m), (0x08, m), (0x09, m), (0x0A, m), (0x0B, m), (0x0C, 2 * m),
   (0x0D, m), (0x10, 2 * m)]

/-- The rates of a vector engine: one element per lane and step in each element format of a tensor descriptor (R154). -/
def vectorRates : List (Nat × Nat) := [0x01, 0x02, 0x03, 0x04, 0x05, 0x18].map fun f => (f, 512 * 600000000)

/-- Table 2.8. -/
def limitValues : List Nat :=
  [8192, 4352, 16384, 4096, 16384, 1023, 64, 4096, 256, 1024, 16, 4096, 1000, 1000000, 2048, 63, 16, 65536, 262144, 64, 8192] ++
    [1024]

/-- CODEC_PROFILES (R239, Table 11.1). -/
def profileBytes : List Byte :=
  [[1, 1, 52, 0], [1, 2, 52, 0], [1, 3, 52, 0], [2, 1, 61, 0], [2, 2, 61, 0], [2, 3, 61, 0], [3, 1, 61, 0], [2, 1, 51, 1],
   [2, 2, 51, 1], [3, 1, 51, 1]].flatMap fun q => q.map fun n => BitVec.ofNat 8 n

/-! ### One device -/

/-- The share of a resource that a view shows (R37). -/
def PlaybillView.share (v : PlaybillView) (r : Nat) : Nat := if r = 7 then v.hostShare else stepShare v.level r

/-- STATUS of a node in service whose resources are given (R32, R44). -/
def PlaybillView.status (v : PlaybillView) (resources : List Nat) : Nat :=
  3 + 4 * b2n (resources.any fun r => v.share r < 1024)

/-- ADMITTED for shares of resources 1 to 7. -/
def fAdmitted (share : Nat → Nat) : Nat × List Byte :=
  (0x10, (upto 7).flatMap fun i => leBytes 2 (i + 1) ++ leBytes 2 (share (i + 1)))

/-- CUE (Table 2.6). -/
def PlaybillView.fCue (v : PlaybillView) : Nat × List Byte := (0x11, leBytes 4 v.cuePeriod ++ leBytes 8 v.cueSince)

/-- A bay's nodes: its engine, sampler and core, and its array with the templates of sections and cells (R33). -/
def PlaybillView.bay (v : PlaybillView) (d parent b : Nat) : Records :=
  let bay := nodeId 3 32 d (4 * b)
  let array := nodeId 2 8 d b
  let section_ := nodeId 1 512 d (64 * b)
  let cell := nodeRecord (nodeId 0 2097152 d (64 * b * 4096)) .cell 3 4096 section_ [fUnit 0, fClock b] {}
  let sec := nodeRecord section_ .section_ 3 64 array [fUnit 0, fClock b, fGeometry 64 64] cell
  let arr := nodeRecord array .array (v.status [1]) 1 bay
    [fUnit b, fClock b, fGeometry 512 512, (0x07, [7]), fRate arrayRates] sec
  nodeRecord bay .bay 3 1 parent [fUnit b] (.join
    [nodeRecord (bay + 1) .vectorEngine (v.status [2]) 1 bay [fUnit b, fClock 8, fGeometry 1 512, fRate vectorRates] {},
     nodeRecord (bay + 2) .sampler 3 1 bay [fUnit b, fClock 8] {},
     nodeRecord (bay + 3) .controlCore 3 1 bay [fUnit b, fClock 13] {}, arr])

/-- A wing's nodes. -/
def PlaybillView.wing (v : PlaybillView) (d parent w : Nat) : Records :=
  let wing := nodeId 4 32 d (16 * w)
  nodeRecord wing .wing 3 1 parent [fUnit w] (.join (
    ((upto 2).map fun k => nodeRecord (wing + 1 + k) .codecCluster (v.status [3, 4]) 1 wing
      [fUnit (2 * w + k), fClock (9 + 2 * w + k), fRate [(0x100, 16000000000), (0x101, 250000000), (0x102, 4000000000)]] {})
    ++ ((upto 4).map fun k => nodeRecord (wing + 3 + k) .scaler (v.status [5]) 1 wing
      [fUnit (4 * w + k), fClock 35, fRate [(0x103, 4000000000), (0x104, 64000000000)]] {})
    ++ [nodeRecord (wing + 7) .jpeg 3 1 wing [fUnit w, fClock 35, fRate [(0x105, 2000000000), (0x106, 500000000)]] {}]
    ++ ((upto 8).map fun k => nodeRecord (wing + 8 + k) .csi2Port 3 1 wing
      [fUnit (8 * w + k), fClock (31 + (8 * w + k) / 4)] {})
    ++ (upto 4).map fun k => v.bay d wing (4 * w + k)))

/-- What a function's Playbill lists (R29, R36): its pools and its ring range. -/
structure Listed where
  pools : List (Nat × Bool × Nat × Nat × Nat × Nat)
  first : Nat
  count : Nat

/-- Everything listed for the PF; for a VF the pools of its groups and the rings of its range. -/
def PlaybillView.listed (v : PlaybillView) (groupFn : List (Nat × Nat)) (fn : Nat) : Listed :=
  if fn = 0 then ⟨v.pools, 0, 16384⟩
  else
    let r := ((v.vfRings.find? fun e => e.1 = fn).map (·.2)).getD (0, 0)
    ⟨v.pools.filter fun p => aget groupFn p.2.2.2.2.2 = some fn, r.1, r.2⟩

/-- A POOLS entry (R37). -/
def poolEntry (p : Nat × Bool × Nat × Nat × Nat × Nat) : List Byte :=
  leBytes 1 p.1 ++ leBytes 1 (b2n p.2.1 + 2 * p.2.2.1) ++ leBytes 2 p.2.2.2.2.2 ++ leBytes 4 p.2.2.2.1 ++ leBytes 8 p.2.2.2.2.1

/-- The bytes of the pools listed. -/
def Listed.bytes (l : Listed) : Nat := sumNat (l.pools.map fun p => p.2.2.2.1 * (4096 * 4 ^ p.2.2.1))

/-- The components of level 5. -/
def PlaybillView.components (v : PlaybillView) (l : Listed) (d : Nat) : Records :=
  let dev := nodeId 5 64 d 0
  let node := fun (slot : Nat) (kind : NodeKind) (status : Nat) (fields : List (Nat × List Byte)) =>
    nodeRecord (dev + slot) kind status 1 dev fields {}
  .join ([node 1 .house 3 [fUnit 0, fClock 8, fBytes 402653184, fBandwidth (256 * 64 * 1200000000)],
     node 2 .wardrobe 3 [fUnit 0, fClock 8, fBytes l.bytes, (0x0B, l.pools.flatMap poolEntry)],
     node 3 .dram (v.status [6]) [fUnit 0, fBytes 51539607552, fBandwidth 9830400000000]]
    ++ ((upto 8).map fun k => node (4 + k) .dramDie 3 [fUnit k, fClock (14 + k), fBytes 6442450944])
    ++ [node 12 .hostPort (v.status [7]) [fUnit 0, fClock 22, fBandwidth (payloadRate v.speed v.width)]]
    ++ ((upto 8).map fun k => node (13 + k) .euwaldPort 3 [fUnit k, fClock (23 + k), fBandwidth 100000000000])
    ++ ((upto 4).map fun k => node (21 + k) .managerCore 3 [fUnit k, fClock 13])
    ++ [node 25 .audioFrontEnd 3 [fUnit 0, fClock 35, fRate [(0x107, 409600)]],
        node 26 .security 3 [fUnit 0, fClock 36], node 27 .timeBase 3 [fUnit 0, fClock 37], node 28 .clocks 3 [fUnit 0],
        node 29 .queues 3 [fUnit 0, (0x0C, leBytes 4 l.first ++ leBytes 4 l.count)],
        node 30 .formats 3 [fUnit 0, (0x0D, leBytes 8 0x81013F3E)],
        node 31 .codecProfiles 3 [fUnit 0, (0x0E, profileBytes)],
        node 32 .limits 3 [fUnit 0, (0x0F, ((upto 22).zip limitValues).flatMap fun e =>
          leBytes 2 (e.1 + 1) ++ leBytes 8 e.2)],
        node 33 .capacity (v.status [1, 2, 3, 4, 5, 6, 7]) [fUnit 0, fAdmitted v.share, v.fCue]])

/-- A device's record (R34, R42). -/
def PlaybillView.device (v : PlaybillView) (l : Listed) (d parent : Nat) : Records :=
  let dev := nodeId 5 64 d 0
  nodeRecord dev .device 3 1 parent
    ([fUnit 0, (0x02, [if Config.steppingB0 then 0x10 else 0x00]), (0x03, leBytes 8 Config.identity), (0x04, leBytes 1 v.role)]
      ++ if 2 ≤ v.role then [(0x12, leBytes 4 (nodeId 5 64 v.manager 0))] else [])
    (.join [v.components l d, v.wing d dev 0, v.wing d dev 1])

/-! ### A cascade (R42, R43) -/

/-- The share of a resource that member d admits. -/
def PlaybillView.memberShare (v : PlaybillView) (draw d r : Nat) : Nat :=
  if d = v.member then v.share r else min 1024 (Config.memberShare draw d r)

/-- The members in service. -/
def PlaybillView.serving (v : PlaybillView) : List Nat := (upto v.members).filter fun d => !v.lostMembers.contains d

/-- The share the root shows: what the members in service can take of the whole cascade's count. -/
def PlaybillView.rootShare (v : PlaybillView) (draw r : Nat) : Nat :=
  sumNat (v.serving.map fun d => v.memberShare draw d r) / v.members

/-- The record of another member as it was sent, with STATUS LOST and bit [1] clear when it is lost (R43). -/
def PlaybillView.other (v : PlaybillView) (draw d : Nat) : Records :=
  let bs := Config.memberRecord draw d
  ⟨if v.lostMembers.contains d then bs.take 22 ++ leBytes 2 9 ++ bs.drop 24 else bs, 1, (v.device ⟨[], 0, 0⟩ 0 0).nodes⟩

/-- Every record of the Playbill. -/
def PlaybillView.records (v : PlaybillView) (l : Listed) (draw : Nat) : Records :=
  if !v.cascadeRoot then v.device l v.member 0xFFFFFFFF
  else
    let root := 0x60000000
    let n := v.serving.length
    let node := fun (k : Nat) (kind : NodeKind) (status : Nat) (fields : List (Nat × List Byte)) =>
      nodeRecord (root + k) kind status 1 root fields {}
    let below := (upto 7).any fun r => v.rootShare draw (r + 1) < 1024
    nodeRecord root .cascade 3 1 0xFFFFFFFF [] (.join (
      ((upto v.members).map fun d => if d = v.member then v.device l d root else v.other draw d)
      ++ [node 1 .house 3 [fBytes (n * 402653184), fBandwidth (n * (256 * 64 * 1200000000))],
          node 2 .dram 3 [fBytes (n * 51539607552), fBandwidth (n * 9830400000000)],
          node 3 .capacity (3 + 4 * b2n below) [fAdmitted (v.rootShare draw), v.fCue]]))

/-- FLAGS (Table 2.2). -/
def PlaybillView.flags (v : PlaybillView) (draw : Nat) : Nat :=
  let reduced := (upto 7).any fun r => (if v.cascadeRoot then v.rootShare draw (r + 1) else v.share (r + 1)) < 1024
  b2n v.cascadeRoot + 2 * b2n reduced + 4 * b2n (v.cascadeRoot && !v.lostMembers.isEmpty)

/-! ### The windows -/

/-- The Playbill as a function reads it (R27, R29, R30, R40). -/
def State.playbillImage (s : State) (fn : Nat) : List Byte :=
  let b := s.playbill
  let r : Records := if b.nodeCount = 0 then {} else b.view.records (b.view.listed s.groupFn fn) b.records
  leBytes 4 0x4C424C50 ++ leBytes 2 0x0100 ++ leBytes 2 64 ++ leBytes 4 (64 + r.bytes.length) ++ leBytes 4 b.generation
    ++ leBytes 4 (if b.nodeCount = 0 then 0 else 0x40) ++ leBytes 4 r.nodes
    ++ leBytes 4 (if b.nodeCount = 0 then 0 else crc32c r.bytes) ++ leBytes 4 b.flags ++ leBytes 8 b.changeTime
    ++ leBytes 8 b.changeCue ++ leBytes 16 0 ++ r.bytes

/-- The first bytes of the expansion ROM (Table 2.1). -/
def romPrefix : List Byte :=
  [0x55, 0xAA] ++ List.replicate 22 0 ++ leBytes 2 0x20 ++ List.replicate 6 0 ++ asciiBytes "PCIR" ++ leBytes 2 0x1FA9
    ++ leBytes 2 0x0A08 ++ leBytes 2 0 ++ leBytes 2 0x18 ++ leBytes 1 0 ++ leBytes 3 0x120000 ++ leBytes 2 2048
    ++ List.replicate 2 0 ++ [0xFF, 0x80] ++ List.replicate 202 0

/-- n bytes of the expansion ROM, which only the PF has (R27 to R29). -/
def State.readRom (s : State) (offset n : Nat) : List Byte :=
  let bs := romPrefix ++ s.playbillImage 0
  (upto n).map fun i => bs.getD (offset + i) 0

/-! ### Updates (R38 to R41) -/

/-- The values of the update in progress are published: even GENERATION, CHECK and the rest of the header. -/
def State.publish (s : State) : State :=
  let d := s.draw
  let v := s.playbill.staged
  let r := v.records (v.listed s.groupFn 0) d.1
  { d.2 with playbill := { s.playbill with
      generation := (s.playbill.generation + 1) % 2 ^ 32, changeTime := s.now, changeCue := s.cueNow, check := crc32c r.bytes
      flags := v.flags d.1, totalLength := 64 + r.bytes.length, nodeCount := r.nodes, records := d.1, view := v
      updating := none } }

/-- The first Playbill (R40): GENERATION 2, and no event. -/
def State.firstPlaybill (s : State) : State := (s.playbillBegins).publish

/-- The remap is complete (R406, R408): the cascade returns to PLAYING, repeats begin, and samples whose repeat cannot end in their
cue, or whose input only the lost member held, complete DEADLINE_MISSED with cause REPEAT and REMAPPED set. -/
def State.endRemap (s : State) (lost : Nat) : State :=
  let again := s.ewl.remapRepeat
  let missed := s.ewl.remapMissed
  let e := { s.ewl with cascade := CascadeState.playing, remapBuilt := false, remapRepeat := [], remapMissed := [] }
  let s := again.foldl (fun (t : State) k => t.modSample k fun m => { m with repeating := true, lostMember := some lost })
    { s with ewl := e }
  missed.foldl (fun (t : State) k => t.missSample k 0x103) s

/-- The event of an update (R41): PLAYBILL, or REMAPPED for the update that ends a remap. -/
def State.playbillEvent (s : State) (remap : Option Nat) : State :=
  match remap with
  | some m =>
    let s := s.postEvent 0x0002 .remapped m s.playbill.generation
    if s.ewl.cascade = .remapping then s.endRemap m else s
  | none => s.postEvent 0x0001 .done 0 s.playbill.generation

/-- PLAYBILL_UPDATE_COMPLETE (R38, R41): GENERATION is even again; a change that fell due meanwhile begins the next update. -/
def State.playbillDone (s : State) : State :=
  if s.playbill.updating.isNone || !s.live then s
  else
    let remap := s.playbill.remapEvent
    let s := s.publish
    let s := { s with playbill := { s.playbill with remapEvent := none } }
    let s := (s.trace 11 0 0 s.playbill.generation s.cueNow).playbillEvent remap
    if s.playbill.again || s.playbill.remapDue.isSome then s.playbillBegins else s

end Sys2Proof.Machine
end

