-- ==== Sys2Proof/Machine/Pixels.lean ====
section
/-! DEFINITION. What a scaler pass computes (R282 to R285) and the bytes of camera lines (R268), as functions of pixels: every step in
FP32, each formula's operations in the order in which the manual writes them (log entry 22). -/

namespace Sys2Proof.Machine

open Sys2Proof

/-! ### Small FP32 helpers -/

/-- The FP32 quotient of two numbers. -/
def ratio32 (a b : Nat) : Word32 := fdiv (natF32 a) (natF32 b)

/-- A value forced into [0, 1] (steps 3 and 5 of R282). -/
def unitClamp (w : Word32) : Word32 := fmin one32 (fmax 0 w)

/-- a × (1 − f) + b × f, for a fraction f in quarters. -/
def lerp4 (a b : Word32) (f : Nat) : Word32 := fadd (fmul a (ratio32 (4 - f) 4)) (fmul b (ratio32 f 4))

/-- An index forced into 0 to n − 1. -/
def clampIndex (i : Int) (n : Nat) : Nat := min i.toNat (n - 1)

/-! ### Colour (R283, Table 12.8) -/

/-- Kr of a matrix code. -/
def matrixKr : Nat → Word32
  | 0 => ratio32 299 1000
  | 1 => ratio32 2126 10000
  | _ => ratio32 2627 10000

/-- Kb of a matrix code. -/
def matrixKb : Nat → Word32
  | 0 => ratio32 114 1000
  | 1 => ratio32 722 10000
  | _ => ratio32 593 10000

/-- Kg = 1 − Kr − Kb. -/
def kgOf (kr kb : Word32) : Word32 := fsub (fsub one32 kr) kb

/-- Y', of a luma code. -/
def lumaOf (range depth : Nat) (y : Word32) : Word32 :=
  if range = 0 then fdiv (fsub y (natF32 (16 * 2 ^ (depth - 8)))) (natF32 (219 * 2 ^ (depth - 8)))
  else fdiv y (natF32 (2 ^ depth - 1))

/-- C', of a chroma code. -/
def chromaOf (range depth : Nat) (c : Word32) : Word32 :=
  if range = 0 then fdiv (fsub c (natF32 (128 * 2 ^ (depth - 8)))) (natF32 (224 * 2 ^ (depth - 8)))
  else fdiv (fsub c (natF32 (2 ^ (depth - 1)))) (natF32 (2 ^ depth - 1))

/-- R, G and B of Y', Cb' and Cr'. -/
def rgbOf (matrix : Nat) (y cb cr : Word32) : List Word32 :=
  let two := natF32 2
  let kr := matrixKr matrix
  let kb := matrixKb matrix
  let kg := kgOf kr kb
  let cbG := fdiv (fmul (fmul two kb) (fsub one32 kb)) kg
  let crG := fdiv (fmul (fmul two kr) (fsub one32 kr)) kg
  [fadd y (fmul (fmul two (fsub one32 kr)) cr),
   fsub (fsub y (fmul cbG cb)) (fmul crG cr),
   fadd y (fmul (fmul two (fsub one32 kb)) cb)]

/-- BT.709 luma of R, G, B. -/
def luma709 (rgb : List Word32) : Word32 :=
  let kr := matrixKr 1
  let kb := matrixKb 1
  fadd (fadd (fmul kr (rgb.getD 0 0)) (fmul (kgOf kr kb) (rgb.getD 1 0))) (fmul kb (rgb.getD 2 0))

/-! ### Resampling (R284) -/

/-- u of an output position in 1/64 of a sample: crop + (x + 0.5) × size ÷ out − 0.5, rounded to the nearest, ties upward. -/
def samplePos (crop size out x : Nat) : Int :=
  ((64 * (2 * x + 1) * size + out) / (2 * out) : Nat) + 64 * (crop : Int) - 32

/-- support × ρ, rounded up, in samples. -/
def reachOf (filter size out : Nat) : Nat := (if filter = 2 then 2 else 1) * ceilDiv (max size out) out + 1

/-- The weight of source index i at position u (1/64) as a numerator over a denominator, ρ = max(1, size ÷ out). -/
def kernelWeight (filter size out : Nat) (u i : Int) : Int × Nat :=
  let p : Int := max size out
  let q : Int := out
  let n : Int := ((64 * i - u).natAbs : Int) * q
  let d : Int := 64 * p
  match filter with
  | 1 => (max 0 (d - n), d.toNat)
  | 2 =>
    let cube := 2 * d ^ 3
    if n < d then (3 * n ^ 3 - 5 * n ^ 2 * d + cube, cube.toNat)
    else if n < 2 * d then (-(n ^ 3) + 5 * n ^ 2 * d - 8 * n * d ^ 2 + 4 * d ^ 3, cube.toNat)
    else (0, 1)
  | _ =>
    let hi := min (128 * q * i + 64 * q) (2 * q * u + 64 * p)
    let lo := max (128 * q * i - 64 * q) (2 * q * u - 64 * p)
    (max 0 (hi - lo), (128 * q).toNat)

/-- The taps of an output position along one axis: source indices, clamped to the picture, and weights divided by their sum. -/
def kernelTaps (filter crop size out limit x : Nat) : List (Nat × Word32) :=
  let u := samplePos crop size out x
  if filter = 0 then [(clampIndex ((u + 32) / 64) limit, one32)]
  else
    let r : Nat := reachOf filter size out
    let first := u / 64 - r
    let raw := ((upto (2 * r + 2)).map fun (k : Nat) => first + (k : Int)).filterMap fun (i : Int) =>
      let w := kernelWeight filter size out u i
      if w.1 = 0 then none else some (clampIndex i limit, ((Num.ofInt w.1).div (Num.ofInt w.2)).toF32)
    let sum := (raw.map (·.2)).foldl fadd 0
    raw.map fun t => (t.1, fdiv t.2 sum)

/-- The weighted sum of values along taps, in ascending source order. -/
def weigh (f : Nat → Word32) (taps : List (Nat × Word32)) : Word32 := taps.foldl (fun acc t => fadd acc (fmul (f t.1) t.2)) 0

/-- R, G and B of one output position: resampled horizontally, then vertically, and clamped (steps 4 and 5 of R282). -/
def resample (src : Nat → Nat → List Word32) (filter outW outH w h : Nat) (crop : List Nat) (x y : Nat) : List Word32 :=
  let tx := kernelTaps filter (crop.getD 0 0) (crop.getD 2 1) outW w x
  let ty := kernelTaps filter (crop.getD 1 0) (crop.getD 3 1) outH h y
  (upto 3).map fun c => unitClamp (weigh (fun row => weigh (fun col => (src col row).getD c 0) tx) ty)

/-- The highest source row that output row y draws on. -/
def lastRow (filter outH h : Nat) (crop : List Nat) (y : Nat) : Nat :=
  ((kernelTaps filter (crop.getD 1 0) (crop.getD 3 1) outH h y).map (·.1)).foldl max 0

/-! ### Outputs (step 6 of R282) -/

/-- The elements of a TENSOR output at one pixel: channels selected, normalised and narrowed to D_FMT. -/
def tensorCodes (o : OutputCfg) (rgb : List Word32) : List Nat :=
  let chans := match o.channels with
    | 0 => rgb
    | 1 => rgb.reverse
    | _ => [luma709 rgb]
  (chans.zip (upto chans.length)).map fun e =>
    (narrow o.dFmt .nearestEven (f32 (fmul (fsub e.1 (o.mean.getD e.2 0)) (o.scale.getD e.2 0)))).code

/-- A value rounded to the nearest integer, ties away from zero, in [0, 2^depth − 1]. -/
def codeAway (depth : Nat) (w : Word32) : Nat :=
  match f32 w with
  | .fin n m e =>
    let k := if 0 ≤ e then m * 2 ^ e.toNat else (2 * m + 2 ^ (-e).toNat) / (2 * 2 ^ (-e).toNat)
    if n then 0 else min k (2 ^ depth - 1)
  | .inf n => if n then 0 else 2 ^ depth - 1
  | .nan => 0

/-- The luma code of BT.709 limited range. -/
def lumaCode (depth : Nat) (rgb : List Word32) : Nat :=
  codeAway depth (fadd (natF32 (16 * 2 ^ (depth - 8))) (fmul (natF32 (219 * 2 ^ (depth - 8))) (luma709 rgb)))

/-- Cb' and Cr' of R, G, B under BT.709. -/
def chroma709 (rgb : List Word32) : Word32 × Word32 :=
  let two := natF32 2
  let y := luma709 rgb
  (fdiv (fsub (rgb.getD 2 0) y) (fmul two (fsub one32 (matrixKb 1))),
   fdiv (fsub (rgb.getD 0 0) y) (fmul two (fsub one32 (matrixKr 1))))

/-- The chroma code of the mean of four values. -/
def chromaCode (depth : Nat) (l : List Word32) : Nat :=
  let mean := fdiv (l.foldl fadd 0) (natF32 4)
  codeAway depth (fadd (natF32 (128 * 2 ^ (depth - 8))) (fmul (natF32 (224 * 2 ^ (depth - 8))) mean))

/-- A code as 1 byte, or 2 bytes for 10-bit samples (R245). -/
def codeBytes (depth code : Nat) : List Byte := leBytes (if depth > 8 then 2 else 1) code

/-- A row of bytes padded to whole lines. -/
def padLine (bs : List Byte) : List Byte := bs ++ List.replicate (64 * ceilDiv bs.length 64 - bs.length) 0

/-- Row y of a TENSOR output. -/
def tensorRow (o : OutputCfg) (px : Nat → Nat → List Word32) (y : Nat) : List Byte :=
  packElems (widthOf o.dFmt) ((upto o.outW).flatMap fun x => tensorCodes o (px x y))

/-- Luma row y of a PICTURE output. -/
def lumaRow (o : OutputCfg) (px : Nat → Nat → List Word32) (y : Nat) : List Byte :=
  padLine ((upto o.outW).flatMap fun x => codeBytes o.bitDepth (lumaCode o.bitDepth (px x y)))

/-- Chroma row y of a PICTURE output: each pair the mean over 2 × 2 pixels. -/
def chromaRow (o : OutputCfg) (px : Nat → Nat → List Word32) (y : Nat) : List Byte :=
  padLine ((upto (o.outW / 2)).flatMap fun x =>
    let four := [px (2 * x) (2 * y), px (2 * x + 1) (2 * y), px (2 * x) (2 * y + 1), px (2 * x + 1) (2 * y + 1)].map chroma709
    codeBytes o.bitDepth (chromaCode o.bitDepth (four.map (·.1)))
      ++ codeBytes o.bitDepth (chromaCode o.bitDepth (four.map (·.2))))

/-- Rows from a up to b of an output as (offset in its buffer, bytes). -/
def outputRows (o : OutputCfg) (px : Nat → Nat → List Word32) (a b : Nat) : List (Nat × List Byte) :=
  if o.kind = 0 then
    let n := (tensorRow o px a).length
    ((upto b).drop a).map fun y => (y * n, tensorRow o px y)
  else
    let n := (lumaRow o px a).length
    ((upto b).drop a).map (fun y => (y * n, lumaRow o px y))
      ++ ((upto (b / 2)).drop (a / 2)).map fun y => ((o.outH + y) * n, chromaRow o px y)

/-! ### Camera lines (R268, Table 12.2) -/

/-- Bits of a pixel on the wire, by data type. -/
def wireBits : Nat → Nat
  | 0x1E => 16 | 0x24 => 24 | 0x2A => 8 | 0x2B => 10 | 0x2C => 12
  | _ => 0

/-- Bytes of a line's payload. -/
def wireBytes (dt width : Nat) : Nat := ceilDiv (width * wireBits dt) 8

/-- A payload as it is stored in a strip: RAW10 and RAW12 unpacked to 2 bytes a sample (CSI-2's packing; log entry 23), every
other type as transmitted. -/
def unpackLine (dt width : Nat) (payload : List Byte) : List Byte :=
  let b := fun (i : Nat) => ((payload[i]?).getD 0).toNat
  match dt with
  | 0x2B => (upto width).flatMap fun x => leBytes 2 (4 * b (5 * (x / 4) + x % 4) + bitsOf (b (5 * (x / 4) + 4)) (2 * (x % 4)) 2)
  | 0x2C => (upto width).flatMap fun x => leBytes 2 (16 * b (3 * (x / 2) + x % 2) + bitsOf (b (3 * (x / 2) + 2)) (4 * (x % 2)) 4)
  | _ => payload

/-- The RGB colour of a RAW pixel by its CFA: 0 RGGB, 1 GRBG, 2 GBRG, 3 BGGR (Table 12.3). -/
def cfaColour (cfa x y : Nat) : Nat :=
  let k := x % 2 + 2 * (y % 2)
  ([[0, 1, 1, 2], [1, 0, 2, 1], [1, 2, 0, 1], [2, 1, 1, 0]].getD cfa []).getD k 1

/-- Bilinear demosaicing: a pixel's own colour as it is, another one the mean of its neighbours of that colour inside the picture. -/
def demosaic (cfa w h : Nat) (value : Nat → Nat → Word32) (x y : Nat) : List Word32 :=
  (upto 3).map fun c =>
    if cfaColour cfa x y = c then value x y
    else
      let near := (upto 9).filterMap fun k =>
        let nx := x + k % 3
        let ny := y + k / 3
        if 1 ≤ nx && nx ≤ w && 1 ≤ ny && ny ≤ h && cfaColour cfa (nx - 1) (ny - 1) = c then some (value (nx - 1) (ny - 1)) else none
      fdiv (near.foldl fadd 0) (natF32 near.length)

end Sys2Proof.Machine
end

