-- ==== Sys2Proof/Machine/Streams.lean ====
section
/-! DEFINITION. Stream commands of class 0x02 (R314, R317 to R322, Tables 13.7, 13.9, 13.12 and 13.13). -/

namespace Sys2Proof.Machine

open Sys2Proof

/-- Stream n names no stream that is open. -/
def streamAbsent (s : State) (n : Nat) : Bool := (aget s.streams n).isNone

/-- Stream n belongs to the ring's group, or the ring is Q0 (check 5). -/
def streamOwned (s : State) (q n : Nat) : Bool :=
  match aget s.streams n with
  | some st => s.mayTouch q st.group
  | none => true

/-- Stream n is in a state. -/
def streamIn (s : State) (n : Nat) (f : Stream → Bool) : Bool :=
  match aget s.streams n with
  | some st => f st
  | none => false

/-- The kind of a code (Table 13.12). -/
def streamKindOf : Nat → StreamKind
  | 0 => .camera | 1 => .decode | 2 => .jpeg | 3 => .audio
  | _ => .encode

/-- The stream a STREAM_DECLARE describes, its seed apart (Table 13.12, R188). -/
def declared (s : State) (p : Packet) (n : Nat) (seed : Word256) : Stream where
  kind := streamKindOf (p.u8 0)
  ring := p.ring
  group := s.ringGroup p.ring
  priority := p.u8 1
  cadence := p.u8 2
  phase := if p.u8 3 = 0xFF then none else some (p.u8 3)
  samples := p.u8 4
  widen := p.u8 5
  metaRing := p.u16 6
  cast := p.u32 8
  script := p.u32 12
  lag := p.u32 16
  minInterval := p.u32 20
  number := if bitOf (p.u8 28) 0 then p.u32 24 else n
  seed := seed

/-- The stream created, or NO_RESOURCE at 4,096 streams (R318). -/
def declareStream (s : State) (p : Packet) (seed : Word256) : Verdict :=
  if s.streams.length ≥ 4096 then .refuse .noResource s
  else
    let n := freeKey s.streams 1
    .okResult n { s with streams := aset s.streams n (declared s p n seed) }

/-- STREAM_DECLARE (R318). -/
def streamDeclareCmd : Cmd where
  opcode := 0x0201
  named := [(0, 29), (32, 8)]
  fails := fun s p =>
    let encode := p.u8 0 = 4
    let own := fun (q : Nat) => match aget s.rings q with
      | some r => r.metadata && r.state ≠ .disabled
      | none => false
    [(0, p.u8 0 > 4), (1, p.u8 1 > 7), (2, p.u8 2 = 0 || (p.u32 20 ≠ 0 && p.u8 2 ≠ 1)),
     (3, p.u8 3 ≠ 0xFF && p.u8 3 ≥ p.u8 2), (4, p.u8 4 = 0 && p.u32 20 = 0), (6, !own (p.u16 6)),
     (8, if encode then p.u32 8 ≠ 0 else (aget s.casts (p.u32 8)).isNone),
     (12, p.u32 12 ≠ 0 && (match aget s.scripts (p.u32 12) with
        | some c => c.cast ≠ p.u32 8
        | none => true)),
     (16, p.u32 16 > s.cue.period), (20, p.u32 20 > s.cue.period), (28, p.u8 28 > 3)]
  owned := fun s p =>
    s.mayTouch p.ring (s.ringGroup (p.u16 6))
      && (match aget s.casts (p.u32 8) with
        | some c => s.mayTouch p.ring c.group
        | none => true)
      && (match aget s.scripts (p.u32 12) with
        | some c => s.mayTouch p.ring c.group
        | none => true)
  body := fun s p => if bitOf (p.u8 28) 1 then readHost p (p.u64 32) 32 s else declareStream s p 0
  withData := fun s p _ data => declareStream s p (BitVec.ofNat 256 (leNat data))

/-- The commands its kind requires have completed (R317). -/
def Stream.configured (st : Stream) : Bool :=
  match st.kind with
  | .camera | .jpeg | .audio => st.ingestDone
  | .decode => st.decodeDone
  | .encode => st.encodeDone

/-- A stream command's check that P0–1 names a stream. -/
def streamFails (s : State) (p : Packet) : List (Nat × Bool) := [(0, streamAbsent s (p.u16 0))]

/-- An output for one model input of the cast file, at the basic level (R295). -/
def basicOutput (digest : Word256) (i : Nat) : OutputCfg :=
  let f := fun (k : Nat) => Config.castInputField digest i k
  { kind := 0, crop := 0, filter := 1, channels := f 2 % 3
    dFmt := [1, 2, 3, 4, 5].getD (f 3 % 5) 1
    scaler := some (f 10 % 8)
    outW := 1 + f 0 % 8192, outH := 1 + f 1 % 4352
    mean := (upto 3).map fun k => BitVec.ofNat 32 (f (4 + k))
    scale := (upto 3).map fun k => BitVec.ofNat 32 (f (7 + k)) }

/-- The basic-level outputs of a cast: one per model input, 1 to 4 (R281, R295). -/
def basicOutputs (digest : Word256) : List OutputCfg :=
  (upto (1 + (Config.castInputs digest - 1) % 4)).map (basicOutput digest)

/-- The crop of an output for a picture of a size: the whole of it, or the fixed rectangle. -/
def OutputCfg.cropFor (o : OutputCfg) (w h : Nat) : List Nat :=
  if o.crop = 1 then [o.cropX, o.cropY, o.cropW, o.cropH] else [0, 0, w, h]

/-- The mid-grey output of a stream, written to a sealed House buffer that the stream keeps (R274, R275): its name, if there is one. -/
def State.greyOutput (s : State) (n : Nat) (st : Stream) (o : OutputCfg) : Option Nat × State :=
  match s.alloc st.group false o.bytes none true with
  | .none_ _ _ => (none, s)
  | .got a _ t =>
    let px := resample (fun _ _ => [half32, half32, half32]) o.filter o.outW o.outH st.picture.1 st.picture.2
      (o.cropFor st.picture.1 st.picture.2)
    let t := (outputRows o px 0 o.outH).foldl (fun (u : State) r => u.writeMem false (a + r.1) r.2) t
    (some (bufName false a), t.addReader (bufName false a) (setReader n))

/-- The substitute set of a stream that has had no good sample: the mid-grey picture's outputs (R274, R275). -/
def State.greySet (s : State) (n : Nat) : State :=
  match aget s.streams n with
  | none => s
  | some st =>
    if st.kind = .audio || st.kind = .encode then s
    else
      let r := st.outputs.foldl (fun (acc : List Nat × State) o =>
        let g := acc.2.greyOutput n st o
        (acc.1 ++ g.1.toList, g.2)) ([], s)
      r.2.modStream n fun x => { x with substitute := r.1 }

/-- STREAM_ADMIT (R54, R319): a DECODE stream with no outputs of its own takes the cast file's (R317). -/
def streamAdmitCmd : Cmd where
  opcode := 0x0202
  named := [(0, 2)]
  fails := streamFails
  owned := fun s p => streamOwned s p.ring (p.u16 0)
  legal := fun s p => streamIn s (p.u16 0) fun st => st.state = .declared && st.configured && !st.closing
  body := fun s p =>
    let n := p.u16 0
    let s' := s.modStream n fun st =>
      if st.kind = .decode && !st.ingestDone then { st with outputs := basicOutputs (s.castDigest n) } else st
    match s'.admitStream n with
    | none => .refuse .notAdmitted { s with freeCount := s.freeCount + 2 }
    | some t => .okResult s.cue.edges
        ((t.modStream n fun st => { st with state := .admitted, firstCue := s.cue.edges }).greySet n)

/-- STREAM_START. -/
def streamStartCmd : Cmd where
  opcode := 0x0203
  states := [.service]
  named := [(0, 2)]
  fails := streamFails
  owned := fun s p => streamOwned s p.ring (p.u16 0)
  legal := fun s p => streamIn s (p.u16 0) fun st => st.state = .admitted && !st.closing
  body := fun s p => .ok (s.modStream (p.u16 0) fun st => { st with state := .running })

/-- STREAM_PAUSE. -/
def streamPauseCmd : Cmd where
  opcode := 0x0204
  states := [.service]
  named := [(0, 2)]
  fails := streamFails
  owned := fun s p => streamOwned s p.ring (p.u16 0)
  legal := fun s p => streamIn s (p.u16 0) fun st => st.state = .running && !st.closing
  body := fun s p => .ok (s.pauseStream (p.u16 0) .host)

/-- STREAM_RESUME by pause cause (R320). -/
def streamResumeCmd : Cmd where
  opcode := 0x0205
  states := [.service]
  named := [(0, 2)]
  fails := streamFails
  owned := fun s p => streamOwned s p.ring (p.u16 0)
  legal := fun s p => streamIn s (p.u16 0) fun st => st.state = .paused && !st.closing
  body := fun s p =>
    let n := p.u16 0
    match aget s.streams n with
    | none => .refuse .outOfRange s
    | some st => match st.cause with
      | .host | .stop => .ok (s.resumeStream n)
      | .sealed => if s.sec.encoded then .ok (s.resumeStream n) else .refuse .notPermitted s
      | .capacity => match s.admitStream n with
        | none => .refuse .notAdmitted { s with freeCount := s.freeCount + 2 }
        | some t => .ok ((t.modStream n fun st => { st with firstCue := s.cue.edges }).resumeStream n)

/-- A stream not CLOSED encodes stream n's crops (R321). -/
def State.isSource (s : State) (n : Nat) : Bool :=
  s.streams.any fun e => e.2.kind = .encode && e.2.encodeDone && e.2.encode.source = n && e.2.state ≠ .closed

/-- Frames of the stream that are open on a camera port are abandoned with their strips: intake has stopped. -/
def State.dropOpenFrames (s : State) (st : Stream) : State :=
  if st.kind ≠ .camera then s
  else
    let port := s.ingest.ports.getD st.camera.port {}
    let s := match aget port.open_ st.camera.vc with
      | some f => f.buffers.foldl (fun (t : State) w => t.releaseName w) s
      | none => s
    let ports := modAt s.ingest.ports st.camera.port fun p => { p with open_ := adel p.open_ st.camera.vc }
    { s with ingest := { s.ingest with ports := ports } }

/-- STREAM_CLOSE (R321). -/
def streamCloseCmd : Cmd where
  opcode := 0x0206
  states := [.standby, .service, .draining]
  named := [(0, 2)]
  fails := streamFails
  owned := fun s p => streamOwned s p.ring (p.u16 0)
  legal := fun s p => !s.isSource (p.u16 0)
  body := fun s p =>
    let s := match aget s.streams (p.u16 0) with
      | some st => s.dropOpenFrames st
      | none => s
    let s := s.modStream (p.u16 0) fun st => { st with closing := true }
    let t := s.closeIfDone (p.u16 0)
    if streamAbsent t (p.u16 0) then .ok t else .wait (.streamClose (p.u16 0)) s

/-- The reply of STREAM_QUERY (Table 13.13). -/
def queryReply (n : Nat) (st : Stream) : List Byte :=
  let sat := fun (k : Nat) => leBytes 4 (min k 0xFFFFFFFF)
  let c := st.counts
  leBytes 1 st.state.code ++ leBytes 1 (if st.state = .paused then st.cause.code else 0) ++ leBytes 2 n
    ++ leBytes 4 st.number ++ leBytes 8 st.firstCue
    ++ sat c.planned ++ sat c.stale ++ sat c.excess ++ sat c.missed ++ sat c.corrupt ++ sat c.substituted
    ++ sat c.widened ++ sat c.degraded ++ sat c.recomputed ++ sat c.records ++ List.replicate 8 0

/-- STREAM_QUERY (R322). -/
def streamQueryCmd : Cmd where
  opcode := 0x0207
  states := [.standby, .service, .draining]
  named := [(0, 2), (8, 8)]
  fails := streamFails
  owned := fun s p => streamOwned s p.ring (p.u16 0)
  body := fun s p => match aget s.streams (p.u16 0) with
    | none => .refuse .outOfRange s
    | some st => .ok { s with outputs := .hostBytes (p.u64 8) (queryReply (p.u16 0) st) :: s.outputs }

/-- STREAM_DECLARE. -/
def execStreamDeclare (dt : Nat) (p : Packet) (s : State) : Host.Outcome State Fault Refusal :=
  .next ((s.advance dt).accept streamDeclareCmd p)

/-- STREAM_ADMIT. -/
def execStreamAdmit (dt : Nat) (p : Packet) (s : State) : Host.Outcome State Fault Refusal :=
  .next ((s.advance dt).accept streamAdmitCmd p)

/-- STREAM_START. -/
def execStreamStart (dt : Nat) (p : Packet) (s : State) : Host.Outcome State Fault Refusal :=
  .next ((s.advance dt).accept streamStartCmd p)

/-- STREAM_PAUSE. -/
def execStreamPause (dt : Nat) (p : Packet) (s : State) : Host.Outcome State Fault Refusal :=
  .next ((s.advance dt).accept streamPauseCmd p)

/-- STREAM_RESUME. -/
def execStreamResume (dt : Nat) (p : Packet) (s : State) : Host.Outcome State Fault Refusal :=
  .next ((s.advance dt).accept streamResumeCmd p)

/-- STREAM_CLOSE. -/
def execStreamClose (dt : Nat) (p : Packet) (s : State) : Host.Outcome State Fault Refusal :=
  .next ((s.advance dt).accept streamCloseCmd p)

/-- STREAM_QUERY. -/
def execStreamQuery (dt : Nat) (p : Packet) (s : State) : Host.Outcome State Fault Refusal :=
  .next ((s.advance dt).accept streamQueryCmd p)

end Sys2Proof.Machine
end

