-- ==== Sys2Proof/Machine/Security.lean ====
section
/-! DEFINITION. Authenticity: the checks of a firmware image (R415), attestation reports (R428), sealing and encoded output (R425, R426)
and FIRMWARE_STAGE (R421).  Boot itself is in Boot.lean. -/

namespace Sys2Proof.Machine

open Sys2Proof

/-! ### Firmware images -/

/-- Bytes [i, i + n) are zero. -/
def zeroBytes (bs : List Byte) (i n : Nat) : Bool := ((bs.drop i).take n).all fun b => b == 0

/-- A HashML-DSA-44 signature verifies over the first 1,376 bytes of a header laid out as Tables 18.1 and 18.4 are. -/
def headerSigned (bs : List Byte) (context : String) : Bool :=
  Config.verifies ((bs.drop 64).take 1312) (bs.take 1376) (asciiBytes context) ((bs.drop 1376).take 2420)

/-- The first failing of checks 1 to 6 of R415 on an image header. -/
def Sec.headerCause (c : Sec) (bs : List Byte) : Option Nat :=
  let f := fieldAt bs
  let slot := f 6 1
  if f 0 4 ≠ 0x4D425242 || f 5 1 ≠ 1 then some 1
  else if !bitOf (f 7 1) (if Config.steppingB0 then 1 else 0) then some 2
  else if slot > 1 || (slot = 0 && c.slot0Revoked) || sha3 ((bs.drop 64).take 1312) ≠ Config.keyHash slot then some 3
  else if f 8 1 < c.floor then some 4
  else if f 9 1 > 1 || (f 9 1 = 1 && slot ≠ 1) || f 7 1 > 3 || f 8 1 > 63 || f 16 4 = 0 || f 16 4 > 16777216
      || !zeroBytes bs 10 6 || !zeroBytes bs 20 4 || !zeroBytes bs 3796 300 then some 5
  else if !headerSigned bs "VY8-FW" then some 6
  else none

/-- The rejection cause of a whole image of the given length (R415). -/
def Sec.imageCause (c : Sec) (bs : List Byte) : Option Nat :=
  match c.headerCause bs with
  | some k => some k
  | none =>
    if bs.length ≠ 4096 + fieldAt bs 16 4 then some 5
    else if sha3 (bs.drop 4096) ≠ BitVec.ofNat 256 (fieldAt bs 32 32) then some 7
    else none

/-! ### Attestation reports (R428) -/

/-- The report without its signature (Table 18.6), 1,676 bytes. -/
def State.report (s : State) (nonce : Word256) : List Byte :=
  let c := s.sec
  let flags := b2n c.unsealed + 2 * b2n c.encoded + 4 * b2n c.slot0Revoked + 8 * b2n c.locked
    + 16 * b2n (decide (s.ewl.cascade ≠ .none_ ∧ s.ewl.cascade ≠ .forming))
  let entries := (c.log.drop (c.log.length - 16)).flatMap LogEntry.bytes
  leBytes 4 0x54535441 ++ leBytes 2 0x0100 ++ leBytes 1 steppingCode ++ leBytes 1 s.host.state.code
    ++ leBytes 8 Config.identity ++ bytes256 nonce ++ leBytes 8 s.now ++ leBytes 8 s.cueNow ++ bytes256 Config.romHash
    ++ bytes256 c.imageHash ++ bytes256 c.imageKeyHash
    ++ leBytes 1 c.version ++ leBytes 1 c.floor ++ leBytes 1 c.keySlot ++ leBytes 1 c.bootSource ++ leBytes 1 flags
    ++ List.replicate 3 0 ++ leBytes 8 c.build ++ leBytes 8 c.logCount ++ bytes256 c.logDigest
    ++ entries ++ List.replicate (1460 - entries.length) 0

/-- Reports that are pending. -/
def State.reportsPending (s : State) : Nat := (s.inflight.filter fun e => match e.2.work with
  | .attest _ _ _ => true
  | _ => false).length

/-- ATTEST_REPORT (R428): the report covers the log as it stands at acceptance; a 17th pending one finds no resource. -/
def attestReportCmd : Cmd where
  opcode := 0x0B01
  states := [.standby, .service, .draining]
  target := .kind .device
  named := [(0, 40)]
  body := fun s p =>
    let nonce : Word256 := BitVec.ofNat 256 (p.par 0 32)
    if 16 ≤ s.reportsPending then .refuse .noResource s
    else .wait (.attest nonce (p.u64 32) (s.report nonce)) s

/-- ATTEST_REPORT_WRITTEN (R428): the report is signed and written to the host, or its write is refused (R343). -/
def State.reportWritten (s : State) (id : Nat) (refused : Bool) : State :=
  match aget s.inflight id with
  | some f => match f.work with
    | .attest _ reply report =>
      if refused then
        ({ s with host := { s.host with writeRefused := s.host.writeRefused.inc } }).finish id ⟨.timeout, 0⟩ 0
      else
        let d := s.draw
        let sig := (Config.signature d.1 report).take 2420
        let full := report ++ sig ++ List.replicate (2420 - sig.length) 0
        let s := d.2.wakeLink
        let s := { s with
          sec := { s.sec with reports := s.sec.reports.inc, lastReport := full }
          outputs := .hostBytes reply full :: s.outputs }
        s.finish id ⟨.done, 0⟩ (fieldAt report 176 8)
    | _ => s
  | none => s

/-! ### Sealing and encoded output (R425, R426) -/

/-- UNSEALED is logged, then PF0 reads and copies sealed buffers. -/
def State.unsealPixels (s : State) (fn ring : Nat) : State :=
  let s := s.appendLog 0x06 fn ring 0 0
  { s with sec := { s.sec with unsealed := true } }

/-- SEALED is logged and sealed mode holds for every later access; `arg` is 1 for a Function Level Reset. -/
def State.sealPixels (s : State) (fn ring arg : Nat) : State :=
  let s := s.appendLog 0x07 fn ring arg 0
  { s with sec := { s.sec with unsealed := false } }

/-- An encode stream has a picture in progress. -/
def State.encodingNow (s : State) (n : Nat) : Bool :=
  s.codecs.any fun (c : CodecBlk) => match c.encoding with
    | some j => j.stream = n
    | none => false

/-- Encoded output is enabled or disabled and logged; when disabled, a running encode stream pauses after the picture it has
started (R257). -/
def State.setEncoded (s : State) (on : Bool) (fn ring arg : Nat) : State :=
  let s := s.appendLog (if on then 0x08 else 0x09) fn ring arg 0
  let s := { s with sec := { s.sec with encoded := on } }
  if on then s
  else s.streams.foldl (fun (t : State) e =>
    if e.2.kind = .encode && e.2.state = .running && !t.encodingNow e.1 then t.pauseStream e.1 .sealed else t) s

/-- PIXELS_UNSEAL. -/
def pixelsUnsealCmd : Cmd where
  opcode := 0x0B02
  admin := true
  legal := fun s _ => !s.sec.unsealed && !s.plainMember
  body := fun s p => .ok ((s.unsealPixels (s.ringFn p.ring) p.ring).tellMembers 0x06 [7])

/-- Copies in flight that were accepted while unsealed. -/
def State.openCopies (s : State) : List Nat :=
  (s.inflight.filter fun e => e.2.unsealed && (match e.2.work with
    | .copy _ _ _ _ _ _ => true
    | _ => false)).map (·.1)

/-- PIXELS_SEAL: it completes once the copies begun while unsealed have ended. -/
def pixelsSealCmd : Cmd where
  opcode := 0x0B03
  admin := true
  legal := fun s _ => s.sec.unsealed && !s.plainMember
  body := fun s p =>
    let t := (s.sealPixels (s.ringFn p.ring) p.ring 0).tellMembers 0x06 [8]
    match s.openCopies with
    | [] => .ok t
    | l => .wait (.seal l) t

/-- ENCODED_OUTPUT. -/
def encodedOutputCmd : Cmd where
  opcode := 0x0B04
  admin := true
  named := [(0, 1)]
  fails := fun _ p => [(0, p.u8 0 > 1)]
  legal := fun s p => decide (p.u8 0 = 1) != s.sec.encoded && !s.plainMember
  body := fun s p =>
    .ok ((s.setEncoded (p.u8 0 = 1) (s.ringFn p.ring) p.ring 0).tellMembers 0x06 [if p.u8 0 = 1 then 10 else 9])

/-! ### Staging firmware (R421) -/

/-- Another FIRMWARE_STAGE runs. -/
def State.staging (s : State) : Bool := s.inflight.any fun e => e.2.opcode = 0x0B05

/-- FIRMWARE_STAGE: the image is read and checked, then written to the flash slot the current boot does not use. -/
def firmwareStageCmd : Cmd where
  opcode := 0x0B05
  admin := true
  states := [.standby]
  named := [(0, 12)]
  fails := fun _ p => [(8, p.u32 8 < 4097 || p.u32 8 > 16781312)]
  legal := fun s _ => !s.staging
  body := fun s p => readHost p (p.u64 0) (p.u32 8) s
  withData := fun s _ _ data =>
    match s.sec.imageCause data with
    | some cause => .done ⟨.authFailed, cause⟩ 0 { s with sec := { s.sec with authFailures := s.sec.authFailures.inc } }
    | none => .wait (.firmwareStage data (s.sec.bootSource ≠ 1) s.time.elapsed) s

/-- A flash slot's contents replaced. -/
def Sec.setFlash (c : Sec) (slotB : Bool) (image : List Byte) : Sec :=
  if slotB then { c with flashB := image } else { c with flashA := image }

/-- FIRMWARE_STAGE_PROGRAMMED (R421): the image is in its slot and logged, or the slot is left erased. -/
def State.staged (s : State) (id : Nat) (ok : Bool) : State :=
  match aget s.inflight id with
  | some f => match f.work with
    | .firmwareStage image slotB _ =>
      if ok then
        let s := s.appendLog 0x0A (s.ringFn f.ring) f.ring (b2n slotB) (BitVec.ofNat 256 (fieldAt image 32 32))
        ({ s with sec := s.sec.setFlash slotB image }).finish id ⟨.done, 0⟩ 0
      else ({ s with sec := s.sec.setFlash slotB [] }).finish id ⟨.timeout, 0⟩ 0
    | _ => s
  | none => s

/-! ### The commands -/

/-- ATTEST_REPORT. -/
def execAttestReport (dt : Nat) (p : Packet) (s : State) : Host.Outcome State Fault Refusal :=
  .next ((s.advance dt).accept attestReportCmd p)

/-- ATTEST_REPORT_WRITTEN. -/
def execAttestReportWritten (dt id : Nat) (refused : Bool) (s : State) : Host.Outcome State Fault Refusal :=
  .next ((s.advance dt).reportWritten id refused)

/-- PIXELS_UNSEAL. -/
def execPixelsUnseal (dt : Nat) (p : Packet) (s : State) : Host.Outcome State Fault Refusal :=
  .next ((s.advance dt).accept pixelsUnsealCmd p)

/-- PIXELS_SEAL. -/
def execPixelsSeal (dt : Nat) (p : Packet) (s : State) : Host.Outcome State Fault Refusal :=
  .next ((s.advance dt).accept pixelsSealCmd p)

/-- ENCODED_OUTPUT. -/
def execEncodedOutput (dt : Nat) (p : Packet) (s : State) : Host.Outcome State Fault Refusal :=
  .next ((s.advance dt).accept encodedOutputCmd p)

/-- FIRMWARE_STAGE. -/
def execFirmwareStage (dt : Nat) (p : Packet) (s : State) : Host.Outcome State Fault Refusal :=
  .next ((s.advance dt).accept firmwareStageCmd p)

/-- FIRMWARE_STAGE_PROGRAMMED. -/
def execFirmwareStageProgrammed (dt id : Nat) (ok : Bool) (s : State) : Host.Outcome State Fault Refusal :=
  .next ((s.advance dt).staged id ok)

end Sys2Proof.Machine
end

