-- ==== Sys2Proof/Machine/Boot.lean ====
section
/-! DEFINITION. Resets (R344, R453, R454, R462 to R464) and boot (R412 to R420) up to STANDBY. -/

namespace Sys2Proof.Machine

open Sys2Proof

/-! ### Resets -/

/-- The burns of R420 have begun: STANDBY has been entered. -/
def State.burning (s : State) : Bool := s.host.bootStep = 10

/-- The fuses and the flash after a reset: a burn in progress leaves each fuse at its old or its new value (R420), and an image being
programmed leaves bytes that the manual does not state. -/
def State.keptSec (s : State) (draw : Nat) : Sec :=
  let c := s.sec
  let pick := Config.freeNat draw
  let programmed := s.inflight.find? fun e => match e.2.work with
    | .firmwareStage _ _ _ => true
    | _ => false
  let kept : Sec := {
    floor := if s.burning && c.floorPending && bitOf pick 0 then max c.floor c.version else c.floor
    slot0Revoked := c.slot0Revoked || (s.burning && c.revokePending && bitOf pick 1)
    flashA := c.flashA, flashB := c.flashB }
  match programmed with
  | some e => match e.2.work with
    | .firmwareStage image slotB _ => kept.setFlash slotB ((upto image.length).map (Config.freeByte draw))
    | _ => kept
  | none => kept

/-- The reset causes in force with one more, and what RESET_CAUSE shows (R454, R464). -/
def Pwr.withCause (p : Pwr) (running : Bool) (kind : Nat) : Pwr :=
  let causes := if running then [kind] else (kind :: p.resetCauses).eraseDups
  let low := causes.foldl min kind
  let before := if running then p.resetKind else p.resetPrevious
  { resetKind := low, resetPrevious := if low = 1 then 0 else before, resetCauses := causes }

/-- A reset (R453, Table 20.5): the device is in BOOT, step 0, and everything not kept is cleared; a HOST reset alone keeps device
time with RATE:ADJ. The model's own fields and the host's link go on. -/
def State.deviceReset (s : State) (kind : Nat) : State :=
  let d := s.draw
  let fresh : State := {}
  { fresh with
    time := if kind = 4 then { now := s.time.now, frac := s.time.frac, elapsed := s.time.elapsed, rateAdj := s.time.rateAdj }
      else { elapsed := s.time.elapsed }
    host := { fresh.host with lastTransfer := s.time.elapsed, powerSince := s.time.elapsed }
    sec := s.keptSec d.1
    pwr := s.pwr.withCause (decide (s.host.bootStep ≠ 0)) kind
    outputs := s.outputs, nextId := s.nextId, freeCount := d.2.freeCount, pending := s.pending }

/-- RESET_RELEASE (R412, R464): every cause has ended and boot begins; fuses are re-read but after a HOST reset, and a fourth mismatch
is a SELF_TEST fault.  COLD_RST_N is no longer asserted, so an instruction that drives the balls acts as BYPASS (R442). -/
def State.releaseReset (s : State) (mismatches : Nat) : State :=
  if s.host.bootStep ≠ 0 then s
  else
    let s := { s with pwr := { s.pwr with resetCauses := [] }, tap := if tapDrives s.tap then .bypass else s.tap }
    if s.pwr.resetKind ≠ 4 && 4 ≤ mismatches then
      ({ s with host := { s.host with bootStep := 2 } }).enterFaulted clsSelfTest 0
    else { s with host := { s.host with bootStep := 3 } }

/-! ### Steps 3 to 5: flash and host -/

/-- The device is in BOOT at a step. -/
def State.booting (s : State) (step : Nat) : Bool := s.host.state = .boot && s.host.bootStep = step

/-- Boot goes on to a step. -/
def State.bootTo (s : State) (step : Nat) : State := { s with host := { s.host with bootStep := step } }

/-- n bytes of a flash slot from an offset; erased flash reads as ones. -/
def Sec.flashBytes (c : Sec) (slotB : Bool) (offset n : Nat) : List Byte :=
  let image := if slotB then c.flashB else c.flashA
  let bs := (image.drop offset).take n
  bs ++ List.replicate (n - bs.length) 0xFF

/-- The header of a slot passes checks 1 to 6 of R415, and its reads have not failed. -/
def Sec.slotValid (c : Sec) (slotB : Bool) : Bool :=
  !c.flashUnusable.getD (b2n slotB) false && (c.headerCause (c.flashBytes slotB 0 4096)).isNone

/-- The payload of a slot begins to load (step 4). -/
def State.startLoad (s : State) (slotB : Bool) : State :=
  ({ s with sec := { s.sec with
      loading := some slotB, flashTried := modAt s.sec.flashTried (b2n slotB) fun _ => true, flashRetries := [0, 0] } }).bootTo 4

/-- The load of a slot has failed: the other slot, if valid and untried; otherwise step 5 (Table 18.2). -/
def State.loadFailed (s : State) (slotB : Bool) : State :=
  if s.sec.slotValid (!slotB) && !s.sec.flashTried.getD (b2n (!slotB)) false then s.startLoad (!slotB)
  else ({ s with sec := { s.sec with loading := none } }).bootTo 5

/-- FLASH_READ_TIMEOUT (R417): the third of one read makes its slot unusable. -/
def State.flashTimeout (s : State) (slotB : Bool) : State :=
  let c := s.sec
  if !(s.booting 3 || (s.booting 4 && c.loading = some slotB)) then s
  else
    let k := b2n slotB
    let n := c.flashRetries.getD k 0 + 1
    let c := { c with
      flashErrors := c.flashErrors.inc, flashRetries := modAt c.flashRetries k fun _ => if 3 ≤ n then 0 else n
      flashUnusable := if 3 ≤ n then modAt c.flashUnusable k fun _ => true else c.flashUnusable }
    let s := { s with sec := c }
    if s.booting 4 && 3 ≤ n then s.loadFailed slotB else s

/-- FLASH_SLOT_SELECT (R417): the valid slot with the larger SECURITY_VERSION, then the larger BUILD, slot A on a tie; a header that
is refused counts in AUTH_FAILURES. -/
def State.selectSlot (s : State) : State :=
  if !s.booting 3 then s
  else
    let c := s.sec
    let refused := [false, true].filter fun b => !c.flashUnusable.getD (b2n b) false && !c.slotValid b
    let s := { s with sec := { c with authFailures := c.authFailures.add 32 refused.length } }
    let key := fun (b : Bool) =>
      let h := c.flashBytes b 0 4096
      fieldAt h 8 1 * 2 ^ 64 + fieldAt h 24 8
    match c.slotValid false, c.slotValid true with
    | true, true => s.startLoad (decide (key false < key true))
    | true, false => s.startLoad false
    | false, true => s.startLoad true
    | false, false => s.bootTo 5

/-- An image has passed: firmware starts with it (step 6), from a boot source. -/
def State.startFirmware (s : State) (source : Nat) (header : List Byte) : State :=
  let f := fieldAt header
  ({ s with sec := { s.sec with
      bootSource := source, version := f 8 1, build := f 24 8, imageHash := BitVec.ofNat 256 (f 32 32), keySlot := f 6 1
      imageKeyHash := sha3 ((header.drop 64).take 1312), floorPending := decide (s.sec.floor < f 8 1)
      revokePending := bitOf (f 9 1) 0 && !s.sec.slot0Revoked, loading := none } }).bootTo 6

/-- FIRMWARE_LOAD_COMPLETE (R415, R417): the payload stands in the House from address 0, and check 7 decides. -/
def State.loadDone (s : State) : State :=
  if !s.booting 4 then s
  else match s.sec.loading with
    | none => s
    | some slotB =>
      let header := s.sec.flashBytes slotB 0 4096
      let payload := s.sec.flashBytes slotB 4096 (fieldAt header 16 4)
      let s := s.writeMem false 0 payload
      if sha3 payload = BitVec.ofNat 256 (fieldAt header 32 32) then s.startFirmware (b2n slotB) header
      else ({ s with sec := { s.sec with authFailures := s.sec.authFailures.inc } }).loadFailed slotB

/-- BOOT_PUSH_CHECK_COMPLETE (R418): the image in the House is checked under R415; bytes beyond what a push can hold only make its
length wrong. -/
def State.pushChecked (s : State) : State :=
  if !s.booting 5 || !s.sec.pushRunning then s
  else
    let image := s.readMem false 0 (min s.sec.pushLength 16781313)
    let c := { s.sec with pushRunning := false }
    match c.imageCause image with
    | some k => { s with sec := { c with pushCause := k, authFailures := c.authFailures.inc } }
    | none => ({ s with sec := c }).startFirmware 2 (image.take 4096)

/-! ### Steps 6 to 8: DRAM and rehearsal -/

/-- DRAM_TRAINING_COMPLETE (R393): a channel whose margin is below 16 fails the boot. -/
def State.trained (s : State) (margins : List Nat) : State :=
  if !s.booting 6 then s
  else
    let l := (upto 128).zip margins
    let good := fun (c : Nat) => l.any fun e => e.1 = c && 16 ≤ e.2
    let dies := (upto 8).filter fun d => (upto 16).all fun k => good (16 * d + k)
    let s := { s with dram := { s.dram with
      channelMargin := l, passed := (upto 128).filter good, trained := bitsSet dies } }
    match (upto 128).find? fun c => !good c with
    | some c => s.enterFaulted clsDram c
    | none => s.bootTo 7

/-- DRAM_FILL_COMPLETE (R393, R453): DRAM holds zeros with valid codes, the House is cleared (log entry 7), and REHEARSAL begins. -/
def State.filled (s : State) : State :=
  if !s.booting 7 then s
  else
    let s := { s with dram := { s.dram with mem := {}, lostBursts := [], poisonedBursts := [] }, house := {} }
    { s with host := { s.host with bootStep := 8, rehearsal := true } }

/-- The shared pools of Table 4.4 (R84). -/
def defaultPools : List (Nat × Pool) :=
  let pool := fun (dram : Bool) (base cls count : Nat) => ({ dram := dram, base := base, cls := cls, count := count, owner := none } : Pool)
  [(0, pool false 0 0 4096), (1, pool false 0x01000000 1 2048), (2, pool false 0x03000000 2 1024),
   (3, pool false 0x07000000 3 512), (4, pool false 0x0F000000 4 96), (5, pool false 0x15000000 5 12),
   (8, pool true 0 2 65536), (9, pool true 0x0100000000 3 8192), (10, pool true 0x0180000000 4 8192)] ++
  [(11, pool true 0x0380000000 5 4096), (12, pool true 0x0780000000 7 256), (13, pool true 0x0B80000000 1 65536)]

/-- The blocks whose reset values apply on entry to STANDBY from BOOT, with contents and training kept, and every total at 0 (R436). -/
def State.standbyRegisters (s : State) : State :=
  let h := s.house
  let d := s.dram
  { s with
    house := { mem := h.mem, bad := h.bad, poisonedLines := h.poisonedLines }
    dram := { mem := d.mem, lostBursts := d.lostBursts, poisonedBursts := d.poisonedBursts, dieTemp := d.dieTemp
              diePeak := d.diePeak, trained := d.trained, channelMargin := d.channelMargin, passed := d.passed
              recalibrated := (upto 128).map fun c => (c, s.time.elapsed) }
    wardrobe := { pools := defaultPools }
    arrays := List.replicate 8 {}, vecs := List.replicate 8 {}, samps := List.replicate 8 {}, codecs := List.replicate 4 {}
    ingest := {}, jpegs := List.replicate 2 {}, scalers := List.replicate 8 {}, ewl := {}, obs := {}
    host := lensZero hostCounters s.host, sec := lensZero secCounters s.sec, pwr := lensZero pwrCounters s.pwr
    mgmt := lensZero mgmtCounters s.mgmt
    cue := { epoch := ceilDiv s.now 1000 * 1000, nextEdge := ceilDiv s.now 1000 * 1000 } }

/-- Steps 9 and 10 (R40, R84, R366, R416, R420): the first Playbill, pixels sealed and encoded output disabled, BOOT logged, STANDBY;
a device whose host port has not trained enables every Euwald port; a trip in force decides step 7 (R451). -/
def State.enterStandby (s : State) : State :=
  let s := s.standbyRegisters
  let s := { s with
    host := { s.host with bootStep := 9, rehearsal := false, hostShare := hostShareOf s.host.speed s.host.width }
    sec := { s.sec with unsealed := false, encoded := false } }
  let s := s.firstPlaybill
  let s := s.appendLog 0x01 0 0 s.sec.bootSource s.sec.imageHash
  let s := (s.bootTo 10).enterState .standby
  let s := if s.host.linkUp then s else ({ s with ewl := { s.ewl with headless := true } }).enablePorts 0xFF
  if s.pwr.trip then s.decideStep 7 else s

/-- REHEARSAL_COMPLETE (R416): a wrong answer is a SELF_TEST fault of the node that gave it. -/
def State.rehearsed (s : State) (wrong : Option Nat) : State :=
  if !s.booting 8 then s
  else match wrong with
    | some n => s.enterFaulted clsSelfTest n
    | none => s.enterStandby

/-- FLOOR_BURN_COMPLETE (R420): the burns of this boot are done and logged. -/
def State.burned (s : State) : State :=
  if !s.burning then s
  else
    let s := if s.sec.floorPending then
        ({ s with sec := { s.sec with floor := s.sec.version, floorPending := false } }).appendLog 0x02 0 0 s.sec.version 0
      else s
    if s.sec.revokePending then
      ({ s with sec := { s.sec with slot0Revoked := true, revokePending := false } }).appendLog 0x03 0 0 0 0
    else s

/-! ### The commands -/

/-- HOST_RESET (R344). -/
def execHostReset (dt : Nat) (s : State) : Host.Outcome State Fault Refusal := .next ((s.advance dt).deviceReset 4)

/-- COLD_RESET (R453). -/
def execColdReset (dt : Nat) (s : State) : Host.Outcome State Fault Refusal := .next ((s.advance dt).deviceReset 2)

/-- POWER_ON_RESET (R462). -/
def execPowerOnReset (dt : Nat) (s : State) : Host.Outcome State Fault Refusal := .next ((s.advance dt).deviceReset 1)

/-- PWROK_FALL (R463): the next release is a POWER_ON reset. -/
def execPwrokFall (dt : Nat) (s : State) : Host.Outcome State Fault Refusal := .next ((s.advance dt).deviceReset 1)

/-- RAIL_UNDERVOLTAGE (R463): as PWROK falling, whichever rail it is. -/
def execRailUndervoltage (dt rail : Nat) (s : State) : Host.Outcome State Fault Refusal :=
  let s := s.advance dt
  .next (if rail < 8 then s.deviceReset 1 else s)

/-- SYS_REFCLK_LOSS (R444): a REFERENCE reset. -/
def execSysRefclkLoss (dt : Nat) (s : State) : Host.Outcome State Fault Refusal := .next ((s.advance dt).deviceReset 3)

/-- RESET_RELEASE. -/
def execResetRelease (dt fuseMismatches : Nat) (s : State) : Host.Outcome State Fault Refusal :=
  .next ((s.advance dt).releaseReset fuseMismatches)

/-- FLASH_READ_TIMEOUT. -/
def execFlashReadTimeout (dt : Nat) (slotB : Bool) (s : State) : Host.Outcome State Fault Refusal :=
  .next ((s.advance dt).flashTimeout slotB)

/-- FLASH_SLOT_SELECT. -/
def execFlashSlotSelect (dt : Nat) (s : State) : Host.Outcome State Fault Refusal := .next (s.advance dt).selectSlot

/-- FIRMWARE_LOAD_COMPLETE. -/
def execFirmwareLoadComplete (dt : Nat) (s : State) : Host.Outcome State Fault Refusal := .next (s.advance dt).loadDone

/-- BOOT_PUSH_CHECK_COMPLETE. -/
def execBootPushCheckComplete (dt : Nat) (s : State) : Host.Outcome State Fault Refusal := .next (s.advance dt).pushChecked

/-- DRAM_TRAINING_COMPLETE. -/
def execDramTrainingComplete (dt : Nat) (margins : List Nat) (s : State) : Host.Outcome State Fault Refusal :=
  .next ((s.advance dt).trained margins)

/-- DRAM_FILL_COMPLETE. -/
def execDramFillComplete (dt : Nat) (s : State) : Host.Outcome State Fault Refusal := .next (s.advance dt).filled

/-- REHEARSAL_COMPLETE. -/
def execRehearsalComplete (dt : Nat) (wrongNode : Option Nat) (s : State) : Host.Outcome State Fault Refusal :=
  .next ((s.advance dt).rehearsed wrongNode)

/-- FLOOR_BURN_COMPLETE. -/
def execFloorBurnComplete (dt : Nat) (s : State) : Host.Outcome State Fault Refusal := .next (s.advance dt).burned

end Sys2Proof.Machine
end

