-- ==== Sys2Proof/Machine/Tiling.lean ====
section
/-! DEFINITION. Tiling (R139 to R147): the charge of a tile, firmware's choice of grid, the tiles and passes of a grid, and the
legal values of a cue script's tiling entries (R150, R151). -/

namespace Sys2Proof.Machine

open Sys2Proof

/-- The rows of each instruction of a tile of mt rows in p passes: chunks of 65,536 rows, the last one shorter, each with all
its passes. -/
def tileInstructions (mt p : Nat) : List Nat :=
  (upto (ceilDiv mt 65536)).flatMap fun c => List.replicate p (min 65536 (mt - c * 65536))

/-- tile_time: cycles of the array for a tile of mt rows in p passes on a part of width w; every instruction but the last keeps
the part for the longer of its rows and W + 1 cycles (R96, R97). -/
def tileTime (mt p w : Nat) : Nat :=
  let l := tileInstructions mt p
  512 + sumNat ((l.take (l.length - 1)).map fun r => max r (w + 1)) + l.getLastD 0 + w + 520

/-- A grid that firmware considers: split mode, row bands, column bands and its key. -/
structure Grid where
  split : Nat
  gm : Nat
  gn : Nat
  charge : Nat
  deriving DecidableEq, Repr

/-- The key of tile_layer: charge, tiles, 512 − W, gn, compared field by field. -/
def Grid.key (g : Grid) : List Nat := [g.charge, g.gm * g.gn, 512 - partWidth g.split, g.gn]

/-- Keys compared field by field in order. -/
def keyLt : List Nat → List Nat → Bool
  | a :: l, b :: m => a < b || (a = b && keyLt l m)
  | _, _ => false

/-- The candidate grids of a layer on a number of arrays in one split mode. -/
def gridsOf (m n k cls arrays split : Nat) : List Grid :=
  let q := arrays * partCount split
  let gmin := ceilDiv n (classN cls split)
  let top := min n (max q gmin)
  ((upto (top + 1)).filter fun gn => gmin ≤ gn && gn ≠ 0).map fun gn =>
    let gm := min m (max 1 (q / gn))
    let rounds := ceilDiv (gm * gn) q
    ⟨split, gm, gn, rounds * tileTime (ceilDiv m gm) (ceilDiv k (classK cls)) (partWidth split)⟩

/-- tile_layer of R142: the grid of least key over the allowed modes. -/
def tileLayer (m n k cls arrays : Nat) (modes : List Nat) : Option Grid :=
  (modes.flatMap (gridsOf m n k cls arrays)).foldl (fun b g => match b with
    | none => some g
    | some h => if keyLt g.key h.key then some g else some h) none

/-- First row and number of rows of row band i (R142). -/
def bandOf (m gm i : Nat) : Nat × Nat :=
  let mt := ceilDiv m gm
  (i * mt, min m ((i + 1) * mt) - i * mt)

/-- First K element and number of them of pass p (R142). -/
def passOf (k kp p : Nat) : Nat × Nat := (p * kp, min k ((p + 1) * kp) - p * kp)

/-- The granted part, in order of bay and then of part, that runs tile t (R142): (array, part). -/
def partOfTile (arrays : List Nat) (split t : Nat) : Nat × Nat :=
  let q := arrays.length * partCount split
  let i := if q = 0 then 0 else t % q
  (arrays.getD (i / partCount split) 0, i % partCount split)

/-- Split modes a slot on these arrays may use: all three, or the fixed one (R142, R144). -/
def State.modesFor (s : State) (arrays : List Nat) : List Nat :=
  match arrays.findSome? fun a => (s.array a).fixed with
  | some m => [m]
  | none => [0, 1, 2]

/-- A tiling entry's 16 bytes meet R150 and R151 for a cast content. -/
def tilingOk (s : State) (content : Word256) (e : List Byte) : Bool :=
  let f := fieldAt e
  let layer := f 0 2
  let given := f 2 1
  let fact := Config.castLayer content layer
  let cls := classOf (fact 3)
  let split := if bitOf given 0 then f 3 1 else 0
  let granted := (upto 8).filter fun a => bitOf (f 6 1) a
  let fixedElse := fun (a : Nat) => match (s.array a).fixed with
    | some m => decide (m ≠ f 3 1)
    | none => false
  let conflict := if bitOf given 2 then granted.any fixedElse else (upto 8).all fixedElse
  let device := if s.playbill.view.cascadeRoot then f 7 1 < s.playbill.view.members else f 7 1 = s.playbill.view.member
  layer < Config.castLayers content && given < 64
    && (!bitOf given 0 || (f 3 1 ≤ 2 && !conflict))
    && (!bitOf given 1 || (1 ≤ f 4 1 && f 4 1 ≤ fact 0 && 1 ≤ f 5 1 && ceilDiv (fact 1) (f 5 1) ≤ classN cls split))
    && (!bitOf given 2 || f 6 1 ≠ 0)
    && (!bitOf given 3 || (f 8 2 ≠ 0 && f 8 2 % (if cls = 16 then 1 else accumulationLen (fact 3) (fact 4)) = 0
          && f 8 2 ≤ classK cls))
    && (!bitOf given 4 || (1 ≤ f 12 4 && f 12 4 ≤ 65536))
    && (!bitOf given 5 || device)
    && f 10 2 = 0

/-- A widening entry's 8 bytes meet Table 6.8. -/
def wideningOk (e : List Byte) : Bool :=
  let f := fieldAt e
  f 0 1 < 16 && 1 ≤ f 1 1 && f 1 1 ≤ 3 && f 5 1 = 0 && f 6 2 = 0

end Sys2Proof.Machine
end

