-- ==== Sys2Proof/Machine/Casts.lean ====
section
/-! DEFINITION. Cast files and cue scripts: CAST_LOAD and CAST_UNLOAD (R422 to R424), SCRIPT_LOAD and SCRIPT_UNLOAD (R323). -/

namespace Sys2Proof.Machine

open Sys2Proof

/-! ### Cast files -/

/-- The bytes of a file in pieces of one buffer each (R80: at most 64 MiB). -/
def pieceSizes (n : Nat) : List Nat :=
  (upto (ceilDiv n (classBytes 7))).map fun i => min (classBytes 7) (n - i * classBytes 7)

/-- Unsealed DRAM buffers of a group for the pieces of a file, each with its writer, or none. -/
def State.allocPieces (s : State) (g writer : Nat) : List Nat → Option (List Nat × State)
  | [] => some ([], s)
  | n :: l => match s.alloc g true n none false with
    | .none_ _ _ => none
    | .got a _ t => match (t.setWriter (bufName true a) writer).allocPieces g writer l with
      | none => none
      | some r => some (bufName true a :: r.1, r.2)

/-- The bytes of a file written into its pieces. -/
def State.fillPieces (s : State) : List Nat → List Byte → State
  | [], _ => s
  | w :: l, bs => (s.writeMem true (bufAddr w) (bs.take (classBytes 7))).fillPieces l (bs.drop (classBytes 7))

/-- The reader under which a loaded cast file keeps its buffers in use. -/
def castReader (handle : Nat) : Nat := 2 ^ 64 + handle

/-- What the checks of R424 find in a cast file of a given command length. -/
inductive CastCheck where
  | range (o : Outcome)
  | auth (detail : Nat)
  | ok (slot : Nat)

/-- The checks of R424 in order (Table 18.4). -/
def checkCast (s : State) (bs : List Byte) : CastCheck :=
  let n := bs.length
  let f := fieldAt bs
  let key := (bs.drop 64).take 1312
  let keyHash := sha3 key
  if n < 4097 || f 8 8 ≠ n then .range (rangeFault 24)
  else if f 0 4 ≠ 0x54534143 || f 4 2 ≠ 0x0100 then .range ⟨.outOfRange, 0⟩
  else match s.sec.castKeys.findIdx? fun k => k ≠ 0 && k = keyHash with
    | none => .auth 1
    | some slot =>
      if !Config.verifies key (bs.take 1376) (asciiBytes "VY8-CAST") ((bs.drop 1376).take 2420) then .auth 2
      else
        let content := sha3 (bs.drop 4096)
        if content ≠ BitVec.ofNat 256 (f 16 32) then .auth 3
        else if !Config.castFormatOk content then .range ⟨.outOfRange, 0⟩
        else .ok slot

/-- CAST_LOAD's file is in the device: checked, logged, kept or discarded (R424). -/
def State.castArrived (s : State) (p : Packet) (buffers : List Nat) (bs : List Byte) : Verdict :=
  let drop := fun (t : State) => buffers.foldl (fun (t : State) w => t.releaseName w) t
  let digest := sha3 (bs.take 1376)
  match checkCast s bs with
  | .range o => .done o 0 (drop s)
  | .auth d =>
    let s := s.appendLog 0x05 (s.ringFn p.ring) p.ring d digest
    .done ⟨.authFailed, d⟩ 0 (drop { s with sec := { s.sec with authFailures := s.sec.authFailures.inc } })
  | .ok slot =>
    let h := freeKey s.casts 1
    let s := s.appendLog 0x04 (s.ringFn p.ring) p.ring (h % 65536 + 65536 * slot) digest
    let s := s.fillPieces buffers bs
    let s := buffers.foldl (fun (t : State) w => match t.locate true (bufAddr w) with
      | some (q, k, _) => t.modBuf q k fun b => { b with writer := none, readers := castReader h :: b.readers }
      | none => t) s
    let c : Cast := { group := s.ringGroup p.ring, digest := digest, content := BitVec.ofNat 256 (fieldAt bs 16 32)
                      length := bs.length, copies := buffers }
    let s := { s with casts := aset s.casts h c }
    .okResult h ((upto (ceilDiv bs.length 65536)).foldl (fun (t : State) i =>
      t.tellMembers 0x04 ((bs.drop (65536 * i)).take 65536)) s)

/-- CAST_LOAD (Table 13.9): a handle and DRAM are had, then the file is read from host memory (R305). -/
def castLoadCmd : Cmd where
  opcode := 0x0301
  named := [(0, 12)]
  fails := fun _ p => [(8, p.u32 8 = 0)]
  body := fun s p =>
    let n := p.u32 8
    if s.casts.length ≥ 256 then .refuse .noResource s
    else match s.allocPieces (s.ringGroup p.ring) (ownerId (.run s.nextId)) (pieceSizes n) with
      | none => .refuse .noResource { s with wardrobe := { s.wardrobe with noResource := s.wardrobe.noResource.inc } }
      | some (l, t) =>
        .wait (.hostRead p n (t.transferBy n) l) { t with outputs := .hostRead (p.u64 0) n :: t.outputs }
  withData := fun s p id data =>
    match aget s.inflight id with
    | some f => match f.work with
      | .hostRead _ _ _ l => s.castArrived p l data
      | _ => .ok s
    | none => .ok s

/-- A cast handle that is not loaded. -/
def castAbsent (s : State) (h : Nat) : Bool := (aget s.casts h).isNone

/-- CAST_UNLOAD. -/
def castUnloadCmd : Cmd where
  opcode := 0x0302
  states := [.standby, .service, .draining]
  named := [(0, 4)]
  fails := fun s p => [(0, castAbsent s (p.u32 0))]
  owned := fun s p => match aget s.casts (p.u32 0) with
    | some c => s.mayTouch p.ring c.group
    | none => true
  legal := fun s p =>
    !(s.streams.any fun e => e.2.cast = p.u32 0 && e.2.state ≠ .closed) && !(s.scripts.any fun e => e.2.cast = p.u32 0)
  body := fun s p => match aget s.casts (p.u32 0) with
    | none => .refuse .outOfRange s
    | some c => .ok { (c.copies.foldl (fun (t : State) w => t.releaseName w) s) with casts := adel s.casts (p.u32 0) }

/-! ### Cue scripts -/

/-- The first failing check of a script's header (Table 13.14), by its offset. -/
def scriptHeaderFault (bs : List Byte) (length : Nat) : Option Nat :=
  let f := fieldAt bs
  if bs.length < 64 || f 0 4 ≠ 0x53455543 then some 0
  else if f 4 2 ≠ 0x0100 then some 4
  else if f 6 2 ≠ 0 then some 6
  else if 64 + 16 * f 8 4 > length then some 8
  else if 64 + 16 * f 8 4 + 8 * f 12 4 > length then some 12
  else if 64 + 16 * f 8 4 + 8 * f 12 4 + 16 * f 16 4 > length then some 16
  else if f 20 4 ≠ length then some 20
  else ((upto 40).find? fun i => f (24 + i) 1 ≠ 0).map (· + 24)

/-- Bytes of an instruction word of a program kind: array, vector, sampler. -/
def programWordBytes (kind : Nat) : Nat := if kind = 1 then 16 else 32

/-- A word of a program kind meets check 1 of Table 5.3, Table 8.2 or R200. -/
def programWordOk (kind : Nat) (bs : List Byte) : Bool :=
  match kind with
  | 0 => (arrayWordOf (BitVec.ofNat 256 (leNat bs))).legal
  | 1 => (vecWordOf (BitVec.ofNat 128 (leNat bs))).legal
  | _ => (sampWordOf (BitVec.ofNat 256 (leNat bs))).legal

/-- The first failing point of a program entry at an offset: the entry itself, or one of its words. -/
def programFault (content : Word256) (bs : List Byte) (at_ : Nat) : Option Nat :=
  let e := fieldAt (bs.drop at_)
  let kind := e 3 1
  let bytes := programWordBytes kind
  let count := e 4 4
  let start := e 8 8
  if e 0 2 ≥ Config.castLayers content || e 2 1 > 2 || kind > 2 || start + bytes * count > bs.length then some at_
  else ((upto count).find? fun i => !programWordOk kind ((bs.drop (start + bytes * i)).take bytes)).map fun i =>
    start + bytes * i

/-- The first failing point of a cue script, by its byte offset: header, tiling entries, widening entries, programs (R323). -/
def scriptFault (s : State) (content : Word256) (bs : List Byte) (length : Nat) : Option Nat :=
  match scriptHeaderFault bs length with
  | some o => some o
  | none =>
    let tilings := (upto (fieldAt bs 8 4)).map fun i => 64 + 16 * i
    let w0 := 64 + 16 * fieldAt bs 8 4
    let widenings := (upto (fieldAt bs 12 4)).map fun i => w0 + 8 * i
    let p0 := w0 + 8 * fieldAt bs 12 4
    let programs := (upto (fieldAt bs 16 4)).map fun i => p0 + 16 * i
    match tilings.find? fun o => !tilingOk s content ((bs.drop o).take 16) with
    | some o => some o
    | none => match widenings.find? fun o => !wideningOk ((bs.drop o).take 8) with
      | some o => some o
      | none => programs.findSome? fun o => programFault content bs o

/-- The content digest of a cast handle. -/
def State.castContent (s : State) (h : Nat) : Word256 :=
  match aget s.casts h with
  | some c => c.content
  | none => 0

/-- SCRIPT_LOAD (R323): the script is read, checked and given a handle. -/
def scriptLoadCmd : Cmd where
  opcode := 0x0303
  named := [(0, 16)]
  fails := fun s p => [(12, castAbsent s (p.u32 12))]
  owned := fun s p => match aget s.casts (p.u32 12) with
    | some c => s.mayTouch p.ring c.group
    | none => true
  body := fun s p => readHost p (p.u64 0) (p.u32 8) s
  withData := fun s p _ bs =>
    match aget s.casts (p.u32 12) with
    | none => .refuse .wrongState s
    | some c => match scriptFault s c.content bs (p.u32 8) with
      | some o => .done ⟨.outOfRange, o % 2 ^ 23⟩ 0 s
      | none =>
        let h := freeKey s.scripts 1
        .okResult h { s with scripts := aset s.scripts h { group := s.ringGroup p.ring, cast := p.u32 12, bytes := bs } }

/-- SCRIPT_UNLOAD. -/
def scriptUnloadCmd : Cmd where
  opcode := 0x0304
  states := [.standby, .service, .draining]
  named := [(0, 4)]
  fails := fun s p => [(0, (aget s.scripts (p.u32 0)).isNone)]
  owned := fun s p => match aget s.scripts (p.u32 0) with
    | some c => s.mayTouch p.ring c.group
    | none => true
  legal := fun s p => !(s.streams.any fun e => e.2.script = p.u32 0 && e.2.state ≠ .closed)
  body := fun s p => .ok { s with scripts := adel s.scripts (p.u32 0) }

/-- CAST_LOAD. -/
def execCastLoad (dt : Nat) (p : Packet) (s : State) : Host.Outcome State Fault Refusal :=
  .next ((s.advance dt).accept castLoadCmd p)

/-- CAST_UNLOAD. -/
def execCastUnload (dt : Nat) (p : Packet) (s : State) : Host.Outcome State Fault Refusal :=
  .next ((s.advance dt).accept castUnloadCmd p)

/-- SCRIPT_LOAD. -/
def execScriptLoad (dt : Nat) (p : Packet) (s : State) : Host.Outcome State Fault Refusal :=
  .next ((s.advance dt).accept scriptLoadCmd p)

/-- SCRIPT_UNLOAD. -/
def execScriptUnload (dt : Nat) (p : Packet) (s : State) : Host.Outcome State Fault Refusal :=
  .next ((s.advance dt).accept scriptUnloadCmd p)

end Sys2Proof.Machine
end

