-- ==== Sys2Proof/Machine/Plan.lean ====
section
/-! DEFINITION. PLAN_SLOT_START: a stage of a sample begins in its slot of the cue plan (R24, R55, R140, R141, R193,
R195, R222), and the records that manager core 0 makes of what a chain has written (R203, R233, R326). -/

namespace Sys2Proof.Machine

open Sys2Proof

/-- Rows a to b of the tensor at a House line have been signalled by every tile that writes it (R24, R221). -/
def State.needMet (s : State) (n : Nat × Nat × Nat) : Bool :=
  s.scoreboard.all fun e => e.2.line ≠ n.1 || e.2.rows ≤ n.2.1 || (!e.2.withheld && min e.2.rows (n.2.2 + 1) ≤ e.2.watermark)

/-- A slot may run now: the edge reserve has passed, no trip is in force, the sample is planned and its cue is in progress. -/
def State.slotOpen (s : State) (m : Sample) : Bool :=
  s.live && m.planned && !m.finished && m.assigned + 1 = s.cueNow && s.cue.lastEdge + 20000 ≤ s.now && !s.pwr.trip

/-- The first layer whose run-time shape exceeds its planned shape (R140). -/
def exceeding (l : List LayerShape) : Option Nat :=
  l.findIdx? fun x => x.pm < x.m || x.pn < x.n || x.pk < x.k

/-- A clip slot is not in use: no instruction with that layer is queued and every row of it has been signalled and seen. -/
def State.slotIdle (s : State) (k slot : Nat) : Bool :=
  !(s.arrays.any fun a => a.parts.any fun q => q.queue.any fun j => (arrayWordOf j.word).layer = slot)
    && !(s.scoreboard.any fun e => e.2.sample = k && e.2.slot = slot && (e.2.withheld || e.2.watermark < e.2.rows))

/-- Firmware clears the clip slot of a layer before its run (R112). -/
def State.prepareSlots (s : State) (k : Nat) (slots : List Nat) : State :=
  slots.eraseDups.foldl (fun (t : State) slot => if t.slotIdle k slot then t.clearSlot slot else t) s

/-- The flush trigger of a layer, known before its first instruction (R133, R137): granted, the words are not run, and the re-run's
words come in a later slot; refused, or not fired, they run. -/
def State.flushAnswer (s : State) (k : Nat) (ws : List ArrayWord) : Bool × State :=
  match aget s.samples k with
  | none => (true, s)
  | some m =>
    match ws.find? fun w => m.flushSlots.contains w.layer with
    | none => (true, s)
    | some w =>
      let s := s.modSample k fun m => { m with flushSlots := m.flushSlots.filter (· ≠ w.layer) }
      let flush := match s.watch k w.layer with
        | some x => x.flush
        | none => false
      if !flush then (true, s)
      else
        let r := s.widen k w.layer (w.aFmt = 0x03) true
        (!r.1, r.2)

/-- Array words of a slot queued on their parts, if there is room for all of them. -/
def State.slotArrays (s : State) (k a part : Nat) (words : List Word256) : State :=
  if !roomFor (((s.array a).parts.getD part {}).queue.length) words.length then s
  else
    let ws := words.map arrayWordOf
    let r := s.flushAnswer k ws
    if !r.1 then r.2
    else words.foldl (fun (t : State) w => t.queueArray a (.chain k) w) (r.2.prepareSlots k (ws.map (·.layer)))

/-- Vector words of a slot queued, with the chain's deck loaded for the part. -/
def State.slotVectors (s : State) (k e part : Nat) (descriptor : Bool) (vl : Nat) (words : List (BitVec 128)) : State :=
  if !roomFor (((s.vec e).parts.getD part {}).queue.length) words.length || !(s.vec e).savedScalars.isEmpty then s
  else words.foldl (fun (t : State) w => t.queueVec e part (.chain k) descriptor vl w) (s.loadDeck e part (.chain k))

/-- Sampler words of a slot queued, with the chain's deck loaded in slot 4. -/
def State.slotSamplers (s : State) (k b : Nat) (words : List Word256) : State :=
  if (s.samp b).queue.length + words.length > 64 then s
  else words.foldl (fun (t : State) w => t.queueSamp b (.chain k) w) (s.loadDeck b 4 (.chain k))

/-- The crop of a sample's output: as applied, or, for a substituted sample, as last applied. -/
def sourceCrop (src : Stream) (m : Sample) (i : Nat) : Option (List Nat) :=
  if m.substituted then some (agetD src.prevCrop i [0, 0, src.picture.1, src.picture.2])
  else (m.outputs.find? fun o => o.1 = i).map (·.2.2)

/-- The cost of a candidate's match (Table 10.9): that of its track's last match, or +0 for one without a match. -/
def Cand.matchCost (c : Cand) (tracks : List Track) : Word32 :=
  if c.track = 0 || bitOf c.flags 2 then 0
  else match tracks.find? fun t => t.id = c.track with
    | some t => t.cost
    | none => 0

/-- The body of a DETECTION record (R234, Table 10.9), its STATUS and DETAIL still zero. -/
def detectionBody (c : Cand) (flags rank count : Nat) (cost : Word32) : List Byte :=
  leBytes 4 0 ++ leBytes 4 c.x0.toNat ++ leBytes 4 c.y0.toNat ++ leBytes 4 c.x1.toNat ++ leBytes 4 c.y1.toNat
    ++ leBytes 4 c.score.toNat ++ leBytes 2 c.cls ++ leBytes 1 c.head ++ leBytes 1 flags ++ leBytes 4 c.position
    ++ leBytes 4 c.track ++ leBytes 2 rank ++ leBytes 2 count ++ leBytes 4 cost.toNat ++ leBytes 4 0

/-- The body of a TRACK record (R234, Table 10.9), its STATUS and DETAIL still zero. -/
def trackBody (t : Track) : List Byte :=
  leBytes 4 0 ++ leBytes 4 t.id ++ leBytes 4 t.box.x0.toNat ++ leBytes 4 t.box.y0.toNat ++ leBytes 4 t.box.x1.toNat
    ++ leBytes 4 t.box.y1.toNat ++ leBytes 4 t.vx.toNat ++ leBytes 4 t.vy.toNat ++ leBytes 4 t.age ++ leBytes 1 t.state
    ++ leBytes 1 t.misses ++ leBytes 2 t.cls ++ leBytes 4 t.cost.toNat ++ leBytes 4 t.origin

/-- The entries of a track table in use, without their embeddings. -/
def State.tableTracks (s : State) (line : Nat) : List Track :=
  (s.readTracks line (s.trackCapacity line) 0).filter fun t => t.id ≠ 0

/-- The tracks that a frame's TRACK records tell (R233): CONFIRMED or LOST after the sample, and those that were and ended in it, with
STATE 4, in ascending TRACK_ID. -/
def framedTracks (before after : List Track) : List Track :=
  let shown := fun (t : Track) => t.state = 2 || t.state = 3
  let ended := (before.filter fun t => shown t && !(after.any fun u => u.id = t.id)).map fun t =>
    { t with state := 4, misses := min (t.misses + 1) 255 }
  sortBy (fun (a b : Track) => a.id < b.id) (after.filter shown ++ ended)

/-- The VALUES pieces of an output's bytes (R326, Table 13.18): 36 bytes each, from PIECE i upward. -/
def valuePieces (output fmt : Nat) : Nat → Nat → List Byte → List (Nat × List Byte)
  | 0, _, _ => []
  | n + 1, i, bs =>
    if bs.isEmpty then []
    else
      let piece := bs.take 36
      (0x07, leBytes 4 0 ++ leBytes 2 output ++ leBytes 2 i ++ leBytes 1 fmt ++ leBytes 1 piece.length ++ leBytes 2 0 ++ piece
        ++ List.replicate (36 - piece.length) 0) :: valuePieces output fmt n (i + 1) (bs.drop 36)

/-- The records manager core 0 makes of one source (R203, R233, R326, Table 13.18), as kind and body. -/
def State.recordsOf (s : State) (m : Sample) : RecordSource → List (Nat × List Byte)
  | .frame line count tables =>
    let after := match tables with
      | some t => s.tableTracks t.2
      | none => []
    let before := match tables with
      | some t => s.tableTracks t.1
      | none => []
    let none_ := detectionBody ⟨0, 0, 0, 0, 0, 0xFFFF, 0, 0, 0, 0⟩ 16 0 0 0
    let cands := s.cands line count
    (if cands.isEmpty then [(0x02, none_)] else (cands.zip (upto count)).map fun c =>
        (0x02, detectionBody c.1 (c.1.flags % 16) c.2 count (c.1.matchCost after)))
      ++ (framedTracks before after).map fun t => (0x03, trackBody t)
  | .token line => [(0x04, (s.readMem false (64 * line) 64).drop 16)]
  | .values output fmt line bytes => valuePieces output fmt bytes 0 (s.readMem false (64 * line) bytes)
  | .framing output track =>
    let crop := match aget s.streams m.stream with
      | some st => (sourceCrop st m output).getD []
      | none => []
    [(0x06, leBytes 4 0 ++ leBytes 1 output ++ leBytes 3 0 ++ ((crop ++ List.replicate 4 0).take 4).flatMap (leBytes 2)
      ++ leBytes 4 track ++ List.replicate 28 0)]

/-- The records of a sample staged for the host port (R24, R325 to R327): the last is marked LAST; a sample with no record of its
own gets a SAMPLE record. -/
def State.slotRecords (s : State) (k : Nat) (sources : List RecordSource) : State :=
  if s.hasJobs (.chain k) then s
  else s.modSample k fun m =>
    let bodies := sources.flatMap (s.recordsOf m)
    if bodies.isEmpty then
      { m with finished := true, queue := m.queue ++ [⟨0x01, true, m.stream, m.assigned, m.capture, sampleBody m.issued m.arrival⟩] }
    else m.queueRecords bodies true

/-- PLAN_SLOT_START (R24). -/
def State.planSlot (s : State) (k : Nat) (shapes : List LayerShape) (needs : List (Nat × Nat × Nat)) (work : SlotWork) : State :=
  match aget s.samples k with
  | none => s
  | some m =>
    if !s.slotOpen m || !(needs.all s.needMet) then s
    else match exceeding shapes with
      | some i => s.endChain k ⟨.shapeExceedsPlan, i % 65536⟩
      | none => match work with
        | .arrayWords a part ws => s.slotArrays k a part ws
        | .vectorWords e part d vl ws => s.slotVectors k e part d vl ws
        | .samplerWords b ws => s.slotSamplers k b ws
        | .records sources => s.slotRecords k sources
        | .handoff dst chain first line bytes address => s.slotHandoff k dst chain first line bytes address.toNat

/-- PLAN_SLOT_START. -/
def execPlanSlotStart (dt sample : Nat) (shapes : List LayerShape) (needs : List (Nat × Nat × Nat)) (work : SlotWork) (s : State) :
    Host.Outcome State Fault Refusal :=
  .next ((s.advance dt).planSlot sample shapes needs work)

end Sys2Proof.Machine
end

