-- ==== Sys2Proof/Machine/Codec.lean ====
section
/-! DEFINITION. The codec clusters: the codec commands of class 0x08 (R241, R257, R264), the decode pipeline (R243 to R256) and the
encode pipeline with its rate control (R257 to R262). -/

namespace Sys2Proof.Machine

open Sys2Proof

/-! ### Decode streams -/

/-- A (codec, profile) pair of Table 11.1 that is decoded. -/
def decodeProfile (codec profile : Nat) : Bool :=
  (codec = 1 && 1 ≤ profile && profile ≤ 3) || (codec = 2 && 1 ≤ profile && profile ≤ 3) || (codec = 3 && profile = 1)

/-- A (codec, profile) pair of Table 11.1 that is encoded. -/
def encodeProfile (codec profile : Nat) : Bool := (codec = 2 && (profile = 1 || profile = 2)) || (codec = 3 && profile = 1)

/-- The pair allows 10 bits (Table 11.1). -/
def tenBits (codec profile : Nat) : Bool := (codec = 2 && profile = 2) || (codec = 3 && profile = 1)

/-- The largest decoded picture buffer that a standard's level limits allow at a size (R241; the standards' limits: log entry 21). -/
def levelReferences (codec w h : Nat) : Nat :=
  if codec = 1 then max 1 (min 16 (184320 / (ceilDiv w 16 * ceilDiv h 16)))
  else if codec = 2 then
    (if 4 * w * h ≤ 35651584 then 16 else if 2 * w * h ≤ 35651584 then 12 else if 4 * w * h ≤ 3 * 35651584 then 8 else 6)
  else 8

/-- A command's stream is not one of the kind it serves. -/
def kindFails (s : State) (n : Nat) (k : StreamKind) : Bool :=
  match aget s.streams n with
  | some st => st.kind ≠ k
  | none => true

/-- A fixed crop of the stream's outputs runs beyond a width or height. -/
def cropBeyond (st : Stream) (w h : Nat) : Bool :=
  st.outputs.any fun o => o.crop = 1 && (o.cropX + o.cropW > w || o.cropY + o.cropH > h)

/-- The same for a stream by its number. -/
def State.cropBeyond (s : State) (n w h : Nat) : Bool :=
  match aget s.streams n with
  | some st => Sys2Proof.Machine.cropBeyond st w h
  | none => false

/-- An expert frame-buffer pool can hold the stream's frame buffers (R14). -/
def poolHolds (s : State) (p size : Nat) : Bool :=
  match aget s.wardrobe.pools p with
  | some pool => pool.dram && size ≤ classBytes pool.cls
  | none => false

/-- DECODE_CONFIGURE (Table 11.3). -/
def decodeConfigureCmd : Cmd where
  opcode := 0x0801
  named := [(0, 20)]
  fails := fun s p =>
    let n := p.u16 0
    let codec := p.u8 2
    let w := p.u16 4
    let h := p.u16 6
    let refs := p.u8 10
    let given := p.u8 11
    let size := (frameBuffers w h (depthBytes (p.u8 8))).headD 0
    let crop := s.cropBeyond n w 4352
    let cropH := s.cropBeyond n 8192 h
    [(0, kindFails s n .decode), (2, codec = 0 || codec > 3), (3, !decodeProfile codec (p.u8 3)),
     (4, w < 16 || w > 8192 || crop), (6, h < 16 || h > 4352 || cropH),
     (8, p.u8 8 ≠ 8 && !(p.u8 8 = 10 && tenBits codec (p.u8 3))),
     (9, p.u8 9 = 0 || p.u8 9 > 4 || (p.u8 9 ≠ 1 && codec ≠ 3)),
     (10, if bitOf given 0 then refs = 0 || refs > 16 || (refs > 8 && codec = 3) else refs ≠ 0),
     (11, given > 7), (12, p.u16 12 > 256),
     (14, if bitOf given 1 then !poolHolds s (p.u8 14) size else p.u8 14 ≠ 0),
     (15, if bitOf given 2 then p.u8 15 > 3 else p.u8 15 ≠ 0),
     (16, p.u32 16 < 64 || p.u32 16 > 67108864)]
  owned := fun s p => streamOwned s p.ring (p.u16 0)
    && (!bitOf (p.u8 11) 1 || match aget s.wardrobe.pools (p.u8 14) with
      | some pool => s.poolUsable pool (s.ringGroup p.ring)
      | none => true)
  legal := fun s p => streamIn s (p.u16 0) fun st => st.state = .declared && !st.closing
  body := fun s p =>
    let given := p.u8 11
    let cfg : DecodeCfg := {
      codec := p.u8 2, profile := p.u8 3, maxWidth := p.u16 4, maxHeight := p.u16 6, bitDepth := p.u8 8, framesPerAu := p.u8 9
      references := if bitOf given 0 then p.u8 10 else levelReferences (p.u8 2) (p.u16 4) (p.u16 6)
      concealLimit := if p.u16 12 = 0 then 128 else p.u16 12
      pool := if bitOf given 1 then some (p.u8 14) else none
      cluster := if bitOf given 2 then some (p.u8 15) else none
      maxAuBytes := p.u32 16 }
    .ok (s.modStream (p.u16 0) fun st => { st with decode := cfg, decodeDone := true })

/-- DECODE_REFRESH (R264): every reference mark is cleared and decoding waits for a random access point. -/
def decodeRefreshCmd : Cmd where
  opcode := 0x0805
  named := [(0, 2)]
  fails := fun s p => [(0, kindFails s (p.u16 0) .decode)]
  owned := fun s p => streamOwned s p.ring (p.u16 0)
  legal := fun s p => streamIn s (p.u16 0) fun st => (st.state = .running || st.state = .paused) && !st.closing
  body := fun s p =>
    let clear := fun (f : FrameBuf) => { f with marks := 0 }
    .ok ((s.modStream (p.u16 0) fun st => { st with
      rapSeen := false, opening := false, frames := st.frames.map clear }).freeFrames (p.u16 0))

/-- CODEC_TEST (R264). -/
def codecTestCmd : Cmd where
  opcode := 0x0806
  admin := true
  states := [.standby]
  target := .kind .codecCluster
  body := fun s p => .wait (.test .codec (targetUnit s p) (p.target.toNat % 2 ^ 28) s.time.elapsed) s

/-! ### The decode pipeline -/

/-- What the checks of Table 11.4 and the random-access rule find in an access unit (R243, R244, R253). -/
inductive AuVerdict where
  | rejected (check : Nat)
  | headerLost
  | beforeRap
  | accepted
  deriving DecidableEq, Repr

/-- The checks of Table 11.4 in order. -/
def auVerdict (st : Stream) (m : Sample) (f : AuFacts) : AuVerdict :=
  let areas := ceilDiv f.width 16 * ceilDiv f.height 16
  let bits := 8 * m.length
  if m.length = 0 || m.length > st.decode.maxAuBytes then .rejected 1
  else if m.late then .rejected 2
  else if f.headerLost then .headerLost
  else if !f.syntaxOk || !f.profileOk || f.depth > st.decode.bitDepth then .rejected 3
  else if f.width > st.decode.maxWidth || f.height > st.decode.maxHeight || f.width = 0 || f.height = 0 || !f.addressesOk then
    .rejected 4
  else if areas > (if f.inter then 16384 else 1024) * bits then .rejected 5
  else if f.frames > st.decode.framesPerAu then .rejected 6
  else if !st.rapSeen && !f.randomAccess then .beforeRap
  else if st.opening && f.rasl && !f.randomAccess then .beforeRap
  else .accepted

/-- The latest rejection or concealment of a cluster (ERROR_LAST). -/
def State.codecError (s : State) (c stream cause : Nat) : State :=
  s.modCodec c fun x => { x with errorStream := stream, errorCause := cause }

/-- Sealed DRAM buffers of the given sizes for a group, from a pool or from any, or none. -/
def State.allocFrame (s : State) (g : Nat) (pool : Option Nat) : List Nat → Option (List Nat × State)
  | [] => some ([], s)
  | n :: l => match s.alloc g true n pool true with
    | .none_ _ _ => none
    | .got a _ t => (t.allocFrame g pool l).map fun r => (bufName true a :: r.1, r.2)

/-- Frame buffers for the frames that an access unit keeps, as far as REFERENCES allows (R248 to R250): the buffers kept, the
name of the shown frame's, the overflows, and the state; none where the Wardrobe has no buffer. -/
def State.keepFrames (s : State) (g : Nat) (cfg : DecodeCfg) (sizes : List Nat) (room : Nat) :
    List KeptFrame → Option (List FrameBuf × Option Nat × Nat × State)
  | [] => some ([], none, 0, s)
  | f :: l =>
    if f.marks = 0 then s.keepFrames g cfg sizes room l
    else match room with
      | 0 => (s.keepFrames g cfg sizes 0 l).map fun r => (r.1, r.2.1, r.2.2.1 + 1, r.2.2.2)
      | n + 1 => match s.allocFrame g cfg.pool sizes with
        | none => none
        | some (names, t) => (t.keepFrames g cfg sizes n l).map fun r =>
          let b : FrameBuf := { buffers := names, marks := f.marks, damaged := !f.shown && f.damaged }
          (b :: r.1, if f.shown then names.head? else r.2.1, r.2.2.1, r.2.2.2)

/-- The two checkpoint buffers of a decode stream (R249, R251). -/
def State.checkpointsFor (s : State) (n : Nat) (st : Stream) : Option State :=
  if !st.checkpoints.isEmpty then some s
  else
    let size := ceilDiv st.decode.maxHeight (stripRows st.decode.codec)
      * (4096 + 24 * st.decode.maxWidth * depthBytes st.decode.bitDepth)
    (s.allocFrame st.group none [size, size]).map fun r => r.2.modStream n fun x => { x with checkpoints := r.1 }

/-- What the headers say of the sample's picture. -/
def Sample.pictured (m : Sample) (f : AuFacts) : Sample :=
  { m with width := f.width, height := f.height, depth := f.depth, matrix := f.matrix, range := f.range }

/-- Further shown frames of a temporal unit are samples of their own, with its capture time, that count towards n (R273). -/
def State.addShown (s : State) (n : Nat) (m : Sample) : Nat → List Nat × State
  | 0 => ([], s)
  | j + 1 =>
    let id := s.sampleOrder
    let t := s.addSample n m.capture m.length none []
    let t := t.modSample id fun x => { x with
      assigned := m.assigned, width := m.width, height := m.height, depth := m.depth, matrix := m.matrix, range := m.range
      late := false }
    let planned := (t.samples.filter fun e => e.2.stream = n && e.2.planned && e.2.assigned = m.assigned).length
    let most := match aget t.streams n with
      | some st => t.perCue st
      | none => 0
    if planned < most then
      let r := (t.planSample id).addShown n m j
      (id :: r.1, r.2)
    else (t.excess id n).addShown n m j

/-- The access unit is accepted: marks, frame buffers, checkpoint buffers, and a job on the pipeline (R244, R248 to R251). -/
def State.openAu (s : State) (c k n : Nat) (m : Sample) (st : Stream) (f : AuFacts) : Option State :=
  let sizes := frameBuffers f.width f.height (depthBytes f.depth)
  let refs := f.refs.filterMap fun i => (st.frames[i]?).bind fun b => b.buffers.head?
  let marked := (st.frames.zip (upto st.frames.length)).map fun e =>
    { e.1 with
      marks := (f.marksOf[e.2]?).getD e.1.marks
      strips := if f.refs.contains e.2 then decodeMark k :: e.1.strips else e.1.strips }
  let held := (marked.filter fun b => b.marks ≠ 0).length
  (s.checkpointsFor n st).bind fun t =>
  (t.keepFrames st.group st.decode sizes (st.decode.references - held) f.kept).map fun r =>
    let t := r.2.2.2.modStream n fun x => { x with
      rapSeen := true
      opening := if f.randomAccess then !x.rapSeen else x.opening
      checkpointSide := (x.checkpointSide + 1) % 2
      frames := marked ++ r.1 }
    let t := t.freeFrames n
    let t := t.modSample k fun x => { (x.pictured f) with buffer := none }
    let more := t.addShown n (m.pictured f) (f.shown - 1)
    let job : DecodeJob := {
      sample := k, facts := f, since := s.time.elapsed, strips := ceilDiv f.height (stripRows st.decode.codec)
      later := more.1, refs := refs, frame := r.2.1 }
    more.2.modCodec c fun x => { x with
      decoding := some job, rebuilding := none, dpbOverflow := x.dpbOverflow.add 32 r.2.2.1 }

/-- DECODE_START (R243, R244): an access unit that the plan has admitted is checked, then rejected or opened.  Where a buffer is
wanting it waits. -/
def State.decodeStart (s : State) (c k : Nat) (f : AuFacts) : State :=
  match aget s.samples k with
  | none => s
  | some m => match aget s.streams m.stream with
    | none => s
    | some st =>
      let cluster := match st.decode.cluster with
        | some x => x = c
        | none => true
      if !s.slotOpen m || st.kind ≠ .decode || m.buffer.isNone || m.corrupt.isSome || !cluster
          || (s.codecs.getD c {}).decoding.isSome || s.time.elapsed < (s.codecs.getD c {}).rebuildUntil then s
      else
        let take := s.modSample k fun x => { x with buffer := none }
        match auVerdict st m f with
        | .rejected check =>
          let t := take.modCodec c fun x => { x with
            rejected := x.rejected.inc, unsupported := if check = 3 then x.unsupported.inc else x.unsupported }
          (t.codecError c m.stream check).markCorrupt k 0x71 check
        | .headerLost =>
          let t := take.modCodec c fun x => { x with rejected := x.rejected.inc }
          (t.codecError c m.stream 0).markCorrupt k 0x7A 0
        | .beforeRap => take.markCorrupt k 0x72 0
        | .accepted => (s.openAu c k m.stream m st f).getD s

/-- n bytes the standards produce, by draw; for 10-bit samples bits [15:10] are zero (R245). -/
def pixelBytes (d n b : Nat) : List Byte :=
  (upto n).map fun i => if b = 2 && i % 2 = 1 then Config.freeByte d i &&& 3 else Config.freeByte d i

/-- Rows of a strip copied into a plane of packed rows. -/
def State.putRows (s : State) (base width : Nat) : List (List Byte) → State
  | [] => s
  | r :: l => (s.writeMem true base (r.take width)).putRows (base + width) width l

/-- A strip written to the House, and to the frame buffer where one is kept: the luma plane, the CbCr plane and the motion store,
in the band that holds it (R245, R248). -/
def State.putStrip (s : State) (name w h b h0 j : Nat) (frame : Option (List Nat)) : State :=
  let rows := min h0 (h - j * h0)
  let chroma := (rows + 1) / 2
  let line := lineBytes (w * b)
  let d := s.draw
  let bytes := pixelBytes d.1 (line * (rows + chroma)) b
  let s := d.2.writeMem false (bufAddr name) bytes
  match frame with
  | none => s
  | some names =>
    let two := names.length = 2
    let second := two && j * h0 ≥ 2176
    let top := if second then 2176 else 0
    let bandRows := if two then (if second then h - 2176 else 2176) else h
    let base := bufAddr (names.getD (b2n second) 0)
    let all := (upto (rows + chroma)).map fun r => (bytes.drop (r * line)).take line
    let y := j * h0 - top
    let s := s.putRows (base + y * (w * b)) (w * b) (all.take rows)
    let s := s.putRows (base + bandRows * (w * b) + y / 2 * (w * b)) (w * b) (all.drop rows)
    let areas := ceilDiv w 16
    let e := s.draw
    e.2.writeMem true (base + bandRows * (w * b) * 3 / 2 + y / 16 * areas * 16)
      (pixelBytes e.1 (16 * areas * ceilDiv rows 16) 1)

/-- A strip's checkpoint: 4,096 bytes of entropy state, and its first 8 and last 8 luma rows with their chroma (R251). -/
def State.putCheckpoint (s : State) (st : Stream) (w b j : Nat) : State :=
  match st.checkpoints[st.checkpointSide]? with
  | none => s
  | some name =>
    let n := 4096 + 24 * w * b
    let d := s.draw
    d.2.writeMem true (bufAddr name + j * n) (pixelBytes d.1 n 1)

/-- The code of a concealment cause (Table 11.6). -/
def concealCode : ConcealCause → Nat
  | .syntaxError => 0x61
  | .missingReference => 0x62
  | .storeError => 0x64

/-- A buffer may take a strip of a stream: held by its group, large enough, and no strip of another sample. -/
def State.stripBuffer (s : State) (g name size : Nat) : Bool :=
  !bufDram name && (match s.locate false (bufAddr name) with
    | some (p, _, o) => o = 0 && size ≤ s.poolBytes p
    | none => false)
  && (match s.heldBuf name with
    | some b => b.group = g
    | none => false)
  && !(s.samples.any fun e => e.2.strips.contains name)

/-- A strip is signalled complete: its buffer is sealed and belongs to the sample's chain, and its rows can be read (R22, R245). -/
def State.signalStrip (s : State) (k name rows : Nat) : State :=
  let s := match s.locate false (bufAddr name) with
    | some (p, q, _) => s.modBuf p q fun b => { b with sealed := true }
    | none => s
  s.modSample k fun m => { m with
    strips := m.strips ++ [name], buffers := m.buffers ++ [name], rowsReady := m.rowsReady + rows }

/-- The last strip of a shown frame (R255): corrupt at CONCEAL_LIMIT, else DEGRADED where blocks were concealed or predicted from a
DAMAGED frame buffer. -/
def State.frameDone (s : State) (c : Nat) (st : Stream) (n : Nat) (j : DecodeJob) : State :=
  let s := if j.concealed = 0 then s
    else s.modStream n fun x => { x with frames := x.frames.map fun (f : FrameBuf) =>
      if j.frame.isSome && f.buffers.head? = j.frame then { f with damaged := true } else f }
  if j.concealed ≠ 0 && j.concealed * 256 ≥ st.decode.concealLimit * j.facts.blocks then s.markCorrupt j.sample 0x73 0
  else
    let detail := match j.cause with
      | some x => x + 256 * min (65536 * j.concealed / max 1 j.facts.blocks) 65535
      | none => 0x63
    if j.concealed = 0 && !j.propagated then s
    else (s.modSample j.sample fun m => m.reach ⟨.degraded, detail⟩).modCodec c fun x => { x with degraded := x.degraded.inc }

/-- STRIP_COMPLETE (R245 to R256). -/
def State.stripDone (s : State) (c concealed : Nat) (cause : ConcealCause) (name : Nat) : State :=
  match (s.codecs.getD c {}).decoding with
  | none => s
  | some j => match aget s.samples j.sample with
    | none => s
    | some m => match aget s.streams m.stream with
      | none => s
      | some st =>
        let b := depthBytes j.facts.depth
        let h0 := stripRows st.decode.codec
        let w := j.facts.width
        let h := j.facts.height
        let rows := min h0 (h - j.next * h0)
        if s.time.elapsed < (s.codecs.getD c {}).rebuildUntil
            || !s.stripBuffer st.group name (lineBytes (w * b) * (rows + (rows + 1) / 2)) then s
        else
          let frame := (st.frames.find? fun f => j.frame.isSome && f.buffers.head? = j.frame).map (·.buffers)
          let damaged := st.frames.any fun f => f.damaged && (match f.buffers.head? with
            | some x => j.refs.contains x
            | none => false)
          let s := (s.putStrip name w h b h0 j.next frame).putCheckpoint st w b j.next
          let s := s.signalStrip j.sample name rows
          let s := s.modStream m.stream fun x => { x with frames := x.frames.map fun (f : FrameBuf) =>
            match f.buffers.head? with
            | some y => if j.refs.contains y then { f with strips := name :: f.strips } else f
            | none => f }
          let s := s.modCodec c fun x => { x with
            strips := x.strips.inc, concealed := x.concealed.add 32 concealed, rebuilding := none }
          let s := if concealed = 0 then s else s.codecError c m.stream (concealCode cause)
          let j := { j with
            next := j.next + 1, concealed := j.concealed + concealed, propagated := j.propagated || damaged
            cause := if concealed ≠ 0 && j.cause.isNone then some (concealCode cause) else j.cause }
          if j.next < j.strips then s.modCodec c fun x => { x with decoding := some j }
          else
            let s := s.frameDone c st m.stream j
            match j.later with
            | k :: l =>
              let j' := { j with
                sample := k, later := l, next := 0, concealed := 0, cause := none, propagated := false, frame := none }
              s.modCodec c fun x => { x with decoding := some j', lastSample := j.sample }
            | [] => (s.modCodec c fun x => { x with
                decoding := none, lastSample := j.sample, picturesDecoded := x.picturesDecoded.add 32 j.facts.frames }).dropStrip
                  (decodeMark j.sample)

/-- The sample whose strips a cluster can decode again: the one in the pipeline, else the last one decoded. -/
def State.rebuildSample (s : State) (c strip : Nat) : Option (Nat × Sample) :=
  let x := s.codecs.getD c {}
  let ok := fun (k most : Nat) => (aget s.samples k).bind fun m => if strip < m.strips.length + most then some (k, m) else none
  match x.decoding with
  | some j => (ok j.sample 1).orElse fun _ => ok x.lastSample 0
  | none => ok x.lastSample 0

/-- STRIP_REBUILD (R252): the strip is decoded again from its checkpoints; a failure of its own re-decode is persistent (R398). -/
def State.stripRebuild (s : State) (c strip : Nat) : State :=
  match s.rebuildSample c strip with
  | none => s
  | some (k, m) => match aget s.streams m.stream with
    | none => s
    | some st =>
      let x := s.codecs.getD c {}
      let busy := decide (s.time.elapsed < x.rebuildUntil) && x.rebuilding.isSome
      if st.kind ≠ .decode then s
      else if busy then (if x.rebuilding = some strip then s.enterFaulted clsCodec (2 * c) else s)
      else
        let h0 := stripRows st.decode.codec
        let cost := ceilDiv (m.width * min h0 (m.height - strip * h0)) 16
        let r := recordRepeat s.ms x.decodeRepeats
        let s := s.modCodec c fun x => { x with
          rebuilds := x.rebuilds.inc, rebuilding := some strip, rebuildUntil := s.time.elapsed + cost, decodeRepeats := r.1 }
        if r.2 then s.enterFaulted clsCodec (2 * c) else s.repeatUnit (.chain k) 0x05 cost clsCodec (2 * c)

/-! ### Encode streams -/

/-- The source stream's PICTURE output that an encode stream reads: its index, and the source with it added where the basic level
leaves it to firmware (R281). -/
def pictureOutput (src : Stream) (given : Option Nat) (w h scaler : Nat) : Option (Nat × Stream) :=
  let fits := fun (o : OutputCfg) => o.kind = 1 && o.outW = w && o.outH = h
  match given with
  | some i => match src.outputs[i]? with
    | some o => if fits o then some (i, src) else none
    | none => none
  | none => match src.outputs.findIdx? fits with
    | some i => some (i, src)
    | none =>
      if src.outputs.length < 4 then
        some (src.outputs.length, { src with outputs := src.outputs ++ [{ kind := 1, outW := w, outH := h, scaler := some scaler }] })
      else none

/-- The tool word of an ENCODE_CONFIGURE is outside Table 11.8. -/
def toolsFail (t : Nat) : Bool :=
  bitsOf t 6 2 > 1 || bitsOf t 8 8 = 0 || bitsOf t 8 8 > 32 || bitsOf t 16 8 = 0 || bitsOf t 16 8 > 16 || t ≥ 2 ^ 24

/-- The SOURCE of an encode stream: ADMITTED or RUNNING, of the same group, with pictures (Table 11.7). -/
def sourceFails (s : State) (g n : Nat) : Bool :=
  match aget s.streams n with
  | some st => st.group ≠ g || st.closing || (st.state ≠ .admitted && st.state ≠ .running) || st.kind = .audio || st.kind = .encode
  | none => true

/-- Rates and VBV outside Table 11.7: as offsets for RC_MODE, TARGET, MAX and VBV. -/
def rateFails (mode target most vbv : Nat) (o : Nat × Nat × Nat × Nat) : List (Nat × Bool) :=
  [(o.1, mode > 2), (o.2.1, target < 16 || target > 400000),
   (o.2.2.1, mode = 2 && (most < 16 || most > 400000 || most < target)), (o.2.2.2, vbv < 16 || vbv > 800000)]

/-- The fields of an ENCODE_CONFIGURE block that fail Tables 11.7, 11.8 and 13.15, by block offset. -/
def encodeBlockFails (s : State) (p : Packet) (bs : List Byte) : List (Nat × Bool) :=
  let f := fieldAt bs
  let n := f 0 2
  let toolsGiven := bitOf (f 34 1) 0
  let outputGiven := bitOf (f 34 1) 1
  let given := if outputGiven then some (f 35 1) else none
  let src := agetD s.streams (f 2 2) {}
  let out := pictureOutput src given (f 6 2) (f 8 2) 0
  let depth := match out with
    | some (i, x) => (x.outputs.getD i {}).bitDepth
    | none => 8
  let most := if depth = 10 then 63 else 51
  let qpI := signedOf 8 (f 30 1)
  [(0, kindFails s n .encode), (2, sourceFails s (agetD s.streams n {}).group (f 2 2)),
   (4, f 4 1 ≠ 2 && f 4 1 ≠ 3), (5, !encodeProfile (f 4 1) (f 5 1) || (depth = 10 && !tenBits (f 4 1) (f 5 1))),
   (6, f 6 2 < 64 || f 6 2 > 4096 || f 6 2 % 8 ≠ 0), (8, f 8 2 < 64 || f 8 2 > 2176 || f 8 2 % 8 ≠ 0),
   (10, f 10 2 = 0 || f 10 2 > 1001), (12, f 12 4 = 0 || f 12 4 > 240000 || f 12 4 > 240 * f 10 2),
   (17, f 17 1 ≠ 1 && f 17 1 ≠ 2), (18, f 18 2 ≠ 0), (28, f 28 1 > most), (29, f 29 1 > most), (30, qpI < -12 || 12 < qpI),
   (34, f 34 1 > 3), (35, if outputGiven then out.isNone else f 35 1 ≠ 0 || out.isNone),
   (36, if toolsGiven then toolsFail (f 36 4) else f 36 4 ≠ 0), (48, 8 * f 48 8 < 2000 * f 24 4), (60, f 60 4 ≠ 0)]
  ++ rateFails (f 16 1) (f 20 4) (f 56 4) (f 24 4) (16, 20, 56, 24)
  ++ (if p.u16 8 = 64 then [] else [(0, true)])

/-- ENCODE_CONFIGURE's effect. -/
def encodeConfigured (s : State) (bs : List Byte) : Verdict :=
  let f := fieldAt bs
  let given := if bitOf (f 34 1) 1 then some (f 35 1) else none
  let d := s.draw
  let s := d.2
  let r := pictureOutput (agetD s.streams (f 2 2) {}) given (f 6 2) (f 8 2) (Config.freeNat d.1 % 8)
  match r with
  | none => .refuse .outOfRange s
  | some (i, src) =>
    let cfg : EncodeCfg := {
      source := f 2 2, codec := f 4 1, profile := f 5 1, width := f 6 2, height := f 8 2, rateNum := f 12 4, rateDen := f 10 2
      rcMode := f 16 1, target := f 20 4, max := f 56 4, vbv := f 24 4, qpMin := f 28 1, qpMax := f 29 1
      qpI := signedOf 8 (f 30 1), intraPeriod := f 32 2, references := f 17 1, sliceRows := f 31 1, output := i
      tools := if bitOf (f 34 1) 0 then f 36 4 else 0x00020407, hostBase := f 40 8, hostSize := f 48 8 }
    let s := s.modStream (f 2 2) fun _ => src
    .ok (s.modStream (f 0 2) fun st => { st with
      encode := cfg, encodeDone := true, enc := { v := cfg.vbv * 1000 / 2 } })

/-- ENCODE_CONFIGURE: its extended block is read, then checked and applied (R257, R264, Table 13.15). -/
def encodeConfigureCmd : Cmd where
  opcode := 0x0802
  extended := true

/-- ENCODE_CONFIGURE with its block read. -/
def encodeBlockCmd (bs : List Byte) : Cmd where
  opcode := 0x0802
  block := true
  fails := fun s p => encodeBlockFails s p bs
  owned := fun s p => s.sec.encoded && streamOwned s p.ring (fieldAt bs 0 2)
  legal := fun s _ => streamIn s (fieldAt bs 0 2) fun st => st.state = .declared && !st.closing
  body := fun s _ => encodeConfigured s bs

/-- ENCODE_SET_RATE (R259, R264). -/
def encodeSetRateCmd : Cmd where
  opcode := 0x0803
  named := [(0, 3), (4, 12)]
  fails := fun s p =>
    (0, kindFails s (p.u16 0) .encode) :: (12, 1000 * p.u32 12 > 4 * (agetD s.streams (p.u16 0) {}).encode.hostSize)
      :: rateFails (p.u8 2) (p.u32 4) (p.u32 8) (p.u32 12) (2, 4, 8, 12)
  owned := fun s p => streamOwned s p.ring (p.u16 0)
  legal := fun s p => streamIn s (p.u16 0) fun st => (st.state = .running || st.state = .paused) && !st.closing
  body := fun s p => .ok (s.modStream (p.u16 0) fun st => { st with
    enc := { st.enc with newRate := some (p.u8 2, p.u32 4, p.u32 8, p.u32 12) } })

/-- ENCODE_FORCE_INTRA (R259, R264). -/
def encodeForceIntraCmd : Cmd where
  opcode := 0x0804
  named := [(0, 2)]
  fails := fun s p => [(0, kindFails s (p.u16 0) .encode)]
  owned := fun s p => streamOwned s p.ring (p.u16 0)
  legal := fun s p => streamIn s (p.u16 0) fun st => (st.state = .running || st.state = .paused) && !st.closing
  body := fun s p => .ok (s.modStream (p.u16 0) fun st => { st with enc := { st.enc with forceIntra := true } })

/-! ### Rate control (R259) -/

/-- Entry i of the 256-entry table: log2(1 + i/256) to 8 fractional bits, in 1/256, rounded down or up (log entry 20). -/
def log2Entry (i : Nat) : Nat := ((256 + i) ^ 256).log2 - 2048 + b2n (decide (i ≠ 0) && Config.log2Up i)

/-- log2(a / b) in 1/256, by the exponent and the table. -/
def log2Ratio (a b : Nat) : Int :=
  let e : Int := (a.log2 : Int) - b.log2
  let up := fun (e : Int) => (a * 2 ^ (-e).toNat, b * 2 ^ e.toNat)
  let e := if (up e).2 ≤ (up e).1 then e else e - 1
  e * 256 + log2Entry (256 * (up e).1 / (up e).2 - 256)

/-- n / d rounded to the nearest integer, ties away from zero. -/
def roundAway (n : Int) (d : Nat) : Int :=
  let q : Int := ((2 * n.natAbs + d) / (2 * d) : Nat)
  if n < 0 then -q else q

/-- round(6 × log2(a / b)); a free value where the manual's quotient has no logarithm (log entry 20). -/
def State.log6 (s : State) (a b : Int) : Int × State :=
  if 0 < a && 0 < b then (roundAway (6 * log2Ratio a.toNat b.toNat) 256, s)
  else
    let d := s.draw
    (signedOf 32 (Config.freeWord d.1).toNat, d.2)

/-- rate of picture_start in bits per second. -/
def EncodeCfg.rate (e : EncodeCfg) (v : Int) : Int :=
  if e.rcMode = 1 then 1000 * e.target
  else min (1000 * (e.max : Int)) (1000 * e.target + (500 * (e.vbv : Int) - v) * e.rateNum / e.rateDen)

/-- base of picture_start. -/
def EncodeCfg.base (e : EncodeCfg) (v : Int) : Int := e.rate v * e.rateDen / e.rateNum

/-- t of picture_start. -/
def EncodeCfg.pictureTarget (e : EncodeCfg) (v : Int) (intra : Bool) : Int :=
  let base := e.base v
  clampInt (base * (if intra then 4 else 1) - (v - 500 * e.vbv) / 8) (base / 8) (1000 * e.vbv - v)

/-- The first QP of a picture type: the middle of the bounds, with QP_I for an I picture. -/
def EncodeCfg.firstQp (e : EncodeCfg) (intra : Bool) : Int := ((e.qpMin + e.qpMax) / 2 : Nat) + (if intra then e.qpI else 0)

/-- Coding-block rows of a picture: blocks of 64, or of 32 (Table 11.8). -/
def EncodeCfg.rows (e : EncodeCfg) : Nat := ceilDiv e.height (if bitsOf e.tools 6 2 = 1 then 32 else 64)

/-- A new rate set by ENCODE_SET_RATE takes effect; v is clamped to the new VBV. -/
def Stream.takeRate (st : Stream) : Stream :=
  match st.enc.newRate with
  | none => st
  | some (mode, target, most, vbv) => { st with
      encode := { st.encode with rcMode := mode, target := target, max := most, vbv := vbv }
      enc := { st.enc with newRate := none, v := min st.enc.v (1000 * vbv) } }

/-- The next picture is an I picture: the first, a forced one, one after a picture that was too large, or by INTRA_PERIOD where the
moving intra column does not replace it. -/
def Stream.nextIntra (st : Stream) : Bool :=
  st.enc.picture = 0 || st.enc.forceIntra || st.enc.retryIntra
    || (st.encode.intraPeriod ≠ 0 && !bitOf st.encode.tools 4 && st.enc.sinceIntra ≥ st.encode.intraPeriod)

/-- picture_start (R259, R261): the picture's target and QP, with the state it began from saved. -/
def State.pictureJob (s : State) (st : Stream) (n k source : Nat) (crop : List Nat) (intra recovery : Bool) : EncodeJob × State :=
  let e := st.encode
  let c := st.enc
  let job := fun (t base qp : Int) => (EncodeJob.mk n k source crop intra c.forceIntra t base qp qp 0 e.rows 0 0 [] qp false
    false false recovery c)
  if e.rcMode = 0 then
    let qp : Int := if c.retryIntra then e.qpMax else e.qpMin + (if intra then e.qpI else 0)
    (job 0 0 qp, s)
  else
    let t := e.pictureTarget c.v intra
    let last := if intra then c.qpLastI else c.qpLastP
    let bits := if intra then c.bitsLastI else c.bitsLastP
    if c.retryIntra then (job t (e.base c.v) e.qpMax, s)
    else match last with
      | none => (job t (e.base c.v) (e.firstQp intra), s)
      | some q =>
        let r := s.log6 bits t
        (job t (e.base c.v) (clampInt (q + clampInt r.1 (-4) 4) e.qpMin e.qpMax), r.2)

/-- ENCODE_PICTURE_START (R257 to R259): the picture of a source sample begins, as a sample of the encode stream. -/
def State.encodeStart (s : State) (c n k : Nat) : State :=
  match aget s.streams n, aget s.samples k with
  | some st, some m => match aget s.streams m.stream with
    | none => s
    | some src =>
      if !s.slotOpen m || st.kind ≠ .encode || st.state ≠ .running || st.closing || st.encode.source ≠ m.stream
          || !s.sec.encoded || (s.codecs.getD c {}).encoding.isSome || m.encoded.contains n then s
      else match sourceCrop src m st.encode.output with
        | none => s
        | some crop => match s.allocFrame st.group none (frameBuffers st.encode.width st.encode.height 1) with
          | none => s
          | some (names, t) =>
            let t := t.modStream n Stream.takeRate
            let st := agetD t.streams n st
            let id := t.sampleOrder
            let t := t.addSample n m.capture 0 none names
            let t := t.modSample id fun x => { x with assigned := m.assigned, planned := true }
            let t := t.countStream n fun x => { x with planned := x.planned + 1 }
            let t := t.modSample k fun x => { x with encoded := n :: x.encoded }
            let read := (m.outputs.filter fun o => o.1 = st.encode.output).map fun o => o.2.1
            let t := read.foldl (fun (u : State) w => u.addReader w (ownerId (.chain id))) t
            let r := t.pictureJob st n id k crop st.nextIntra false
            (r.2.modStream n fun x => { x with enc := { x.enc with forceIntra := false } }).modCodec c fun x => { x with
              encoding := some r.1 }
  | _, _ => s

/-- after_row (R259): the QP of the next row. -/
def State.rowQp (s : State) (e : EncodeCfg) (j : EncodeJob) : Int × State :=
  let prev := if j.intra then j.saved.rowShareI else j.saved.rowShareP
  let done := j.row
  let total := sumNat prev
  let expected := if prev.isEmpty || total = 0 then j.target * done / j.rows else j.target * sumNat (prev.take done) / total
  let r := s.log6 j.bits expected
  (clampInt (j.qp + r.1) (max e.qpMin (j.qp - 3)) (min e.qpMax (j.qp + 3)), r.2)

/-- ENCODE_ROW_COMPLETE (R259, R261). -/
def State.encodeRow (s : State) (c bits bytes bound : Nat) : State :=
  match (s.codecs.getD c {}).encoding with
  | none => s
  | some j => match aget s.streams j.stream with
    | none => s
    | some st =>
      if j.row ≥ j.rows || j.stopped then s
      else
        let e := st.encode
        let j := { j with
          row := j.row + 1, bits := j.bits + bits, bytes := j.bytes + bytes, rowBits := j.rowBits ++ [bits] }
        let full := e.rcMode ≠ 0 && (1000 * e.vbv : Int) - j.saved.v ≤ j.bits
        let near := 2 * (j.bytes + bound * (j.rows - j.row)) > e.hostSize && j.row < j.rows
        let stopped := if j.row < j.rows then 2 * j.bytes ≥ e.hostSize else 2 * j.bytes > e.hostSize
        let r := if e.rcMode = 0 || j.saved.retryIntra || j.row = j.rows then (j.qpRow, s) else s.rowQp e j
        let skip := j.skipRest || full || near
        let last := decide (j.row = j.rows)
        let j := { j with
          skipRest := skip, stopped := stopped, qpRow := if last then j.qpRow else if skip then e.qpMax else r.1 }
        r.2.modCodec c fun x => { x with encoding := some j }

/-- The body of an ENCODED record (Table 11.9). -/
def encodedBody (j : EncodeJob) (length offset : Nat) (overrun tooLarge : Bool) (v : Int) (source picture : Nat) : List Byte :=
  leBytes 4 0 ++ leBytes 4 length ++ leBytes 8 offset ++ leBytes 4 (unsignedOf 32 j.target)
    ++ leBytes 1 (unsignedOf 8 j.qpFirst) ++ leBytes 1 (unsignedOf 8 j.qpRow) ++ leBytes 1 (b2n (!j.intra))
    ++ leBytes 1 (b2n j.forced + 2 * b2n overrun + 4 * b2n j.recovery + 8 * b2n tooLarge) ++ leBytes 4 (unsignedOf 32 v)
    ++ leBytes 4 source ++ leBytes 8 picture ++ (j.crop.map (leBytes 2)).flatten

/-- The reconstruction joins the stream's reference pictures; those beyond REFERENCES return to the Wardrobe (R258). -/
def State.keepRecon (s : State) (n k references : Nat) : State :=
  match aget s.samples k with
  | none => s
  | some m =>
    let s := s.modSample k fun x => { x with buffers := [] }
    let d := s.draw
    let s := m.buffers.foldl (fun (t : State) w =>
      t.writeMem true (bufAddr w) (pixelBytes d.1 (match t.locate true (bufAddr w) with
        | some (p, _, _) => t.poolBytes p
        | none => 0) 1)) d.2
    let all := (agetD s.streams n {}).frames ++ [{ buffers := m.buffers, marks := 1, damaged := false }]
    let old := all.take (all.length - references)
    let s := old.foldl (fun (t : State) f => f.buffers.foldl (fun (u : State) w => u.freeName w) t) s
    s.modStream n fun x => { x with frames := all.drop (all.length - references) }

/-- The counts of an encode stream after a picture. -/
def EncodeState.next (c : EncodeState) (intra : Bool) : EncodeState :=
  { c with picture := c.picture + 1, sinceIntra := if intra then 1 else c.sinceIntra + 1 }

/-- picture_end of a picture within the limit (R259, R260). -/
def EncodeState.finish (c : EncodeState) (e : EncodeCfg) (j : EncodeJob) (offset : Nat) : EncodeState :=
  let v := max 0 (c.v + j.bits - j.base)
  let v := if e.rcMode = 0 then c.v else min v (1000 * e.vbv)
  let c := { (c.next j.intra) with v := v, retryIntra := false, hostOffset := offset + j.bytes }
  if e.rcMode = 0 then c
  else if j.intra then { c with qpLastI := some j.qp, bitsLastI := j.bits, rowShareI := j.rowBits }
  else { c with qpLastP := some j.qp, bitsLastP := j.bits, rowShareP := j.rowBits }

/-- ENCODE_PICTURE_END (R259 to R261): the picture is written to the host ring and its record queued, or it was too large. -/
def State.encodeEnd (s : State) (c : Nat) : State :=
  match (s.codecs.getD c {}).encoding with
  | none => s
  | some j => match aget s.streams j.stream with
    | none => s
    | some st =>
      let e := st.encode
      if j.row < j.rows && !j.stopped then s
      else
        let s := s.modCodec c fun x => { x with encoding := none }
        let s :=
          if j.stopped then
            let c' := { (st.enc.next j.intra) with v := 1000 * e.vbv, retryIntra := true }
            let body := encodedBody j 0 st.enc.hostOffset false true c'.v e.source st.enc.picture
            let s := (s.modStream j.stream fun x => { x with enc := c' }).modCodec c fun x => { x with rcOverrun := x.rcOverrun.inc }
            s.modSample j.sample fun m => (m.reach ⟨.degraded, 0x65⟩).queueRecords [(0x05, body)] true
          else
            let excess := e.rcMode ≠ 0 && (1000 * e.vbv : Int) < st.enc.v + j.bits - j.base
            let offset := if st.enc.hostOffset + j.bytes ≤ e.hostSize then st.enc.hostOffset else 0
            let c' := st.enc.finish e j offset
            let body := encodedBody j j.bytes offset excess false c'.v e.source st.enc.picture
            let d := s.draw
            let s := { d.2 with outputs := .hostBytes (e.hostBase + offset) (pixelBytes d.1 j.bytes 1) :: d.2.outputs }
            let s := (s.wakeLink).keepRecon j.stream j.sample e.references
            let s := (s.modStream j.stream fun x => { x with enc := c' }).modCodec c fun x => { x with
              picturesEncoded := x.picturesEncoded.inc, rcOverrun := if excess then x.rcOverrun.inc else x.rcOverrun }
            s.modSample j.sample fun m => m.queueRecords [(0x05, body)] true
        if !s.sec.encoded && st.state = .running then s.pauseStream j.stream .sealed else s

/-- REENCODE (R262): the picture is encoded again from its start, as an I picture when a reference was lost; a second failure in the
repetition is persistent. -/
def State.reencode (s : State) (c : Nat) (referenceLost : Bool) : State :=
  match (s.codecs.getD c {}).encoding with
  | none => s
  | some j => match aget s.streams j.stream with
    | none => s
    | some st =>
      let s := if referenceLost then s.modCodec c fun x => { x with refErrors := x.refErrors.inc } else s
      let x := s.codecs.getD c {}
      let r := recordRepeat s.ms x.encodeRepeats
      if j.repeated || r.2 then s.enterFaulted clsCodec (2 * c + 1)
      else
        let st := { st with enc := j.saved }
        let q := if referenceLost then s.pictureJob st j.stream j.sample j.source j.crop true true
          else (EncodeJob.mk j.stream j.sample j.source j.crop j.intra j.forced j.target j.base j.qp j.qp 0 j.rows 0 0 []
            j.qp false false false j.recovery j.saved, s)
        let cost := ceilDiv (st.encode.width * st.encode.height) 4
        let s := q.2.modCodec c fun x => { x with
          encoding := some { q.1 with repeated := true, forced := j.forced }, reencodes := x.reencodes.inc, encodeRepeats := r.1 }
        s.repeatUnit (.chain j.sample) 0x09 cost clsCodec (2 * c + 1)

/-! ### The commands -/

/-- DECODE_CONFIGURE. -/
def execDecodeConfigure (dt : Nat) (p : Packet) (s : State) : Host.Outcome State Fault Refusal :=
  .next ((s.advance dt).accept decodeConfigureCmd p)

/-- ENCODE_CONFIGURE. -/
def execEncodeConfigure (dt : Nat) (p : Packet) (s : State) : Host.Outcome State Fault Refusal :=
  .next ((s.advance dt).accept encodeConfigureCmd p)

/-- ENCODE_SET_RATE. -/
def execEncodeSetRate (dt : Nat) (p : Packet) (s : State) : Host.Outcome State Fault Refusal :=
  .next ((s.advance dt).accept encodeSetRateCmd p)

/-- ENCODE_FORCE_INTRA. -/
def execEncodeForceIntra (dt : Nat) (p : Packet) (s : State) : Host.Outcome State Fault Refusal :=
  .next ((s.advance dt).accept encodeForceIntraCmd p)

/-- DECODE_REFRESH. -/
def execDecodeRefresh (dt : Nat) (p : Packet) (s : State) : Host.Outcome State Fault Refusal :=
  .next ((s.advance dt).accept decodeRefreshCmd p)

/-- CODEC_TEST. -/
def execCodecTest (dt : Nat) (p : Packet) (s : State) : Host.Outcome State Fault Refusal :=
  .next ((s.advance dt).accept codecTestCmd p)

/-- CODEC_TEST_COMPLETE: after 2.4 ms. -/
def execCodecTestComplete (dt id : Nat) (wrong : Bool) (s : State) : Host.Outcome State Fault Refusal :=
  .next ((s.advance dt).testDone id .codec 2400000 wrong fun _ t => t)

/-- DECODE_START. -/
def execDecodeStart (dt cluster sample : Nat) (facts : AuFacts) (s : State) : Host.Outcome State Fault Refusal :=
  .next ((s.advance dt).decodeStart cluster sample facts)

/-- STRIP_COMPLETE. -/
def execStripComplete (dt cluster concealed : Nat) (cause : ConcealCause) (buffer : Word64) (s : State) :
    Host.Outcome State Fault Refusal :=
  let s := s.advance dt
  .next (if s.computing then s.stripDone cluster concealed cause buffer.toNat else s)

/-- STRIP_REBUILD. -/
def execStripRebuild (dt cluster strip : Nat) (s : State) : Host.Outcome State Fault Refusal :=
  let s := s.advance dt
  .next (if s.computing then s.stripRebuild cluster strip else s)

/-- ENCODE_PICTURE_START. -/
def execEncodePictureStart (dt cluster stream sample : Nat) (s : State) : Host.Outcome State Fault Refusal :=
  .next ((s.advance dt).encodeStart cluster stream sample)

/-- ENCODE_ROW_COMPLETE. -/
def execEncodeRowComplete (dt cluster bits bytes rowBound : Nat) (s : State) : Host.Outcome State Fault Refusal :=
  let s := s.advance dt
  .next (if s.computing then s.encodeRow cluster bits bytes rowBound else s)

/-- ENCODE_PICTURE_END. -/
def execEncodePictureEnd (dt cluster : Nat) (s : State) : Host.Outcome State Fault Refusal :=
  let s := s.advance dt
  .next (if s.computing then s.encodeEnd cluster else s)

/-- REENCODE. -/
def execReencode (dt cluster : Nat) (referenceLost : Bool) (s : State) : Host.Outcome State Fault Refusal :=
  let s := s.advance dt
  .next (if s.computing then s.reencode cluster referenceLost else s)

end Sys2Proof.Machine
end

