-- ==== Sys2Proof/Machine/Forming.lean ====
section
/-! DEFINITION. Forming and dissolving a cascade (R366 to R368, R374), link training (R349, R355), LINK flits and time (R363), and
LINK_TEST.  What a COMMAND of formation carries beside its header is the model's own layout (log entry 25). -/

namespace Sys2Proof.Machine

open Sys2Proof

/-! ### Lone again -/

/-- The device is a lone device: cascade membership ends, retained copies return, the ports stay as they are (R367, R374). -/
def State.becomeLone (s : State) : State :=
  let s := s.ewl.retained.foldl (fun (t : State) r => t.releaseName r.copy) s
  let e := s.ewl
  let fresh : Ewl := {
    ports := e.ports, excursions := e.excursions, handoffSent := e.handoffSent, handoffReceived := e.handoffReceived
    handoffResent := e.handoffResent, heartbeatLate := e.heartbeatLate, badMessages := e.badMessages, syncOffset := e.syncOffset
    headless := e.headless }
  let c := s.cue
  let c := if c.source = .link then { c with source := CueSource.internal, linkEdgeAt := none } else { c with linkEdgeAt := none }
  ({ s with ewl := fresh, cue := c }).playbillDue

/-- Commands in flight that wait for formation. -/
def State.formWaiters (s : State) : List Nat :=
  (s.inflight.filter fun e => match e.2.work with
    | .cascadeForm _ _ _ => true
    | _ => false).map (·.1)

/-- Formation fails on this device with a status (R367). -/
def State.formFails (s : State) (st : Status) : State :=
  s.formWaiters.foldl (fun (t : State) id => t.finish id ⟨st, 0⟩ 0) s.becomeLone

/-! ### Formation -/

/-- MEMBERS as this device was given it; none for a headless device. -/
def State.formMembers (s : State) : Option Nat :=
  (s.inflight.findSome? fun e => match e.2.work with
    | .cascadeForm n _ _ => some n
    | _ => none)

/-- Members of the formation in ascending IDENTITY. -/
def insertIdentity (e : Nat × Nat × Bool) : List (Nat × Nat × Bool) → List (Nat × Nat × Bool)
  | [] => [e]
  | d :: l => if e.1 < d.1 then e :: d :: l else if e.1 = d.1 then e :: l else d :: insertIdentity e l

/-- A HELLO's header (R366). -/
def State.helloHeader (s : State) : Msg := s.header 0x0C 0 0 0 0 17 false

/-- A HELLO's data. -/
def helloBytes (e : Nat × Nat × Bool) : List Byte := leBytes 8 e.1 ++ leBytes 8 e.2.1 ++ leBytes 1 (b2n e.2.2)

/-- What this device knows of a formation is told on a port that has come UP. -/
def State.greet (s : State) (port : Nat) : State :=
  s.ewl.formIdentities.foldl (fun (t : State) e => t.putMessage port t.helloHeader (helloBytes e)) s

/-- The stage manager of a formation: the lowest IDENTITY among those that issued CASCADE_FORM. -/
def State.formRoot (s : State) : Option Nat := (s.ewl.formIdentities.find? fun e => e.2.2).map (·.1)

/-- The COMMAND that assigns a member its number; it carries the member's IDENTITY, since its number is new to it. -/
def assignBytes (identity member members : Nat) (deputy : Option Nat) : List Byte :=
  [1] ++ leBytes 8 identity ++ leBytes 1 member ++ leBytes 1 members ++ leBytes 1 (deputy.getD 255)

/-- The stage manager assigns member numbers in ascending IDENTITY, itself 0, names the deputy, and tells every member (R366). -/
def State.assignMembers (s : State) : State :=
  let others := s.ewl.formIdentities.filter fun e => e.1 ≠ Config.identity
  let numbered := (upto others.length).zip others
  let deputy : Option Nat := (numbered.find? fun e => e.2.2.2).map fun e => e.1 + 1
  let now := s.time.elapsed
  let table := (0, ({ identity := Config.identity, issued := true, steady := true, lastHeartbeat := now } : Member)) ::
    numbered.map fun e => (e.1 + 1, ({ identity := e.2.1, issued := e.2.2.2, lastHeartbeat := now } : Member))
  let s := { s with ewl := { s.ewl with
    role := 1, member := 0, members := others.length + 1, manager := 0, table := table, deputy := deputy, assigned := true } }
  numbered.foldl (fun (t : State) e =>
    t.flood (t.header 0x06 (e.1 + 1) 0 0 0 12 false)
      (assignBytes e.2.1 (e.1 + 1) (others.length + 1) deputy)) s

/-- A device known of is added to the formation: too many, or another MEMBERS, ends it; when all are known the stage manager assigns
(R366, R367). -/
def State.meet (s : State) (e : Nat × Nat × Bool) : State :=
  let l := insertIdentity e s.ewl.formIdentities
  let s := { s with ewl := { s.ewl with formIdentities := l } }
  match s.formMembers with
  | none => s
  | some n =>
    if n < l.length || l.any fun x => x.2.2 && x.2.1 ≠ n then s.formFails .noResource
    else if l.length = n && s.formRoot = some Config.identity && !s.ewl.assigned then s.assignMembers
    else s

/-- This device enters FORMING and floods its own HELLO. -/
def State.beginForming (s : State) (members : Nat) (issued : Bool) : State :=
  let e := (Config.identity, members, issued)
  let s := { s with ewl := { s.ewl with cascade := CascadeState.forming, formAt := s.time.elapsed, formIdentities := [] } }
  let s := s.flood s.helloHeader (helloBytes e)
  s.meet e

/-- CASCADE_FORM (R366, R367). -/
def cascadeFormCmd : Cmd where
  opcode := 0x0A01
  admin := true
  states := [.standby]
  named := [(0, 2)]
  fails := fun _ p => [(0, p.u8 0 < 2 || 16 < p.u8 0), (1, p.u8 1 = 0)]
  legal := fun s _ => s.ewl.cascade = .none_
  body := fun s p =>
    .wait (.cascadeForm (p.u8 0) (p.u8 1) s.time.elapsed) ((s.enablePorts (p.u8 1)).beginForming (p.u8 0) true)

/-- HELLO (R366): forwarded once on every UP port while its TTL lasts; a headless device joins the first formation that reaches it. -/
def State.helloReceived (s : State) (m : Msg) (identity members : Nat) (issued : Bool) : State :=
  if m.kind ≠ 0x0C || 65536 < m.length then
    { s with ewl := { s.ewl with badMessages := s.ewl.badMessages.inc } }
  else
    let s := if s.ewl.cascade = .none_ && s.ewl.headless && s.host.state = .standby then s.beginForming members false else s
    if s.ewl.cascade ≠ .forming || s.ewl.formIdentities.any fun e => e.1 = identity then s
    else
      let s := if m.ttl = 0 then s
        else s.flood { m with ttl := m.ttl - 1 } (helloBytes (identity, members, issued))
      -- a device that has begun later learns here of those it has missed
      let s := s.upPorts.foldl (fun (t : State) n => t.greet n) s
      s.meet (identity, members, issued)

/-- The cascade enters PLAYING on this device (R366, R367): logged, told in the Playbill, CASCADE_FORM completes; the members' edges come
from the grid of the stage manager. -/
def State.enterPlaying (s : State) (resilient : Bool) : State :=
  let now := s.time.elapsed
  let e := { s.ewl with
    cascade := CascadeState.playing, resilient := resilient, managerHeard := now, lastHeartbeatSent := now
    table := s.ewl.table.map fun (x : Nat × Member) => (x.1, { x.2 with lastHeartbeat := now }) }
  let s := { s with ewl := e, cue := if e.role = 1 then s.cue else { s.cue with source := .link } }
  let s := (s.appendLog 0x0C 0 0 (e.member + 16 * e.role) 0).playbillDue
  s.formWaiters.foldl (fun (t : State) id => t.finish id ⟨.done, 0⟩ (e.member + 16 * b2n resilient)) s

/-- A member has held its offset (R366): it has said so, or the exchanges on its direct link show it. -/
def State.memberSteady (s : State) (m : Nat) : Bool :=
  (s.ewl.table.any fun e => e.1 = m && e.2.steady) || s.upPorts.any fun n => (s.ewPort n).peerMember = m && 64 ≤ (s.ewPort n).good

/-- The grid as a CUE message (R363). -/
def State.gridBytes (s : State) : List Byte := leBytes 8 s.cue.epoch ++ leBytes 4 s.cue.period ++ leBytes 8 s.cueNow

/-- FORMATION_COMPLETE (R366) at the stage manager: whether the cascade is resilient is a fact of the topology, which HELLO messages
tell the firmware. -/
def State.formComplete (s : State) : State :=
  if s.ewl.cascade = .forming && s.ewl.role = 1 && (upto s.ewl.members).all s.memberSteady then
    let d := s.draw
    let resilient := bitOf (Config.freeNat d.1) 0
    let s := d.2.enterPlaying resilient
    (s.tellMembers 0x06 [2, BitVec.ofNat 8 (b2n resilient)]).tellMembers 0x0B s.gridBytes
  else s

/-- FORMATION_TIMEOUT (R367). -/
def State.formTimeout (s : State) : State :=
  if s.ewl.cascade = .forming && s.ewl.formAt + 1000000000 ≤ s.time.elapsed then s.formFails .timeout else s

/-- CASCADE_DISSOLVE (R368, R374). -/
def cascadeDissolveCmd : Cmd where
  opcode := 0x0A02
  admin := true
  states := [.standby]
  legal := fun s _ =>
    s.ewl.cascade = .broken || (s.ewl.role = 1 && s.ewl.cascade = .playing)
  body := fun s _ => .ok ((if s.ewl.role = 1 then s.tellAll 0x06 [5] else s).becomeLone)

/-! ### Links -/

/-- A port's link after a full training: sequence numbers and credits start anew, what waits is sent on it. -/
def EwPort.trainedWith (p : EwPort) (now member port : Nat) : EwPort :=
  { p with
    peerMember := member, peerPort := port, nextSeq := 0, expectSeq := 0, lastGood := 4095, nak := false, replay := []
    replayCount := 0, nakFor := none, sentFlits := [0, 0, 0], peerFreed := [0, 0, 0], freed := [0, 0, 0], good := 0
    lastValid := now, lastT1 := 0, lastReceive := 0 }

/-- EWL_TRAINING_COMPLETE (R349, R355): the port is UP when all eight lanes of both directions are trained, and DOWN otherwise. -/
def State.portTrained (s : State) (n : Nat) (lanesOk : Bool) (peerMember peerPort : Nat) : State :=
  if (s.ewPort n).state ≠ .training then s
  else if !lanesOk then s.portDown n
  else
    let now := s.time.elapsed
    let s := (s.portMoves n .up).modEw n fun p => (p.trainedWith now peerMember peerPort).run now
    if s.ewl.cascade = .forming then s.greet n else s

/-- The one-way delay and this device's offset from its peer, from one exchange of LINK flits (R363): t1 and the receive time of the
flit that has come, and echo and t4 of the one sent before. -/
def linkExchange (t1 received echo t4 : Nat) : Nat × Int :=
  let out : Int := (t4 : Int) - echo
  let back : Int := (received : Int) - t1
  (((out + back) / 2).toNat % 2 ^ 32, (back - out).tdiv 2)

/-- Device time steered to the time parent (R46, R363): the offset is slewed out; the rate correction is firmware's choice within
100 ppm. -/
def State.steer (s : State) (offset : Int) : State :=
  let d := s.draw
  let rate : Int := (Config.freeNat d.1 % 13107201 : Nat) - 6553600
  { d.2 with time := { s.time with
      rateAdj := rate, slewRemain := if offset = 0 then s.time.slewRemain else -offset
      slewFrac := if offset = 0 then s.time.slewFrac else 0 } }

/-- The offset to the time parent, its count, and the correction (R363). -/
def State.followParent (s : State) (offset : Int) : State :=
  let far := decide (20 < offset.natAbs)
  let s := { s with ewl := { s.ewl with
    syncOffset := offset, excursions := if far then s.ewl.excursions.inc else s.ewl.excursions
    goodExchanges := if far then 0 else s.ewl.goodExchanges + 1 } }
  let s := s.steer offset
  if s.ewl.cascade = .forming && s.ewl.goodExchanges = 64 then s.send 0x07 s.ewl.manager 0 0 0 false [1] else s

/-- EWL_LINK_FLIT (R363): timestamps are exchanged; a member follows its time parent; the stage manager sees formation complete. -/
def State.linkFlit (s : State) (n t1 echo t4 member peerPort : Nat) : State :=
  if (s.ewPort n).state ≠ .up then s
  else
    let x := linkExchange t1 s.now echo t4
    let first := decide (echo = 0)
    let s := s.modEw n fun p => { p with
      peerMember := member, peerPort := peerPort, lastT1 := t1, lastReceive := s.now, lastValid := s.time.elapsed
      delay := if first then p.delay else x.1
      good := if first then p.good else if x.2.natAbs ≤ 20 then p.good + 1 else 0 }
    if first then s
    else if s.ewl.role ≠ 1 && s.ewl.assigned && s.ewl.timePort = n then s.followParent x.2
    else s.formComplete

/-! ### LINK_TEST -/

/-- LINK_TEST (R374). -/
def linkTestCmd : Cmd where
  opcode := 0x0A03
  admin := true
  states := [.standby]
  target := .kind .euwaldPort
  legal := fun s p => s.ewl.cascade = .none_ || (s.ewPort (targetUnit s p)).state = .disabled
  body := fun s p => .wait (.linkTest (targetUnit s p) s.time.elapsed) s

/-- LINK_TEST_COMPLETE (R374): after 10 ms of PRBS31, corrected symbols and uncorrectable codewords. -/
def State.linkTested (s : State) (id corrected uncorrectable : Nat) : State :=
  match aget s.inflight id with
  | some f => match f.work with
    | .linkTest _ since =>
      if s.time.elapsed < since + 10000000 then s
      else s.finish id ⟨.done, 0⟩ (min corrected (2 ^ 32 - 1) + 2 ^ 32 * min uncorrectable 65535)
    | _ => s
  | none => s

/-! ### The commands -/

/-- CASCADE_FORM. -/
def execCascadeForm (dt : Nat) (p : Packet) (s : State) : Host.Outcome State Fault Refusal :=
  .next ((s.advance dt).accept cascadeFormCmd p)

/-- CASCADE_DISSOLVE. -/
def execCascadeDissolve (dt : Nat) (p : Packet) (s : State) : Host.Outcome State Fault Refusal :=
  .next ((s.advance dt).accept cascadeDissolveCmd p)

/-- LINK_TEST. -/
def execLinkTest (dt : Nat) (p : Packet) (s : State) : Host.Outcome State Fault Refusal :=
  .next ((s.advance dt).accept linkTestCmd p)

/-- LINK_TEST_COMPLETE. -/
def execLinkTestComplete (dt id corrected uncorrectable : Nat) (s : State) : Host.Outcome State Fault Refusal :=
  .next ((s.advance dt).linkTested id corrected uncorrectable)

/-- EWL_LINK_FLIT. -/
def execEwlLinkFlit (dt port t1 echo t4 member peerPort : Nat) (s : State) : Host.Outcome State Fault Refusal :=
  .next ((s.advance dt).linkFlit port t1 echo t4 member peerPort)

/-- EWL_TRAINING_COMPLETE. -/
def execEwlTrainingComplete (dt port : Nat) (lanesOk : Bool) (peerMember peerPort : Nat) (s : State) :
    Host.Outcome State Fault Refusal :=
  .next ((s.advance dt).portTrained port lanesOk peerMember peerPort)

/-- HELLO. -/
def execHello (dt : Nat) (m : Msg) (identity members : Nat) (issued : Bool) (s : State) : Host.Outcome State Fault Refusal :=
  .next ((s.advance dt).helloReceived m identity members issued)

/-- FORMATION_TIMEOUT. -/
def execFormationTimeout (dt : Nat) (s : State) : Host.Outcome State Fault Refusal := .next (s.advance dt).formTimeout

end Sys2Proof.Machine
end

