-- ==== Sys2Proof/Machine/Observe.lean ====
section
/-! DEFINITION. Observation: the trace mask (R433), counter snapshots (R436 to R439) and their window in BAR4, the management port (R468
to R472) and the test access port (R442); and the planned DMA transfers (R381). -/

namespace Sys2Proof.Machine

open Sys2Proof

/-! ### Trace and snapshots -/

/-- TRACE_SET (R433): the mask is replaced; bit 0 has no effect. -/
def traceSetCmd : Cmd where
  opcode := 0x0C01
  admin := true
  states := [.standby, .service, .draining]
  named := [(0, 8)]
  fails := fun _ p => [(0, 2 ^ 14 ≤ p.u64 0)]
  body := fun s p => .ok { s with obs := { s.obs with mask := p.u64 0 } }

/-- COUNTERS_SNAPSHOT (R437, R439): a snapshot at acceptance, or the next edge's when it comes within 1 µs or the device is a cascade's
stage manager. -/
def countersSnapshotCmd : Cmd where
  opcode := 0x0C02
  states := [.standby, .service, .draining]
  body := fun s _ =>
    let soon := s.cue.byPeriod && s.cue.nextEdge ≤ s.now + 1000
    .wait .snapshot (if soon || s.stageManager then s else s.takeSnapshot [s.nextId])

/-- SNAPSHOT_PUBLISHED (R437): the oldest snapshot taken stands in BAR4 under an even GENERATION, and the commands it serves complete;
one that waited behind it is published next. -/
def State.snapshotPublished (s : State) : State :=
  if !s.live then s
  else match s.obs.snapshots with
    | [] => s
    | x :: rest =>
      let g := (s.obs.generation + 1) % 2 ^ 32
      let s := { s with obs := { s.obs with snapshot := x, snapshots := rest, generation := g } }
      let s := x.commands.foldl (fun (t : State) id => t.finish id ⟨.done, 0⟩ g) s
      if rest.isEmpty then s else { s with obs := { s.obs with generation := (g + 1) % 2 ^ 32 } }

/-- The snapshot region (R438): header and entries of this device. -/
def State.snapshotRegion (s : State) : List Byte :=
  let x := s.obs.snapshot
  leBytes 4 s.obs.generation ++ leBytes 4 x.totals.length ++ leBytes 8 x.time ++ leBytes 8 x.cue ++ List.replicate 40 0
    ++ x.totals.flatMap fun e =>
      leBytes 1 s.playbill.view.member ++ leBytes 1 e.1 ++ leBytes 2 0 ++ leBytes 4 e.2.1 ++ leBytes 8 e.2.2

/-- The trace ring's bytes of slot k (R431); a slot not yet written reads as 0. -/
def State.traceSlot (s : State) (k : Nat) : List Byte :=
  match s.obs.ring.find? fun r => r.sequence % 262144 = k with
  | some r => r.bytes
  | none => List.replicate 32 0

/-- n bytes of a function's BAR4 (R27, R431, R438, R439, Table 14.3). -/
def State.readBar4 (s : State) (fn offset n : Nat) : List Byte :=
  if offset < 0x400000 then
    let bs := s.playbillImage fn
    (upto n).map fun i => bs.getD (offset + i) 0
  else if fn ≠ 0 then List.replicate n 0
  else if offset < 0x800000 then
    let bs := s.snapshotRegion
    (upto n).map fun i => bs.getD (offset - 0x400000 + i) 0
  else (upto n).map fun i => (s.traceSlot ((offset - 0x800000 + i) / 32)).getD ((offset + i) % 32) 0

/-! ### The management port -/

/-- A byte of the management space (Table 21.8). -/
def State.mgmtByte (s : State) (a : Nat) : Byte := BitVec.ofNat 8 (mgmtWord s (a / 4 * 4) / 256 ^ (a % 4))

/-- The RC fields a management read clears: the cause bits with byte 0x012, a counter with any byte of it (R469, R472). -/
def State.mgmtClear (s : State) (a : Nat) : State :=
  if a = 0x12 then { s with mgmt := { s.mgmt with crossed := false, stepped := false, tripped := false } }
  else { s with mgmt := lensClear mgmtCounters (a / 4 * 4) s.mgmt }

/-- MGMT_READ (R469): 1 to 32 bytes from POINTER as they stand at its first byte; POINTER advances. -/
def State.mgmtReads (s : State) (count : Nat) : State :=
  if count = 0 || 32 < count then { s with mgmt := { s.mgmt with refused := s.mgmt.refused.inc } }
  else
    let p := s.mgmt.pointer
    let addresses := (upto count).map fun i => (p + i) % 65536
    let bytes := addresses.map s.mgmtByte
    let s := addresses.foldl (fun (t : State) a => t.mgmtClear a) s
    { s with mgmt := { s.mgmt with pointer := (p + count) % 65536, lastRead := bytes } }

/-- MGMT_POINTER_WRITE (R469): discarded and counted on a wrong PEC. -/
def State.mgmtPoints (s : State) (pointer : Nat) (pecOk : Bool) : State :=
  if pecOk then { s with mgmt := { s.mgmt with pointer := pointer % 65536 } }
  else { s with mgmt := { s.mgmt with pecErrors := s.mgmt.pecErrors.inc } }

/-- ALERT_N is asserted (R472). -/
def State.alert (s : State) : Bool := s.mgmt.crossed || s.mgmt.stepped || s.mgmt.tripped

/-- The port answers a dynamic-address assignment: SETDASA names the static address, ENTDAA the Provisional ID (R468). -/
def State.assignAddress (s : State) (address : Nat) : State :=
  { s with mgmt := { s.mgmt with dynamicAddress := some (address % 128) } }

/-! ### The test access port -/

/-- COLD_RST_N is asserted. -/
def State.coldAsserted (s : State) : Bool := s.host.bootStep = 0 && s.pwr.resetCauses.contains 2

/-- TAP_INSTRUCTION (R442): a refused one acts as BYPASS and is counted. -/
def State.tapLoads (s : State) (i : TapInstruction) : State :=
  if tapDrives i && !s.coldAsserted then
    { s with tap := .bypass, obs := { s.obs with bscanRefused := s.obs.bscanRefused.inc } }
  else { s with tap := i }

/-- What IDCODE reads (R442). -/
def tapIdcode : Nat := if Config.steppingB0 then 0x1A080F53 else 0x0A080F53

/-! ### Planned transfers -/

/-- DMA_TRANSFER_COMPLETE (R22, R76, R381): the bytes stand at the destination, which is sealed when the source was, and its range is
signalled complete. -/
def State.dmaDone (s : State) (src dst n : Nat) : State :=
  if !s.live then s
  else
    let bytes := s.readMem (bufDram src) (bufAddr src) n
    let sealed : Bool := match s.heldBuf src with
      | some b => b.sealed
      | none => false
    let s := s.writeMem (bufDram dst) (bufAddr dst) bytes
    let s := match s.locate (bufDram dst) (bufAddr dst) with
      | some (p, k, _) => s.modBuf p k fun b => { b with sealed := b.sealed || sealed }
      | none => s
    if bufDram dst then s else s.signalRange (bufAddr dst) n

/-! ### The commands -/

/-- TRACE_SET. -/
def execTraceSet (dt : Nat) (p : Packet) (s : State) : Host.Outcome State Fault Refusal :=
  .next ((s.advance dt).accept traceSetCmd p)

/-- COUNTERS_SNAPSHOT. -/
def execCountersSnapshot (dt : Nat) (p : Packet) (s : State) : Host.Outcome State Fault Refusal :=
  .next ((s.advance dt).accept countersSnapshotCmd p)

/-- SNAPSHOT_PUBLISHED. -/
def execSnapshotPublished (dt : Nat) (s : State) : Host.Outcome State Fault Refusal := .next (s.advance dt).snapshotPublished

/-- MGMT_POINTER_WRITE. -/
def execMgmtPointerWrite (dt pointer : Nat) (pecOk : Bool) (s : State) : Host.Outcome State Fault Refusal :=
  .next ((s.advance dt).mgmtPoints pointer pecOk)

/-- MGMT_READ. -/
def execMgmtRead (dt count : Nat) (s : State) : Host.Outcome State Fault Refusal := .next ((s.advance dt).mgmtReads count)

/-- MGMT_TIMEOUT (R470): POINTER keeps its value. -/
def execMgmtTimeout (dt : Nat) (s : State) : Host.Outcome State Fault Refusal :=
  let s := s.advance dt
  .next { s with mgmt := { s.mgmt with timeouts := s.mgmt.timeouts.inc } }

/-- MGMT_REFUSED (R469). -/
def execMgmtRefused (dt : Nat) (s : State) : Host.Outcome State Fault Refusal :=
  let s := s.advance dt
  .next { s with mgmt := { s.mgmt with refused := s.mgmt.refused.inc } }

/-- TAP_INSTRUCTION. -/
def execTapInstruction (dt : Nat) (i : TapInstruction) (s : State) : Host.Outcome State Fault Refusal :=
  .next ((s.advance dt).tapLoads i)

/-- DMA_TRANSFER_COMPLETE. -/
def execDmaTransferComplete (dt : Nat) (src dst : Word64) (length : Nat) (s : State) : Host.Outcome State Fault Refusal :=
  .next ((s.advance dt).dmaDone src.toNat dst.toNat length)

/-- I3C_DYNAMIC_ADDRESS: by SETDASA or by ENTDAA alike. -/
def execI3cDynamicAddress (dt address : Nat) (_setdasa : Bool) (s : State) : Host.Outcome State Fault Refusal :=
  .next ((s.advance dt).assignAddress address)

end Sys2Proof.Machine
end

