-- ==== Sys2Proof/Machine/Ingest.lean ====
section
/-! DEFINITION. Ingest: the commands of class 0x09 (R272, R295, R324), the CSI-2 ports (R265 to R271) and host feeds (R272, R273). -/

namespace Sys2Proof.Machine

open Sys2Proof

/-! ### Ports -/

/-- Port p. -/
def State.port (s : State) (p : Nat) : Csi2Port := s.ingest.ports.getD p {}

/-- Port p changed. -/
def State.modPort (s : State) (p : Nat) (f : Csi2Port → Csi2Port) : State :=
  { s with ingest := { s.ingest with ports := modAt s.ingest.ports p f } }

/-- Lanes at a rate carry a camera within its readout (Table 12.3): Mb/s times µs are bits. -/
def carriesCamera (lanes rate : Nat) (c : CameraCfg) : Bool :=
  c.width * c.height * wireBits c.dataType ≤ lanes * rate * c.maxReadout

/-- A RUNNING camera stream that a port change would disable or no longer carry. -/
def portBusy (s : State) (port lanes rate : Nat) (enable : Bool) : Bool :=
  s.streams.any fun e => e.2.kind = .camera && e.2.state = .running && e.2.camera.port = port
    && (!enable || !carriesCamera lanes rate e.2.camera)

/-- CSI2_PORT_SET (Table 12.13). -/
def csi2PortSetCmd : Cmd where
  opcode := 0x0901
  admin := true
  target := .kind .csi2Port
  named := [(0, 4)]
  fails := fun _ p =>
    [(0, p.u8 0 ≠ 1 && p.u8 0 ≠ 2 && p.u8 0 ≠ 4), (1, p.u8 1 > 1), (2, p.u16 2 < 80 || p.u16 2 > 2500)]
  legal := fun s p => !portBusy s (targetUnit s p) (p.u8 0) (p.u16 2) (p.u8 1 = 1)
  body := fun s p => .ok (s.modPort (targetUnit s p) fun x => { x with
    lanes := p.u8 0, enabled := p.u8 1 = 1, rate := p.u16 2 })

/-! ### INGEST_CONFIGURE -/

/-- An FP32 field in [a, b]. -/
def fp32In (bs : List Byte) (i : Nat) (a b : Word32) : Bool := inRange32 (BitVec.ofNat 32 (fieldAt bs i 4)) a b

/-- Bytes from a up to b that are not all zero fail at the first that is not. -/
def zeroFails (bs : List Byte) (a b : Nat) : List (Nat × Bool) := ((upto b).drop a).map fun i => (i, fieldAt bs i 1 ≠ 0)

/-- The checks of a camera source section (Tables 12.3 and 13.16). -/
def cameraFails (s : State) (bs : List Byte) : List (Nat × Bool) :=
  let f := fieldAt bs
  let dt := f 66 1
  let raw := dt = 0x2A || dt = 0x2B || dt = 0x2C
  let port := s.port (f 64 1)
  let gain := fun (i : Nat) => raw && !fp32In bs i 0 (natF32 16)
  let bits := f 68 2 * f 70 2 * wireBits dt
  ([(64, f 64 1 > 15), (65, f 65 1 > 3), (66, wireBits dt = 0), (67, raw && f 67 1 > 3),
   (68, f 68 2 < 16 || f 68 2 > 8192 || bits > port.lanes * port.rate * f 72 4), (70, f 70 2 < 16 || f 70 2 > 8192),
   (72, f 72 4 < 100 || f 72 4 > 1000000), (76, raw && f 76 2 > 4095), (78, dt = 0x1E && f 78 1 > 2),
   (79, dt = 0x1E && f 79 1 > 1), (80, gain 80), (84, gain 84), (88, gain 88)] : List (Nat × Bool)) ++ zeroFails bs 92 128

/-- The audio parameters of a block: as given, or the defaults with the given BLOCK (R324, Table 12.9). -/
def audioOf (bs : List Byte) : AudioCfg :=
  let f := fieldAt bs
  if bitOf (f 3 1) 0 then { block := f 76 4, fHigh := natF32 8000 }
  else
    { sampleRate := f 64 4, format := f 68 1, channels := f 69 1, hop := f 70 2, window := f 72 2, windowKind := f 74 1
      outFmt := f 75 1, block := f 76 4, preemph := BitVec.ofNat 32 (f 80 4), fLow := BitVec.ofNat 32 (f 84 4)
      fHigh := BitVec.ofNat 32 (f 88 4), floor := BitVec.ofNat 32 (f 92 4), history := f 96 2 }

/-- The checks of an audio source section (Table 12.9). -/
def audioFails (bs : List Byte) : List (Nat × Bool) :=
  let a := audioOf bs
  let zero : Word32 := 0
  let rates : List Nat := [8000, 16000, 24000, 32000, 48000]
  let l : List (Nat × Bool) := [(64, !rates.contains a.sampleRate), (68, a.format > 2), (69, a.channels = 0 || a.channels > 16),
   (70, a.hop = 0 || a.hop > 512), (72, a.window < a.hop || a.window > 512), (74, a.windowKind > 2),
   (75, a.outFmt ≠ 1 && a.outFmt ≠ 3), (76, a.block = 0 || a.block > 65536 || a.block % a.hop ≠ 0 || a.block < a.hop),
   (80, !inRange32 a.preemph zero one32), (84, !fle zero a.fLow),
   (88, !flt a.fLow a.fHigh || !fle a.fHigh (natF32 (a.sampleRate / 2))),
   (92, !flt zero a.floor || !isFin32 a.floor), (96, a.history > 6000)]
  l ++ zeroFails bs 98 128

/-- The checks of a JPEG source section (R295). -/
def jpegFails (bs : List Byte) : List (Nat × Bool) :=
  let f := fieldAt bs
  let l : List (Nat × Bool) := [(64, f 64 4 < 64 || f 64 4 > 268435456), (68, f 68 2 = 0 || f 68 2 > 16384), (70, f 70 2 = 0 || f 70 2 > 16384)]
  l ++ zeroFails bs 72 128

/-- Output k of a block (Table 13.16); a scaler left to firmware is the one given here. -/
def outputOf (bs : List Byte) (k scaler : Nat) : OutputCfg :=
  let f := fun (i n : Nat) => fieldAt bs (128 + 64 * k + i) n
  let w := fun (i : Nat) => BitVec.ofNat 32 (f i 4)
  { kind := f 0 1, crop := f 1 1, filter := f 2 1, channels := f 3 1, dFmt := f 4 1, bitDepth := f 5 1
    scaler := some (if f 6 1 = 0xFF then scaler else f 6 1), outW := f 8 2, outH := f 10 2, cropX := f 12 2, cropY := f 14 2
    cropW := f 16 2, cropH := f 18 2, mean := [w 20, w 24, w 28], scale := [w 32, w 36, w 40] }

/-- A crop size lies within the ratios of R284: 1/16 to 8 of the output's. -/
def ratioOk (crop out : Nat) : Bool := out ≤ 16 * crop && crop ≤ 8 * out

/-- The checks of output k against Table 12.7 and the declared maximum picture, by block offset. -/
def outputFails (bs : List Byte) (k w h : Nat) : List (Nat × Bool) :=
  let o := outputOf bs k 0
  let at_ := 128 + 64 * k
  let pic := o.kind = 1
  let fixed := o.crop = 1
  let chans := if pic then 0 else o.channelCount
  let value : Nat → Nat → Nat × Bool := fun i j =>
    let v : Word32 := BitVec.ofNat 32 (fieldAt bs (at_ + 20 + 12 * i + 4 * j) 4)
    (20 + 12 * i + 4 * j, if j < chans then !isFin32 v else decide (v ≠ 0))
  let l : List (Nat × Bool) := [(0, o.kind > 1), (1, o.crop > 2), (2, o.filter > 3), (3, !pic && o.channels > 2),
    (4, !pic && (o.dFmt = 0 || o.dFmt > 5)), (5, pic && o.bitDepth ≠ 8 && o.bitDepth ≠ 10),
    (6, fieldAt bs (at_ + 6) 1 > 7 && fieldAt bs (at_ + 6) 1 ≠ 0xFF), (7, fieldAt bs (at_ + 7) 1 ≠ 0),
    (8, o.outW = 0 || o.outW > 8192 || (pic && o.outW % 2 ≠ 0)), (10, o.outH = 0 || o.outH > 4352 || (pic && o.outH % 2 ≠ 0)),
    (12, fixed && o.cropX ≥ w), (14, fixed && o.cropY ≥ h),
    (16, fixed && (o.cropW = 0 || o.cropX + o.cropW > w || !ratioOk o.cropW o.outW)),
    (18, fixed && (o.cropH = 0 || o.cropY + o.cropH > h || !ratioOk o.cropH o.outH))]
  let l := l ++ (upto 3).map (value 0) ++ (upto 3).map (value 1)
  l.map (fun e => (at_ + e.1, e.2)) ++ zeroFails bs (at_ + 44) (at_ + 64)

/-- The largest picture that fixed crops are checked against (R317). -/
def declaredMax (st : Stream) (bs : List Byte) : Nat × Nat :=
  match st.kind with
  | .camera => (fieldAt bs 68 2, fieldAt bs 70 2)
  | .jpeg => (fieldAt bs 68 2, fieldAt bs 70 2)
  | .decode => if st.decodeDone then (st.decode.maxWidth, st.decode.maxHeight) else (8192, 4352)
  | .audio | .encode => (0, 0)

/-- The checks of an INGEST_CONFIGURE block (R317, R324), by block offset. -/
def ingestBlockFails (s : State) (p : Packet) (bs : List Byte) : List (Nat × Bool) :=
  let f := fieldAt bs
  match aget s.streams (f 0 2) with
  | none => [(0, true)]
  | some st =>
    let outs := f 2 1
    let wh := declaredMax st bs
    let source := match st.kind with
      | .camera => cameraFails s bs
      | .jpeg => jpegFails bs
      | .audio => audioFails bs
      | .decode => zeroFails bs 64 128
      | .encode => []
    ([(0, st.kind = .encode),
     (2, outs > 4 || p.u16 8 ≠ 128 + 64 * outs || (st.kind = StreamKind.audio && outs ≠ 0)
        || (st.kind ≠ StreamKind.audio && outs = 0 && st.cast = 0)), (3, f 3 1 > 1)] : List (Nat × Bool))
    ++ zeroFails bs 4 64 ++ source ++ (upto outs).flatMap fun k => outputFails bs k wh.1 wh.2

/-- Another camera stream holds the port and virtual channel (R269). -/
def portHeld (s : State) (n port vc : Nat) : Bool :=
  s.streams.any fun e => e.1 ≠ n && e.2.kind = .camera && e.2.ingestDone && e.2.camera.port = port && e.2.camera.vc = vc

/-- The camera source section of a block. -/
def cameraOf (bs : List Byte) : CameraCfg :=
  let f := fieldAt bs
  { port := f 64 1, vc := f 65 1, dataType := f 66 1, cfa := f 67 1, width := f 68 2, height := f 70 2, maxReadout := f 72 4
    black := f 76 2, matrix := f 78 1, range := f 79 1
    gains := [BitVec.ofNat 32 (f 80 4), BitVec.ofNat 32 (f 84 4), BitVec.ofNat 32 (f 88 4)] }

/-- INGEST_CONFIGURE's effect: the source section of the stream's kind and its outputs, which OUTPUTS 0 leaves to the cast file. -/
def ingestConfigured (s : State) (bs : List Byte) : Verdict :=
  let f := fieldAt bs
  let n := f 0 2
  let d := s.draw
  let outs := (upto (f 2 1)).map fun k => outputOf bs k (Config.freeNat d.1 % 8)
  let digest := s.castDigest n
  .ok (d.2.modStream n fun st =>
    let st : Stream := { st with
      ingestDone := true
      outputs := if st.kind = .audio then [] else if outs.isEmpty then basicOutputs digest else outs }
    match st.kind with
    | .camera => { st with camera := cameraOf bs }
    | .jpeg => { st with jpeg := { maxImageBytes := f 64 4, maxWidth := f 68 2, maxHeight := f 70 2 } }
    | .audio => { st with audio := audioOf bs }
    | .decode | .encode => st)

/-- INGEST_CONFIGURE: its extended block is read, then checked and applied. -/
def ingestConfigureCmd : Cmd where
  opcode := 0x0902
  extended := true

/-- INGEST_CONFIGURE with its block read. -/
def ingestBlockCmd (bs : List Byte) : Cmd where
  opcode := 0x0902
  block := true
  fails := fun s p => ingestBlockFails s p bs
  owned := fun s p => streamOwned s p.ring (fieldAt bs 0 2)
    && !(streamIn s (fieldAt bs 0 2) (fun st => st.kind = .camera) && portHeld s (fieldAt bs 0 2) (fieldAt bs 64 1) (fieldAt bs 65 1))
  legal := fun s _ => streamIn s (fieldAt bs 0 2) fun st => st.state = .declared && !st.closing
  body := fun s _ => ingestConfigured s bs

/-! ### Host feeds -/

/-- The assigned cue of a feed lies more than one cue beyond the current one (R54). -/
def feedBeyond (s : State) (st : Stream) (capture : Nat) : Bool := s.assignedCue st capture > s.cueNow + 1

/-- The length of a feed is in range (R272). -/
def feedLengthOk (st : Stream) (n : Nat) : Bool :=
  match st.kind with
  | .decode => 1 ≤ n && n ≤ st.decode.maxAuBytes
  | .jpeg => 1 ≤ n && n ≤ st.jpeg.maxImageBytes
  | .audio => n = st.feedBytes
  | .camera | .encode => false

/-- A feed of a bad length enters with nothing copied, as a corrupt sample with cause FEED_LENGTH. -/
def State.feedBad (s : State) (n capture length : Nat) : State :=
  let k := s.sampleOrder
  (s.addSample n capture length none []).markCorrupt k 0x7E 0

/-- FEED (R272). -/
def feedCmd : Cmd where
  opcode := 0x0903
  named := [(0, 2), (8, 12), (24, 8)]
  fails := fun s p => [(0, !streamIn s (p.u16 0) fun st => st.kind = .decode || st.kind = .jpeg || st.kind = .audio)]
  owned := fun s p => streamIn s (p.u16 0) fun st => st.ring = p.ring
  legal := fun s p => streamIn s (p.u16 0) fun st => st.state = .running && !st.closing
  body := fun s p =>
    let n := p.u16 0
    let length := p.u32 16
    match aget s.streams n with
    | none => .refuse .outOfRange s
    | some st =>
      if feedBeyond s st (p.u64 24) then .done (rangeFault 40) 0 s
      else if !feedLengthOk st length then .refuse .corruptInput (s.feedBad n (p.u64 24) length)
      else match s.alloc st.group (st.kind ≠ .audio) st.feedBytes none true with
        | .none_ _ t => .refuse .noResource t
        | .got a _ t =>
          let w := bufName (st.kind ≠ .audio) a
          .wait (.feed n (p.u64 24) length (some w) s.time.elapsed)
            { t with outputs := .hostRead (p.u64 8) length :: t.outputs }

/-- The bytes of a feed are in the device (R265, R272): the sample arrives and FEED completes DONE. -/
def State.feedDone (s : State) (id : Nat) (data : List Byte) : State :=
  match aget s.inflight id with
  | some f => match f.work with
    | .feed n capture length (some w) since =>
      if data.length ≠ length || s.time.elapsed ≥ since + 10000000 then s
      else
        let s := s.writeMem (bufDram w) (bufAddr w) data
        let s := s.addSample n capture length (some w) [w]
        ({ s with ingest := { s.ingest with fed := s.ingest.fed.inc } }).finish id ⟨.done, 0⟩ 0
    | _ => s
  | none => s

/-- A FEED whose copy fails completes TIMEOUT, and nothing enters (R272). -/
def State.feedFails (s : State) (id : Nat) : State :=
  match aget s.inflight id with
  | some f => match f.work with
    | .feed n _ _ (some w) _ =>
      let s := (s.releaseName w).finish id ⟨.timeout, 0⟩ 0
      ({ s with ingest := { s.ingest with feedTimeout := s.ingest.feedTimeout.inc } }).closeIfDone n
    | _ => s
  | none => s

/-- A copy unfinished 10 ms after it began (R272). -/
def State.feedLate (s : State) (id : Nat) : State :=
  match aget s.inflight id with
  | some f => match f.work with
    | .feed _ _ _ _ since => if s.time.elapsed < since + 10000000 then s else s.feedFails id
    | _ => s
  | none => s

/-- INGEST_TEST (R295). -/
def ingestTestCmd : Cmd where
  opcode := 0x0904
  admin := true
  states := [.standby]
  body := fun s p => .wait (.test .ingest 0 (p.target.toNat % 2 ^ 28) s.time.elapsed) s

/-! ### Camera frames -/

/-- The stream of a port and virtual channel that takes packets: declared there and RUNNING (R269). -/
def State.cameraStream (s : State) (port vc : Nat) : Option (Nat × Stream) :=
  s.streams.find? fun e => e.2.kind = .camera && e.2.ingestDone && e.2.state = .running && !e.2.closing
    && e.2.camera.port = port && e.2.camera.vc = vc

/-- A packet is discarded and counted (R269). -/
def State.discard (s : State) (port : Nat) : State := s.modPort port fun p => { p with discarded := p.discarded.inc }

/-- The open frame of a virtual channel becomes corrupt; the first cause stands. -/
def State.frameCorrupt (s : State) (port vc cause : Nat) : State :=
  s.modPort port fun p => { p with open_ := amod p.open_ vc fun f => { f with corrupt := f.corrupt.or (some cause) } }

/-- The open frame of a virtual channel closes (R265, R270): the frame arrives as a sample, corrupt or not.  One that found no
strips has entered already. -/
def State.closeFrame (s : State) (port vc : Nat) : State :=
  match aget (s.port port).open_ vc with
  | none => s
  | some f =>
    let s := s.modPort port fun p => { p with open_ := adel p.open_ vc, frames := p.frames.inc }
    let s := { s with ingest := { s.ingest with frames := s.ingest.frames.inc } }
    if !f.stored then s
    else match aget s.streams f.stream with
      | none => f.buffers.foldl (fun (t : State) w => t.releaseName w) s
      | some st =>
        let k := s.sampleOrder
        let s := s.addSample f.stream f.capture 0 none f.buffers
        let s := s.modSample k fun m => { m with
          strips := f.buffers, width := st.camera.width, height := st.camera.height, rowsReady := st.camera.height
          matrix := st.camera.matrix, range := st.camera.range }
        match f.corrupt with
        | some c => s.markCorrupt k c 0
        | none => s

/-- Sealed House buffers for the strips of a frame, or none (R271). -/
def State.allocStrips (s : State) (g size : Nat) : Nat → Option (List Nat × State)
  | 0 => some ([], s)
  | n + 1 => match s.alloc g false size none true with
    | .none_ _ _ => none
    | .got a _ t => (t.allocStrips g size n).map fun r => (bufName false a :: r.1, r.2)

/-- CSI2_FRAME_START (R265, R266, R270, R271): t is latched; an open frame on the channel is corrupt and closes. -/
def State.frameStart (s : State) (port vc number : Nat) : State :=
  if !(s.port port).enabled then s
  else match s.cameraStream port vc with
    | none => s.discard port
    | some (n, st) =>
      let s := (s.frameCorrupt port vc 0x77).closeFrame port vc
      let size := 16 * lineBytes (st.camera.width * dataTypeBytes st.camera.dataType)
      let f : OpenFrame := { number := number, capture := s.now, stream := n }
      match s.allocStrips st.group size (ceilDiv st.camera.height 16) with
      | some (l, t) => t.modPort port fun p => { p with open_ := aset p.open_ vc { f with buffers := l } }
      | none =>
        let k := s.sampleOrder
        let s := (s.addSample n s.now 0 none []).modSample k fun m => { m with unstored := true }
        s.modPort port fun p => { p with open_ := aset p.open_ vc { f with stored := false } }

/-- CSI2_LINE_PACKET (R268 to R270). -/
def State.linePacket (s : State) (port vc dt : Nat) (payload : List Byte) (crcOk eccCorrected : Bool) : State :=
  if !(s.port port).enabled then s
  else
    let s := if eccCorrected then s.modPort port fun p => { p with eccCorrected := p.eccCorrected.inc } else s
    match s.cameraStream port vc with
    | none => s.discard port
    | some (_, st) =>
      let c := st.camera
      if c.dataType ≠ dt then s.discard port
      else match aget (s.port port).open_ vc with
        | none => s
        | some f =>
          let s := if crcOk then s
            else (s.frameCorrupt port vc 0x75).modPort port fun p => { p with crc := p.crc.inc }
          let s := if payload.length ≠ wireBytes dt c.width || f.lines ≥ c.height then s.frameCorrupt port vc 0x76 else s
          let row := lineBytes (c.width * dataTypeBytes dt)
          let bytes := (unpackLine dt c.width payload).take (c.width * dataTypeBytes dt)
          let s := match f.buffers[f.lines / 16]? with
            | some w => if f.lines < c.height then s.writeMem false (bufAddr w + f.lines % 16 * row) bytes else s
            | none => s
          s.modPort port fun p => { p with open_ := amod p.open_ vc fun f => { f with lines := f.lines + 1 } }

/-- CSI2_FRAME_END (R266, R269, R270). -/
def State.frameEnd (s : State) (port vc number : Nat) : State :=
  if !(s.port port).enabled then s
  else match s.cameraStream port vc, aget (s.port port).open_ vc with
    | some (_, st), some f =>
      let s := if f.number ≠ number then s.frameCorrupt port vc 0x77 else s
      let s := if f.lines < st.camera.height then s.frameCorrupt port vc 0x76 else s
      s.closeFrame port vc
    | _, _ => s.discard port

/-- CSI2_UNCORRECTABLE_HEADER (R270): every open frame of the port is corrupt. -/
def State.headerError (s : State) (port : Nat) : State :=
  if !(s.port port).enabled then s
  else
    let s := (s.port port).open_.foldl (fun (t : State) e => t.frameCorrupt port e.1 0x74) s
    s.modPort port fun p => { p with headerErrors := p.headerErrors.inc }

/-- CSI2_SOT_ERROR (R270). -/
def State.sotError (s : State) (port vc : Nat) : State :=
  if !(s.port port).enabled then s
  else (s.frameCorrupt port vc 0x79).modPort port fun p => { p with phyErrors := p.phyErrors.inc }

/-- CSI2_FRAME_TIMEOUT (R270): no FE by FS + MAX_READOUT + 1,000 µs; the frame closes. -/
def State.frameTimeout (s : State) (port vc : Nat) : State :=
  match aget (s.port port).open_ vc with
  | none => s
  | some f =>
    let limit := match aget s.streams f.stream with
      | some st => (st.camera.maxReadout + 1000) * 1000
      | none => 0
    if s.now < f.capture + limit then s else (s.frameCorrupt port vc 0x78).closeFrame port vc

/-! ### The commands -/

/-- CSI2_PORT_SET. -/
def execCsi2PortSet (dt : Nat) (p : Packet) (s : State) : Host.Outcome State Fault Refusal :=
  .next ((s.advance dt).accept csi2PortSetCmd p)

/-- INGEST_CONFIGURE. -/
def execIngestConfigure (dt : Nat) (p : Packet) (s : State) : Host.Outcome State Fault Refusal :=
  .next ((s.advance dt).accept ingestConfigureCmd p)

/-- FEED. -/
def execFeed (dt : Nat) (p : Packet) (s : State) : Host.Outcome State Fault Refusal :=
  .next ((s.advance dt).accept feedCmd p)

/-- FEED_COPY_COMPLETE. -/
def execFeedCopyComplete (dt id : Nat) (data : List Byte) (s : State) : Host.Outcome State Fault Refusal :=
  .next ((s.advance dt).feedDone id data)

/-- FEED_TIMEOUT. -/
def execFeedTimeout (dt id : Nat) (s : State) : Host.Outcome State Fault Refusal := .next ((s.advance dt).feedLate id)

/-- INGEST_TEST. -/
def execIngestTest (dt : Nat) (p : Packet) (s : State) : Host.Outcome State Fault Refusal :=
  .next ((s.advance dt).accept ingestTestCmd p)

/-- INGEST_TEST_COMPLETE: after 2.0 ms. -/
def execIngestTestComplete (dt id : Nat) (wrong : Bool) (s : State) : Host.Outcome State Fault Refusal :=
  .next ((s.advance dt).testDone id .ingest 2000000 wrong fun _ t => t)

/-- CSI2_FRAME_START. -/
def execCsi2FrameStart (dt port vc number : Nat) (s : State) : Host.Outcome State Fault Refusal :=
  let s := s.advance dt
  .next (if s.live then s.frameStart port vc number else s)

/-- CSI2_LINE_PACKET. -/
def execCsi2LinePacket (dt port vc dataType : Nat) (payload : List Byte) (crcOk eccCorrected : Bool) (s : State) :
    Host.Outcome State Fault Refusal :=
  let s := s.advance dt
  .next (if s.live then s.linePacket port vc dataType payload crcOk eccCorrected else s)

/-- CSI2_FRAME_END. -/
def execCsi2FrameEnd (dt port vc number : Nat) (s : State) : Host.Outcome State Fault Refusal :=
  let s := s.advance dt
  .next (if s.live then s.frameEnd port vc number else s)

/-- CSI2_UNCORRECTABLE_HEADER. -/
def execCsi2UncorrectableHeader (dt port : Nat) (s : State) : Host.Outcome State Fault Refusal :=
  let s := s.advance dt
  .next (if s.live then s.headerError port else s)

/-- CSI2_SOT_ERROR. -/
def execCsi2SotError (dt port vc : Nat) (s : State) : Host.Outcome State Fault Refusal :=
  let s := s.advance dt
  .next (if s.live then s.sotError port vc else s)

/-- CSI2_FRAME_TIMEOUT. -/
def execCsi2FrameTimeout (dt port vc : Nat) (s : State) : Host.Outcome State Fault Refusal :=
  let s := s.advance dt
  .next (if s.live then s.frameTimeout port vc else s)

end Sys2Proof.Machine
end

