-- ==== Sys2Proof/Machine/Preprocess.lean ====
section
/-! DEFINITION. Pre-processing: the JPEG units (R278 to R280), the scalers (R281 to R286) and the audio front end (R287 to R291). -/

namespace Sys2Proof.Machine

open Sys2Proof

/-! ### JPEG units -/

/-- Unit u. -/
def State.jpegUnit (s : State) (u : Nat) : JpegUnit := s.jpegs.getD u {}

/-- Unit u changed. -/
def State.modJpeg (s : State) (u : Nat) (f : JpegUnit → JpegUnit) : State := { s with jpegs := modAt s.jpegs u f }

/-- Luma rows of an MCU row (R280). -/
def jpegMcuRows (f : JpegFacts) : Nat := if f.components = 3 then 8 * f.vSamp else 8

/-- Blocks over all components, summed over whole MCUs (R279). -/
def jpegBlocks (f : JpegFacts) : Nat :=
  if f.components = 3 then
    ceilDiv f.width (8 * f.hSamp) * ceilDiv f.height (8 * f.vSamp) * (f.hSamp * f.vSamp + 2)
  else ceilDiv f.width 8 * ceilDiv f.height 8

/-- The first check of Table 12.6 that fails. -/
def jpegCheck (st : Stream) (m : Sample) (f : JpegFacts) : Option Nat :=
  if m.length = 0 || m.length > st.jpeg.maxImageBytes then some 1
  else if m.late then some 2
  else if !f.headersOk || (f.components ≠ 1 && f.components ≠ 3) || f.hSamp = 0 || f.hSamp > 2 || f.vSamp = 0 || f.vSamp > 2 then
    some 3
  else if f.width > min st.jpeg.maxWidth 16384 || f.height > min st.jpeg.maxHeight 16384 || f.width = 0 || f.height = 0 then some 4
  else if 2 * jpegBlocks f > 8 * m.length then some 5
  else none

/-- JPEG_IMAGE_START (R274, R279): a planned image is checked before any strip is allocated. -/
def State.jpegStart (s : State) (u k : Nat) (f : JpegFacts) : State :=
  match aget s.samples k with
  | none => s
  | some m => match aget s.streams m.stream with
    | none => s
    | some st =>
      if !s.slotOpen m || st.kind ≠ .jpeg || m.buffer.isNone || m.corrupt.isSome || (s.jpegUnit u).work.isSome then s
      else
        let s := s.modSample k fun x => { x with buffer := none }
        if f.fileLost then s.markCorrupt k 0x7A 0
        else match jpegCheck st m f with
          | some c => (s.modJpeg u fun x => { x with rejected := x.rejected.inc }).markCorrupt k 0x7B c
          | none =>
            let s := s.modSample k fun x => { x with
              width := f.width, height := f.height, depth := 8, matrix := 0, range := 1, jpeg := some f }
            s.modJpeg u fun x => { x with work := some { sample := k, facts := f }, retried := false }

/-- Bytes of a strip's Y rows, and of one chroma component's rows. -/
def jpegStripBytes (f : JpegFacts) : Nat × Nat :=
  (jpegMcuRows f * lineBytes f.width, if f.components = 3 then 8 * lineBytes (ceilDiv f.width f.hSamp) else 0)

/-- JPEG_STRIP_COMPLETE (R280). -/
def State.jpegStrip (s : State) (u : Nat) (entropyError : Bool) (name : Nat) : State :=
  match (s.jpegUnit u).work with
  | none => s
  | some j => match aget s.samples j.sample with
    | none => s
    | some m => match aget s.streams m.stream with
      | none => s
      | some st =>
        if entropyError then
          (s.modJpeg u fun x => { x with work := none, entropyErrors := x.entropyErrors.inc }).markCorrupt j.sample 0x7C 0
        else
          let size := (jpegStripBytes j.facts).1 + 2 * (jpegStripBytes j.facts).2
          if !s.stripBuffer st.group name size then s
          else
            let rows := min (jpegMcuRows j.facts) (j.facts.height - j.next * (jpegMcuRows j.facts))
            let d := s.draw
            let s := (d.2.writeMem false (bufAddr name) (pixelBytes d.1 size 1)).signalStrip j.sample name rows
            let next := j.next + 1
            if next * (jpegMcuRows j.facts) < j.facts.height then
              s.modJpeg u fun x => { x with work := some { j with next := next }, retried := false }
            else s.modJpeg u fun x => { x with work := none, retried := false, images := x.images.inc }

/-- A strip of a JPEG unit is decoded again from its row record and the file (R280): one MCU row's time; a second failure in the same
re-decode is persistent. -/
def State.jpegRebuild (s : State) (u k : Nat) (m : Sample) : State :=
  let x := s.jpegUnit u
  let r := recordRepeat s.ms x.repeats
  if x.retried || r.2 then s.enterFaulted clsJpeg u
  else
    let rows := match m.jpeg with
      | some f => jpegMcuRows f
      | none => 8
    let s := s.modJpeg u fun x => { x with retried := true, recomputed := x.recomputed.inc, repeats := r.1 }
    s.repeatUnit (.chain k) 0x06 (ceilDiv (m.width * rows) 2 + 1000) clsJpeg u

/-! ### Source pixels -/

/-- The byte at an offset of a sample's strip. -/
def State.stripByte (s : State) (m : Sample) (strip offset n : Nat) : Nat :=
  leNat (s.readMem false (bufAddr (m.strips.getD strip 0) + offset) n)

/-- A luma code of a decoded picture (R245). -/
def State.decodedLuma (s : State) (m : Sample) (h0 x y : Nat) : Word32 :=
  let b := depthBytes m.depth
  natF32 (s.stripByte m (y / h0) (y % h0 * lineBytes (m.width * b) + x * b) b)

/-- A chroma code of a decoded picture: component 0 Cb, 1 Cr, of chroma column and row. -/
def State.decodedChroma (s : State) (m : Sample) (h0 c x y : Nat) : Word32 :=
  let b := depthBytes m.depth
  let rows := min h0 (m.height - 2 * y / h0 * h0)
  natF32 (s.stripByte m (2 * y / h0) ((rows + y % (h0 / 2)) * lineBytes (m.width * b) + (2 * x + c) * b) b)

/-- A component of a JPEG strip: 0 Y, 1 Cb, 2 Cr. -/
def State.jpegCode (s : State) (m : Sample) (f : JpegFacts) (c x y : Nat) : Word32 :=
  let sizes := jpegStripBytes f
  if c = 0 then natF32 (s.stripByte m (y / (jpegMcuRows f)) (y % (jpegMcuRows f) * lineBytes f.width + x) 1)
  else natF32 (s.stripByte m (y / 8) (sizes.1 + (c - 1) * sizes.2 + y % 8 * lineBytes (ceilDiv f.width f.hSamp) + x) 1)

/-- A chroma value at a luma position, bilinear between the nearest chroma samples (R282): centred vertically, and horizontally
co-sited with even luma columns or centred. -/
def chromaAt (value : Nat → Nat → Word32) (w h hs vs : Nat) (cosited : Bool) (x y : Nat) : Word32 :=
  let axis := fun (i n sub : Nat) (even : Bool) =>
    -- (first index, second index, weight of the second in quarters)
    if sub = 1 then (i, i, 0)
    else if even then (i / 2, min (i / 2 + 1) (n - 1), if i % 2 = 1 then 2 else 0)
    else if i % 2 = 0 then (i / 2 - 1, min (i / 2) (n - 1), if i = 0 then 0 else 3)
    else (i / 2, min (i / 2 + 1) (n - 1), 1)
  let ax := axis x (ceilDiv w hs) hs cosited
  let ay := axis y (ceilDiv h vs) vs false
  let row := fun (j : Nat) => lerp4 (value ax.1 j) (value ax.2.1 j) ax.2.2
  lerp4 (row ay.1) (row ay.2.1) ay.2.2

/-- R, G and B of a YCbCr pixel by its codes. -/
def ycc (m : Sample) (y cb cr : Word32) : List Word32 :=
  (rgbOf m.matrix (lumaOf m.range m.depth y) (chromaOf m.range m.depth cb) (chromaOf m.range m.depth cr)).map unitClamp

/-- A pixel of a camera frame (R268, R282). -/
def State.cameraPixel (s : State) (c : CameraCfg) (m : Sample) (x y : Nat) : List Word32 :=
  let bpp := dataTypeBytes c.dataType
  let at_ := fun (x y i n : Nat) => s.stripByte m (y / 16) (y % 16 * lineBytes (c.width * bpp) + i + bpp * x) n
  match c.dataType with
  | 0x1E =>
    let pair := fun (k : Nat) (cx cy : Nat) => natF32 (s.stripByte m (cy / 16) (cy % 16 * lineBytes (c.width * 2) + 4 * cx + k) 1)
    ycc m (natF32 (at_ x y 1 1)) (chromaAt (pair 0) c.width c.height 2 1 false x y)
      (chromaAt (pair 2) c.width c.height 2 1 false x y)
  | 0x24 => (upto 3).map fun i => fdiv (natF32 (at_ x y i 1)) (natF32 255)
  | dt =>
    let white := 2 ^ wireBits dt - 1
    let value := fun (x y : Nat) =>
      let v := fdiv (fsub (natF32 (at_ x y 0 bpp)) (natF32 c.black)) (fsub (natF32 white) (natF32 c.black))
      fmul v (c.gains.getD (cfaColour c.cfa x y) one32)
    (demosaic c.cfa c.width c.height value x y).map unitClamp

/-- R, G and B of a source pixel after steps 2 and 3 of R282. -/
def State.sourcePixel (s : State) (st : Stream) (m : Sample) (x y : Nat) : List Word32 :=
  match st.kind with
  | .camera => s.cameraPixel st.camera m x y
  | .decode =>
    let h0 := stripRows st.decode.codec
    let chroma := fun (c : Nat) => chromaAt (s.decodedChroma m h0 c) m.width m.height 2 2 true x y
    ycc m (s.decodedLuma m h0 x y) (chroma 0) (chroma 1)
  | .jpeg => match m.jpeg with
    | none => [half32, half32, half32]
    | some f =>
      let other := fun (c : Nat) => chromaAt (s.jpegCode m f c) f.width f.height f.hSamp f.vSamp false x y
      let first := s.jpegCode m f 0 x y
      if f.components = 1 then List.replicate 3 (unitClamp (lumaOf 1 8 first))
      else if f.rgb then [first, other 1, other 2].map fun v => unitClamp (fdiv v (natF32 255))
      else ycc m first (other 1) (other 2)
  | .audio | .encode => [half32, half32, half32]

/-! ### Scalers -/

/-- Scaler c. -/
def State.scaler (s : State) (c : Nat) : Scaler := s.scalers.getD c {}

/-- Scaler c changed. -/
def State.modScaler (s : State) (c : Nat) (f : Scaler → Scaler) : State := { s with scalers := modAt s.scalers c f }

/-- An interval [a, a + n) cut to [0, limit). -/
def cutInterval (a n limit : Nat) : Nat × Nat := (min a limit, min (a + n) limit - min a limit)

/-- A size forced into the ratios of R284, about its centre, and moved into [0, limit) (R285). -/
def resizeInterval (a n out limit : Nat) : Nat × Nat :=
  let m := min (max n (ceilDiv out 16)) (8 * out)
  let m' := min m limit
  let first : Int := a + ((n : Int) - m) / 2
  (min first.toNat (limit - m'), m')

/-- DYNAMIC_CROP_ADJUST (R285): the crop applied, and the adjustments made. -/
def adjustCrop (o : OutputCfg) (w h : Nat) (prev : Option (List Nat)) (crop : List Nat) : List Nat × Nat :=
  let c := fun (i : Nat) => crop.getD i 0
  let cx := cutInterval (c 0) (c 2) w
  let cy := cutInterval (c 1) (c 3) h
  let cut := [cx.1, cy.1, cx.2, cy.2]
  let empty := cx.2 = 0 || cy.2 = 0
  let n := b2n (decide (cut ≠ crop)) + b2n empty
  let base := if empty then prev.getD [0, 0, w, h] else cut
  let d := fun (i : Nat) => base.getD i 0
  if ratioOk (d 2) o.outW && ratioOk (d 3) o.outH then (base, n)
  else
    let rx := resizeInterval (d 0) (d 2) o.outW w
    let ry := resizeInterval (d 1) (d 3) o.outH h
    ([rx.1, ry.1, rx.2, ry.2], n + 1)

/-- The crop of a pass: whole picture, fixed, or read from the crop line and adjusted; none while the line is not signalled. -/
def State.passCrop (s : State) (st : Stream) (m : Sample) (i : Nat) (o : OutputCfg) (line : Nat) : Option (List Nat × Nat) :=
  if o.crop ≠ 2 then some (o.cropFor m.width m.height, 0)
  else if !s.rowsReady none (line, 1, 1, 1) then none
  else
    let raw := (upto 4).map fun k => fieldAt (s.readMem false (64 * line) 8) (2 * k) 2
    some (adjustCrop o m.width m.height (aget st.prevCrop i) raw)

/-- SCALER_PASS_START (R282, R285): a pass of a sample's output begins on its scaler, writing to a sealed House buffer. A corrupt
sample has no pass (R275). -/
def State.passStart (s : State) (c k i line : Nat) : State :=
  match aget s.samples k with
  | none => s
  | some m => match aget s.streams m.stream with
    | none => s
    | some st => match st.outputs[i]? with
      | none => s
      | some o =>
        if !s.slotOpen m || m.corrupt.isSome || m.width = 0 || o.scaler ≠ some c || (s.scaler c).work.isSome
            || (m.outputs.any fun x => x.1 = i)
            || (s.scalers.any fun x => x.work.any fun w => w.sample = k && w.output = i) then s
        else match s.passCrop st m i o line with
          | none => s
          | some (crop, adjusted) => match s.alloc st.group false o.bytes none true with
            | .none_ _ _ => s
            | .got a _ t =>
              let name := bufName false a
              let t := t.modSample k fun x => { x with buffers := x.buffers ++ [name] }
              let t := t.modStream m.stream fun x => { x with prevCrop := aset x.prevCrop i crop }
              let tile : Tile := { line := a / 64, pitch := 1, width := 1, rows := ceilDiv o.bytes 64, sample := k, slot := 16,
                                   unit := 0x07, index := c }
              let e := t.addTile tile
              let p : ScalePass := { sample := k, output := i, crop := crop, buffer := name, tile := e.1 }
              e.2.modScaler c fun x => { x with work := some p, cropAdjusted := x.cropAdjusted.add 32 adjusted }

/-- The outputs of a good sample are complete: they become the stream's substitute set in place (R275). -/
def State.goodOutputs (s : State) (k : Nat) : State :=
  match aget s.samples k with
  | none => s
  | some m => match aget s.streams m.stream with
    | none => s
    | some st =>
      if m.corrupt.isSome || m.outputs.length < st.outputs.length then s
      else
        let set := m.outputs.map fun x => x.2.1
        let s := s.modSample k fun x => { x with buffers := x.buffers.filter fun w => !set.contains w }
        let s := set.foldl (fun (t : State) w => t.addReader w (setReader m.stream)) s
        let s := st.substitute.foldl (fun (t : State) w => match t.locate false (bufAddr w) with
          | some (p, q, _) => t.modBuf p q fun b => { b with readers := b.readers.filter (· ≠ setReader m.stream) }
          | none => t) s
        (s.modStream m.stream fun x => { x with
          goodSample := true, substitute := set, former := x.former ++ st.substitute }).freeFormer m.stream

/-- The last source row that a pixel of row y needs: step 2 of R282 draws on the row below where chroma is subsampled vertically and
where a RAW frame is demosaiced (DEDUCED, log entry 22). -/
def sourceReach (st : Stream) (m : Sample) (y : Nat) : Nat :=
  let below : Bool := match st.kind with
    | .camera => st.camera.dataType ≠ 0x1E && st.camera.dataType ≠ 0x24
    | .decode => true
    | .jpeg => m.jpeg.any fun f => f.components = 3 && f.vSamp = 2
    | .audio | .encode => false
  if below then min (y + 1) (m.height - 1) else y

/-- SCALER_BAND_COMPLETE (R282 to R286): output rows whose filter support the strips present complete are written and signalled; the
last of them ends the pass. -/
def State.bandDone (s : State) (c rows : Nat) : State :=
  match (s.scaler c).work with
  | none => s
  | some w => match aget s.samples w.sample with
    | none => s
    | some m => match aget s.streams m.stream with
      | none => s
      | some st =>
        let o := st.outputs.getD w.output {}
        let b := w.rowsDone + rows
        if rows = 0 || b > o.outH || sourceReach st m (lastRow o.filter o.outH m.height w.crop (b - 1)) ≥ m.rowsReady
            || (o.kind = 1 && b % 2 ≠ 0) then s
        else
          let px := resample (s.sourcePixel st m) o.filter o.outW o.outH m.width m.height w.crop
          let s := (outputRows o px w.rowsDone b).foldl (fun (t : State) r => t.writeMem false (bufAddr w.buffer + r.1) r.2) s
          let s := { s with scoreboard := amod s.scoreboard w.tile fun t => { t with
            watermark := if b = o.outH then t.rows else t.rows * b / o.outH, signalledAt := s.time.elapsed } }
          if b < o.outH then s.modScaler c fun x => { x with work := some { w with rowsDone := b, retried := false } }
          else
            let s := s.modScaler c fun x => { x with
              work := none, passes := x.passes.inc, recomputed := if w.recomputed then x.recomputed.inc else x.recomputed }
            (s.modSample w.sample fun x => { x with outputs := x.outputs ++ [(w.output, w.buffer, w.crop)] }).goodOutputs w.sample

/-- A band's charge at most (R286). -/
def bandCharge (o : OutputCfg) (strip : Nat) (crop : List Nat) : Nat :=
  let ch := crop.getD 3 1
  let support := if o.filter = 2 then 2 else 1
  passCharge ((ceilDiv (strip * o.outH) ch + 2) * o.outW) ((strip + 2 * ceilDiv (support * max ch o.outH) o.outH) * crop.getD 2 1)

/-- SCALER_BAND_REPEAT (R286): the band in progress is repeated; a second failure in the same repetition is persistent. -/
def State.bandRepeat (s : State) (c : Nat) (parity : Bool) : State :=
  match (s.scaler c).work with
  | none => s
  | some w => match aget s.samples w.sample with
    | none => s
    | some m => match aget s.streams m.stream with
      | none => s
      | some st =>
        let o := st.outputs.getD w.output {}
        let strip := if st.kind = .decode then stripRows st.decode.codec else 16
        let s := if parity then s.modScaler c fun x => { x with parityErrors := x.parityErrors.inc } else s
        let r := recordRepeat s.ms (s.scaler c).repeats
        if w.retried || r.2 then s.enterFaulted clsScaler c
        else
          let s := s.modScaler c fun x => { x with work := some { w with retried := true, recomputed := true }, repeats := r.1 }
          s.repeatUnit (.chain w.sample) 0x07 (bandCharge o strip w.crop) clsScaler c

/-! ### The audio front end -/

/-- A block of FP32 samples holds one that is not finite (R288). -/
def nonFiniteBlock (format : Nat) (bs : List Byte) : Bool :=
  format = 2 && (upto (bs.length / 4)).any fun i => !isFin32 (BitVec.ofNat 32 (fieldAt bs (4 * i) 4))

/-- The block follows the one before it within half a hop (R289). -/
def carryUsable (a : AudioCfg) (prev : Option Nat) (capture : Nat) : Bool :=
  match prev with
  | none => false
  | some t =>
    let d : Int := 2 * ((a.sampleRate : Int) * ((capture : Int) - t) - 1000000000 * a.block)
    d.natAbs ≤ 1000000000 * a.hop

/-- Bytes of one frame's 80 log-mel values. -/
def melBytes (a : AudioCfg) : Nat := 80 * outElemBytes a.outFmt

/-- Bytes of the samples that the carry of R289 is made from: for each channel the last N - HOP + 1 samples of the block before. -/
def carryBytes (a : AudioCfg) : Nat := (a.window - a.hop + 1) * a.channels * audioBytes a.format

/-- The samples the next block's carry is made from; of a block processed as silence, none (R289). -/
def nextCarry (a : AudioCfg) (silent : Bool) (carry block : List Byte) : List Byte :=
  let all := carry ++ block
  if silent then List.replicate (carryBytes a) 0 else all.drop (all.length - carryBytes a)

/-- One channel's rows appended to its part of the stream's history ring (R288). -/
def State.appendRing (s : State) (base hist at_ row : Nat) : List (List Byte) → State
  | [] => s
  | r :: l => (s.writeMem true (base + at_ % hist * row) r).appendRing base hist (at_ + 1) row l

/-- The history ring of a stream takes a block's rows, channel by channel. -/
def State.appendHistory (s : State) (n : Nat) (st : Stream) (frames : Nat) (bytes : List Byte) : State :=
  let a := st.audio
  if a.history = 0 then s
  else
    let row := melBytes a
    let r := match st.history with
      | some w => (some w, s)
      | none => match s.alloc st.group true (a.history * a.channels * row) none true with
        | .got x _ t => (some (bufName true x), t)
        | .none_ _ _ => (none, s)
    match r.1 with
    | none => s
    | some w =>
      let t := (upto a.channels).foldl (fun (t : State) c =>
        let rows := (upto frames).map fun k => (bytes.drop ((c * frames + k) * row)).take row
        t.appendRing (bufAddr w + c * a.history * row) a.history st.historyAt row rows) r.2
      t.modStream n fun x => { x with history := some w, historyAt := (x.historyAt + frames) % a.history }

/-- AUDIO_BLOCK_PASS (R288 to R291): a block becomes log-mel rows.  A pass of a block that has had one is its repetition after a
register parity failure; a third is persistent. -/
def State.audioPass (s : State) (k : Nat) : State :=
  match aget s.samples k with
  | none => s
  | some m => match aget s.streams m.stream with
    | none => s
    | some st =>
      let a := st.audio
      if !s.slotOpen m || st.kind ≠ .audio then s
      else if m.audioPasses ≥ 1 then
        let r := recordRepeat s.ms s.ingest.audioRepeats
        if m.audioPasses ≥ 2 || r.2 then s.enterFaulted clsAudio 0
        else
          let s := s.modSample k fun x => { x with audioPasses := 2 }
          ({ s with ingest := { s.ingest with audioRepeats := r.1 } }).repeatUnit (.chain k) 0x08 (st.charge 0 9) clsAudio 0
      else
        let frames := a.block / a.hop
        let size := frames * a.channels * melBytes a
        match s.alloc st.group false size none true with
        | .none_ _ _ => s
        | .got x _ t =>
          let input := match m.buffer with
            | some w => t.readMem false (bufAddr w) st.feedBytes
            | none => []
          let invalid := m.corrupt.isNone && nonFiniteBlock a.format input
          let t := if invalid then t.markCorrupt k 0x7D 0 else t
          let silent := invalid || m.corrupt.isSome
          let block := if silent then List.replicate st.feedBytes 0 else input
          let gap := !carryUsable a st.carryFrom m.capture
          let t := { t with ingest := { t.ingest with
            audioGaps := if gap then t.ingest.audioGaps.inc else t.ingest.audioGaps
            audioFrames := t.ingest.audioFrames.add 32 (frames * a.channels) } }
          let carry := if gap then List.replicate (carryBytes a) 0 else st.carry
          let bytes := (upto size).map (Config.logMel a carry block)
          let t := t.writeMem false x bytes
          let tile : Tile := {
            line := x / 64, pitch := 1, width := 1, rows := ceilDiv size 64, watermark := ceilDiv size 64
            signalledAt := t.time.elapsed, sample := k, slot := 16, unit := 0x08, index := 0 }
          let t := (t.addTile tile).2
          let t := t.modSample k fun y => { y with
            audioPasses := 1, buffers := y.buffers ++ [bufName false x], outputs := [(0, bufName false x, [])] }
          (t.modStream m.stream fun y => { y with
            carryFrom := some m.capture, carry := nextCarry a silent carry block }).appendHistory m.stream st frames bytes

/-! ### The commands -/

/-- JPEG_IMAGE_START. -/
def execJpegImageStart (dt unit sample : Nat) (facts : JpegFacts) (s : State) : Host.Outcome State Fault Refusal :=
  .next ((s.advance dt).jpegStart unit sample facts)

/-- JPEG_STRIP_COMPLETE. -/
def execJpegStripComplete (dt unit : Nat) (entropyError : Bool) (buffer : Word64) (s : State) :
    Host.Outcome State Fault Refusal :=
  let s := s.advance dt
  .next (if s.computing then s.jpegStrip unit entropyError buffer.toNat else s)

/-- SCALER_PASS_START. -/
def execScalerPassStart (dt scaler sample output cropLine : Nat) (s : State) : Host.Outcome State Fault Refusal :=
  .next ((s.advance dt).passStart scaler sample output cropLine)

/-- SCALER_BAND_COMPLETE. -/
def execScalerBandComplete (dt scaler rows : Nat) (s : State) : Host.Outcome State Fault Refusal :=
  let s := s.advance dt
  .next (if s.computing then s.bandDone scaler rows else s)

/-- SCALER_BAND_REPEAT. -/
def execScalerBandRepeat (dt scaler : Nat) (parity : Bool) (s : State) : Host.Outcome State Fault Refusal :=
  let s := s.advance dt
  .next (if s.computing then s.bandRepeat scaler parity else s)

/-- AUDIO_BLOCK_PASS. -/
def execAudioBlockPass (dt sample : Nat) (s : State) : Host.Outcome State Fault Refusal :=
  .next ((s.advance dt).audioPass sample)

end Sys2Proof.Machine
end

