-- ==== Sys2Proof/Machine/Fetch.lean ====
section
/-! DEFINITION. The submission side (R296 to R302): the opcode table, fetching in scan order, sequence numbers, and the host reads that
commands make (R305, R343). -/

namespace Sys2Proof.Machine

open Sys2Proof

/-- The commands of Tables 13.9 to 13.11. -/
def allCommands : List Cmd :=
  [nopCmd, deviceStartCmd, deviceStopCmd, ringCreateCmd, ringDestroyCmd, ringResetCmd, streamDeclareCmd, streamAdmitCmd,
   streamStartCmd, streamPauseCmd, streamResumeCmd, streamCloseCmd, streamQueryCmd, castLoadCmd, castUnloadCmd, scriptLoadCmd,
   scriptUnloadCmd, cueSetPeriodCmd, cueSetEpochCmd, cueSetSourceCmd, timeSteerCmd, timeStepCmd, timePpsCmd] ++
  [poolCreateCmd, poolDestroyCmd, poolReserveCmd, bufferAllocCmd, bufferFreeCmd, memoryCopyCmd, arraySplitCmd, arrayRunCmd,
   arrayTestCmd, vecSplitCmd, vecScalarsCmd, vecRunCmd, vecTestCmd, randomSeedCmd, sampleRunCmd, randomTestCmd,
   decodeConfigureCmd, encodeConfigureCmd, encodeSetRateCmd, encodeForceIntraCmd, decodeRefreshCmd, codecTestCmd] ++
  [csi2PortSetCmd, ingestConfigureCmd, feedCmd, ingestTestCmd, cascadeFormCmd, cascadeDissolveCmd, linkTestCmd, attestReportCmd,
   pixelsUnsealCmd, pixelsSealCmd, encodedOutputCmd, firmwareStageCmd, traceSetCmd, countersSnapshotCmd, dramInterleaveCmd,
   dramTestCmd]

/-- The command an opcode names. -/
def commandOf (opcode : Nat) : Option Cmd := allCommands.find? fun c => c.opcode = opcode

/-- The rings whose next entry may be fetched, in ascending order. -/
def State.fetchable (s : State) : List Nat :=
  (s.rings.filter fun e => 0 < e.2.pendingEntries && s.canFetch e.1 false).map (·.1)

/-- The ring the scan comes to next (R301): the passes run from Q0 upward. -/
def State.nextRing (s : State) : Option Nat :=
  match s.fetchable.find? fun q => s.scanPos < q with
  | some q => some q
  | none => s.fetchable.head?

/-- The packet of a submission entry (Table 13.3) on ring q. -/
def packetOf (q : Nat) (entry : BitVec 512) : Packet where
  ring := q
  flags := entry.extractLsb' 16 16
  tag := entry.extractLsb' 32 32
  target := entry.extractLsb' 64 32
  params := entry.extractLsb' 128 384

/-- An entry that is not executed completes with an outcome; FETCH passes it, and EXPECTED too when its SEQUENCE matched. -/
def State.refuseEntry (s : State) (q opcode : Nat) (p : Packet) (matched : Bool) (o : Outcome) : State :=
  let s := (s.leaveRest).modRing q fun r =>
    let f := (r.fetch + 1) % r.size
    { r with fetch := f, expected := if matched then (r.expected + 1) % 2 ^ 32 else r.expected }
  ({ s with scanPos := q }).complete (ticket s opcode p .snapshot) o 0

/-- SUBMISSION_FETCH (R300 to R303, R309): the next entry in scan order is fetched and its command accepted; a fence waits, a mismatched
SEQUENCE halts the ring, an unlisted opcode completes UNKNOWN_OPCODE. -/
def State.fetchEntry (s : State) (entry : BitVec 512) : State :=
  match s.nextRing with
  | none => s
  | some q =>
    let p := packetOf q entry
    let opcode := (entry.extractLsb' 0 16).toNat
    let expected := match aget s.rings q with
      | some r => r.expected
      | none => 0
    if (entry.extractLsb' 96 32).toNat ≠ expected then
      (s.refuseEntry q opcode p false (rangeFault 12)).haltRing q causeSequence
    else if p.fence && s.uncompleted q ≠ 0 then { s with scanPos := q }
    else match commandOf opcode with
      | some c => s.accept c p
      | none => s.refuseEntry q opcode p true ⟨.unknownOpcode, 0⟩

/-- A read that timed out, or was answered with an error, is counted (R343). -/
def State.countRead (s : State) (errorAnswer : Bool) : State :=
  let h := s.host
  { s with host := if errorAnswer then { h with errorCompletions := h.errorCompletions.inc }
    else { h with readTimeouts := h.readTimeouts.inc } }

/-- SUBMISSION_FETCH_TIMEOUT (Table 14.4): the ring halts with cause FETCH. -/
def State.fetchFails (s : State) (errorAnswer : Bool) : State :=
  match s.nextRing with
  | none => s
  | some q => ({ s.countRead errorAnswer with scanPos := q }).haltRing q causeFetch

/-- The command with its extended block read, where it takes one. -/
def blockCommand (c : Cmd) (data : List Byte) : Cmd := if c.opcode = 0x0802 then encodeBlockCmd data else ingestBlockCmd data

/-- COMMAND_HOST_READ_COMPLETE (R304, R305): the data have arrived in full and in time, and the command goes on. -/
def State.hostReadDone (s : State) (id : Nat) (data : List Byte) : State :=
  match aget s.inflight id with
  | none => s
  | some f => match f.work with
    | .hostRead p length deadline _ =>
      if data.length ≠ length || deadline < s.time.elapsed then s
      else match commandOf f.opcode with
        | none => s
        | some c =>
          if c.extended then
            let b := blockCommand c data
            settleInFlight id (checked b p (fun t => b.body t p) s)
          else settleInFlight id (c.withData s p id data)
    | _ => s

/-- HOST_READ_TIMEOUT (R305, R343, Table 14.4): the command completes TIMEOUT and nothing it read is kept. -/
def State.hostReadFails (s : State) (id : Nat) (errorAnswer : Bool) : State :=
  match aget s.inflight id with
  | none => s
  | some f => match f.work with
    | .hostRead _ _ _ buffers =>
      let s := buffers.foldl (fun (t : State) w => t.releaseName w) (s.countRead errorAnswer)
      s.finish id ⟨.timeout, 0⟩ 0
    | .copy _ _ _ true _ _ => ((s.countRead errorAnswer).unregister (ownerId (.run id))).finish id ⟨.timeout, 0⟩ 0
    | .feed _ _ _ _ _ => (s.countRead errorAnswer).feedFails id
    | _ => s

/-- A command whose acceptance the deputy holds goes on under its own identity (R371). -/
def State.resumeMirrored (s : State) (id : Nat) : State :=
  match aget s.inflight id with
  | none => s
  | some f => match f.work with
    | .mirrored p => match commandOf f.opcode with
      | some c =>
        let t := settle c.opcode p (startCommand c p { s with inflight := adel s.inflight id, nextId := id })
        { t with nextId := max t.nextId s.nextId }
      | none => s
    | _ => s

/-- SUBMISSION_FETCH. -/
def execSubmissionFetch (dt : Nat) (entry : BitVec 512) (s : State) : Host.Outcome State Fault Refusal :=
  .next ((s.advance dt).fetchEntry entry)

/-- SUBMISSION_FETCH_TIMEOUT. -/
def execSubmissionFetchTimeout (dt : Nat) (errorAnswer : Bool) (s : State) : Host.Outcome State Fault Refusal :=
  .next ((s.advance dt).fetchFails errorAnswer)

/-- HOST_READ_TIMEOUT. -/
def execHostReadTimeout (dt id : Nat) (errorAnswer : Bool) (s : State) : Host.Outcome State Fault Refusal :=
  .next ((s.advance dt).hostReadFails id errorAnswer)

/-- COMMAND_HOST_READ_COMPLETE. -/
def execCommandHostReadComplete (dt id : Nat) (data : List Byte) (s : State) : Host.Outcome State Fault Refusal :=
  .next ((s.advance dt).hostReadDone id data)

end Sys2Proof.Machine
end

