-- ==== Sys2Proof/Machine/Cascade.lean ====
section
/-! DEFINITION. Messages between the members of a cascade (R357 to R362), heartbeats and loss (R365), cascade control (R369), the mirror
and the deputy's takeover (R371 to R373), and the remap (R406 to R411). -/

namespace Sys2Proof.Machine

open Sys2Proof

/-! ### Messages that end here -/

/-- A message that fails a check of R358, or whose TTL has run out, is dropped whole and counted. -/
def State.badMessage (s : State) : State := { s with ewl := { s.ewl with badMessages := s.ewl.badMessages.inc } }

/-- A message for another member is sent on over this member's route, one hop fewer left (R357, R359). -/
def State.relay (s : State) (m : Msg) (bytes : List Byte) : State :=
  if m.ttl = 0 then s.badMessage
  else match (if m.kind = 0x01 then s.blockPort m.dst m.block else (s.routePorts m.dst).head?) with
    | some p => s.putMessage p { m with ttl := m.ttl - 1 } bytes
    | none => s

/-- A message as it arrives (R358, R372): a stage manager that meets a higher EPOCH is expelled; KIND and LENGTH are checked; `mine` is
done with one that ends here, and `pass` with one for another member. -/
def State.receive (s : State) (m : Msg) (kind : Nat) (mine pass : State → State) : State :=
  if !s.live then s
  else if s.stageManager && s.ewl.epoch < m.epoch then s.enterFaulted clsExpelled (m.epoch % 65536)
  else if m.kind ≠ kind || 65536 < m.length then s.badMessage
  else if s.inCascade && m.dst ≠ s.ewl.member then pass s
  else mine s

/-- EPOCH is not below this device's, and SRC is the stage manager (R358). -/
def State.fromManager (s : State) (m : Msg) : Bool := s.ewl.epoch ≤ m.epoch && m.src = s.ewl.manager && s.ewl.role ≠ 1

/-! ### Blocks and bulk data -/

/-- ADDRESS through ADDRESS + LENGTH − 1 lies in one buffer that this device holds, and SRC is in service (R358, R406). -/
def State.takesBytes (s : State) (m : Msg) (data : List Byte) : Bool :=
  match s.locate (bufDram m.address) (bufAddr m.address), s.heldBuf m.address with
  | some (p, _, o), some _ => data.length = m.length && o + m.length ≤ s.poolBytes p && !s.memberLost m.src
  | _, _ => false

/-- Inbound bytes written with fresh codes; sealed data seals the buffer (R76, R358). -/
def State.land (s : State) (m : Msg) (data : List Byte) : State :=
  let s := s.writeMem (bufDram m.address) (bufAddr m.address) data
  match s.locate (bufDram m.address) (bufAddr m.address) with
  | some (p, k, _) => if m.sealed then s.modBuf p k fun b => { b with sealed := true } else s
  | none => s

/-- BLOCK (R360): written, signalled complete as one range the first time only, and acknowledged every time. -/
def State.takeBlock (s : State) (m : Msg) (data : List Byte) : State :=
  if !s.inCascade || bufDram m.address || !s.takesBytes m data then s.badMessage
  else
    let key := (m.chain, m.block, m.address)
    let again := s.ewl.received.contains key
    let s := s.land m data
    let s := if again then s
      else
        let e := { s.ewl with received := key :: s.ewl.received, handoffReceived := s.ewl.handoffReceived.inc }
        ({ s with ewl := e }).signalRange (bufAddr m.address) m.length
    s.send 0x02 m.src m.address m.chain m.block false []

/-- A block for another member: it is received whole, a retained copy is kept, and it is handed on (R360, R362). -/
def State.passBlock (s : State) (m : Msg) (data : List Byte) : State :=
  if m.ttl = 0 then s.badMessage
  else
    let s := match s.alloc 1 true m.length none m.sealed with
      | .none_ _ t => t
      | .got a _ t =>
        let r : Retained := {
          chain := m.chain, index := m.block, address := m.address, length := m.length, dst := m.dst, sentAt := t.time.elapsed
          acked := true, cue := t.cueNow, copy := bufName true a, sealed := m.sealed, line := 0 }
        let t := t.writeMem true a data
        { t with ewl := { t.ewl with retained := t.ewl.retained ++ [r] } }
    ({ s with ewl := { s.ewl with handoffSent := s.ewl.handoffSent.inc } }).relay m data

/-- BLOCK_ACK (R360): the retained copy of the block waits for nothing more. -/
def State.blockAcked (s : State) (m : Msg) : State :=
  { s with ewl := { s.ewl with retained := s.ewl.retained.map fun r =>
      if r.chain = m.chain && r.index = m.block && r.dst = m.src then { r with acked := true } else r } }

/-- The backup port towards a member, else its primary one (R359). -/
def State.backupPort (s : State) (dst : Nat) : Option Nat :=
  match s.routePorts dst with
  | _ :: p :: _ => some p
  | l => l.head?

/-- BLOCK_ACK_TIMEOUT (R355, R360): no BLOCK_ACK within 20 µs, so the block goes again from its retained copy over the backup port, a
repetition of unit BLOCK_RESEND. -/
def State.blockSilent (s : State) (chain index : Nat) : State :=
  let late := fun (r : Retained) => r.chain = chain && r.index = index && !r.acked && r.sentAt + 20000 ≤ s.time.elapsed
  match s.ewl.retained.find? late with
  | some r =>
    if !s.live then s
    else
      let e := { s.ewl with
        handoffResent := s.ewl.handoffResent.inc
        retained := s.ewl.retained.map fun (x : Retained) => if late x then { x with sentAt := s.time.elapsed } else x }
      let s := ({ s with ewl := e }).sendRetained r (s.backupPort r.dst) r.dst r.address
      match r.sample with
      | some k => s.repeatUnit (.chain k) 0x0E 21000 0 0
      | none => s.trace 4 0 0 0x0E s.cueNow
  | none => s

/-- One retained block sent again to the member that asks (R362): to the address it names, in block order, or to the former one. -/
def State.resendOne (s : State) (m : Msg) (r : Retained) : State :=
  let goal := if m.address = 0 then r.address else m.address + 65536 * (r.index - m.block)
  let e := { s.ewl with
    handoffResent := s.ewl.handoffResent.inc
    retained := s.ewl.retained.map fun (x : Retained) =>
      if x.copy = r.copy then { x with sentAt := s.time.elapsed, acked := false, dst := m.src, address := goal } else x }
  ({ s with ewl := e }).sendRetained r (s.blockPort m.src r.index) m.src goal

/-- A retained block put in its place by BLOCK index. -/
def insertRetained (r : Retained) : List Retained → List Retained
  | [] => [r]
  | d :: l => if r.index < d.index then r :: d :: l else d :: insertRetained r l

/-- RESEND (R362): the chain's retained blocks from BLOCK on go again in index order; a block already freed is named in a REPLY. -/
def State.resendFrom (s : State) (m : Msg) : State :=
  let held := (s.ewl.retained.filter fun r => r.chain = m.chain && m.block ≤ r.index).foldr insertRetained []
  if !s.inCascade || s.memberLost m.src then s
  else if held.any fun r => r.index = m.block then held.foldl (fun (t : State) r => t.resendOne m r) s
  else s.send 0x07 m.src 0 m.chain m.block false ([3] ++ leBytes 4 m.block)

/-! ### Heartbeats -/

/-- What is known of member m. -/
def State.memberOf (s : State) (m : Nat) : Member := agetD s.ewl.table m {}

/-- Member m's record changed. -/
def State.modMember (s : State) (m : Nat) (f : Member → Member) : State :=
  { s with ewl := { s.ewl with table := aset s.ewl.table m (f (s.memberOf m)) } }

/-- The host port is trained and Q0 is ENABLED (R365). -/
def State.hostPortReady (s : State) : Bool := s.host.linkUp && s.ringState 0 = .enabled

/-- A HEARTBEAT's data. -/
def heartbeatBytes (member cue state : Nat) (ready : Bool) : List Byte :=
  leBytes 1 member ++ leBytes 8 cue ++ leBytes 1 state ++ leBytes 1 (b2n ready)

/-- HEARTBEAT_SEND (R365): one each 50 µs, on every UP port. -/
def State.sendHeartbeat (s : State) : State :=
  if !s.live || !s.inCascade || s.time.elapsed < s.ewl.lastHeartbeatSent + 50000 then s
  else
    let q := (s.ewl.heartbeatSeq + 1) % 2 ^ 32
    let s := { s with ewl := { s.ewl with heartbeatSeq := q, lastHeartbeatSent := s.time.elapsed } }
    s.flood (s.header 0x05 0 0 0 q 11 false) (heartbeatBytes s.ewl.member s.cueNow s.host.state.code s.hostPortReady)

/-- HEARTBEAT (R365): one not seen before is recorded, counted when late, and forwarded once on every UP port. -/
def State.heartbeatFrom (s : State) (m : Msg) (cue state : Nat) (ready : Bool) : State :=
  let x := s.memberOf m.src
  let ahead := (m.block + 2 ^ 32 - x.lastSequence % 2 ^ 32) % 2 ^ 32
  if !s.inCascade || m.src = s.ewl.member || x.lost || ahead = 0 || 2 ^ 31 ≤ ahead then s
  else
    let now := s.time.elapsed
    let late := x.lastSequence ≠ 0 && x.lastHeartbeat + 100000 < now
    let s := s.modMember m.src fun y => { y with lastHeartbeat := now, lastSequence := m.block, hostReady := ready }
    let s := { s with ewl := { s.ewl with
      heartbeatLate := if late then s.ewl.heartbeatLate.inc else s.ewl.heartbeatLate
      managerHeard := if m.src = s.ewl.manager then now else s.ewl.managerHeard } }
    if m.ttl = 0 then s else s.flood { m with ttl := m.ttl - 1 } (heartbeatBytes m.src cue state ready)

/-! ### Loss -/

/-- Commands whose acceptance waits for a deputy that is gone go on, in order. -/
def State.resumeHeld (s : State) : State :=
  (s.ewl.mirrorQueue.filterMap fun h => h.command).foldl (fun (t : State) id => t.resumeMirrored id)
    { s with ewl := { s.ewl with mirrorQueue := [], deputyDue := false } }

/-- The cascade is BROKEN (R368, R411): it waits for CASCADE_DISSOLVE. -/
def State.breakCascade (s : State) : State :=
  let e := { s.ewl with cascade := CascadeState.broken, remapBuilt := false, remapRepeat := [], remapMissed := [] }
  let s := { s with ewl := e, playbill := { s.playbill with remapDue := none, remapEvent := none } }
  (s.resumeHeld).playbillDue

/-- Host commands that were sent on to member m. -/
def State.sentTo (s : State) (m : Nat) : List Nat :=
  (s.inflight.filter fun e => match e.2.work with
    | .remote n _ => n = m
    | _ => false).map (·.1)

/-- No member sends to a lost member or expects anything from it (R406); host commands that wait for it complete WRONG_STATE (R35). -/
def State.forget (s : State) (m : Nat) : State :=
  let e := { s.ewl with
    waitingReply := s.ewl.waitingReply.filter fun w => w.1 ≠ m
    retained := s.ewl.retained.map fun (r : Retained) => if r.dst = m then { r with acked := true } else r }
  (s.sentTo m).foldl (fun (t : State) id => t.finish id ⟨.wrongState, 0⟩ 0) { s with ewl := e }

/-- The cascade is REMAPPING for the loss of member m; a second loss joins the remap in progress (R406, R411). -/
def State.beginRemap (s : State) (m : Nat) : State :=
  let first : Bool := s.ewl.cascade ≠ .remapping
  let e := { s.ewl with
    cascade := CascadeState.remapping, remapAt := if first then s.time.elapsed else s.ewl.remapAt
    remapMember := if first then m else s.ewl.remapMember, remapBuilt := false }
  { s with ewl := e, playbill := { s.playbill with remapDue := none, remapEvent := none } }

/-- The deputy is lost (R410): completions that waited for it are written, and a new deputy is due before any further command. -/
def State.loseDeputy (s : State) : State :=
  let s := s.writeHeldCompletions
  { s with ewl := { s.ewl with deputy := none, mirrorSent := [], deputyDue := true } }

/-- Member m is declared LOST (R365, R406): traced and told; fewer than two members left in service break the cascade. -/
def State.declareLost (s : State) (m : Nat) : State :=
  let s := (s.modMember m fun x => { x with lost := true }).trace 10 0 0 m s.ewl.epoch
  let s := if s.ewl.deputy = some m then s.loseDeputy else s
  let s := s.forget m
  if s.otherMembers.isEmpty then s.breakCascade else (s.beginRemap m).tellMembers 0x06 [6, BitVec.ofNat 8 m]

/-- No heartbeat from member m for 200 µs. -/
def State.silent (s : State) (m : Nat) : Bool := (s.memberOf m).lastHeartbeat + 200000 ≤ s.time.elapsed

/-- MEMBER_LOST (R365, R368, R372): the stage manager declares a silent member LOST; another member whose stage manager and deputy are
both silent knows that no takeover is possible. -/
def State.memberSilent (s : State) (m : Nat) : State :=
  if !s.live || !s.inCascade || s.ewl.cascade = .broken || m = s.ewl.member || s.ewl.members ≤ m || s.memberLost m || !s.silent m then s
  else if s.ewl.role = 1 then s.declareLost m
  else if m ≠ s.ewl.manager || s.ewl.role = 2 then s
  else match s.ewl.deputy with
    | some d => if s.silent d then s.breakCascade else s
    | none => s.breakCascade

/-! ### The remap -/

/-- Camera streams whose packets enter through a lost member's ports (R369, R373). -/
def State.strandedCameras (s : State) : List Nat :=
  (s.streams.filter fun e => e.2.kind = .camera && e.2.state = .running && s.memberLost (e.2.camera.port / 16)).map (·.1)

/-- REMAP_PLANS_BUILT (R406 to R408): the streams that the loss takes the input or the place from are PAUSED, the template plan is built
without the lost member, and the Playbill update that ends the remap falls due.  Which chains repeat and which samples cannot is the
firmware's finding. -/
def State.plansBuilt (s : State) (paused repeated missed : List Nat) : State :=
  if s.ewl.role ≠ 1 || s.ewl.cascade ≠ .remapping || s.ewl.remapBuilt then s
  else
    let s := (paused ++ s.strandedCameras).eraseDups.foldl (fun (t : State) n =>
      if (t.streams.any fun e => e.1 = n && e.2.state = .running) then (t.unreserve n).pauseStream n .capacity else t) s
    let s := s.shed
    let e := { s.ewl with remapBuilt := true, remapRepeat := repeated, remapMissed := missed }
    ({ s with ewl := e, playbill := { s.playbill with remapDue := some s.ewl.remapMember } }).playbillDue

/-- REMAP_TIMEOUT (R368, R406): a remap not complete in 800 µs breaks the cascade. -/
def State.remapLate (s : State) : State :=
  if s.ewl.cascade = .remapping && s.ewl.remapAt + 800000 ≤ s.time.elapsed then s.breakCascade else s

/-- The new deputy (R373, R410): the lowest-numbered member in service whose HEARTBEAT reports a ready host port; the state is mirrored
to it in full, and commands held for the former deputy wait for it. -/
def State.nameDeputy (s : State) : State :=
  match s.otherMembers.find? fun m => (s.memberOf m).hostReady with
  | none => s.resumeHeld
  | some d =>
    let held := s.ewl.mirrorQueue.filterMap fun h => h.command
    let e := { s.ewl with deputy := some d, deputyDue := false, mirrorQueue := [], mirrorSent := [] }
    let s := ({ s with ewl := e }).mirrorChanges
    let s := held.foldl (fun (t : State) id => match aget t.inflight id with
      | some f => match f.work with
        | .mirrored p => t.sendMirror (.accepted f.opcode f.fetch p) (some id) none
        | _ => t
      | none => t) s
    s.playbillDue

/-- After the update that ends a remap (R368, R406): a deputy is named where one is due, and the members return to PLAYING. -/
def State.afterRemap (before s : State) : State :=
  if before.ewl.cascade = .remapping && s.ewl.cascade = .playing && s.ewl.role = 1 then
    let s := if s.ewl.deputyDue then s.nameDeputy else s
    s.tellMembers 0x06 [11, BitVec.ofNat 8 (s.ewl.deputy.getD 255)]
  else s

/-! ### Cascade control -/

/-- A COMMAND of formation (R366): this member's number, the deputy, the route table and the time tree, and a step of device time. -/
def State.takeAssignment (s : State) (m : Msg) (member members : Nat) (deputy : Option Nat) (parent port hops : Nat) (step : Int)
    (routes : List (Nat × Nat × Nat)) : State :=
  let now := s.time.elapsed
  let self : Nat × Member := (member, { identity := Config.identity, lastHeartbeat := now, hostReady := s.hostPortReady })
  let known := (upto members).map fun i => (i, ({ s.memberOf i with lastHeartbeat := now } : Member))
  let e := { s.ewl with
    role := if deputy = some member then 2 else 3, member := member, members := members, manager := m.src, deputy := deputy
    timeParent := parent, timePort := port, timeHops := hops, routes := routes, assigned := true, goodExchanges := 0
    epoch := m.epoch, table := aset known self.1 self.2 }
  let s := { s with ewl := e }
  let s := if step = 0 then s else s.stepTime (shifted s.now step)
  (s.playbillDue).send 0x07 m.src 0 0 0 false [0]

/-- A COMMAND of formation for a device, or passed on once towards it: its member number is not known on the way. -/
def State.assignment (s : State) (m : Msg) (identity member members : Nat) (deputy : Option Nat) (parent port hops : Nat) (step : Int)
    (routes : List (Nat × Nat × Nat)) : State :=
  if s.ewl.cascade ≠ .forming then s.badMessage
  else if identity = Config.identity then
    if s.ewl.assigned then s.send 0x07 m.src 0 0 0 false [0] else s.takeAssignment m member members deputy parent port hops step routes
  else if m.ttl = 0 || s.ewl.table.any fun e => e.2.identity = identity then s
  else
    let bytes := assignBytes identity member members deputy
    (s.modMember member fun x => { x with identity := identity }).flood { m with ttl := m.ttl - 1 } bytes

/-- A host command that the stage manager sent on (R35, R368): carried out here once, and answered when it completes. -/
def State.runRemote (s : State) (opcode id : Nat) (p : Packet) : State :=
  if id < s.ewl.remoteSeen then s
  else
    let s := { s with ewl := { s.ewl with remoteSeen := id + 1 } }
    let q : Packet := { p with ring := remoteRing, tag := BitVec.ofNat 32 id }
    match commandOf opcode with
    | some c => settle opcode q (startCommand c q s)
    | none => settle opcode q (.refuse .unknownOpcode s)

/-- What a COMMAND does on a member (R366, R368, R374, R406, R425, R426). -/
def State.carryOut (s : State) (m : Msg) : CascadeControl → State
  | .assign i k n d p q h t r => s.assignment m i k n d p q h t r
  | .enterPlaying r => if s.ewl.cascade = .forming && s.ewl.assigned then s.enterPlaying r else s
  | .deviceStart => if s.host.state = .standby then { s with ewl := { s.ewl with startDue := true } } else s
  | .deviceStop => if s.host.state = .service then s.startDraining else s
  | .dissolve => s.becomeLone
  | .lost k =>
    let s := (s.modMember k fun x => { x with lost := true }).forget k
    let s := if s.ewl.deputy = some k then { s with ewl := { s.ewl with deputy := none } } else s
    if s.ewl.cascade = .broken then s else s.beginRemap k
  | .resumePlaying d =>
    if s.ewl.cascade = .remapping then
      let e := { s.ewl with cascade := CascadeState.playing, deputy := d, role := if d = some s.ewl.member then 2 else 3 }
      ({ s with ewl := e }).playbillDue
    else s
  | .unseal => if s.sec.unsealed then s else s.unsealPixels 0 0
  | .sealPixels => if s.sec.unsealed then s.sealPixels 0 0 0 else s
  | .encodedOutput on => if s.sec.encoded = on then s else s.setEncoded on 0 0 0
  | .hostCommand opcode id p => s.runRemote opcode id p

/-- The COMMAND is one of formation, which ends at the IDENTITY it names. -/
def controlForms : CascadeControl → Bool
  | .assign _ _ _ _ _ _ _ _ _ => true
  | .enterPlaying _ => false
  | .deviceStart => false
  | .deviceStop => false
  | .dissolve => false
  | .lost _ => false
  | .resumePlaying _ => false
  | .unseal => false
  | .sealPixels => false
  | .encodedOutput _ => false
  | .hostCommand _ _ _ => false

/-- COMMAND (R358, R369): from the stage manager of an EPOCH not below this device's, it is answered and carried out. -/
def State.takeCommand (s : State) (m : Msg) (c : CascadeControl) : State :=
  if controlForms c then s.carryOut m c
  else if s.ewl.cascade = CascadeState.none_ || !s.ewl.assigned || !s.fromManager m then s.badMessage
  else (s.send 0x07 m.src 0 0 0 false [0]).carryOut m c

/-- The first element that satisfies p removed. -/
def eraseFirst {α : Type} (p : α → Bool) : List α → List α
  | [] => []
  | a :: l => if p a then l else a :: eraseFirst p l

/-- A member's report of its capacity step (R449): a decision of the cue in which it arrives, traced and told in the Playbill in the
cue before admission uses it (R44, R58).  Which streams on that member no longer fit is the firmware's finding (log entry 50). -/
def State.stepReported (s : State) (m level : Nat) : State :=
  if s.ewl.role ≠ 1 || !s.inCascade then s
  else
    let e := s.cue.edges + (if s.cue.nextEdge < s.now + 200000 then 1 else 0)
    let s := (s.modMember m fun x => { x with step := level, stepEdge := e }).trace 8 0 0 level e
    if e = s.cue.edges then s.playbillDue else s

/-- REPLY (R358, R362, R366, R449): the COMMAND waits no longer; a steady member may complete formation; a host command sent on completes as it
did there.  What firmware does about blocks already freed is in the plans it builds (R408). -/
def State.takeReply (s : State) (m : Msg) : ReplyContent → State
  | .carried => { s with ewl := { s.ewl with waitingReply := eraseFirst (fun w => w.1 = m.src) s.ewl.waitingReply } }
  | .steady => (s.modMember m.src fun x => { x with steady := true }).formComplete
  | .completed id status detail result =>
    match (s.sentTo m.src).find? fun i => i % 2 ^ 32 = id % 2 ^ 32, statusOf status with
    | some i, some st => s.finish i ⟨st, detail⟩ result
    | _, _ => s
  | .freed _ => s
  | .step level => s.stepReported m.src level

/-- REPLY_TIMEOUT (R358): a COMMAND without its REPLY for 100 µs goes again over the backup port. -/
def State.replyLate (s : State) (m : Nat) : State :=
  match s.ewl.waitingReply.find? fun w => w.1 = m && w.2.1 + 100000 ≤ s.time.elapsed with
  | some w =>
    if !s.live || s.ewl.role ≠ 1 then s
    else
      let e := { s.ewl with waitingReply := s.ewl.waitingReply.map fun (x : Nat × Nat × List Byte) =>
        if x = w then (x.1, s.time.elapsed, x.2.2) else x }
      let s := { s with ewl := e }
      match s.backupPort m with
      | some p => s.putMessage p (s.header 0x06 m 0 0 0 w.2.2.length false) w.2.2
      | none => s
  | none => s

/-! ### The mirror -/

/-- The completions of ring q that a newer state of the ring shows as written: as many as its tail has moved. -/
def writtenSince (old new : MirroredRing) : Nat := (new.ctail + 2 ^ new.sizeLog2 - old.ctail % 2 ^ new.sizeLog2) % 2 ^ new.sizeLog2

/-- The first n completions of ring q removed. -/
def dropWritten (q : Nat) : Nat → List MirrorContent → List MirrorContent
  | _, [] => []
  | 0, l => l
  | n + 1, .completed k e :: l => if k = q then dropWritten q n l else .completed k e :: dropWritten q (n + 1) l
  | n + 1, c :: l => c :: dropWritten q (n + 1) l

/-- Two mirror records describe the same object. -/
def sameObject : MirrorContent → MirrorContent → Bool
  | .ring q _, .ring k _ => q = k
  | .stream n _, .stream k _ => n = k
  | .cast h _ _ _ _, .cast k _ _ _ _ => h = k
  | .script h _ _ _, .script k _ _ _ => h = k
  | .grid _ _ _, .grid _ _ _ => true
  | _, _ => false

/-- The acceptance that a completion answers: the oldest of its ring with its FETCH and opcode. -/
def answers (ring opcode fetch : Nat) : MirrorContent → Bool
  | .accepted o f p => p.ring = ring && o = opcode && f = fetch
  | _ => false

/-- A mirrored ring whose command has been accepted: its FETCH and its expected SEQUENCE move on. -/
def acceptedOn (q fetch : Nat) : MirrorContent → MirrorContent
  | .ring k r => if k = q then .ring k { r with fetch := fetch, expected := (r.expected + 1) % 2 ^ 32 } else .ring k r
  | c => c

/-- The mirror with one more record (R371): the newest state of each object, the commands accepted and not completed, and the
completions not yet known to be written. -/
def mirrorWith (l : List MirrorContent) : MirrorContent → List MirrorContent
  | .accepted o f p => l.map (acceptedOn p.ring f) ++ [.accepted o f p]
  | .completed q e =>
    eraseFirst (answers q (e.extractLsb' 192 16).toNat (e.extractLsb' 208 16).toNat) l ++ [.completed q e]
  | .ring q r =>
    let old := l.findSome? fun c => match c with
      | .ring k x => if k = q then some x else none
      | _ => none
    let l := match old with
      | some x => dropWritten q (writtenSince x r) l
      | none => l
    (l.filter fun c => !sameObject (.ring q r) c) ++ [.ring q r]
  | c => (l.filter fun d => !sameObject c d) ++ [c]

/-- MIRROR (R358, R371): the deputy holds the record and says so. -/
def State.takeMirror (s : State) (m : Msg) (c : MirrorContent) : State :=
  if !s.inCascade || !s.fromManager m || s.ewl.role ≠ 2 then s.badMessage
  else ({ s with ewl := { s.ewl with mirrorRecords := mirrorWith s.ewl.mirrorRecords c } }).send 0x09 m.src 0 0 0 false []

/-- MIRROR_ACK (R371): the stage manager goes on with what waited for the oldest record. -/
def State.mirrorHeld (s : State) (m : Msg) : State :=
  match s.ewl.mirrorQueue with
  | [] => s
  | h :: l =>
    if s.ewl.role ≠ 1 || s.ewl.deputy ≠ some m.src then s
    else
      let s := { s with ewl := { s.ewl with mirrorQueue := l } }
      let s := match h.write with
        | some w => s.putCompletion w.1.ring w.1 w.2
        | none => s
      match h.command with
      | some id => s.resumeMirrored id
      | none => s

/-- MIRROR_ACK_TIMEOUT (R371): after 200 µs the deputy is declared LOST. -/
def State.mirrorLate (s : State) : State :=
  match s.ewl.mirrorQueue.head?, s.ewl.deputy with
  | some h, some d => if s.live && s.stageManager && h.sentAt + 200000 ≤ s.time.elapsed then s.declareLost d else s
  | _, _ => s

/-! ### Takeover -/

/-- A mirrored ring as the new stage manager works it (R373): fetching from the mirrored FETCH, writing at the mirrored tail and PHASE;
its doorbells are to be written anew. -/
def adoptRing (r : MirroredRing) : Ring :=
  { state := r.state, cause := r.cause, metadata := r.metadata, fn := r.fn, group := r.group, sizeLog2 := r.sizeLog2
    interruptAll := r.interruptAll, vector := r.vector, submitBase := r.submitBase, completeBase := r.completeBase, tail := r.fetch
    fetch := r.fetch, expected := r.expected, head := r.ctail, ctail := r.ctail, phase := r.phase }

/-- A mirrored stream as the new stage manager runs it. -/
def adoptStream (r : MirroredStream) : Stream :=
  { kind := r.kind, state := r.state, cause := r.cause, ring := r.ring, group := r.group, priority := r.priority, cadence := r.cadence
    phase := r.phase, samples := r.samples, widen := r.widen, metaRing := r.metaRing, cast := r.cast, script := r.script, lag := r.lag
    minInterval := r.minInterval, number := r.number, seed := r.seed, firstCue := r.firstCue, admittedAt := r.admittedAt
    ingestDone := r.ingestDone, decodeDone := r.decodeDone, encodeDone := r.encodeDone, closing := r.closing, decode := r.decode
    encode := r.encode, camera := r.camera, audio := r.audio, jpeg := r.jpeg, outputs := r.outputs, reserved := r.reserved }

/-- A mirrored object adopted (R373). -/
def State.adopt (s : State) : MirrorContent → State
  | .accepted _ _ _ => s
  | .completed _ _ => s
  | .ring q r => { s with rings := aset s.rings q (adoptRing r), groupFn := aset s.groupFn r.group r.fn }
  | .stream n r => { s with streams := aset s.streams n (adoptStream r) }
  | .cast h g d c l => { s with casts := aset s.casts h { group := g, digest := d, content := c, length := l, copies := [] } }
  | .script h g c bytes => { s with scripts := aset s.scripts h { group := g, cast := c, bytes := bytes } }
  | .grid e p pin =>
    { s with cue := { s.cue with
        epoch := e, period := p, source := if pin then CueSource.pin else CueSource.internal, nextEdge := edgeBeyond e p s.now } }

/-- A completion entry's fields read back (Table 13.4). -/
def completionOf (e : BitVec 256) : Option Completion :=
  (statusOf (e.extractLsb' 32 8).toNat).map fun st =>
    { tag := (e.extractLsb' 0 32).toNat, status := st, detail := (e.extractLsb' 40 24).toNat, cue := (e.extractLsb' 64 64).toNat
      result := (e.extractLsb' 128 64).toNat, opcode := (e.extractLsb' 192 16).toNat, fetch := (e.extractLsb' 208 16).toNat
      ring := (e.extractLsb' 224 16).toNat, event := false, phase := e.getLsbD 240 }

/-- An entry goes to its ring; the vector is raised when the ring raises it for all, or the command asked (R340). -/
def State.putOn (s : State) (q : Nat) (c : Completion) (asked : Bool) : State :=
  s.putCompletion q c (asked || (match aget s.rings q with
    | some r => r.interruptAll
    | none => false))

/-- A command of the mirror completed on its adopted ring (R373, R410): with its mirrored completion, or REMAPPED with the lost member. -/
def State.settleMirrored (s : State) (lost : Nat) : MirrorContent → State
  | .completed q e => match completionOf e with
    | some c => s.putOn q c false
    | none => s
  | .accepted o f p =>
    s.putOn p.ring { tag := p.tag.toNat, status := .remapped, detail := lost, cue := s.cueNow, result := 0, opcode := o, fetch := f
                     ring := p.ring, event := false, phase := false } p.interrupt
  | .ring _ _ => s
  | .stream _ _ => s
  | .cast _ _ _ _ _ => s
  | .script _ _ _ _ => s
  | .grid _ _ _ => s

/-- The deputy takes over (R372, R373, R410): the next ROLE_EPOCH, the mirrored state adopted, commands completed, the old stage manager
LOST and the remap begun. -/
def State.takeOver (s : State) : State :=
  let old := s.ewl.manager
  let l := s.ewl.mirrorRecords
  let e := { s.ewl with
    epoch := s.ewl.epoch + 1, role := 1, manager := s.ewl.member, deputy := none, deputyDue := true, remoteSeen := 0
    timeParent := s.ewl.member, timePort := 0, timeHops := 0, mirrorRecords := [], mirrorSent := [], mirrorQueue := [] }
  let s := ({ s with ewl := e }).modMember old fun x => { x with lost := true }
  let s := (s.trace 10 0 0 old s.ewl.epoch).appendLog 0x0D 0 0 (s.ewl.epoch % 2 ^ 32) 0
  let s := l.foldl (fun (t : State) c => t.adopt c) s
  let s := l.foldl (fun (t : State) c => t.settleMirrored old c) s
  let s := s.flood (s.header 0x0A 0 0 0 0 0 false) []
  let s := s.forget old
  if s.otherMembers.isEmpty then s.breakCascade else s.beginRemap old

/-- TAKEOVER_DECISION (R372): with the stage manager silent for 200 µs, the deputy takes over when it has heard more than half of the
other members in service, itself included; otherwise the cascade is BROKEN. -/
def State.decideTakeover (s : State) : State :=
  if !s.live || !s.inCascade || s.ewl.cascade = .broken || s.ewl.role ≠ 2 || s.time.elapsed < s.ewl.managerHeard + 200000 then s
  else
    let others := s.otherMembers.filter (· ≠ s.ewl.manager)
    let heard := (others.filter fun m => !s.silent m).length + 1
    if others.length + 1 < 2 * heard then s.takeOver else s.breakCascade

/-- TAKEOVER (R372, R373): a member takes the new epoch and the new stage manager, its time root, and passes the message on. -/
def State.takenOver (s : State) (m : Msg) : State :=
  if !s.live then s
  else if s.stageManager && s.ewl.epoch < m.epoch then s.enterFaulted clsExpelled (m.epoch % 65536)
  else if m.kind ≠ 0x0A || 65536 < m.length || !s.inCascade then s.badMessage
  else if m.epoch = s.ewl.epoch && m.src = s.ewl.manager then s
  else if m.epoch ≤ s.ewl.epoch || s.ewl.deputy ≠ some m.src then s.badMessage
  else
    let old := s.ewl.manager
    let s := if m.ttl = 0 then s else s.flood { m with ttl := m.ttl - 1 } []
    let e := { s.ewl with
      epoch := m.epoch, manager := m.src, deputy := none, managerHeard := s.time.elapsed, remoteSeen := 0, goodExchanges := 0 }
    let s := ({ s with ewl := e }).modMember old fun x => { x with lost := true }
    let s := s.forget old
    if s.ewl.cascade = CascadeState.broken then s else s.beginRemap old

/-! ### CUE -/

/-- CUE (R61, R363, R364): the grid, a staged period with its edge, or the time of a PIN edge. -/
def State.takeCue (s : State) (m : Msg) (c : CueContent) : State :=
  if !s.inCascade || !s.fromManager m then s
  else match c with
    | .grid e p n =>
      { s with cue := { s.cue with epoch := e, period := p, edges := n + 1, nextEdge := edgeBeyond e p s.now, linkEdgeAt := none } }
    | .staged p at_ => { s with cue := { s.cue with nextPeriod := p, stagedAt := some at_ } }
    | .pinEdge t => { s with cue := { s.cue with linkEdgeAt := some t } }

/-- A CUE message's data. -/
def cueBytes : CueContent → List Byte
  | .grid e p n => leBytes 8 e ++ leBytes 4 p ++ leBytes 8 n
  | .staged p at_ => leBytes 4 p ++ leBytes 8 at_
  | .pinEdge t => leBytes 8 t

/-- A COMMAND's data, as the stage manager put it. -/
def controlBytes : CascadeControl → List Byte
  | .assign i k n d _ _ _ _ _ => assignBytes i k n d
  | .enterPlaying r => [2, BitVec.ofNat 8 (b2n r)]
  | .deviceStart => [3]
  | .deviceStop => [4]
  | .dissolve => [5]
  | .lost k => [6, BitVec.ofNat 8 k]
  | .unseal => [7]
  | .sealPixels => [8]
  | .encodedOutput on => [BitVec.ofNat 8 (9 + b2n on)]
  | .resumePlaying d => [11, BitVec.ofNat 8 (d.getD 255)]
  | .hostCommand o id p => [12] ++ leBytes 2 o ++ leBytes 8 id ++ leBytes 2 p.flags.toNat ++ leBytes 4 p.target.toNat
      ++ leBytes 48 p.params.toNat

/-- A REPLY's data. -/
def replyBytes : ReplyContent → List Byte
  | .carried => [0]
  | .steady => [1]
  | .completed id st d r => [2] ++ leBytes 8 id ++ leBytes 1 st ++ leBytes 3 d ++ leBytes 8 r
  | .freed n => [3] ++ leBytes 4 n
  | .step l => [4] ++ leBytes 1 l

/-! ### The commands -/

/-- BLOCK. -/
def execBlock (dt : Nat) (m : Msg) (data : List Byte) (s : State) : Host.Outcome State Fault Refusal :=
  .next ((s.advance dt).receive m 0x01 (fun t => t.takeBlock m data) fun t => t.passBlock m data)

/-- BLOCK_ACK. -/
def execBlockAck (dt : Nat) (m : Msg) (s : State) : Host.Outcome State Fault Refusal :=
  .next ((s.advance dt).receive m 0x02 (fun t => t.blockAcked m) fun t => t.relay m [])

/-- BLOCK_ACK_TIMEOUT. -/
def execBlockAckTimeout (dt chain index : Nat) (s : State) : Host.Outcome State Fault Refusal :=
  .next ((s.advance dt).blockSilent chain index)

/-- RESEND. -/
def execResend (dt : Nat) (m : Msg) (s : State) : Host.Outcome State Fault Refusal :=
  .next ((s.advance dt).receive m 0x03 (fun t => t.resendFrom m) fun t => t.relay m [])

/-- WRITE (R358). -/
def execWrite (dt : Nat) (m : Msg) (data : List Byte) (s : State) : Host.Outcome State Fault Refusal :=
  .next ((s.advance dt).receive m 0x04
    (fun t => if t.inCascade && t.takesBytes m data then t.land m data else t.badMessage) fun t => t.relay m data)

/-- HEARTBEAT: it ends at every member. -/
def execHeartbeat (dt : Nat) (m : Msg) (cueNumber deviceState : Nat) (hostReady : Bool) (s : State) :
    Host.Outcome State Fault Refusal :=
  .next ((s.advance dt).receive m 0x05 (fun t => t.heartbeatFrom m cueNumber deviceState hostReady) fun t =>
    t.heartbeatFrom m cueNumber deviceState hostReady)

/-- HEARTBEAT_SEND. -/
def execHeartbeatSend (dt : Nat) (s : State) : Host.Outcome State Fault Refusal := .next (s.advance dt).sendHeartbeat

/-- MEMBER_LOST. -/
def execMemberLost (dt member : Nat) (s : State) : Host.Outcome State Fault Refusal := .next ((s.advance dt).memberSilent member)

/-- COMMAND. -/
def execCommand (dt : Nat) (m : Msg) (control : CascadeControl) (s : State) : Host.Outcome State Fault Refusal :=
  .next ((s.advance dt).receive m 0x06 (fun t => t.takeCommand m control) fun t => t.relay m (controlBytes control))

/-- REPLY. -/
def execReply (dt : Nat) (m : Msg) (content : ReplyContent) (s : State) : Host.Outcome State Fault Refusal :=
  .next ((s.advance dt).receive m 0x07 (fun t => t.takeReply m content) fun t => t.relay m (replyBytes content))

/-- REPLY_TIMEOUT. -/
def execReplyTimeout (dt member : Nat) (s : State) : Host.Outcome State Fault Refusal := .next ((s.advance dt).replyLate member)

/-- MIRROR. -/
def execMirror (dt : Nat) (m : Msg) (record : MirrorContent) (s : State) : Host.Outcome State Fault Refusal :=
  .next ((s.advance dt).receive m 0x08 (fun t => t.takeMirror m record) fun t => t.relay m (mirrorBytes record))

/-- MIRROR_ACK. -/
def execMirrorAck (dt : Nat) (m : Msg) (s : State) : Host.Outcome State Fault Refusal :=
  .next ((s.advance dt).receive m 0x09 (fun t => t.mirrorHeld m) fun t => t.relay m [])

/-- MIRROR_ACK_TIMEOUT. -/
def execMirrorAckTimeout (dt : Nat) (s : State) : Host.Outcome State Fault Refusal := .next (s.advance dt).mirrorLate

/-- TAKEOVER_DECISION. -/
def execTakeoverDecision (dt : Nat) (s : State) : Host.Outcome State Fault Refusal := .next (s.advance dt).decideTakeover

/-- TAKEOVER. -/
def execTakeover (dt : Nat) (m : Msg) (s : State) : Host.Outcome State Fault Refusal := .next ((s.advance dt).takenOver m)

/-- CUE. -/
def execCue (dt : Nat) (m : Msg) (content : CueContent) (s : State) : Host.Outcome State Fault Refusal :=
  .next ((s.advance dt).receive m 0x0B (fun t => t.takeCue m content) fun t => t.relay m (cueBytes content))

/-- REMAP_PLANS_BUILT. -/
def execRemapPlansBuilt (dt : Nat) (paused repeated missed : List Nat) (s : State) : Host.Outcome State Fault Refusal :=
  .next ((s.advance dt).plansBuilt paused repeated missed)

/-- REMAP_TIMEOUT. -/
def execRemapTimeout (dt : Nat) (s : State) : Host.Outcome State Fault Refusal := .next (s.advance dt).remapLate

/-- PLAYBILL_UPDATE_COMPLETE. -/
def execPlaybillUpdateComplete (dt : Nat) (s : State) : Host.Outcome State Fault Refusal :=
  let s := s.advance dt
  .next (s.afterRemap s.playbillDone)

end Sys2Proof.Machine
end

