-- ==== Sys2Proof/Machine/Repairs.lean ====
section
/-! DEFINITION. House lines that fail their code (R67 to R73), and DRAM bursts that do (R387 to R392): what is counted, what is rebuilt
from which source, who pays for it, and what ends in FAULTED. -/

namespace Sys2Proof.Machine

open Sys2Proof

/-! ### Charging a rebuild (Table 17.2) -/

/-- The fault class and the unit index of a recompute unit on the unit numbered i. -/
def repairClass (unit i : Nat) : Nat × Nat :=
  if unit = 0x01 then (clsArray, i)
  else if unit = 0x02 || unit = 0x03 then (clsVector, i)
  else if unit = 0x04 then (clsSampler, i)
  else if unit = 0x05 then (clsCodec, 2 * i)
  else if unit = 0x06 then (clsJpeg, i)
  else if unit = 0x07 then (clsScaler, i)
  else if unit = 0x08 then (clsAudio, 0)
  else if unit = 0x09 then (clsCodec, 2 * i + 1)
  else (0, 0)

/-- A repetition recorded on the unit that makes it (R398), and whether its rate is exceeded; DMA, links and decks have no rate. -/
def State.noteRepair (s : State) (unit i : Nat) : State × Bool :=
  let now := s.time.elapsed
  if unit = 0x01 then
    let r := recordRepeat now (s.arrayPart (i / 4) (i % 4)).repeats
    (s.modArrayPart (i / 4) (i % 4) fun q => { q with repeats := r.1 }, r.2)
  else if unit = 0x02 || unit = 0x03 then
    let r := recordRepeat now (s.vecPart (i / 4) (i % 4)).repeats
    (s.modVecPart (i / 4) (i % 4) fun q => { q with repeats := r.1 }, r.2)
  else if unit = 0x04 then
    let r := recordRepeat now (s.samp i).repeats
    (s.modSamp i fun x => { x with repeats := r.1 }, r.2)
  else if unit = 0x05 then
    let r := recordRepeat now (s.codecs.getD i {}).decodeRepeats
    (s.modCodec i fun x => { x with rebuilds := x.rebuilds.inc, decodeRepeats := r.1 }, r.2)
  else if unit = 0x07 then
    let r := recordRepeat now (s.scaler i).repeats
    (s.modScaler i fun x => { x with repeats := r.1 }, r.2)
  else if unit = 0x08 then
    let r := recordRepeat now s.ingest.audioRepeats
    ({ s with ingest := { s.ingest with audioRepeats := r.1 } }, r.2)
  else (s, false)

/-- A rebuild that repeats one unit for a sample: it draws the time it takes, at most `most` or the reserve that is left (R402). -/
def State.chargeRepair (s : State) (k unit i most : Nat) : State :=
  let r := s.noteRepair unit i
  let c := repairClass unit i
  if r.2 then s.enterFaulted c.1 c.2
  else
    let d := r.1.draw
    let left := match aget s.samples k with
      | some m => m.reserveLeft
      | none => 0
    let bound := if most = 0 then left else most
    d.2.repeatUnit (.chain k) unit (Config.freeNat d.1 % (bound + 1)) c.1 c.2

/-- The recompute unit of an expert run, and the number of the unit that it runs on (Table 17.2). -/
def RunWork.repairUnit (r : RunWork) : Nat × Nat :=
  match r.kind with
  | .array => (0x01, 4 * r.unit + r.part)
  | .vector => (0x02, 4 * r.unit + r.part)
  | .sampler => (0x04, r.unit)

/-- A rebuild that repeats one unit of an expert run; a run has no reserve (R82, R398). -/
def State.repairRun (s : State) (id : Nat) : State :=
  match aget s.inflight id with
  | some f => match f.work with
    | .run w =>
      let u := w.repairUnit
      let r := s.noteRepair u.1 u.2
      let c := repairClass u.1 u.2
      if r.2 then s.enterFaulted c.1 c.2 else r.1.repeatUnit (.run id) u.1 0 c.1 c.2
    | _ => s
  | none => s

/-! ### House lines -/

/-- The name of the buffer that holds a House line. -/
def State.lineBuffer (s : State) (line : Nat) : Option Nat :=
  match s.locate false (64 * line) with
  | some (p, k, _) => (aget s.wardrobe.pools p).map fun pool => bufName false (pool.base + k * classBytes pool.cls)
  | none => none

/-- What stands in a House line (Table 4.2). -/
inductive LineContent where
  /-- A strip of a decoded picture, by sample and strip number. -/
  | strip (sample index : Nat)
  /-- A strip from a JPEG unit. -/
  | jpegStrip (sample index : Nat)
  /-- A raw camera strip or an audio sample buffer of a sample: no source. -/
  | raw (sample : Nat)
  /-- A raw camera strip of a frame still open, on a port and virtual channel: no source. -/
  | rawOpen (port vc : Nat)
  /-- Rows that an instruction or a pass wrote: its sample, recompute unit and unit number. -/
  | made (sample unit index : Nat)
  /-- An inbound hand-off block. -/
  | inbound
  /-- A deck of a ring. -/
  | deck (ring : Nat)
  /-- Another buffer of a sample's chain: staged weights. -/
  | staged (sample : Nat)
  /-- Rows that an expert run writes. -/
  | byRun (id : Nat)
  /-- Written by the host, or by a copy: no source. -/
  | hostWritten
  deriving DecidableEq, Repr

/-- The strip or sample buffer of a sample that a buffer is. -/
def State.sampleContent (s : State) (w : Nat) : Option LineContent :=
  s.samples.findSome? fun e =>
    let kind := match aget s.streams e.2.stream with
      | some st => st.kind
      | none => .camera
    match e.2.strips.findIdx? (· = w) with
    | some i => some (match kind with
        | .decode => .strip e.1 i
        | .jpeg => .jpegStrip e.1 i
        | .camera => .raw e.1
        | .audio => .raw e.1
        | .encode => .raw e.1)
    | none =>
      if e.2.buffer = some w && kind = .audio then some (.raw e.1) else none

/-- The open camera frame whose strips hold a buffer. -/
def State.openContent (s : State) (w : Nat) : Option LineContent :=
  ((upto 16).zip s.ingest.ports).findSome? fun e => e.2.open_.findSome? fun f =>
    if f.2.buffers.contains w then some (.rawOpen e.1 f.1) else none

/-- The newest writer tile that holds a line. -/
def State.tileContent (s : State) (line : Nat) : Option LineContent :=
  (s.scoreboard.filter fun e => e.2.rows ≠ 0 && e.2.line ≤ line && line < e.2.line + e.2.pitch * (e.2.rows - 1) + e.2.width).getLast?.map
    fun e => .made e.2.sample e.2.unit e.2.index

/-- The content of a House line, by what the state knows of its buffer. -/
def State.lineContent (s : State) (line : Nat) : LineContent :=
  match s.lineBuffer line with
  | none => .hostWritten
  | some w =>
    match ((s.sampleContent w).orElse fun _ => s.openContent w).orElse fun _ => s.tileContent line with
    | some c => c
    | none =>
      if s.ewl.received.any (fun r => bufAddr r.2.2 ≤ 64 * line + 63 && 64 * line < bufAddr r.2.2 + 65536
          && s.lineBuffer (bufAddr r.2.2 / 64) = some w) then .inbound
      else match s.rings.find? fun e => (match e.2.deck with
          | some d => d.buffer = some w
          | none => false) with
        | some e => .deck e.1
        | none => match s.samples.find? fun e => e.2.buffers.contains w with
          | some e => .staged e.1
          | none => match (s.heldBuf w).bind fun b => b.writer with
            | some x => if x % 2 = 0 then .byRun (x / 2) else .staged (x / 2)
            | none => .hostWritten

/-- A strip of a decoded picture is decoded again (R252) on its stream's cluster. -/
def State.repairStrip (s : State) (k strip : Nat) : State :=
  match (upto 4).find? fun c => (match s.rebuildSample c strip with
    | some (k', _) => k' = k
    | none => false) with
  | some c => s.stripRebuild c strip
  | none =>
    let c := match (aget s.samples k).bind fun m => aget s.streams m.stream with
      | some st => st.decode.cluster.getD 0
      | none => 0
    s.chargeRepair k 0x05 c 0

/-- A strip of a JPEG unit is decoded again (R280), on the unit that works on the image or the first one. -/
def State.repairJpeg (s : State) (k : Nat) : State :=
  match aget s.samples k with
  | none => s
  | some m =>
    let u := ((upto 2).find? fun u => (match (s.jpegUnit u).work with
      | some j => j.sample = k
      | none => false)).getD 0
    s.jpegRebuild u k m

/-- Whether a line's content has a source (R73). -/
def rebuildable : LineContent → Bool
  | .raw _ => false
  | .rawOpen _ _ => false
  | .hostWritten => false
  | .strip _ _ => true
  | .jpegStrip _ _ => true
  | .made _ _ _ => true
  | .inbound => true
  | .deck _ => true
  | .staged _ => true
  | .byRun _ => true

/-- The rebuild of a line's content begins, or its owner learns that it has no source (R69, R73, Table 4.2). -/
def State.repairContent (s : State) (line : Nat) : LineContent → State
  | .strip k i => s.repairStrip k i
  | .jpegStrip k _ => s.repairJpeg k
  | .raw k => s.markCorrupt k 0x7A 0
  | .rawOpen n vc => { s with ingest := { s.ingest with ports := modAt s.ingest.ports n fun p => { p with
      open_ := amod p.open_ vc fun f => { f with corrupt := if f.corrupt.isSome then f.corrupt else some 0x7A } } } }
  | .made k unit i => s.chargeRepair k unit i 0
  | .inbound => s.trace 4 0 0 0x0E s.cueNow
  | .deck _ => s.trace 4 0 0 0x10 s.cueNow
  | .staged k => s.chargeRepair k 0x0A 0 0
  | .byRun id => s.repairRun id
  | .hostWritten => { s with house := { s.house with poisonedLines := line :: s.house.poisonedLines.filter (· ≠ line) } }

/-- The operation that read a failing line stops, and starts again from its beginning once the line is clean (R68): an array or vector
instruction, a sampler word, a picture's encoding. -/
def State.stopReader (s : State) (reader unit part : Nat) : State :=
  if reader = 0 then
    s.modArrayPart unit part fun q => match q.queue with
      | [] => q
      | j :: l => { q with
          queue := { j with phase := .queued, restarted := true } :: l.map fun x => { x with phase := .queued }, shadow := none }
  else if reader = 1 then
    let n := (headGroup (s.vecPart unit part).queue).length
    s.modVecPart unit part fun q => { q with
      queue := (q.queue.take n).map (fun x => { x with phase := .queued, restarted := true }) ++ q.queue.drop n }
  else if reader = 2 then (if part = 1 then s.reencode unit false else s)
  else if reader = 3 then
    s.modScaler unit fun c => { c with work := c.work.map fun w => { w with recomputed := true } }
  else if reader = 9 then
    s.modSamp unit fun x => { x with queue := match x.queue with
      | [] => []
      | j :: l => { j with issued := false, restarted := true } :: l.map fun y => { y with issued := false } }
  else s

/-- A mismatch counted, in all and for its bank, and shown (Table 4.3). -/
def House.countMismatch (h : House) (line reader now : Nat) : House :=
  let b := bankOf line
  { h with
    errors := h.errors.inc, errorLine := line, errorBank := b, errorReader := reader
    bankErrors := aset h.bankErrors b ((agetD h.bankErrors b {}).add 16 1)
    bankTimes := ((b, now) :: h.bankTimes).filter fun e => now < e.2 + 1000000000 }

/-- A line fails its check on a read: counted, and more than 16 mismatches on one bank within 1,000 ms are a persistent fault (R71). -/
def State.noteMismatch (s : State) (line reader : Nat) : State :=
  let b := bankOf line
  let h := s.house.countMismatch line reader s.time.elapsed
  let h := { h with bad := if h.poisonedLines.contains line || h.bad.contains line then h.bad else line :: h.bad }
  let s := { s with house := h }
  if 16 < (h.bankTimes.filter fun e => e.1 = b).length then s.enterFaulted clsHouse b else s

/-- A BAR2 read of the House completes poisoned: counted, and what its bytes are is free (R72). -/
def State.poisonedHouseRead (s : State) (n : Nat) : State :=
  let d := s.draw
  { d.2 with
    house := { s.house with poisonReads := s.house.poisonReads.inc }
    lastReadBytes := (upto n).map (Config.freeByte d.1), lastReadPoisoned := true }

/-- HOUSE_LINE_MISMATCH (R68 to R73): counted; a line with a source is rebuilt and its reader starts again; one that the host reads
stays as it is, and the read completes poisoned. -/
def State.lineMismatch (s : State) (line reader unit part : Nat) : State :=
  if !s.live then s
  else
    let h := s.house
    let s := s.noteMismatch line reader
    if reader = 8 then s.poisonedHouseRead 64
    else if !s.live || h.poisonedLines.contains line || h.rebuilding.any (fun e => e.1 = line) then s
    else
      let c := s.lineContent line
      let s := s.stopReader reader unit part
      let s := s.repairContent line c
      if rebuildable c && s.live then
        { s with house := { s.house with rebuilding := (line, reader, unit, part) :: s.house.rebuilding } }
      else s

/-- LINE_REBUILD_COMPLETE (R68, R71): the line stands again with a fresh code; one that fails its next check shows a faulty bank. -/
def State.lineRebuilt (s : State) (line : Nat) (failsAgain : Bool) : State :=
  if !s.live || !(s.house.rebuilding.any fun e => e.1 = line) then s
  else if failsAgain then s.enterFaulted clsHouse (bankOf line)
  else { s with house := { s.house with
    rebuilding := s.house.rebuilding.filter fun e => e.1 ≠ line, bad := s.house.bad.filter (· ≠ line) } }

/-! ### DRAM bursts -/

/-- Extents that share a byte with a burst of a DRAM buffer named w. -/
def State.inBuffer (s : State) (w address : Nat) : Bool :=
  match s.locate true address, s.locate true (bufAddr w) with
  | some (p, k, _), some (q, j, _) => bufDram w && p = q && k = j
  | _, _ => false

/-- A lost burst of a reference frame (R253): its frame buffer is DAMAGED, and the cluster that decodes the stream counts it. -/
def State.refLost (s : State) (address : Nat) : State :=
  s.streams.foldl (fun (t : State) e =>
    if e.2.frames.any (fun f => f.buffers.any fun w => s.inBuffer w address) then
      let c := ((upto 4).find? fun c => (match (s.codecs.getD c {}).decoding with
        | some j => (match aget s.samples j.sample with
            | some m => m.stream = e.1
            | none => false)
        | none => false)).getD (e.2.decode.cluster.getD 0)
      let mark := fun (f : FrameBuf) => if f.buffers.any (fun w => s.inBuffer w address) then { f with damaged := true } else f
      let t := t.modStream e.1 fun st => { st with frames := st.frames.map mark }
      if e.2.kind = .decode then t.modCodec c fun x => { x with refErrors := x.refErrors.inc } else t
    else t) s

/-- A lost burst of an audio history (Table 16.4): the history of the channel it lies in restarts empty. -/
def State.historyLost (s : State) (address : Nat) : State :=
  s.streams.foldl (fun (t : State) e => match e.2.history with
    | some w =>
      let n := e.2.audio.history * melBytes e.2.audio
      if s.inBuffer w address && n ≠ 0 then
        let c := (address - bufAddr w) / n
        t.writeMem true (bufAddr w + c * n) (List.replicate n 0)
      else t
    | none => t) s

/-- The retained copy that holds a burst. -/
def State.retainedAt (s : State) (address : Nat) : Option Retained := s.ewl.retained.find? fun r => s.inBuffer r.copy address

/-- The House block that a retained copy was made from is still held (Table 16.4). -/
def State.stillHeld (s : State) (r : Retained) : Bool :=
  r.line ≠ 0 && (s.heldBuf (64 * r.line)).isSome && s.readMem false (64 * r.line) r.length = s.readMem true (bufAddr r.copy) r.length

/-- The DEGRADED outcome of a sample that lost a history or a track table. -/
def State.degradeFor (s : State) (sample : Option Nat) (cause : Nat) : State :=
  match sample with
  | some k => s.modSample k fun m => m.reach ⟨.degraded, cause⟩
  | none => s

/-- The burst at an address is lost no more. -/
def State.burstHeld (s : State) (address : Nat) : State :=
  { s with dram := { s.dram with lostBursts := s.dram.lostBursts.filter fun e => e.1 ≠ address / 64 } }

/-- What becomes of a lost burst, by its content (Table 16.4). -/
def State.burstLost (s : State) (address content : Nat) (sample : Option Nat) : State :=
  if content = 1 then
    match sample with
    | some k => s.chargeRepair k 0x0C 0 (if s.inCascade then 20000 else 2000)
    | none => s
  else if content = 4 then s.refLost address
  else if content = 5 then
    match sample with
    | some k =>
      let s := { s with jpegs := s.jpegs.map fun (u : JpegUnit) => match u.work with
        | some j => if j.sample = k then { u with work := none } else u
        | none => u }
      s.markCorrupt k 0x7A 0
    | none => s
  else if content = 6 then (s.historyLost address).degradeFor sample 0x81
  else if content = 7 then s.degradeFor sample 0x82
  else if content = 8 then
    match s.retainedAt address with
    | some r =>
      if s.stillHeld r then s
      else
        let s := s.releaseName r.copy
        { s with ewl := { s.ewl with retained := s.ewl.retained.filter fun x => x.copy ≠ r.copy } }
    | none => s
  else if content = 9 then
    let s := s.burstHeld address
    { s with dram := { s.dram with poisonedBursts := address / 64 :: s.dram.poisonedBursts.filter (· ≠ address / 64) } }
  else s

/-- A lost burst counted and shown (R388, R390); more than 16 on a channel within 1,000 ms is a persistent fault. -/
def Dram.countLost (d : Dram) (address content now : Nat) : Dram :=
  let ch := channelOf d.grain address
  { d with
    lost := d.lost.inc, lostLast := address, lostChannel := ch, lostContent := content
    dieLost := aset d.dieLost (ch / 16) ((agetD d.dieLost (ch / 16) {}).inc)
    lostBursts := (address / 64, content) :: d.lostBursts.filter fun e => e.1 ≠ address / 64
    channelTimes := ((ch, now) :: d.channelTimes).filter fun e => now < e.2 + 1000000000 }

/-- More than 16 bursts of a channel lost within the last 1,000 ms (R390). -/
def Dram.faulty (d : Dram) (ch : Nat) : Bool := 16 < (d.channelTimes.filter fun e => e.1 = ch).length

/-- A burst is lost: counted, then treated by its content, or the channel is faulty. -/
def State.loseBurst (s : State) (address content : Nat) (sample : Option Nat) : State :=
  let s := { s with dram := s.dram.countLost address content s.time.elapsed }
  if s.dram.faulty (channelOf s.dram.grain address) then s.enterFaulted clsDram (channelOf s.dram.grain address)
  else s.burstLost address content sample

/-- DRAM_READ_CRC_FAILURE (R387, R388, R391): one or two failed reads are made good by a refetch; three lose the burst; a poisoned burst
is delivered as lost without refetch and is not counted again. -/
def State.readFails (s : State) (address content failed : Nat) (sample : Option Nat) : State :=
  let a := address / 64 * 64
  if !s.live || s.dram.selfRefresh then s
  else if s.dram.poisonedBursts.contains (a / 64) then (if content = 9 then s else s.burstLost a content sample)
  else
    let ch := channelOf s.dram.grain a
    let s := { s with dram := { s.dram with
      channelErrors := aset s.dram.channelErrors ch ((agetD s.dram.channelErrors ch {}).inc) } }
    if failed < 3 then
      let s := { s with dram := { s.dram with refetched := s.dram.refetched.inc } }
      match sample with
      | some k => s.chargeRepair k 0x0B 0 500
      | none => s
    else s.loseBurst a content sample

/-- DRAM_BURST_REBUILD_COMPLETE (R389, R390): the burst stands again from its source with a fresh code; a failed read-back is a
persistent fault. -/
def State.burstRebuilt (s : State) (address : Nat) (readBackOk : Bool) : State :=
  match s.dram.lostBursts.find? fun e => e.1 = address / 64 with
  | none => s
  | some e =>
    if !s.live || !([1, 2, 8].contains e.2) then s
    else
      let s := { s with dram := { s.dram with rebuilt := s.dram.rebuilt.inc } }
      if readBackOk then s.burstHeld address
      else s.enterFaulted clsDram (channelOf s.dram.grain address)

/-- DRAM_WRITE_CODE_ERROR (R392): a write that arrives failing its line code is refused and counted; the second failure of the same
write is a persistent fault. -/
def State.writeCodeError (s : State) (address : Nat) (second : Bool) : State :=
  if !s.live then s
  else
    let s := { s with dram := { s.dram with writeCodeErrors := s.dram.writeCodeErrors.inc } }
    if second then s.enterFaulted clsDram (channelOf s.dram.grain address) else s

/-! ### The commands -/

/-- HOUSE_LINE_MISMATCH. -/
def execHouseLineMismatch (dt line reader unit part : Nat) (s : State) : Host.Outcome State Fault Refusal :=
  .next ((s.advance dt).lineMismatch line reader unit part)

/-- LINE_REBUILD_COMPLETE. -/
def execLineRebuildComplete (dt line : Nat) (failsAgain : Bool) (s : State) : Host.Outcome State Fault Refusal :=
  .next ((s.advance dt).lineRebuilt line failsAgain)

/-- DRAM_READ_CRC_FAILURE. -/
def execDramReadCrcFailure (dt address content failed : Nat) (sample : Option Nat) (s : State) : Host.Outcome State Fault Refusal :=
  .next ((s.advance dt).readFails address content failed sample)

/-- DRAM_BURST_REBUILD_COMPLETE. -/
def execDramBurstRebuildComplete (dt address : Nat) (readBackOk : Bool) (s : State) : Host.Outcome State Fault Refusal :=
  .next ((s.advance dt).burstRebuilt address readBackOk)

/-- DRAM_WRITE_CODE_ERROR. -/
def execDramWriteCodeError (dt address : Nat) (second : Bool) (s : State) : Host.Outcome State Fault Refusal :=
  .next ((s.advance dt).writeCodeError address second)

end Sys2Proof.Machine
end

