-- ==== Sys2Proof/Machine/HostPort.lean ====
section
/-! DEFINITION. What the host does to the device over PCI Express beside commands: doorbells (R298, R299), register writes and reads (R8,
R9, R337), Q0's set-up (R347), windows and ring ranges (R336, R339), BAR2 (R63, R72, R74, R391), configuration (R333, R340, R446),
refused posted writes (R343) and Function Level Reset (R345, R346). -/

namespace Sys2Proof.Machine

open Sys2Proof

/-! ### Access -/

/-- The function answers memory requests: the device runs, the link is up, the function is enabled and in D0 (R333, R446). -/
def State.answers (s : State) (fn : Nat) : Bool := s.powered && s.host.linkUp && s.fnEnabled fn && !(s.fnOf fn).d3hot

/-- The function answers configuration requests (R334). -/
def State.configurable (s : State) (fn : Nat) : Bool := s.powered && s.host.linkUp && s.fnEnabled fn

/-- An access that is not accepted, or is dropped, is counted (R337). -/
def State.badAccess (s : State) : State := { s with host := { s.host with badAccess := s.host.badAccess.inc } }

/-- A doorbell or BAR2 access puts REST off (R445). -/
def State.noteAccess (s : State) : State := { s with pwr := { s.pwr with lastAccess := s.time.elapsed } }

/-- A write to a BAR: it wakes the link (R332) and ends REST (R445), then has its effect. -/
def State.barWrite (s : State) (fn : Nat) (f : State → State) : State :=
  if s.answers fn then f (s.wakeLink.leaveRest) else s

/-- A write that only PF0 can make: no block window lies in a VF's BAR0 (Table 14.3, R9). -/
def State.blockWrite (s : State) (fn : Nat) (f : State → State) : State :=
  s.barWrite fn fun t => if fn = 0 then f t else t

/-! ### Doorbells (R298, R299) -/

/-- A doorbell write dropped and counted on its page. -/
def State.dropDoorbell (s : State) (q : Nat) : State :=
  let r : Ring := agetD s.rings q {}
  { s with rings := aset s.rings q { r with dropped := r.dropped.inc } }

/-- Ring q is the accessing function's (R337). -/
def State.ownsPage (s : State) (fn q : Nat) : Bool := q < 16384 && s.rangeOwner q = fn

/-- RING_SUBMIT:TAIL (R299). -/
def State.writeTail (s : State) (fn q value : Nat) : State :=
  let v := value % 65536
  if s.host.state = .faulted then s
  else if !s.ownsPage fn q then s.dropDoorbell q
  else match aget s.rings q with
    | none => s.dropDoorbell q
    | some r =>
      if r.state ≠ .enabled || r.metadata then s.dropDoorbell q
      else if r.size ≤ v then s.haltRing q causeTailRange
      else s.modRing q fun r => { r with tail := v }

/-- RING_COMPLETE:HEAD after a write: never past a slot the device has not written (R299). -/
def Ring.headAfter (r : Ring) (v : Nat) : Nat :=
  if v < r.size && (v + r.size - r.head % r.size) % r.size ≤ (r.ctail + r.size - r.head % r.size) % r.size then v else r.ctail

/-- RING_COMPLETE:HEAD (R299); slots of Q0 that come free take held events (R316). -/
def State.writeHead (s : State) (fn q value : Nat) : State :=
  if s.host.state = .faulted then s
  else if !s.ownsPage fn q then s.dropDoorbell q
  else match aget s.rings q with
    | none => s.dropDoorbell q
    | some r =>
      if r.state = .disabled then s.dropDoorbell q
      else
        let s := s.modRing q fun r => { r with head := r.headAfter (value % 65536) }
        if q = 0 then s.flushEvents else s

/-! ### Q0's set-up (R347) -/

/-- ENABLE 1: Q0 moves from DISABLED to ENABLED as a ring created by RING_CREATE would; 1 written over 1 changes nothing. -/
def State.adminOn (s : State) : State :=
  let h := s.host
  if h.adminEnable then s
  else if !s.live || s.ringState 0 ≠ .disabled then s.badAccess
  else
    let s := s.freeDeck 0
    let r : Ring := { state := .enabled, group := 1, sizeLog2 := h.adminSize, interruptAll := h.adminInterrupt, vector := h.adminVector
                      submitBase := h.adminSubmit, completeBase := h.adminComplete }
    ({ s with rings := aset s.rings 0 r, host := { s.host with adminEnable := true } }).flushEvents

/-- ENABLE 0: legal when Q0 is DISABLED, or HALTED with no uncompleted command. -/
def State.adminOff (s : State) : State :=
  if !s.host.adminEnable then s
  else if s.ringState 0 = .disabled || (s.ringState 0 = .halted && s.uncompleted 0 = 0) then
    let s := s.modRing 0 fun r => { r with state := .disabled, cause := 0 }
    { s with host := { s.host with adminEnable := false } }
  else s.badAccess

/-- RESET 1: a HALTED Q0 is reset, once its accepted commands have completed (R302). -/
def State.adminRestart (s : State) : State :=
  if s.live && s.ringState 0 = .halted then
    ({ s with host := { s.host with adminResetDue := true } }).settleAdminReset
  else s.badAccess

/-- A write of the whole ADMIN_CONTROL word. -/
def State.writeAdmin (s : State) (v : Nat) : State :=
  let size := bitsOf v 4 4
  let irq := bitOf v 8
  let vector := bitsOf v 16 11
  let h := s.host
  if h.adminEnable then
    if size ≠ h.adminSize || irq ≠ h.adminInterrupt || vector ≠ h.adminVector then s.badAccess
    else if bitOf v 1 then s.adminRestart
    else if bitOf v 0 then s
    else s.adminOff
  else if bitOf v 1 then s.badAccess
  else
    let h := { h with
      adminSize := if 6 ≤ size then size else h.adminSize, adminInterrupt := irq, adminVector := vector }
    let h := if 16 < h.adminSize then s.host else h
    let s := { s with host := h }
    if bitOf v 0 then s.adminOn else s

/-! ### Windows and ranges (R336, R339) -/

/-- A function's BAR2 window base set, unless it is misaligned or out of range. -/
def State.setWindow (s : State) (fn value : Nat) : State :=
  let z := 2 ^ (s.fnOf fn).bar2Log2
  if value % z = 0 && value ≤ 2 ^ 36 - z then s.modFn fn fun f => { f with window := value } else s.badAccess

/-- A range of rings that overlaps another VF's. -/
def State.rangeTaken (s : State) (vf first count : Nat) : Bool :=
  s.host.fns.any fun e => e.1 ≠ 0 && e.1 ≠ vf && e.2.ringCount ≠ 0 && count ≠ 0
    && first < e.2.ringFirst + e.2.ringCount && e.2.ringFirst < first + count

/-- A ring inside VF vf's range is ENABLED or HALTED. -/
def State.rangeInUse (s : State) (vf : Nat) : Bool :=
  let f := s.fnOf vf
  s.rings.any fun e => e.2.state ≠ .disabled && f.ringFirst ≤ e.1 && e.1 < f.ringFirst + f.ringCount

/-- VF_RINGS (R339): a VF's range, which its Playbill shows (R29). -/
def State.setRange (s : State) (vf first count : Nat) : State :=
  if vf = 0 || 63 < vf then s
  else if s.host.vfEnable || 1024 < count || (count ≠ 0 && (first = 0 || 16384 < first + count)) || s.rangeTaken vf first count
      || s.rangeInUse vf then s.badAccess
  else (s.modFn vf fun f => { f with ringFirst := first, ringCount := count }).playbillDue

/-! ### SEC, PWR and TIME (R47, R418, R423, R455) -/

/-- CAST_KEY_HASH of slots 0 to 7 (R423): PF0's until the slots are locked. -/
def State.setCastKey (s : State) (fn slot : Nat) (value : Word256) : State :=
  if 8 ≤ slot then s
  else if fn ≠ 0 || s.sec.locked then s.badAccess
  else { s with sec := { s.sec with castKeys := modAt s.sec.castKeys slot fun _ => value } }

/-- CAST_KEYS:LOCK 1 (R423): logged with the slots that name a key. -/
def State.lockCastKeys (s : State) (fn : Nat) : State :=
  if fn ≠ 0 then s.badAccess
  else if s.sec.locked then s
  else
    let keys := s.sec.castKeys
    let mask := sumNat ((keys.zip (upto 8)).map fun e => if e.1 = 0 then 0 else 2 ^ e.2)
    let s := s.appendLog 0x0B 0 0 mask (sha3 (keys.flatMap bytes256))
    { s with sec := { s.sec with locked := true } }

/-- BOOT_PUSH:GO 1 (R418): a check begins, in WAIT_HOST and with none running. -/
def State.pushGo (s : State) : State :=
  if s.booting 5 && !s.sec.pushRunning then { s with sec := { s.sec with pushRunning := true } } else s

/-- LIMIT:WATTS (R455). -/
def State.setLimit (s : State) (watts : Nat) : State :=
  if 150 ≤ watts && watts ≤ 450 then { s with pwr := { s.pwr with limit := watts } } else s.badAccess

/-! ### MSI-X tables (R340) -/

/-- A vector's pending message is sent when it is not masked. -/
def State.settleVector (s : State) (fn v : Nat) : State :=
  let e : MsixEntry := agetD (s.fnOf fn).msix v {}
  if e.pending && !e.masked then
    { s.modFn fn fun f => { f with msix := aset f.msix v { e with pending := false } } with outputs := .interrupt fn v :: s.outputs }
  else s

/-- Vectors of a function. -/
def vectorsOf (fn : Nat) : Nat := if fn = 0 then 2048 else 32

/-- A word of a function's MSI-X table written; other offsets change nothing. -/
def State.writeMsix (s : State) (fn o w : Nat) : State :=
  let v := o / 16
  if vectorsOf fn ≤ v then s
  else
    let e : MsixEntry := agetD (s.fnOf fn).msix v {}
    let e := match o % 16 with
      | 0 => { e with address := w + 2 ^ 32 * (e.address / 2 ^ 32) }
      | 4 => { e with address := e.address % 2 ^ 32 + 2 ^ 32 * w }
      | 8 => { e with data := w }
      | _ => { e with masked := bitOf w 0 }
    (s.modFn fn fun f => { f with msix := aset f.msix v e }).settleVector fn v

/-- MSIX_UNMASK. -/
def State.unmask (s : State) (fn v : Nat) : State :=
  if vectorsOf fn ≤ v then s
  else
    let e : MsixEntry := agetD (s.fnOf fn).msix v {}
    (s.modFn fn fun f => { f with msix := aset f.msix v { e with masked := false } }).settleVector fn v

/-! ### Register writes (R8, R9, R337) -/

/-- A 64-bit field with one 32-bit half written. -/
def withHalf (old k w : Nat) : Nat :=
  if k % 8 < 4 then old / 2 ^ 32 * 2 ^ 32 + w else old % 2 ^ 32 + 2 ^ 32 * w

/-- A base of Q0 written while ENABLE is 0: bits [5:0] read as zero (Table 14.5). -/
def State.setAdminBase (s : State) (complete : Bool) (value : Nat) : State :=
  if s.host.adminEnable then s.badAccess
  else
    let b := value / 64 * 64
    { s with host := if complete then { s.host with adminComplete := b } else { s.host with adminSubmit := b } }

/-- A word of the HOST window written. -/
def State.writeHost (s : State) (o w : Nat) : State :=
  if o = 0xC then s.writeAdmin w
  else if o = 0x10 || o = 0x14 then s.setAdminBase false (withHalf s.host.adminSubmit o w)
  else if o = 0x18 || o = 0x1C then s.setAdminBase true (withHalf s.host.adminComplete o w)
  else if o = 0x20 || o = 0x24 then s.setWindow 0 (withHalf (s.fnOf 0).window o w)
  else if 0x108 ≤ o && o < 0x300 && o % 8 = 0 then s.setRange ((o - 0x100) / 8) (bitsOf w 0 14) (bitsOf w 16 11)
  else if 0x408 ≤ o && o < 0x600 then s.setWindow ((o - 0x400) / 8) (withHalf (s.fnOf ((o - 0x400) / 8)).window o w)
  else if 0x80000 ≤ o && o < 0x88000 then s.writeMsix 0 (o - 0x80000) w
  else s

/-- A whole 64-bit field of the HOST window written. -/
def State.writeHost64 (s : State) (o v : Nat) : State :=
  if o = 0x10 then s.setAdminBase false v
  else if o = 0x18 then s.setAdminBase true v
  else if o = 0x20 then s.setWindow 0 v
  else s.setWindow ((o - 0x400) / 8) v

/-- Offsets of the writable 64-bit fields of the HOST window. -/
def hostWide (o : Nat) : Bool := o = 0x10 || o = 0x18 || o = 0x20 || (0x408 ≤ o && o < 0x600 && o % 8 = 0)

/-- A word of the SEC window written. -/
def State.writeSec (s : State) (o w : Nat) : State :=
  if o = 0x7C then (if bitOf w 0 then s.lockCastKeys 0 else s)
  else if 0x80 ≤ o && o < 0x180 then
    let k := (o - 0x80) / 32
    let i := (o - 0x80) % 32 / 4
    let old := (s.sec.castKeys.getD k 0).toNat
    s.setCastKey 0 k (BitVec.ofNat 256 (old - bitsOf old (32 * i) 32 * 2 ^ (32 * i) + w * 2 ^ (32 * i)))
  else if o = 0x180 then { s with sec := { s.sec with pushLength := bitsOf w 0 25 } }
  else if o = 0x184 then (if bitOf w 0 then s.pushGo else s)
  else s

/-- A word of a block window written: every register but these is read-only or not listed, and ignores it (R8, R9). -/
def State.writeBlock (s : State) (b : Block19) (o w : Nat) : State :=
  match b with
  | .host => s.writeHost o w
  | .sec => s.writeSec o w
  | .pwr => if o = 4 then s.setLimit (bitsOf w 0 10) else s
  | .time => if o = 0x18 && bitOf w 2 then { s with time := { s.time with ppsLost := false } } else s
  | .cue => s
  | .house => s
  | .wardrobe => s
  | .array _ => s
  | .vec _ => s
  | .samp _ => s
  | .codec _ => s
  | .ingest => s
  | .jpeg => s
  | .scale => s
  | .dram => s
  | .ewl => s
  | .obs => s
  | .mgmt => s

/-- The block window and the offset in it of a BAR0 offset (R19). -/
def windowAt (offset : Nat) : Option (Block19 × Nat) :=
  if offset < 0x4000000 then none else (blockAt ((offset - 0x4000000) / 0x100000)).map fun b => (b, offset % 0x100000)

/-- A 4- or 8-byte write of BAR0 above the doorbell pages. -/
def State.writeWindow (s : State) (fn offset size value : Nat) : State :=
  let words := if size = 4 then [(offset, value % 2 ^ 32)] else [(offset, value % 2 ^ 32), (offset + 4, value / 2 ^ 32 % 2 ^ 32)]
  if fn ≠ 0 then
    words.foldl (fun (t : State) e => if 0x4000000 ≤ e.1 && e.1 < 0x4000200 then t.writeMsix fn (e.1 - 0x4000000) e.2 else t) s
  else match windowAt offset with
    | none => s
    | some (b, o) =>
      if size = 8 && b = .host && hostWide o then s.writeHost64 o value
      else words.foldl (fun (t : State) e => t.writeBlock b (e.1 % 0x100000) e.2) s

/-- A write to a doorbell page: TAIL, HEAD, or an offset that is not listed. -/
def State.writePage (s : State) (fn q o w : Nat) : State :=
  let s := s.noteAccess
  if o = 0 then s.writeTail fn q w else if o = 8 then s.writeHead fn q w
  else if s.host.state ≠ .faulted && !s.ownsPage fn q then s.dropDoorbell q else s

/-- REGISTER_WRITE (R8, R9, R337): one access counts once in BAD_ACCESS, whatever it meets. -/
def State.writeRegister (s : State) (fn offset size value : Nat) : State :=
  if (size ≠ 4 && size ≠ 8) || offset % size ≠ 0 then s.badAccess
  else
    let t := if offset < 0x4000000 then s.writePage fn (offset / 0x1000) (offset % 0x1000) value
      else s.writeWindow fn offset size value
    if t.host.badAccess = s.host.badAccess then t else { t with host := { t.host with badAccess := s.host.badAccess.inc } }

/-! ### Register reads -/

/-- A word of a doorbell page, and the state once an RC field of it is read (Table 13.1). -/
def State.readPageWord (s : State) (q o : Nat) : Nat × State :=
  let r : Ring := agetD s.rings q {}
  match o with
  | 0x10 => (r.state.code + 4 * b2n r.metadata + 16 * (if r.state = .halted then r.cause else 0) + 65536 * r.fetch, s)
  | 0x14 => (r.expected, s)
  | 0x18 => (r.ctail, s)
  | 0x1C => (r.dropped.val, s.modRing q fun r => { r with dropped := r.dropped.clear })
  | _ => (0, s)

/-- One 32-bit word of a function's BAR0. -/
def State.readBar0Word (s : State) (fn offset : Nat) : Nat × State :=
  if offset < 0x4000000 then s.readPageWord (offset / 0x1000) (offset % 0x1000)
  else if fn ≠ 0 then
    if offset < 0x4000200 then (msixWord (s.fnOf fn) (offset - 0x4000000), s)
    else if 0x4001000 ≤ offset && offset < 0x4001004 then (pbaWord (s.fnOf fn) 0 32, s)
    else (0, s)
  else match windowAt offset with
    | none => (0, s)
    | some (b, o) => s.readWord b o

/-- The value of a read (model: what the host gets). -/
def State.gotValue (s : State) (v : Nat) : State := { s with lastRead := BitVec.ofNat 64 v }

/-- READ_CLEAR (R8, R337): a BAR0 read of 4 or 8 bytes; RC fields it covers are cleared, and latching fields latch. -/
def State.readRegister (s : State) (fn offset size : Nat) : State :=
  if (size ≠ 4 && size ≠ 8) || offset % size ≠ 0 then s.badAccess.gotValue 0
  else
    let s := if offset < 0x4000000 then s.noteAccess else s
    if offset < 0x4000000 && !s.ownsPage fn (offset / 0x1000) then s.badAccess.gotValue 0
    else
      let lo := s.readBar0Word fn offset
      if size = 4 then lo.2.gotValue lo.1
      else
        let hi := lo.2.readBar0Word fn (offset + 4)
        hi.2.gotValue (lo.1 + 2 ^ 32 * hi.1)

/-- A read of a BAR: it wakes the link, then has its effect. -/
def State.barRead (s : State) (fn : Nat) (f : State → State) : State := if s.answers fn then f s.wakeLink else s

/-- The BAR0 offset of a register of a block window. -/
def windowOffset (block o : Nat) : Nat := 0x4000000 + 0x100000 * block + o

/-! ### BAR2 (R63, R72, R74, R336, R337, R391) -/

/-- What a BAR2 offset reaches. -/
inductive Bar2 where
  | memory (dram : Bool) (address : Nat)
  | nothing
  deriving DecidableEq, Repr

/-- The address that offset x of a function's BAR2 reaches (R336). -/
def State.bar2At (s : State) (fn x : Nat) : Bar2 :=
  let a := (s.fnOf fn).window + x
  if 2 ^ (s.fnOf fn).bar2Log2 ≤ x then .nothing
  else if a < dramBytes then .memory true a
  else if 0xF00000000 ≤ a && a < 0xF00000000 + houseBytes then .memory false (a - 0xF00000000)
  else .nothing

/-- The address behaves as one in a sealed buffer for a function (R74, R396, R405, R418, R425). -/
def State.sealedFor (s : State) (fn : Nat) (dram : Bool) (a : Nat) : Bool :=
  if s.host.state = .faulted then true
  else if s.host.state = .boot then !(s.booting 5 && fn = 0 && !dram && a < 0x1001000)
  else if dram && (firmwareBase ≤ a || s.dram.filling) then true
  else match s.locate dram a with
    | none => fn ≠ 0
    | some (p, k, _) =>
      let sealed : Bool := match s.bufAt p k with
        | some b => b.sealed
        | none => false
      if fn = 0 then sealed && !s.sec.unsealed
      else sealed || !(match (aget s.wardrobe.pools p).bind fun pool => pool.owner with
        | some g => s.groupOwner g = some fn
        | none => false)

/-- The 64-byte lines or bursts that n bytes from a touch. -/
def linesOf (a n : Nat) : List Nat := (upto ((a + n - 1) / 64 + 1 - a / 64)).map fun i => a / 64 + i

/-- A House line whose code fails. -/
def State.lineFails (s : State) (l : Nat) : Bool := s.house.bad.contains l || s.house.poisonedLines.contains l

/-- A DRAM burst that is lost or poisoned. -/
def State.burstFails (s : State) (l : Nat) : Bool :=
  s.dram.poisonedBursts.contains l || s.dram.lostBursts.any fun e => e.1 = l

/-- A BAR2 access of n bytes at an offset that R337 accepts. -/
def bar2Accepted (x n : Nat) : Bool := 1 ≤ n && n ≤ 512 && x % 4096 + n ≤ 4096

/-- The bytes of a BAR2 read (model: what the host gets). -/
def State.gotBytes (s : State) (bs : List Byte) : State := { s with lastReadBytes := bs, lastReadPoisoned := false }

/-- BAR2_READ. -/
def State.readBar2 (s : State) (fn x n : Nat) : State :=
  let zeros := List.replicate n (0 : Byte)
  if !bar2Accepted x n then s.badAccess.gotBytes zeros
  else
    let s := s.noteAccess
    match s.bar2At fn x with
    | .nothing => s.gotBytes zeros
    | .memory dram a =>
      let s := if dram then s.exitSelfRefresh else s
      if s.sealedFor fn dram a then
        let s := s.gotBytes zeros
        if dram then { s with dram := { s.dram with sealedReads := s.dram.sealedReads.inc } }
        else { s with house := { s.house with sealedReads := s.house.sealedReads.inc } }
      else if dram then
        if (linesOf a n).any s.burstFails then
          let d := s.draw
          { d.2 with
            dram := { s.dram with poisonReads := s.dram.poisonReads.inc }
            lastReadBytes := (upto n).map (Config.freeByte d.1), lastReadPoisoned := true }
        else s.gotBytes (s.readMem true a n)
      else match (linesOf a n).filter s.lineFails with
        | [] => s.gotBytes (s.readMem false a n)
        | l => (l.foldl (fun (t : State) i => t.noteMismatch i 8) s).poisonedHouseRead n

/-- The line is written in part by n bytes from a. -/
def partOf (a n l : Nat) : Bool := !(a ≤ 64 * l && 64 * l + 64 ≤ a + n)

/-- A partial write meets a House line whose check fails: the merged line is poisoned (R72). -/
def State.poisonLine (s : State) (l : Nat) : State :=
  { s with house := { s.house with
      poisoned := s.house.poisoned.inc
      poisonedLines := if s.house.poisonedLines.contains l then s.house.poisonedLines else l :: s.house.poisonedLines } }

/-- A partial write meets a DRAM burst that its read finds lost: counted as lost unless it was poisoned already, and the merged burst
is poisoned (R391). -/
def State.poisonBurst (s : State) (l : Nat) : State :=
  if s.dram.poisonedBursts.contains l then { s with dram := { s.dram with poisoned := s.dram.poisoned.inc } }
  else
    let content := match s.dram.lostBursts.find? fun e => e.1 = l with
      | some e => e.2
      | none => 9
    let d := s.dram.countLost (64 * l) content s.time.elapsed
    let d := { d with
      poisoned := d.poisoned.inc, poisonedBursts := l :: d.poisonedBursts, lostBursts := d.lostBursts.filter fun e => e.1 ≠ l }
    let s := { s with dram := d }
    if d.faulty (channelOf d.grain (64 * l)) then s.enterFaulted clsDram (channelOf d.grain (64 * l)) else s

/-- BAR2_WRITE. -/
def State.writeBar2 (s : State) (fn x : Nat) (data : List Byte) (poisoned : Bool) : State :=
  let n := data.length
  if poisoned then { s with host := { s.host with poisonedIn := s.host.poisonedIn.inc } }
  else if !bar2Accepted x n then s.badAccess
  else
    let s := s.noteAccess
    match s.bar2At fn x with
    | .nothing => s
    | .memory dram a =>
      let s := if dram then s.exitSelfRefresh else s
      if s.sealedFor fn dram a then
        if dram then { s with dram := { s.dram with sealedWrites := s.dram.sealedWrites.inc } }
        else { s with house := { s.house with sealedWrites := s.house.sealedWrites.inc } }
      else
        let failing := (linesOf a n).filter fun l => partOf a n l && (if dram then s.burstFails l else s.lineFails l)
        failing.foldl (fun (t : State) l => if dram then t.poisonBurst l else t.poisonLine l) (s.writeMem dram a data)

/-! ### Refused posted writes (R343, Table 14.4) -/

/-- The first output that f accepts, and the outputs without it. -/
def takeOutput (f : Output → Bool) : List Output → Option (Output × List Output)
  | [] => none
  | o :: l => if f o then some (o, l) else (takeOutput f l).map fun r => (r.1, o :: r.2)

/-- The posted write that an output is. -/
def Output.isWrite (w : PostedWrite) (o : Output) : Bool :=
  match w, o with
  | .completion q, .completion q' _ c => q = q' && !c.event
  | .event, .completion q' _ c => q' = 0 && c.event
  | .record q, .record q' _ _ _ => q = q'
  | _, _ => false

/-- The ring halts with cause WRITE; the slot stays the next one to be written. -/
def State.refuseOn (s : State) (q slot : Nat) (phase : Bool) : State :=
  s.modRing q fun r =>
    if r.state = .disabled then r else { r with state := .halted, cause := causeWrite, ctail := slot, phase := phase }

/-- POSTED_WRITE_REFUSED: the newest such write is not made; an event is held again. -/
def State.refuseWrite (s : State) (w : PostedWrite) : State :=
  match takeOutput (Output.isWrite w) s.outputs with
  | none => s
  | some (o, rest) =>
    let s := { s with outputs := rest, host := { s.host with writeRefused := s.host.writeRefused.inc } }
    match o with
    | .completion q slot c =>
      let s := s.refuseOn q slot c.phase
      if c.event then { s with events := Event.mk c.opcode c.status c.detail c.result c.cue :: s.events } else s
    | .record q slot phase _ => s.refuseOn q slot phase
    | .interrupt _ _ => s
    | .hostBytes _ _ => s
    | .hostRead _ _ => s
    | .message _ _ _ => s
    | .cueOut => s
    | .frame _ => s

/-! ### Function Level Reset (R345, R346) -/

/-- A function's configuration space at its reset values, its vectors masked; a VF's ring range and window stay. -/
def Fn.reset (f : Fn) : Fn := { window := f.window, ringFirst := f.ringFirst, ringCount := f.ringCount }

/-- An accepted command stops and completes nothing: what it held is let go, what it was writing is left with bytes that the manual does
not state. -/
def State.stopCommand (s : State) (id : Nat) : State :=
  match aget s.inflight id with
  | none => s
  | some f =>
    let s := { s with inflight := adel s.inflight id }
    match f.work with
    | .hostRead _ _ _ buffers => buffers.foldl (fun (t : State) w => t.releaseName w) s
    | .copy _ dst n _ dh _ =>
      let s := s.unregister (ownerId (.run id))
      if dh then s
      else
        let d := s.draw
        d.2.writeMem (bufDram dst) (bufAddr dst) ((upto n).map (Config.freeByte d.1))
    | .run r => s.endRun id f.ring r ⟨.done, 0⟩
    | .feed _ _ _ (some w) _ => s.releaseName w
    | .firmwareStage image slotB _ =>
      let d := s.draw
      { d.2 with sec := s.sec.setFlash slotB ((upto image.length).map (Config.freeByte d.1)) }
    | .dramInterleave _ =>
      let s := s.zeroMem true 0 firmwareBase
      { s with dram := { s.dram with filling := false } }
    | .cascadeForm _ _ _ => if s.ewl.cascade = .forming then s.formFails .timeout else s
    | _ => s

/-- A stream is CLOSED at once: its samples stop and their unwritten records are discarded (R345 step 3). -/
def State.closeNow (s : State) (n : Nat) : State :=
  match aget s.streams n with
  | none => s
  | some st =>
    let s := s.dropOpenFrames st
    let ks := (s.samples.filter fun e => e.2.stream = n).map (·.1)
    let s := ks.foldl (fun (t : State) k => let t := (t.dropChain k).releaseSample k; { t with samples := adel t.samples k }) s
    (s.modStream n fun x => { x with closing := true }).closeIfDone n

/-- The groups that belong to a function. -/
def State.groupsOf (s : State) (fn : Nat) : List Nat := (upto 1024).filter fun g => s.groupOwner g = some fn

/-- Every buffer that one of the groups holds is freed (R345 step 4). -/
def State.freeGroups (s : State) (groups : List Nat) : State :=
  let held := s.wardrobe.pools.flatMap fun e =>
    (e.2.bufs.filter fun b => b.2.state = .held && groups.contains b.2.group).map fun b => (e.1, b.1)
  let s := held.foldl (fun (t : State) e => t.freeBuf e.1 e.2) s
  { s with ewl := { s.ewl with retained := s.ewl.retained.filter fun r => (s.heldBuf r.copy).isSome } }

/-- What a Function Level Reset does to a function's rings and objects (R345 steps 2 to 6). -/
def State.resetObjects (s : State) (fn : Nat) : State :=
  let groups := s.groupsOf fn
  let mine := fun (q : Nat) => decide (s.ringFn q = fn) && (aget s.rings q).isSome
  let ids := (s.inflight.filter fun e => mine e.2.ring).map (·.1)
  let streams := (s.streams.filter fun e => mine e.2.ring).map (·.1)
  let rings := (s.rings.filter fun e => e.2.fn = fn).map (·.1)
  let s := ids.foldl (fun (t : State) id => t.stopCommand id) s
  let s := streams.foldl (fun (t : State) n => t.closeNow n) s
  let s := rings.foldl (fun (t : State) q => t.freeDeck q) s
  let s := s.freeGroups groups
  let s := { s with
    casts := s.casts.filter fun e => !groups.contains e.2.group
    scripts := s.scripts.filter fun e => !groups.contains e.2.group
    rings := s.rings.map fun (e : Nat × Ring) =>
      (e.1, if e.2.fn = fn then { e.2 with state := .disabled, cause := 0, scalars := List.replicate 64 0 } else e.2) }
  s.settleSeals

/-- The device is in BOOT or FAULTED, where a Function Level Reset resets configuration space only (R346). -/
def State.configOnly (s : State) : Bool := s.host.state = .boot || s.host.state = .faulted

/-- FUNCTION_LEVEL_RESET_VF (R345). -/
def State.resetVf (s : State) (vf : Nat) : State :=
  let s := s.modFn vf Fn.reset
  if s.configOnly then s else s.resetObjects vf

/-- VF Enable cleared: every VF is reset (R346). -/
def State.removeVfs (s : State) : State :=
  if !s.host.vfEnable then s
  else
    let s := ((upto s.host.numVfs).map (· + 1)).foldl (fun (t : State) v => t.resetVf v) s
    { s with host := { s.host with vfEnable := false } }

/-- The HOST registers whose Reset column says FLR at their reset values (Table 14.5). -/
def HostBlk.flr (h : HostBlk) : HostBlk :=
  { h with
    adminEnable := false, adminSize := 6, adminInterrupt := true, adminVector := 0, adminSubmit := 0, adminComplete := 0
    adminResetDue := false
    fns := h.fns.map fun (e : Nat × Fn) => (e.1, { e.2 with window := 0, ringFirst := 0, ringCount := 0 }) }

/-- FUNCTION_LEVEL_RESET_PF (R346): logged as SEALED and ENCODED_OFF with ARG 1 (R426). -/
def State.resetPf (s : State) : State :=
  let s := s.removeVfs
  let s := s.modFn 0 Fn.reset
  let s := { s with host := { s.host with numVfs := 0 } }
  if s.configOnly then s
  else
    let s := s.resetObjects 0
    let s := ((s.sealPixels 0 0 1).tellMembers 0x06 [8]).setEncoded false 0 0 1
    let s := s.tellMembers 0x06 [9]
    { s with host := s.host.flr }

/-- VF_ENABLE_WRITE (R333): the number of VFs is taken when VF Enable goes to 1; without an ARI Capable Hierarchy at most 7. -/
def State.writeVfEnable (s : State) (enable : Bool) (numVfs : Nat) (ari : Bool) : State :=
  if !enable then s.removeVfs
  else if s.host.vfEnable || 63 < numVfs then s
  else { s with host := { s.host with vfEnable := true, ari := ari, numVfs := if ari then numVfs else min numVfs 7 } }

/-! ### The commands -/

/-- POSTED_WRITE_REFUSED. -/
def execPostedWriteRefused (dt : Nat) (what : PostedWrite) (s : State) : Host.Outcome State Fault Refusal :=
  .next ((s.advance dt).refuseWrite what)

/-- RING_SUBMIT_TAIL_WRITE. -/
def execRingSubmitTailWrite (dt fn ring value : Nat) (s : State) : Host.Outcome State Fault Refusal :=
  .next ((s.advance dt).barWrite fn fun t => t.noteAccess.writeTail fn ring value)

/-- RING_COMPLETE_HEAD_WRITE. -/
def execRingCompleteHeadWrite (dt fn ring value : Nat) (s : State) : Host.Outcome State Fault Refusal :=
  .next ((s.advance dt).barWrite fn fun t => t.noteAccess.writeHead fn ring value)

/-- ADMIN_ENABLE. -/
def execAdminEnable (dt fn : Nat) (s : State) : Host.Outcome State Fault Refusal :=
  .next ((s.advance dt).blockWrite fn State.adminOn)

/-- ADMIN_DISABLE. -/
def execAdminDisable (dt fn : Nat) (s : State) : Host.Outcome State Fault Refusal :=
  .next ((s.advance dt).blockWrite fn State.adminOff)

/-- ADMIN_RESET. -/
def execAdminReset (dt fn : Nat) (s : State) : Host.Outcome State Fault Refusal :=
  .next ((s.advance dt).blockWrite fn State.adminRestart)

/-- BAR2_WINDOW_BASE_WRITE. -/
def execBar2WindowBaseWrite (dt fn value : Nat) (s : State) : Host.Outcome State Fault Refusal :=
  .next ((s.advance dt).blockWrite fn fun t => t.setWindow 0 value)

/-- VF_WINDOW_BASE_WRITE. -/
def execVfWindowBaseWrite (dt fn vf value : Nat) (s : State) : Host.Outcome State Fault Refusal :=
  .next ((s.advance dt).blockWrite fn fun t => if 1 ≤ vf && vf ≤ 63 then t.setWindow vf value else t)

/-- VF_RINGS_WRITE. -/
def execVfRingsWrite (dt fn vf first count : Nat) (s : State) : Host.Outcome State Fault Refusal :=
  .next ((s.advance dt).blockWrite fn fun t => t.setRange vf first count)

/-- CAST_KEY_HASH_WRITE. -/
def execCastKeyHashWrite (dt fn slot : Nat) (value : Word256) (s : State) : Host.Outcome State Fault Refusal :=
  .next ((s.advance dt).barWrite fn fun t => t.setCastKey fn slot value)

/-- CAST_KEYS_LOCK. -/
def execCastKeysLock (dt fn : Nat) (s : State) : Host.Outcome State Fault Refusal :=
  .next ((s.advance dt).barWrite fn fun t => t.lockCastKeys fn)

/-- BOOT_PUSH_GO. -/
def execBootPushGo (dt fn : Nat) (s : State) : Host.Outcome State Fault Refusal :=
  .next ((s.advance dt).blockWrite fn State.pushGo)

/-- LIMIT_WATTS_WRITE. -/
def execLimitWattsWrite (dt fn watts : Nat) (s : State) : Host.Outcome State Fault Refusal :=
  .next ((s.advance dt).blockWrite fn fun t => t.setLimit watts)

/-- REGISTER_WRITE. -/
def execRegisterWrite (dt fn offset size : Nat) (value : Word64) (s : State) : Host.Outcome State Fault Refusal :=
  .next ((s.advance dt).barWrite fn fun t => t.writeRegister fn offset size value.toNat)

/-- READ_CLEAR. -/
def execReadClear (dt fn offset size : Nat) (s : State) : Host.Outcome State Fault Refusal :=
  .next ((s.advance dt).barRead fn fun t => t.readRegister fn offset size)

/-- NOW_LO_READ (R45). -/
def execNowLoRead (dt fn : Nat) (s : State) : Host.Outcome State Fault Refusal :=
  .next ((s.advance dt).barRead fn fun t => t.readRegister fn (windowOffset 40 0) 4)

/-- PPS_LO_READ (R45). -/
def execPpsLoRead (dt fn : Nat) (s : State) : Host.Outcome State Fault Refusal :=
  .next ((s.advance dt).barRead fn fun t => t.readRegister fn (windowOffset 40 0x10) 4)

/-- NUMBER_LO_READ (R49). -/
def execNumberLoRead (dt fn : Nat) (s : State) : Host.Outcome State Fault Refusal :=
  .next ((s.advance dt).barRead fn fun t => t.readRegister fn (windowOffset 1 8) 4)

/-- BAR2_READ. -/
def execBar2Read (dt fn offset length : Nat) (s : State) : Host.Outcome State Fault Refusal :=
  .next ((s.advance dt).barRead fn fun t => t.readBar2 fn offset length)

/-- BAR2_WRITE. -/
def execBar2Write (dt fn offset : Nat) (data : List Byte) (poisoned : Bool) (s : State) : Host.Outcome State Fault Refusal :=
  .next ((s.advance dt).barWrite fn fun t => t.writeBar2 fn offset data poisoned)

/-- FUNCTION_LEVEL_RESET_VF. -/
def execFunctionLevelResetVf (dt vf : Nat) (s : State) : Host.Outcome State Fault Refusal :=
  let s := s.advance dt
  .next (if vf ≠ 0 && s.configurable vf then s.resetVf vf else s)

/-- FUNCTION_LEVEL_RESET_PF. -/
def execFunctionLevelResetPf (dt : Nat) (s : State) : Host.Outcome State Fault Refusal :=
  let s := s.advance dt
  .next (if s.configurable 0 then s.resetPf else s)

/-- D3HOT_ENTRY (R446). -/
def execD3hotEntry (dt fn : Nat) (s : State) : Host.Outcome State Fault Refusal :=
  let s := s.advance dt
  .next (if s.configurable fn then s.modFn fn fun f => { f with d3hot := true } else s)

/-- D3HOT_EXIT (R446). -/
def execD3hotExit (dt fn : Nat) (s : State) : Host.Outcome State Fault Refusal :=
  let s := s.advance dt
  .next (if s.configurable fn then s.modFn fn fun f => { f with d3hot := false } else s)

/-- VF_ENABLE_WRITE. -/
def execVfEnableWrite (dt : Nat) (enable : Bool) (numVfs : Nat) (ari : Bool) (s : State) : Host.Outcome State Fault Refusal :=
  let s := s.advance dt
  .next (if s.configurable 0 then s.writeVfEnable enable numVfs ari else s)

/-- BUS_MASTER_ENABLE_WRITE (R343). -/
def execBusMasterEnableWrite (dt fn : Nat) (enable : Bool) (s : State) : Host.Outcome State Fault Refusal :=
  let s := s.advance dt
  .next (if s.configurable fn then s.modFn fn fun f => { f with busMaster := enable } else s)

/-- MSIX_UNMASK. -/
def execMsixUnmask (dt fn vector : Nat) (s : State) : Host.Outcome State Fault Refusal :=
  .next ((s.advance dt).barWrite fn fun t => t.unmask fn vector)

end Sys2Proof.Machine
end

