-- ==== Sys2Proof/Machine/Dispatch.lean ====
section
/-! DEFINITION. One arm per command: its meaning, or its name where it has none. -/

namespace Sys2Proof.Machine

open Sys2Proof

def exec (i : Instr) (s : State) : Host.Outcome State Fault Refusal :=
  match i with
  | .nop dt p => Sys2Proof.Machine.execNop dt p s
  | .deviceStart dt p => Sys2Proof.Machine.execDeviceStart dt p s
  | .deviceStop dt p => Sys2Proof.Machine.execDeviceStop dt p s
  | .ringCreate dt p => Sys2Proof.Machine.execRingCreate dt p s
  | .ringDestroy dt p => Sys2Proof.Machine.execRingDestroy dt p s
  | .ringReset dt p => Sys2Proof.Machine.execRingReset dt p s
  | .ringResetTakesEffect dt id => Sys2Proof.Machine.execRingResetTakesEffect dt id s
  | .streamDeclare dt p => Sys2Proof.Machine.execStreamDeclare dt p s
  | .streamAdmit dt p => Sys2Proof.Machine.execStreamAdmit dt p s
  | .streamStart dt p => Sys2Proof.Machine.execStreamStart dt p s
  | .streamPause dt p => Sys2Proof.Machine.execStreamPause dt p s
  | .streamResume dt p => Sys2Proof.Machine.execStreamResume dt p s
  | .streamClose dt p => Sys2Proof.Machine.execStreamClose dt p s
  | .streamQuery dt p => Sys2Proof.Machine.execStreamQuery dt p s
  | .castLoad dt p => Sys2Proof.Machine.execCastLoad dt p s
  | .castUnload dt p => Sys2Proof.Machine.execCastUnload dt p s
  | .scriptLoad dt p => Sys2Proof.Machine.execScriptLoad dt p s
  | .scriptUnload dt p => Sys2Proof.Machine.execScriptUnload dt p s
  | .cueSetPeriod dt p => Sys2Proof.Machine.execCueSetPeriod dt p s
  | .cueSetEpoch dt p => Sys2Proof.Machine.execCueSetEpoch dt p s
  | .cueSetSource dt p => Sys2Proof.Machine.execCueSetSource dt p s
  | .timeSteer dt p => Sys2Proof.Machine.execTimeSteer dt p s
  | .timeStep dt p => Sys2Proof.Machine.execTimeStep dt p s
  | .timePps dt p => Sys2Proof.Machine.execTimePps dt p s
  | .poolCreate dt p => Sys2Proof.Machine.execPoolCreate dt p s
  | .poolDestroy dt p => Sys2Proof.Machine.execPoolDestroy dt p s
  | .poolReserve dt p => Sys2Proof.Machine.execPoolReserve dt p s
  | .bufferAlloc dt p => Sys2Proof.Machine.execBufferAlloc dt p s
  | .bufferFree dt p => Sys2Proof.Machine.execBufferFree dt p s
  | .memoryCopy dt p => Sys2Proof.Machine.execMemoryCopy dt p s
  | .memoryCopyComplete dt id data => Sys2Proof.Machine.execMemoryCopyComplete dt id data s
  | .arraySplit dt p => Sys2Proof.Machine.execArraySplit dt p s
  | .arrayRun dt p => Sys2Proof.Machine.execArrayRun dt p s
  | .arrayTest dt p => Sys2Proof.Machine.execArrayTest dt p s
  | .arrayTestComplete dt id wrong => Sys2Proof.Machine.execArrayTestComplete dt id wrong s
  | .vecSplit dt p => Sys2Proof.Machine.execVecSplit dt p s
  | .vecScalars dt p => Sys2Proof.Machine.execVecScalars dt p s
  | .vecRun dt p => Sys2Proof.Machine.execVecRun dt p s
  | .vecTest dt p => Sys2Proof.Machine.execVecTest dt p s
  | .vecTestComplete dt id wrong => Sys2Proof.Machine.execVecTestComplete dt id wrong s
  | .randomSeed dt p => Sys2Proof.Machine.execRandomSeed dt p s
  | .sampleRun dt p => Sys2Proof.Machine.execSampleRun dt p s
  | .randomTest dt p => Sys2Proof.Machine.execRandomTest dt p s
  | .decodeConfigure dt p => Sys2Proof.Machine.execDecodeConfigure dt p s
  | .encodeConfigure dt p => Sys2Proof.Machine.execEncodeConfigure dt p s
  | .encodeSetRate dt p => Sys2Proof.Machine.execEncodeSetRate dt p s
  | .encodeForceIntra dt p => Sys2Proof.Machine.execEncodeForceIntra dt p s
  | .decodeRefresh dt p => Sys2Proof.Machine.execDecodeRefresh dt p s
  | .codecTest dt p => Sys2Proof.Machine.execCodecTest dt p s
  | .codecTestComplete dt id wrong => Sys2Proof.Machine.execCodecTestComplete dt id wrong s
  | .csi2PortSet dt p => Sys2Proof.Machine.execCsi2PortSet dt p s
  | .ingestConfigure dt p => Sys2Proof.Machine.execIngestConfigure dt p s
  | .feed dt p => Sys2Proof.Machine.execFeed dt p s
  | .feedCopyComplete dt id data => Sys2Proof.Machine.execFeedCopyComplete dt id data s
  | .feedTimeout dt id => Sys2Proof.Machine.execFeedTimeout dt id s
  | .ingestTest dt p => Sys2Proof.Machine.execIngestTest dt p s
  | .ingestTestComplete dt id wrong => Sys2Proof.Machine.execIngestTestComplete dt id wrong s
  | .cascadeForm dt p => Sys2Proof.Machine.execCascadeForm dt p s
  | .cascadeDissolve dt p => Sys2Proof.Machine.execCascadeDissolve dt p s
  | .linkTest dt p => Sys2Proof.Machine.execLinkTest dt p s
  | .linkTestComplete dt id corrected uncorrectable => Sys2Proof.Machine.execLinkTestComplete dt id corrected uncorrectable s
  | .attestReport dt p => Sys2Proof.Machine.execAttestReport dt p s
  | .attestReportWritten dt id refused => Sys2Proof.Machine.execAttestReportWritten dt id refused s
  | .pixelsUnseal dt p => Sys2Proof.Machine.execPixelsUnseal dt p s
  | .pixelsSeal dt p => Sys2Proof.Machine.execPixelsSeal dt p s
  | .encodedOutput dt p => Sys2Proof.Machine.execEncodedOutput dt p s
  | .firmwareStage dt p => Sys2Proof.Machine.execFirmwareStage dt p s
  | .firmwareStageProgrammed dt id ok => Sys2Proof.Machine.execFirmwareStageProgrammed dt id ok s
  | .traceSet dt p => Sys2Proof.Machine.execTraceSet dt p s
  | .countersSnapshot dt p => Sys2Proof.Machine.execCountersSnapshot dt p s
  | .dramInterleave dt p => Sys2Proof.Machine.execDramInterleave dt p s
  | .dramInterleaveComplete dt id => Sys2Proof.Machine.execDramInterleaveComplete dt id s
  | .dramTest dt p => Sys2Proof.Machine.execDramTest dt p s
  | .dramTestComplete dt id wrong refetched lost => Sys2Proof.Machine.execDramTestComplete dt id wrong refetched lost s
  | .submissionFetch dt entry => Sys2Proof.Machine.execSubmissionFetch dt entry s
  | .submissionFetchTimeout dt errorAnswer => Sys2Proof.Machine.execSubmissionFetchTimeout dt errorAnswer s
  | .hostReadTimeout dt id errorAnswer => Sys2Proof.Machine.execHostReadTimeout dt id errorAnswer s
  | .postedWriteRefused dt what => Sys2Proof.Machine.execPostedWriteRefused dt what s
  | .metadataRecordWrite dt sample => Sys2Proof.Machine.execMetadataRecordWrite dt sample s
  | .ringSubmitTailWrite dt fn ring value => Sys2Proof.Machine.execRingSubmitTailWrite dt fn ring value s
  | .ringCompleteHeadWrite dt fn ring value => Sys2Proof.Machine.execRingCompleteHeadWrite dt fn ring value s
  | .adminEnable dt fn => Sys2Proof.Machine.execAdminEnable dt fn s
  | .adminDisable dt fn => Sys2Proof.Machine.execAdminDisable dt fn s
  | .adminReset dt fn => Sys2Proof.Machine.execAdminReset dt fn s
  | .bar2WindowBaseWrite dt fn value => Sys2Proof.Machine.execBar2WindowBaseWrite dt fn value s
  | .vfWindowBaseWrite dt fn vf value => Sys2Proof.Machine.execVfWindowBaseWrite dt fn vf value s
  | .vfRingsWrite dt fn vf first count => Sys2Proof.Machine.execVfRingsWrite dt fn vf first count s
  | .castKeyHashWrite dt fn slot value => Sys2Proof.Machine.execCastKeyHashWrite dt fn slot value s
  | .castKeysLock dt fn => Sys2Proof.Machine.execCastKeysLock dt fn s
  | .bootPushGo dt fn => Sys2Proof.Machine.execBootPushGo dt fn s
  | .bootPushCheckComplete dt => Sys2Proof.Machine.execBootPushCheckComplete dt s
  | .limitWattsWrite dt fn watts => Sys2Proof.Machine.execLimitWattsWrite dt fn watts s
  | .registerWrite dt fn offset size value => Sys2Proof.Machine.execRegisterWrite dt fn offset size value s
  | .readClear dt fn offset size => Sys2Proof.Machine.execReadClear dt fn offset size s
  | .nowLoRead dt fn => Sys2Proof.Machine.execNowLoRead dt fn s
  | .ppsLoRead dt fn => Sys2Proof.Machine.execPpsLoRead dt fn s
  | .numberLoRead dt fn => Sys2Proof.Machine.execNumberLoRead dt fn s
  | .bar2Read dt fn offset length => Sys2Proof.Machine.execBar2Read dt fn offset length s
  | .bar2Write dt fn offset data poisoned => Sys2Proof.Machine.execBar2Write dt fn offset data poisoned s
  | .functionLevelResetVf dt vf => Sys2Proof.Machine.execFunctionLevelResetVf dt vf s
  | .functionLevelResetPf dt => Sys2Proof.Machine.execFunctionLevelResetPf dt s
  | .d3hotEntry dt fn => Sys2Proof.Machine.execD3hotEntry dt fn s
  | .hostReset dt => Sys2Proof.Machine.execHostReset dt s
  | .coldReset dt => Sys2Proof.Machine.execColdReset dt s
  | .powerOnReset dt => Sys2Proof.Machine.execPowerOnReset dt s
  | .pwrokFall dt => Sys2Proof.Machine.execPwrokFall dt s
  | .railUndervoltage dt rail => Sys2Proof.Machine.execRailUndervoltage dt rail s
  | .resetRelease dt fuseMismatches => Sys2Proof.Machine.execResetRelease dt fuseMismatches s
  | .flashReadTimeout dt slotB => Sys2Proof.Machine.execFlashReadTimeout dt slotB s
  | .flashSlotSelect dt => Sys2Proof.Machine.execFlashSlotSelect dt s
  | .firmwareLoadComplete dt => Sys2Proof.Machine.execFirmwareLoadComplete dt s
  | .dramTrainingComplete dt margins => Sys2Proof.Machine.execDramTrainingComplete dt margins s
  | .dramFillComplete dt => Sys2Proof.Machine.execDramFillComplete dt s
  | .rehearsalComplete dt wrongNode => Sys2Proof.Machine.execRehearsalComplete dt wrongNode s
  | .floorBurnComplete dt => Sys2Proof.Machine.execFloorBurnComplete dt s
  | .cueEdge dt => Sys2Proof.Machine.execCueEdge dt s
  | .cueInEdge dt => Sys2Proof.Machine.execCueInEdge dt s
  | .cueInMissing dt => Sys2Proof.Machine.execCueInMissing dt s
  | .ppsInEdge dt => Sys2Proof.Machine.execPpsInEdge dt s
  | .ppsLost dt => Sys2Proof.Machine.execPpsLost dt s
  | .planSlotStart dt sample shapes needs work => Sys2Proof.Machine.execPlanSlotStart dt sample shapes needs work s
  | .shadowLoadStart dt array part => Sys2Proof.Machine.execShadowLoadStart dt array part s
  | .arrayRow0Entry dt array part => Sys2Proof.Machine.execArrayRow0Entry dt array part s
  | .arrayInstructionComplete dt array part => Sys2Proof.Machine.execArrayInstructionComplete dt array part s
  | .arrayResidueFailure dt array part column row => Sys2Proof.Machine.execArrayResidueFailure dt array part column row s
  | .scaleTagMismatch dt vector unit part => Sys2Proof.Machine.execScaleTagMismatch dt vector unit part s
  | .arrayClockGate dt array => Sys2Proof.Machine.execArrayClockGate dt array s
  | .splitModeChange dt array mode => Sys2Proof.Machine.execSplitModeChange dt array mode s
  | .houseLineMismatch dt line reader unit part => Sys2Proof.Machine.execHouseLineMismatch dt line reader unit part s
  | .lineRebuildComplete dt line failsAgain => Sys2Proof.Machine.execLineRebuildComplete dt line failsAgain s
  | .vectorInstructionIssue dt engine part => Sys2Proof.Machine.execVectorInstructionIssue dt engine part s
  | .vectorInstructionComplete dt engine part => Sys2Proof.Machine.execVectorInstructionComplete dt engine part s
  | .vectorParityFailure dt engine part lane deckSlot compare => Sys2Proof.Machine.execVectorParityFailure dt engine part lane deckSlot compare s
  | .contextSave dt engine part line position => Sys2Proof.Machine.execContextSave dt engine part line position s
  | .contextRestore dt engine part line => Sys2Proof.Machine.execContextRestore dt engine part line s
  | .vectorSplitModeChange dt engine mode => Sys2Proof.Machine.execVectorSplitModeChange dt engine mode s
  | .samplerInstructionIssue dt bay => Sys2Proof.Machine.execSamplerInstructionIssue dt bay s
  | .samplerResultWrite dt bay => Sys2Proof.Machine.execSamplerResultWrite dt bay s
  | .samplerParityFailure dt bay compare deckSlot => Sys2Proof.Machine.execSamplerParityFailure dt bay compare deckSlot s
  | .bufferAllocation dt group dram size named sealed => Sys2Proof.Machine.execBufferAllocation dt group dram size named sealed s
  | .readerSignal dt buffer reader => Sys2Proof.Machine.execReaderSignal dt buffer reader s
  | .scrubComplete dt pool buffer => Sys2Proof.Machine.execScrubComplete dt pool buffer s
  | .csi2FrameStart dt port vc number => Sys2Proof.Machine.execCsi2FrameStart dt port vc number s
  | .csi2LinePacket dt port vc dataType payload crcOk eccCorrected => Sys2Proof.Machine.execCsi2LinePacket dt port vc dataType payload crcOk eccCorrected s
  | .csi2FrameEnd dt port vc number => Sys2Proof.Machine.execCsi2FrameEnd dt port vc number s
  | .csi2UncorrectableHeader dt port => Sys2Proof.Machine.execCsi2UncorrectableHeader dt port s
  | .csi2SotError dt port vc => Sys2Proof.Machine.execCsi2SotError dt port vc s
  | .csi2FrameTimeout dt port vc => Sys2Proof.Machine.execCsi2FrameTimeout dt port vc s
  | .decodeStart dt cluster sample facts => Sys2Proof.Machine.execDecodeStart dt cluster sample facts s
  | .stripComplete dt cluster concealed cause buffer => Sys2Proof.Machine.execStripComplete dt cluster concealed cause buffer s
  | .stripRebuild dt cluster strip => Sys2Proof.Machine.execStripRebuild dt cluster strip s
  | .encodePictureStart dt cluster stream sample => Sys2Proof.Machine.execEncodePictureStart dt cluster stream sample s
  | .encodeRowComplete dt cluster bits bytes rowBound => Sys2Proof.Machine.execEncodeRowComplete dt cluster bits bytes rowBound s
  | .encodePictureEnd dt cluster => Sys2Proof.Machine.execEncodePictureEnd dt cluster s
  | .reencode dt cluster referenceLost => Sys2Proof.Machine.execReencode dt cluster referenceLost s
  | .jpegImageStart dt unit sample facts => Sys2Proof.Machine.execJpegImageStart dt unit sample facts s
  | .jpegStripComplete dt unit entropyError buffer => Sys2Proof.Machine.execJpegStripComplete dt unit entropyError buffer s
  | .scalerPassStart dt scaler sample output cropLine => Sys2Proof.Machine.execScalerPassStart dt scaler sample output cropLine s
  | .scalerBandComplete dt scaler rows => Sys2Proof.Machine.execScalerBandComplete dt scaler rows s
  | .scalerBandRepeat dt scaler parity => Sys2Proof.Machine.execScalerBandRepeat dt scaler parity s
  | .audioBlockPass dt sample => Sys2Proof.Machine.execAudioBlockPass dt sample s
  | .dramReadCrcFailure dt address content failed sample => Sys2Proof.Machine.execDramReadCrcFailure dt address content failed sample s
  | .dramBurstRebuildComplete dt address readBackOk => Sys2Proof.Machine.execDramBurstRebuildComplete dt address readBackOk s
  | .dramWriteCodeError dt address second => Sys2Proof.Machine.execDramWriteCodeError dt address second s
  | .dramRefreshSlice dt die => Sys2Proof.Machine.execDramRefreshSlice dt die s
  | .dramRecalibration dt channel margin => Sys2Proof.Machine.execDramRecalibration dt channel margin s
  | .selfRefreshExit dt => Sys2Proof.Machine.execSelfRefreshExit dt s
  | .railSample dt milliwatts coreMilliamps => Sys2Proof.Machine.execRailSample dt milliwatts coreMilliamps s
  | .logicSensorSample dt temps => Sys2Proof.Machine.execLogicSensorSample dt temps s
  | .tripHoldTimeout dt => Sys2Proof.Machine.execTripHoldTimeout dt s
  | .dramSensorSample dt die temps => Sys2Proof.Machine.execDramSensorSample dt die temps s
  | .capacityEvaluation dt => Sys2Proof.Machine.execCapacityEvaluation dt s
  | .restEntry dt => Sys2Proof.Machine.execRestEntry dt s
  | .restExit dt => Sys2Proof.Machine.execRestExit dt s
  | .sysRefclkLoss dt => Sys2Proof.Machine.execSysRefclkLoss dt s
  | .pcieRefclkLoss dt => Sys2Proof.Machine.execPcieRefclkLoss dt s
  | .ewRefclkLoss dt => Sys2Proof.Machine.execEwRefclkLoss dt s
  | .pllLockLoss dt domain => Sys2Proof.Machine.execPllLockLoss dt domain s
  | .watchdogExpiry dt core => Sys2Proof.Machine.execWatchdogExpiry dt core s
  | .coreInstructionRefetch dt core => Sys2Proof.Machine.execCoreInstructionRefetch dt core s
  | .linkRetrain dt speed width flit => Sys2Proof.Machine.execLinkRetrain dt speed width flit s
  | .linkDown dt => Sys2Proof.Machine.execLinkDown dt s
  | .linkPowerEntry dt state => Sys2Proof.Machine.execLinkPowerEntry dt state s
  | .linkPowerExit dt => Sys2Proof.Machine.execLinkPowerExit dt s
  | .ewlFlitReceived dt port flit => Sys2Proof.Machine.execEwlFlitReceived dt port flit s
  | .ewlReplayTimeout dt port => Sys2Proof.Machine.execEwlReplayTimeout dt port s
  | .ewlLinkFlit dt port t1 echo t4 member peerPort => Sys2Proof.Machine.execEwlLinkFlit dt port t1 echo t4 member peerPort s
  | .ewlNoFlitTimeout dt port => Sys2Proof.Machine.execEwlNoFlitTimeout dt port s
  | .ewlLaneLockLoss dt port lane => Sys2Proof.Machine.execEwlLaneLockLoss dt port lane s
  | .ewlRetrainComplete dt port ok => Sys2Proof.Machine.execEwlRetrainComplete dt port ok s
  | .ewlTrainingRetry dt port => Sys2Proof.Machine.execEwlTrainingRetry dt port s
  | .block dt m data => Sys2Proof.Machine.execBlock dt m data s
  | .blockAck dt m => Sys2Proof.Machine.execBlockAck dt m s
  | .blockAckTimeout dt chain index => Sys2Proof.Machine.execBlockAckTimeout dt chain index s
  | .resend dt m => Sys2Proof.Machine.execResend dt m s
  | .write dt m data => Sys2Proof.Machine.execWrite dt m data s
  | .heartbeat dt m cueNumber deviceState hostReady => Sys2Proof.Machine.execHeartbeat dt m cueNumber deviceState hostReady s
  | .heartbeatSend dt => Sys2Proof.Machine.execHeartbeatSend dt s
  | .memberLost dt member => Sys2Proof.Machine.execMemberLost dt member s
  | .command dt m control => Sys2Proof.Machine.execCommand dt m control s
  | .reply dt m content => Sys2Proof.Machine.execReply dt m content s
  | .replyTimeout dt member => Sys2Proof.Machine.execReplyTimeout dt member s
  | .mirror dt m record => Sys2Proof.Machine.execMirror dt m record s
  | .mirrorAck dt m => Sys2Proof.Machine.execMirrorAck dt m s
  | .mirrorAckTimeout dt => Sys2Proof.Machine.execMirrorAckTimeout dt s
  | .takeoverDecision dt => Sys2Proof.Machine.execTakeoverDecision dt s
  | .takeover dt m => Sys2Proof.Machine.execTakeover dt m s
  | .cue dt m content => Sys2Proof.Machine.execCue dt m content s
  | .hello dt m identity members issued => Sys2Proof.Machine.execHello dt m identity members issued s
  | .formationTimeout dt => Sys2Proof.Machine.execFormationTimeout dt s
  | .remapPlansBuilt dt paused repeated missed => Sys2Proof.Machine.execRemapPlansBuilt dt paused repeated missed s
  | .remapTimeout dt => Sys2Proof.Machine.execRemapTimeout dt s
  | .playbillUpdateComplete dt => Sys2Proof.Machine.execPlaybillUpdateComplete dt s
  | .snapshotPublished dt => Sys2Proof.Machine.execSnapshotPublished dt s
  | .mgmtPointerWrite dt pointer pecOk => Sys2Proof.Machine.execMgmtPointerWrite dt pointer pecOk s
  | .mgmtRead dt count => Sys2Proof.Machine.execMgmtRead dt count s
  | .mgmtTimeout dt => Sys2Proof.Machine.execMgmtTimeout dt s
  | .mgmtRefused dt => Sys2Proof.Machine.execMgmtRefused dt s
  | .tapInstruction dt x => Sys2Proof.Machine.execTapInstruction dt x s
  | .ewlTrainingComplete dt port lanesOk peerMember peerPort => Sys2Proof.Machine.execEwlTrainingComplete dt port lanesOk peerMember peerPort s
  | .dmaTransferComplete dt src dst length => Sys2Proof.Machine.execDmaTransferComplete dt src dst length s
  | .commandHostReadComplete dt id data => Sys2Proof.Machine.execCommandHostReadComplete dt id data s
  | .d3hotExit dt fn => Sys2Proof.Machine.execD3hotExit dt fn s
  | .vfEnableWrite dt enable numVfs ari => Sys2Proof.Machine.execVfEnableWrite dt enable numVfs ari s
  | .busMasterEnableWrite dt fn enable => Sys2Proof.Machine.execBusMasterEnableWrite dt fn enable s
  | .msixUnmask dt fn vector => Sys2Proof.Machine.execMsixUnmask dt fn vector s
  | .i3cDynamicAddress dt address setdasa => Sys2Proof.Machine.execI3cDynamicAddress dt address setdasa s

end Sys2Proof.Machine
end

