-- ==== Sys2Proof/Machine/Step.lean ====
section
/-! DEFINITION. One step of the block: the command at the front of the queue, or one nanosecond when the queue is empty. -/

namespace Sys2Proof.Machine

open Sys2Proof

/-- One step: the command at the front of `pending` is taken and its meaning runs with the queue's rest; on an empty queue the
block idles for one nanosecond of the reference (log entry 17). -/
def step (s : State) : Host.Outcome State Fault Refusal :=
  match s.pending with
  | [] => .next (s.advance 1)
  | c :: l => exec c { s with pending := l }

/-- s with the command that word w of nbits bits spells by the table put at the front of its queue. -/
def State.withFetchWord (s : State) (nbits w : Nat) : State :=
  match decodeTableWord nbits w with
  | some c => { s with pending := c :: s.pending }
  | none => s

end Sys2Proof.Machine
end

