-- ==== Sys2Proof/Safety.lean ====
section
/-! DEFINITION. What counts as a safe run (no step stops, and the stores keep their canonical form), and the words the statements
are written in: the state in which an accepted command acts, when it passes its checks, how it completes, the host commands, and the
device states that follow one another. -/

namespace Sys2Proof.Machine

open Sys2Proof

/-- Both byte stores are in their canonical form. -/
def State.memWf (s : State) : Bool := s.house.mem.wf && s.dram.mem.wf

/-- The step from s goes on to a next state. -/
def State.goesOn (s : State) : Prop := ∃ t, step s = .next t

/-- The state in which a host command's checks 4 to 7 and its effect stand: dt has passed, the device has left REST, and the entry
has been taken from its ring (R300, R309, R445). -/
def State.taken (s : State) (dt : Nat) (p : Packet) : State :=
  { ((s.advance dt).leaveRest).modRing p.ring Ring.takeEntry with scanPos := p.ring }

/-- The entry can be fetched now, and its acceptance waits for no deputy (R300, R301, R371). -/
def Fetchable (dt : Nat) (p : Packet) (s : State) : Bool :=
  (s.advance dt).canFetch p.ring p.fence && !(p.ring ≠ 0 && (s.taken dt p).mirrors)

/-- The node a command names is this device's own, or the command names no kind of node (R35). -/
def localTarget (c : Cmd) (p : Packet) (s : State) : Bool :=
  match c.target, findNode s p.target.toNat with
  | .kind _, some n => n.member = s.playbill.view.member
  | _, _ => true

/-- A host command that takes no extended block is fetched and passes checks 1 to 6 of Table 13.5, on this device. -/
def Passes (c : Cmd) (dt : Nat) (p : Packet) (s : State) : Bool :=
  Fetchable dt p s && !c.extended && (headChecks c p).isNone && (bodyChecks c p (s.taken dt p)).isNone
    && localTarget c p (s.taken dt p)

/-- A host command with an extended block is fetched and passes checks 1 to 3 of Table 13.5. -/
def Opens (c : Cmd) (dt : Nat) (p : Packet) (s : State) : Bool :=
  Fetchable dt p s && c.extended && (headChecks c p).isNone

/-- The state after the command of packet p has completed with an outcome and a result: its completion is written (R306). -/
def State.completed (s : State) (opcode : Nat) (p : Packet) (o : Outcome) (result : Nat) : State :=
  s.complete (ticket s opcode p .snapshot) o result

/-- The state after the command of packet p has been accepted and goes on: it is in flight with its work (R300). -/
def State.begun (s : State) (opcode : Nat) (p : Packet) (w : Work) : State :=
  { s with inflight := aset s.inflight s.nextId (ticket s opcode p w), nextId := s.nextId + 1 }

/-- Every host command with its check list (Tables 13.9 to 13.11). -/
def hostCommands : List ((Nat → Packet → Instr) × Cmd) :=
  [(.nop, nopCmd), (.deviceStart, deviceStartCmd), (.deviceStop, deviceStopCmd), (.ringCreate, ringCreateCmd),
   (.ringDestroy, ringDestroyCmd), (.ringReset, ringResetCmd), (.streamDeclare, streamDeclareCmd),
   (.streamAdmit, streamAdmitCmd), (.streamStart, streamStartCmd), (.streamPause, streamPauseCmd),
   (.streamResume, streamResumeCmd), (.streamClose, streamCloseCmd)] ++
  [(.streamQuery, streamQueryCmd), (.castLoad, castLoadCmd), (.castUnload, castUnloadCmd), (.scriptLoad, scriptLoadCmd),
   (.scriptUnload, scriptUnloadCmd), (.cueSetPeriod, cueSetPeriodCmd), (.cueSetEpoch, cueSetEpochCmd),
   (.cueSetSource, cueSetSourceCmd), (.timeSteer, timeSteerCmd), (.timeStep, timeStepCmd), (.timePps, timePpsCmd),
   (.poolCreate, poolCreateCmd)] ++
  [(.poolDestroy, poolDestroyCmd), (.poolReserve, poolReserveCmd), (.bufferAlloc, bufferAllocCmd),
   (.bufferFree, bufferFreeCmd), (.memoryCopy, memoryCopyCmd), (.arraySplit, arraySplitCmd), (.arrayRun, arrayRunCmd),
   (.arrayTest, arrayTestCmd), (.vecSplit, vecSplitCmd), (.vecScalars, vecScalarsCmd), (.vecRun, vecRunCmd),
   (.vecTest, vecTestCmd)] ++
  [(.randomSeed, randomSeedCmd), (.sampleRun, sampleRunCmd), (.randomTest, randomTestCmd),
   (.decodeConfigure, decodeConfigureCmd), (.encodeConfigure, encodeConfigureCmd), (.encodeSetRate, encodeSetRateCmd),
   (.encodeForceIntra, encodeForceIntraCmd), (.decodeRefresh, decodeRefreshCmd), (.codecTest, codecTestCmd),
   (.csi2PortSet, csi2PortSetCmd), (.ingestConfigure, ingestConfigureCmd), (.feed, feedCmd)] ++
  [(.ingestTest, ingestTestCmd), (.cascadeForm, cascadeFormCmd), (.cascadeDissolve, cascadeDissolveCmd),
   (.linkTest, linkTestCmd), (.attestReport, attestReportCmd), (.pixelsUnseal, pixelsUnsealCmd),
   (.pixelsSeal, pixelsSealCmd), (.encodedOutput, encodedOutputCmd), (.firmwareStage, firmwareStageCmd),
   (.traceSet, traceSetCmd), (.countersSnapshot, countersSnapshotCmd), (.dramInterleave, dramInterleaveCmd)] ++
  [(.dramTest, dramTestCmd)]

/-- The events that reset the device (Table 20.5, R463). -/
def isReset : Instr → Bool
  | .hostReset _ => true
  | .coldReset _ => true
  | .powerOnReset _ => true
  | .pwrokFall _ => true
  | .railUndervoltage _ _ => true
  | .sysRefclkLoss _ => true
  | _ => false

/-- The device's own transitions of Table 13.6, resets and faults apart. -/
def stateMoves : List (DevState × DevState) :=
  [(.boot, .standby), (.standby, .service), (.service, .draining), (.draining, .standby)]

/-- The commands whose effect can write a byte of House or DRAM: data that arrives, results that are written, copies, fills and
scrubbing, and what starts a held command, whose body may write. -/
def mayWriteMemory : Instr → Bool
  | .streamAdmit .. | .memoryCopyComplete .. | .randomSeed .. | .feedCopyComplete .. | .dramInterleaveComplete ..
  | .submissionFetch .. | .bar2Write .. | .functionLevelResetVf .. | .functionLevelResetPf .. | .hostReset ..
  | .coldReset .. | .powerOnReset .. | .pwrokFall .. | .railUndervoltage .. | .firmwareLoadComplete ..
  | .dramFillComplete .. | .planSlotStart .. | .arrayInstructionComplete .. | .vectorInstructionComplete ..
  | .contextSave .. | .samplerResultWrite .. | .scrubComplete .. | .csi2LinePacket .. | .stripComplete ..
  | .encodePictureEnd .. | .jpegStripComplete .. | .scalerBandComplete .. | .audioBlockPass .. | .dramReadCrcFailure ..
  | .sysRefclkLoss .. | .block .. | .write .. | .memberLost .. | .command .. | .mirrorAck .. | .mirrorAckTimeout ..
  | .takeoverDecision .. | .remapTimeout .. | .playbillUpdateComplete .. | .dmaTransferComplete ..
  | .commandHostReadComplete .. | .vfEnableWrite .. => true
  | _ => false

end Sys2Proof.Machine
end

