-- ==== Sys2Proof/Certificates/Slice0/Obligations.lean ====
section
/-! DEFINITION. The statements for the provers, from the spec's numbered rules. -/

section

open Sys2Proof Sys2Proof.Machine

/-! ### Steps and reset -/

/-- A step with command c at the front of the queue is exec of c on the state with the queue's rest. -/
def Obligations.StepRunsFrontCommand : Prop :=
  ∀ (s : State) (c : Instr) (l : List Instr), s.pending = c :: l → step s = exec c { s with pending := l }

/-- The queue is served first in, first out: a step takes the command at its front, and no command adds, drops or reorders those
that wait. An empty queue: the block idles for one nanosecond of the reference, and goes on (the model's choice, log entry 17). -/
def Obligations.QueueIsServedInOrder : Prop :=
  (∀ (s t : State) (c : Instr) (l : List Instr), s.pending = c :: l → step s = .next t → t.pending = l) ∧
  (∀ s : State, s.pending = [] → step s = .next (s.advance 1))

/-! ### Device and ring commands -/

/-- The device and ring commands that pass their checks: NOP completes; DEVICE_START waits for the edge; DEVICE_STOP pauses what
runs and drains; RING_CREATE makes the ring ENABLED with every doorbell field at its reset value; RING_DESTROY disables it;
RING_RESET waits, and takes effect when the ring's accepted commands have completed. RING_RESET_TAKES_EFFECT: once the ring's
accepted commands have completed, every doorbell field of the ring has its reset value, the ring is ENABLED, and the command
completes DONE. -/
def Obligations.DeviceAndRingCommandsTakeEffect : Prop :=
  (∀ (s : State) (dt : Nat) (p : Packet),
      let u := s.taken dt p
      (Passes nopCmd dt p s → exec (.nop dt p) s = .next (u.completed 0x0100 p ⟨.done, 0⟩ 0)) ∧
      (Passes deviceStartCmd dt p s →
        exec (.deviceStart dt p) s = .next ((u.tellMembers 0x06 [3]).begun 0x0101 p .deviceStart)) ∧
      (Passes deviceStopCmd dt p s → ∃ v : State,
        exec (.deviceStop dt p) s = .next (v.begun 0x0102 p .deviceStop) ∧ v.host.state = .draining ∧
        (∀ n st, aget v.streams n = some st → st.state ≠ .running)) ∧
      (Passes ringCreateCmd dt p s →
        exec (.ringCreate dt p) s = .next
          (({ u.freeDeck (p.u16 0) with
              rings := aset (u.freeDeck (p.u16 0)).rings (p.u16 0)
                { state := .enabled, cause := 0, metadata := bitOf (p.u8 6) 0, fn := p.u8 2, group := p.u16 4
                  sizeLog2 := p.u8 3, interruptAll := bitOf (p.u8 6) 1, vector := p.u16 24, submitBase := p.u64 8
                  completeBase := p.u64 16, tail := 0, head := 0, fetch := 0, expected := 0, ctail := 0, phase := true }
              groupFn := aset (u.freeDeck (p.u16 0)).groupFn (p.u16 4) (p.u8 2) }).completed 0x0103 p ⟨.done, 0⟩ 0)) ∧
      (Passes ringDestroyCmd dt p s →
        exec (.ringDestroy dt p) s = .next
          (({ u with rings := amod u.rings (p.u16 0) fun r => { r with state := .disabled, cause := 0 } }).completed
            0x0104 p ⟨.done, 0⟩ 0)) ∧
      (Passes ringResetCmd dt p s → exec (.ringReset dt p) s = .next (u.begun 0x0105 p (.ringReset (p.u16 0))))) ∧
  (∀ (s : State) (dt id q : Nat) (f : InFlight),
      aget (s.advance dt).inflight id = some f → f.work = .ringReset q → (s.advance dt).uncompleted q = 0 →
      exec (.ringResetTakesEffect dt id) s = .next
        (({ s.advance dt with rings := amod (s.advance dt).rings q fun r =>
            { r with state := .enabled, cause := 0, tail := 0, fetch := 0, expected := 0, head := 0, ctail := 0, phase := true
                     dropped := r.dropped.clear, scalars := List.replicate 64 0 } }).finish id ⟨.done, 0⟩ 0))

/-! ### Stream commands -/

/-- The stream commands that pass their checks. STREAM_DECLARE without a key makes a DECLARED stream of the ring's group with its
parameters (R318); STREAM_ADMIT of a stream that fits makes it ADMITTED, its first assigned cue the next one (R54, R319), and one
that does not fit has no effect but NOT_ADMITTED; STREAM_START makes it RUNNING; STREAM_PAUSE makes it PAUSED with cause HOST and
posts the event; STREAM_RESUME of a stream that host software or DEVICE_STOP paused makes it RUNNING and posts the event;
STREAM_QUERY writes the reply of Table 13.13 to host memory. STREAM_CLOSE that passes its checks: the stream is closing and takes
no new sample; with no sample of it left and no FEED on the way it is CLOSED, its number no stream's, and the command completes
DONE; otherwise the command stays in flight until then. -/
def Obligations.StreamCommandsTakeEffect : Prop :=
  (∀ (s : State) (dt : Nat) (p : Packet),
      let u := s.taken dt p
      let n := p.u16 0
      (Passes streamDeclareCmd dt p s → bitOf (p.u8 28) 1 = false → u.streams.length < 4096 →
        exec (.streamDeclare dt p) s = .next
          (({ u with
              streams := aset u.streams (freeKey u.streams 1)
                { kind := streamKindOf (p.u8 0), state := .declared, ring := p.ring, group := u.ringGroup p.ring, priority := p.u8 1
                  cadence := p.u8 2, phase := if p.u8 3 = 0xFF then none else some (p.u8 3), samples := p.u8 4, widen := p.u8 5
                  metaRing := p.u16 6, cast := p.u32 8, script := p.u32 12, lag := p.u32 16, minInterval := p.u32 20
                  number := if bitOf (p.u8 28) 0 then p.u32 24 else freeKey u.streams 1, seed := 0 } }).completed
            0x0201 p ⟨.done, 0⟩ (freeKey u.streams 1))) ∧
      (Passes streamAdmitCmd dt p s → ∀ st, aget u.streams n = some st → (st.kind = .decode → st.ingestDone = true) →
        (∀ t, u.admitStream n = some t →
          exec (.streamAdmit dt p) s = .next
            (((t.modStream n fun x => { x with state := .admitted, firstCue := u.cue.edges }).greySet n).completed
              0x0202 p ⟨.done, 0⟩ u.cue.edges)) ∧
        (u.admitStream n = none →
          exec (.streamAdmit dt p) s = .next
            (({ u with freeCount := u.freeCount + 2 }).completed 0x0202 p ⟨.notAdmitted, 0⟩ 0))) ∧
      (Passes streamStartCmd dt p s →
        exec (.streamStart dt p) s = .next
          (({ u with streams := amod u.streams n fun st => { st with state := .running } }).completed 0x0203 p ⟨.done, 0⟩ 0)) ∧
      (Passes streamPauseCmd dt p s →
        exec (.streamPause dt p) s = .next
          ((({ u with streams := amod u.streams n fun st => { st with state := .paused, cause := .host } }).postEvent
            0x0005 .done PauseCause.host.code n).completed 0x0204 p ⟨.done, 0⟩ 0)) ∧
      (Passes streamResumeCmd dt p s → ∀ st, aget u.streams n = some st → st.cause = .host ∨ st.cause = .stop →
        exec (.streamResume dt p) s = .next
          ((({ u with streams := amod u.streams n fun st => { st with state := .running } }).postEvent
            0x0006 .done st.cause.code n).completed 0x0205 p ⟨.done, 0⟩ 0)) ∧
      (Passes streamQueryCmd dt p s → ∀ st, aget u.streams n = some st →
        exec (.streamQuery dt p) s = .next
          (({ u with outputs := .hostBytes (p.u64 8) (queryReply n st) :: u.outputs }).completed 0x0207 p ⟨.done, 0⟩ 0))) ∧
  (∀ (s : State) (dt : Nat) (p : Packet), Passes streamCloseCmd dt p s →
      let u := s.taken dt p
      let n := p.u16 0
      ∀ st, aget u.streams n = some st → st.kind ≠ .camera →
        ((u.samples.any fun e => e.2.stream = n) = false → u.feeding n = false → ∃ v : State,
          exec (.streamClose dt p) s = .next (v.completed 0x0206 p ⟨.done, 0⟩ 0) ∧ aget v.streams n = none) ∧
        ((u.samples.any fun e => e.2.stream = n) = true ∨ u.feeding n = true →
          exec (.streamClose dt p) s = .next
            (({ u with streams := amod u.streams n fun x => { x with closing := true } }).begun 0x0206 p (.streamClose n))))

/-! ### Cast files and cue scripts -/

/-- CAST_LOAD and SCRIPT_LOAD that pass their checks take their buffers and read the file from host memory; CAST_UNLOAD frees the
handle and its buffers; SCRIPT_UNLOAD frees the handle. The cue and time commands that pass their checks. CUE_SET_PERIOD stages a
period that the admitted streams fit, for the second edge after completion (R60), and sends it to the other members; one they do
not fit is NOT_ADMITTED and stages nothing; CUE_SET_EPOCH sets EPOCH, and edges follow EPOCH + k × P beyond the present time;
CUE_SET_SOURCE sets the source and OUT_ENABLE and clears FALLBACK; TIME_STEER sets the rate, and a phase that is not 0 replaces
the remainder; TIME_STEP sets device time and ends a slew; TIME_PPS with 0 turns alignment off and clears LOCKED. -/
def Obligations.CastScriptCueAndTimeCommandsTakeEffect : Prop :=
  (∀ (s : State) (dt : Nat) (p : Packet),
      let u := s.taken dt p
      (Passes castLoadCmd dt p s → u.casts.length < 256 →
        ∀ l t, u.allocPieces (u.ringGroup p.ring) (ownerId (.run u.nextId)) (pieceSizes (p.u32 8)) = some (l, t) →
        exec (.castLoad dt p) s = .next
          (({ t with outputs := .hostRead (p.u64 0) (p.u32 8) :: t.outputs }).begun 0x0301 p
            (.hostRead p (p.u32 8) (t.transferBy (p.u32 8)) l))) ∧
      (Passes castUnloadCmd dt p s → ∀ c, aget u.casts (p.u32 0) = some c →
        exec (.castUnload dt p) s = .next
          (({ c.copies.foldl (fun (t : State) w => t.releaseName w) u with casts := adel u.casts (p.u32 0) }).completed
            0x0302 p ⟨.done, 0⟩ 0)) ∧
      (Passes scriptLoadCmd dt p s →
        exec (.scriptLoad dt p) s = .next
          (({ u with outputs := .hostRead (p.u64 0) (p.u32 8) :: u.outputs }).begun 0x0303 p
            (.hostRead p (p.u32 8) (u.transferBy (p.u32 8)) []))) ∧
      (Passes scriptUnloadCmd dt p s →
        exec (.scriptUnload dt p) s = .next
          (({ u with scripts := adel u.scripts (p.u32 0) }).completed 0x0304 p ⟨.done, 0⟩ 0))) ∧
  (∀ (s : State) (dt : Nat) (p : Packet),
      let u := s.taken dt p
      (Passes cueSetPeriodCmd dt p s → u.periodFits (p.u32 0) = true → u.packs.1 = true →
        exec (.cueSetPeriod dt p) s = .next
          ((({ u with
              cue := { u.cue with nextPeriod := p.u32 0, stagedAt := some (u.cue.edges + 1) }
              freeCount := u.freeCount + 1 }).tellMembers 0x0B (leBytes 4 (p.u32 0) ++ leBytes 8 (u.cue.edges + 1))).completed
            0x0401 p ⟨.done, 0⟩ 0)) ∧
      (Passes cueSetPeriodCmd dt p s → u.periodFits (p.u32 0) = false →
        exec (.cueSetPeriod dt p) s = .next
          (({ u with freeCount := u.freeCount + 1 }).completed 0x0401 p ⟨.notAdmitted, 0⟩ 0)) ∧
      (Passes cueSetEpochCmd dt p s →
        exec (.cueSetEpoch dt p) s = .next
          (({ u with cue := { u.cue with
              epoch := p.u64 0
              nextEdge := if u.cue.source = CueSource.pin then u.cue.nextEdge
                else edgeBeyond (p.u64 0) u.cue.period u.time.now } }).completed 0x0402 p ⟨.done, 0⟩ 0)) ∧
      (Passes cueSetSourceCmd dt p s → ∃ c : CueBlk,
        exec (.cueSetSource dt p) s = .next (({ u with cue := c }).completed 0x0403 p ⟨.done, 0⟩ 0) ∧
        c.source = (if p.u8 0 = 1 then CueSource.pin else .internal) ∧ c.outEnable = decide (p.u8 1 = 1) ∧ c.fallback = false ∧
        c.edges = u.cue.edges ∧ c.period = u.cue.period ∧ c.stagedAt = u.cue.stagedAt ∧
        (p.u8 0 = 0 → u.cue.source = .pin → u.cue.edges ≠ 0 → c.epoch = u.cue.lastEdge)) ∧
      (Passes timeSteerCmd dt p s →
        exec (.timeSteer dt p) s = .next
          (({ u with time := { u.time with
              rateAdj := signedOf 32 (p.u32 0)
              slewRemain := if p.u64 4 = 0 then u.time.slewRemain else signedOf 64 (p.u64 4)
              slewFrac := if p.u64 4 = 0 then u.time.slewFrac else 0 } }).completed 0x0404 p ⟨.done, 0⟩ 0)) ∧
      (Passes timeStepCmd dt p s → ∃ v : State,
        exec (.timeStep dt p) s = .next (v.completed 0x0405 p ⟨.done, 0⟩ 0) ∧ v.time.now = p.u64 0 ∧ v.time.slewRemain = 0 ∧
        v.time.elapsed = u.time.elapsed ∧ v.cue.edges = u.cue.edges ∧
        (u.cue.source = .internal → v.cue.epoch = (p.u64 0 / 1000 + 1) * 1000) ∧
        v.rings = u.rings ∧ v.streams = u.streams ∧ v.house = u.house ∧ v.dram = u.dram) ∧
      (Passes timePpsCmd dt p s → p.u8 0 = 0 →
        exec (.timePps dt p) s = .next
          (({ u with time := { u.time with ppsEnabled := false, ppsLocked := false, ppsGood := 0 } }).completed
            0x0406 p ⟨.done, 0⟩ 0)) ∧
      (Passes timePpsCmd dt p s → p.u8 0 = 1 → u.time.ppsEnabled = false →
        exec (.timePps dt p) s = .next
          (({ u with time := { u.time with
              ppsEnabled := true, lastPps := none, ppsGood := 0, ppsWaitFrom := u.time.elapsed } }).completed
            0x0406 p ⟨.done, 0⟩ 0)))

/-! ### Pools and buffers -/

/-- The Wardrobe commands that pass their checks. POOL_CREATE makes a pool with every buffer FREE; POOL_DESTROY removes it; both
make a Playbill update due; POOL_RESERVE sets the group's minimum where the pool holds the sum of them, and is NO_RESOURCE
otherwise; BUFFER_ALLOC answers the buffer that alloc of R80 finds; BUFFER_FREE releases a held buffer that nothing reads or
writes; MEMORY_COPY of no bytes is EMPTY, and otherwise is in flight until its bytes land. MEMORY_COPY_COMPLETE: the bytes of the
source go to the destination, a device destination's buffer is sealed with a sealed device source (R76), the copy's readers and
writer are dropped, and the command completes DONE. -/
def Obligations.PoolAndBufferCommandsTakeEffect : Prop :=
  (∀ (s : State) (dt : Nat) (p : Packet),
      let u := s.taken dt p
      (Passes poolCreateCmd dt p s →
        exec (.poolCreate dt p) s = .next
          ((({ u with wardrobe := { u.wardrobe with
              pools := aset u.wardrobe.pools (p.u8 0)
                { dram := decide (p.u8 1 = 1), base := p.u64 8, cls := p.u8 2, count := p.u32 4
                  owner := if p.u16 16 = 0xFFFF then none else some (p.u16 16), bufs := [] } } }).playbillDue).completed
            0x0501 p ⟨.done, 0⟩ 0)) ∧
      (Passes poolDestroyCmd dt p s →
        exec (.poolDestroy dt p) s = .next
          ((({ u with wardrobe := { u.wardrobe with pools := adel u.wardrobe.pools (p.u8 0) } }).playbillDue).completed
            0x0502 p ⟨.done, 0⟩ 0)) ∧
      (Passes poolReserveCmd dt p s → ∀ pool, aget u.wardrobe.pools (p.u8 0) = some pool →
        let w := u.wardrobe.setMinimum (p.u16 2) (p.u8 0) (p.u32 4)
        exec (.poolReserve dt p) s = .next
          (if w.minimaSum (p.u8 0) ≤ pool.count ∧ w.minima.length ≤ 4096
            then ({ u with wardrobe := w }).completed 0x0503 p ⟨.done, 0⟩ 0
            else u.completed 0x0503 p ⟨.noResource, 0⟩ 0)) ∧
      (Passes bufferAllocCmd dt p s → p.u8 1 = 0 → ∀ a fb t,
        u.alloc (u.ringGroup p.ring) (decide (p.u8 0 = 1)) (p.u64 8) none false = .got a fb t →
        exec (.bufferAlloc dt p) s = .next
          (t.completed 0x0504 p ⟨.done, b2n fb⟩ (bufName (decide (p.u8 0 = 1)) a))) ∧
      (Passes bufferFreeCmd dt p s → ∀ q k o b,
        u.locate (bufDram (p.u64 0)) (bufAddr (p.u64 0)) = some (q, k, o) → u.heldBuf (p.u64 0) = some b →
        b.readers = [] → b.writer = none →
        exec (.bufferFree dt p) s = .next ((u.release q k).completed 0x0505 p ⟨.done, 0⟩ 0)) ∧
      (Passes memoryCopyCmd dt p s → p.u64 16 = 0 →
        exec (.memoryCopy dt p) s = .next (u.completed 0x0506 p ⟨.empty, 0⟩ 0)) ∧
      (Passes memoryCopyCmd dt p s → p.u64 16 ≠ 0 → p.u8 24 = 1 →
        exec (.memoryCopy dt p) s = .next
          ((({ u with outputs := .hostRead (p.u64 0) (p.u64 16) :: u.outputs }).setWriter (p.u64 8)
            (ownerId (.run u.nextId))).begun 0x0506 p
            (.copy (p.u64 0) (p.u64 8) (p.u64 16) true false (u.transferBy (p.u64 16)))))) ∧
  (∀ (s : State) (dt id src dst n deadline : Nat) (sh : Bool) (f : InFlight) (data : List Byte),
      let u := s.advance dt
      let bytes := if sh then data else u.readMem (bufDram src) (bufAddr src) n
      aget u.inflight id = some f → (sh = true → data.length = n) →
      (f.work = .copy src dst n sh true deadline →
        exec (.memoryCopyComplete dt id data) s = .next
          ((({ u with outputs := .hostBytes dst bytes :: u.outputs }).unregister (ownerId (.run id))).finish id ⟨.done, 0⟩ 0)) ∧
      (f.work = .copy src dst n sh false deadline → ∀ q k o b,
        u.locate (bufDram dst) (bufAddr dst) = some (q, k, o) → u.bufAt q k = some b → ∃ v : State,
          exec (.memoryCopyComplete dt id data) s = .next ((v.unregister (ownerId (.run id))).finish id ⟨.done, 0⟩ 0) ∧
          v.house = (u.writeMem (bufDram dst) (bufAddr dst) bytes).house ∧
          v.dram = (u.writeMem (bufDram dst) (bufAddr dst) bytes).dram ∧ v.streams = u.streams ∧ v.rings = u.rings ∧
          v.bufAt q k = some { b with
            sealed := b.sealed || (!sh && match u.heldBuf src with
              | some x => x.sealed
              | none => false) }))

/-! ### Commands of the arrays, the vector engines and the samplers -/

/-- The unit commands of classes 0x06 and 0x07 that pass their checks. ARRAY_SPLIT and VEC_SPLIT stage the mode for the next cue
edge (R114, R187), where no template plan uses the unit otherwise; ARRAY_RUN, VEC_RUN and SAMPLE_RUN whose cost bound fits the
unreserved time of a cue read their words and go on, and are NOT_ADMITTED where it does not; VEC_SCALARS reads its values from
host memory; RANDOM_TEST answers the two draws i and i + 1 (R209). RANDOM_SEED that passes its checks and finds a 4 KiB House
buffer: the ring holds the deck of its seed and number, the deck's bytes stand in the buffer, and the command completes DONE
(R189, R209); with no buffer it completes NO_RESOURCE. -/
def Obligations.UnitCommandsTakeEffect : Prop :=
  (∀ (s : State) (dt : Nat) (p : Packet),
      let u := s.taken dt p
      let n := targetUnit u p
      (Passes arraySplitCmd dt p s → u.host.state = .standby ∨ p.u8 0 = 3 →
        exec (.arraySplit dt p) s = .next
          (({ u with arrays := modAt u.arrays n fun b => { b with stagedFix := some (p.u8 0) } }).completed
            0x0601 p ⟨.done, 0⟩ 0)) ∧
      (Passes arrayRunCmd dt p s →
        let words := u.wordsAt (p.u64 0) (p.u16 8) 32
        exec (.arrayRun dt p) s = .next
          (if 10 * arrayRunCost words ≤ u.unreserved 1 then
            (u.addReader (p.u64 0) (ownerId (.run u.nextId))).begun 0x0602 p (.run { kind := .array, unit := n, words := words })
          else u.completed 0x0602 p ⟨.notAdmitted, 0⟩ 0)) ∧
      (Passes vecSplitCmd dt p s → u.host.state = .standby ∨ p.u8 0 = 3 →
        exec (.vecSplit dt p) s = .next
          (({ u with vecs := modAt u.vecs n fun b => { b with stagedFix := some (p.u8 0) } }).completed
            0x0701 p ⟨.done, 0⟩ 0)) ∧
      (Passes vecScalarsCmd dt p s →
        exec (.vecScalars dt p) s = .next
          (({ u with outputs := .hostRead (p.u64 8) (4 * p.u8 1) :: u.outputs }).begun 0x0702 p
            (.hostRead p (4 * p.u8 1) (u.transferBy (4 * p.u8 1)) []))) ∧
      (Passes vecRunCmd dt p s →
        let words := u.wordsAt (p.u64 0) (p.u16 8) 16
        exec (.vecRun dt p) s = .next
          (if 10 * u.vecRunCost words n p.ring (decide (p.u8 11 = 1)) (p.u16 12) ≤ u.unreserved 2 then
            (u.addReader (p.u64 0) (ownerId (.run u.nextId))).begun 0x0703 p
              (.run { kind := .vector, unit := n, part := p.u8 10, words := words, descriptor := decide (p.u8 11 = 1)
                      vl := p.u16 12 })
          else u.completed 0x0703 p ⟨.notAdmitted, 0⟩ 0)) ∧
      (Passes sampleRunCmd dt p s →
        let words := u.wordsAt (p.u64 0) (p.u16 8) 32
        exec (.sampleRun dt p) s = .next
          (if 10 * sampRunCost words ≤ u.unreserved 0 then
            (u.addReader (p.u64 0) (ownerId (.run u.nextId))).begun 0x0711 p (.run { kind := .sampler, unit := n, words := words })
          else u.completed 0x0711 p ⟨.notAdmitted, 0⟩ 0)) ∧
      (Passes randomTestCmd dt p s →
        let cards := if p.u8 0 = 0 then testCards else deckCards (seedOf p)
        let i := BitVec.ofNat 64 (p.u64 8)
        exec (.randomTest dt p) s = .next
          (u.completed 0x0712 p ⟨.done, 0⟩
            ((drawBits cards (BitVec.ofNat 32 (p.u32 4)) (p.u8 1) i).toNat
              + 2 ^ 32 * (drawBits cards (BitVec.ofNat 32 (p.u32 4)) (p.u8 1) (i + 1)).toNat)))) ∧
  (∀ (s : State) (dt : Nat) (p : Packet), Passes randomSeedCmd dt p s →
      let u := s.taken dt p
      (∀ a fb t, u.alloc (u.ringGroup p.ring) false 4096 none false = .got a fb t →
        exec (.randomSeed dt p) s = .next
          ((((t.freeDeck p.ring).writeMem false a (deckBytes (seedOf p))).modRing p.ring fun r =>
            { r with deck := some { seed := seedOf p, number := p.u32 0, buffer := some a } }).completed
              0x0710 p ⟨.done, 0⟩ 0)) ∧
      (∀ st t, u.alloc (u.ringGroup p.ring) false 4096 none false = .none_ st t →
        exec (.randomSeed dt p) s = .next (t.completed 0x0710 p ⟨st, 0⟩ 0)))

/-! ### Known-answer tests -/

/-- The test commands that pass their checks begin on the node that TARGET names and go on (R114, R187, R264, R295, R374, R396). A
known-answer test that has run its time with right answers completes DONE: an array's after 3.2 ms, with no block active or
shadowed left in any part (R98), a vector engine's after 1.6 ms, a codec cluster's after 2.4 ms, the ingest units' after 2.0 ms, a
die's with the counts of bursts refetched and lost, a port's after 10 ms with its symbol counts. A wrong answer moves the device
to FAULTED with class SELF_TEST and the node (R114, R187, R264, R295, R396). -/
def Obligations.KnownAnswerTestsRun : Prop :=
  (∀ (s : State) (dt : Nat) (p : Packet),
      let u := s.taken dt p
      let n := targetUnit u p
      let node := p.target.toNat % 2 ^ 28
      (Passes arrayTestCmd dt p s →
        exec (.arrayTest dt p) s = .next (u.begun 0x0603 p (.test .array n node u.time.elapsed))) ∧
      (Passes vecTestCmd dt p s →
        exec (.vecTest dt p) s = .next (u.begun 0x0704 p (.test .vector n node u.time.elapsed))) ∧
      (Passes codecTestCmd dt p s →
        exec (.codecTest dt p) s = .next (u.begun 0x0806 p (.test .codec n node u.time.elapsed))) ∧
      (Passes ingestTestCmd dt p s →
        exec (.ingestTest dt p) s = .next (u.begun 0x0904 p (.test .ingest 0 node u.time.elapsed))) ∧
      (Passes dramTestCmd dt p s →
        exec (.dramTest dt p) s = .next (u.begun 0x0D02 p (.test .dram n node u.time.elapsed))) ∧
      (Passes linkTestCmd dt p s →
        exec (.linkTest dt p) s = .next (u.begun 0x0A03 p (.linkTest n u.time.elapsed)))) ∧
  (∀ (s : State) (dt id n node since a b : Nat) (f : InFlight),
      let u := s.advance dt
      aget u.inflight id = some f →
      (f.work = .test .array n node since → since + 3200000 ≤ u.time.elapsed →
        exec (.arrayTestComplete dt id false) s = .next
          (({ u with arrays := modAt u.arrays n fun (x : ArrayBlk) => { x with
              parts := x.parts.map fun (q : ArrayPart) => { q with active := none, shadow := none, swapAt := none } } }).finish id ⟨.done, 0⟩ 0)) ∧
      (f.work = .test .vector n node since → since + 1600000 ≤ u.time.elapsed →
        exec (.vecTestComplete dt id false) s = .next (u.finish id ⟨.done, 0⟩ 0)) ∧
      (f.work = .test .codec n node since → since + 2400000 ≤ u.time.elapsed →
        exec (.codecTestComplete dt id false) s = .next (u.finish id ⟨.done, 0⟩ 0)) ∧
      (f.work = .test .ingest n node since → since + 2000000 ≤ u.time.elapsed →
        exec (.ingestTestComplete dt id false) s = .next (u.finish id ⟨.done, 0⟩ 0)) ∧
      (f.work = .test .dram n node since → a < 2 ^ 32 → b < 2 ^ 32 →
        exec (.dramTestComplete dt id false a b) s = .next (u.finish id ⟨.done, 0⟩ (a + 2 ^ 32 * b))) ∧
      (f.work = .linkTest n since → since + 10000000 ≤ u.time.elapsed → a < 2 ^ 32 → b ≤ 65535 →
        exec (.linkTestComplete dt id a b) s = .next (u.finish id ⟨.done, 0⟩ (a + 2 ^ 32 * b)))) ∧
  (∀ (s : State) (dt id n node since : Nat) (f : InFlight),
      let u := s.advance dt
      aget u.inflight id = some f → u.host.state ≠ .faulted →
      (f.work = .test .array n node since → since + 3200000 ≤ u.time.elapsed → ∃ t,
        exec (.arrayTestComplete dt id true) s = .next t ∧ t.host.state = .faulted ∧ t.host.fault = clsSelfTest) ∧
      (f.work = .test .vector n node since → since + 1600000 ≤ u.time.elapsed → ∃ t,
        exec (.vecTestComplete dt id true) s = .next t ∧ t.host.state = .faulted ∧ t.host.fault = clsSelfTest) ∧
      (f.work = .test .codec n node since → since + 2400000 ≤ u.time.elapsed → ∃ t,
        exec (.codecTestComplete dt id true) s = .next t ∧ t.host.state = .faulted ∧ t.host.fault = clsSelfTest) ∧
      (f.work = .test .ingest n node since → since + 2000000 ≤ u.time.elapsed → ∃ t,
        exec (.ingestTestComplete dt id true) s = .next t ∧ t.host.state = .faulted ∧ t.host.fault = clsSelfTest))

/-! ### Configuration of codec and ingest streams -/

/-- The commands on decode and encode streams and on camera ports that pass their checks. DECODE_CONFIGURE makes the stream
configured with what its parameters give (Table 11.3); ENCODE_SET_RATE gives the rate the next picture takes (R259);
ENCODE_FORCE_INTRA makes the next picture an I picture; DECODE_REFRESH clears every reference mark and waits for a random access
point (R264); CSI2_PORT_SET sets the port's lanes and rate (R268). -/
def Obligations.CodecAndPortCommandsTakeEffect : Prop :=
  ∀ (s : State) (dt : Nat) (p : Packet),
    let u := s.taken dt p
    (Passes decodeConfigureCmd dt p s → ∃ cfg : DecodeCfg,
      exec (.decodeConfigure dt p) s = .next
        (({ u with streams := amod u.streams (p.u16 0) fun st => { st with decode := cfg, decodeDone := true } }).completed
          0x0801 p ⟨.done, 0⟩ 0) ∧
      cfg.codec = p.u8 2 ∧ cfg.profile = p.u8 3 ∧ cfg.maxWidth = p.u16 4 ∧ cfg.maxHeight = p.u16 6 ∧ cfg.bitDepth = p.u8 8 ∧
      cfg.framesPerAu = p.u8 9 ∧ cfg.maxAuBytes = p.u32 16 ∧ (bitOf (p.u8 11) 0 = true → cfg.references = p.u8 10) ∧
      cfg.concealLimit = (if p.u16 12 = 0 then 128 else p.u16 12) ∧
      cfg.pool = (if bitOf (p.u8 11) 1 then some (p.u8 14) else none) ∧
      cfg.cluster = (if bitOf (p.u8 11) 2 then some (p.u8 15) else none)) ∧
    (Passes encodeSetRateCmd dt p s →
      exec (.encodeSetRate dt p) s = .next
        (({ u with streams := amod u.streams (p.u16 0) fun st => { st with
              enc := { st.enc with newRate := some (p.u8 2, p.u32 4, p.u32 8, p.u32 12) } } }).completed
          0x0803 p ⟨.done, 0⟩ 0)) ∧
    (Passes encodeForceIntraCmd dt p s →
      exec (.encodeForceIntra dt p) s = .next
        (({ u with streams := amod u.streams (p.u16 0) fun st => { st with
              enc := { st.enc with forceIntra := true } } }).completed 0x0804 p ⟨.done, 0⟩ 0)) ∧
    (Passes decodeRefreshCmd dt p s →
      exec (.decodeRefresh dt p) s = .next
        ((({ u with streams := amod u.streams (p.u16 0) fun st => { st with
              rapSeen := false, opening := false
              frames := st.frames.map fun (f : FrameBuf) => { f with marks := 0 } } }).freeFrames (p.u16 0)).completed
          0x0805 p ⟨.done, 0⟩ 0)) ∧
    (Passes csi2PortSetCmd dt p s →
      exec (.csi2PortSet dt p) s = .next
        ((u.modPort (targetUnit u p) fun x => { x with
            lanes := p.u8 0, enabled := decide (p.u8 1 = 1), rate := p.u16 2 }).completed 0x0901 p ⟨.done, 0⟩ 0))

/-- ENCODE_CONFIGURE and INGEST_CONFIGURE that pass checks 1 to 3 read their extended block from host memory, of the address and
length their parameters give (R304, R305). -/
def Obligations.ExtendedCommandsReadTheirBlock : Prop :=
  ∀ (s : State) (dt : Nat) (p : Packet),
    let u := s.taken dt p
    let t : State := { u with outputs := .hostRead (p.u64 0) (p.u16 8) :: u.outputs }
    let w : Work := .hostRead p (p.u16 8) (u.transferBy (p.u16 8)) []
    (Opens encodeConfigureCmd dt p s → exec (.encodeConfigure dt p) s = .next (t.begun 0x0802 p w)) ∧
    (Opens ingestConfigureCmd dt p s → exec (.ingestConfigure dt p) s = .next (t.begun 0x0902 p w))

/-- COMMAND_HOST_READ_COMPLETE with all of a command's data, in time: a block that fails a check completes the command with it and
has no other effect; ENCODE_CONFIGURE's block, passing, configures its stream; VEC_SCALARS sets COUNT scalars of the ring's image
from FIRST (R186); SCRIPT_LOAD whose script is well formed gives it a handle, and its RESULT is the handle (R323).
HOST_READ_TIMEOUT of a command's read: the command completes TIMEOUT, the buffers it took are given back and the failed read is
counted by its kind (R305, R343). -/
def Obligations.HostReadsEnd : Prop :=
  (∀ (s : State) (dt id n deadline : Nat) (l : List Nat) (f : InFlight) (p : Packet) (data : List Byte),
      let u := s.advance dt
      aget u.inflight id = some f → f.work = .hostRead p n deadline l → data.length = n → u.time.elapsed ≤ deadline →
      (∀ o, f.opcode = 0x0802 → bodyChecks (encodeBlockCmd data) p u = some o →
        exec (.commandHostReadComplete dt id data) s = .next (u.finish id o 0)) ∧
      (∀ o, f.opcode = 0x0902 → bodyChecks (ingestBlockCmd data) p u = some o →
        exec (.commandHostReadComplete dt id data) s = .next (u.finish id o 0)) ∧
      (f.opcode = 0x0802 → bodyChecks (encodeBlockCmd data) p u = none → bitOf (fieldAt data 34 1) 1 = true →
        ∀ src o st, aget u.streams (fieldAt data 2 2) = some src → src.outputs[fieldAt data 35 1]? = some o →
        o.kind = 1 → o.outW = fieldAt data 6 2 → o.outH = fieldAt data 8 2 → aget u.streams (fieldAt data 0 2) = some st →
        ∃ (t : State) (x : Stream),
          exec (.commandHostReadComplete dt id data) s = .next (t.finish id ⟨.done, 0⟩ 0) ∧
          aget t.streams (fieldAt data 0 2) = some x ∧ x.encodeDone = true ∧ x.encode.source = fieldAt data 2 2 ∧
          x.encode.codec = fieldAt data 4 1 ∧ x.encode.width = fieldAt data 6 2 ∧ x.encode.height = fieldAt data 8 2 ∧
          x.encode.output = fieldAt data 35 1 ∧ x.encode.hostBase = fieldAt data 40 8 ∧ x.encode.hostSize = fieldAt data 48 8) ∧
      (f.opcode = 0x0702 →
        exec (.commandHostReadComplete dt id data) s = .next
          (({ u with rings := amod u.rings p.ring fun r => { r with
                scalars := (upto (p.u8 1)).foldl
                  (fun (x : List Word32) i => x.set (p.u8 0 + i) (BitVec.ofNat 32 (fieldAt data (4 * i) 4))) r.scalars } }).finish
            id ⟨.done, 0⟩ 0)) ∧
      (f.opcode = 0x0303 → ∀ c, aget u.casts (p.u32 12) = some c → scriptFault u c.content data (p.u32 8) = none →
        exec (.commandHostReadComplete dt id data) s = .next
          (({ u with
              scripts := aset u.scripts (freeKey u.scripts 1)
                { group := u.ringGroup p.ring, cast := p.u32 12, bytes := data } }).finish id ⟨.done, 0⟩ (freeKey u.scripts 1)))) ∧
  (∀ (s : State) (dt id n deadline : Nat) (l : List Nat) (f : InFlight) (p : Packet) (answered : Bool),
      let u := s.advance dt
      aget u.inflight id = some f → f.work = .hostRead p n deadline l →
      exec (.hostReadTimeout dt id answered) s = .next
        ((l.foldl (fun (t : State) w => t.releaseName w)
          { u with host := if answered then { u.host with errorCompletions := u.host.errorCompletions.inc }
              else { u.host with readTimeouts := u.host.readTimeouts.inc } }).finish id ⟨.timeout, 0⟩ 0))

/-- FEED that passes its checks, of a legal length, for an assigned cue at most one beyond the current one, and with a buffer to
be had, reads the host's bytes; its copy in time stands in the buffer, the sample arrives and FEED completes DONE; a copy not
finished 10 ms after it began completes TIMEOUT, gives its buffer back and is counted (R265, R272). -/
def Obligations.FeedsArrive : Prop :=
  (∀ (s : State) (dt : Nat) (p : Packet), Passes feedCmd dt p s →
    let u := s.taken dt p
    ∀ st a fb t, aget u.streams (p.u16 0) = some st → feedBeyond u st (p.u64 24) = false → feedLengthOk st (p.u32 16) = true →
      u.alloc st.group (st.kind ≠ StreamKind.audio) st.feedBytes none true = .got a fb t →
      exec (.feed dt p) s = .next
        (({ t with outputs := .hostRead (p.u64 8) (p.u32 16) :: t.outputs }).begun 0x0903 p
          (.feed (p.u16 0) (p.u64 24) (p.u32 16) (some (bufName (st.kind ≠ StreamKind.audio) a)) u.time.elapsed))) ∧
  (∀ (s : State) (dt id n capture length w since : Nat) (f : InFlight) (data : List Byte),
    let u := s.advance dt
    aget u.inflight id = some f → f.work = .feed n capture length (some w) since →
    (data.length = length → u.time.elapsed < since + 10000000 → ∃ t : State,
      exec (.feedCopyComplete dt id data) s = .next (t.finish id ⟨.done, 0⟩ 0) ∧
      t.ingest.fed = ((u.writeMem (bufDram w) (bufAddr w) data).addSample n capture length (some w) [w]).ingest.fed.inc ∧
      t.house.mem = ((u.writeMem (bufDram w) (bufAddr w) data).addSample n capture length (some w) [w]).house.mem) ∧
    (since + 10000000 ≤ u.time.elapsed → ∃ t : State,
      exec (.feedTimeout dt id) s = .next (t.closeIfDone n) ∧
      t.ingest.feedTimeout = ((u.releaseName w).finish id ⟨.timeout, 0⟩ 0).ingest.feedTimeout.inc ∧
      t.inflight = ((u.releaseName w).finish id ⟨.timeout, 0⟩ 0).inflight))

/-! ### Security, observation and DRAM commands -/

/-- The commands of class 0x0B that pass their checks: ATTEST_REPORT holds the report of its NONCE as it stands at acceptance, or
finds no resource with 16 pending (R428); PIXELS_UNSEAL and PIXELS_SEAL log UNSEALED and SEALED, tell the members and change the
mode, PIXELS_SEAL completing once the copies begun while unsealed have ended (R425); ENCODED_OUTPUT 1 logs ENCODED_ON and permits
it (R426); FIRMWARE_STAGE reads its image (R421). -/
def Obligations.SecurityCommandsTakeEffect : Prop :=
  ∀ (s : State) (dt : Nat) (p : Packet),
    let u := s.taken dt p
    let fn := u.ringFn p.ring
    (Passes attestReportCmd dt p s →
      exec (.attestReport dt p) s = .next
        (if 16 ≤ u.reportsPending then u.completed 0x0B01 p ⟨.noResource, 0⟩ 0
         else u.begun 0x0B01 p (.attest (BitVec.ofNat 256 (p.par 0 32)) (p.u64 32) (u.report (BitVec.ofNat 256 (p.par 0 32)))))) ∧
    (Passes pixelsUnsealCmd dt p s →
      let t := u.appendLog 0x06 fn p.ring 0 0
      exec (.pixelsUnseal dt p) s = .next
        ((({ t with sec := { t.sec with unsealed := true } }).tellMembers 0x06 [7]).completed 0x0B02 p ⟨.done, 0⟩ 0)) ∧
    (Passes pixelsSealCmd dt p s →
      let t := u.appendLog 0x07 fn p.ring 0 0
      let v := ({ t with sec := { t.sec with unsealed := false } }).tellMembers 0x06 [8]
      exec (.pixelsSeal dt p) s = .next
        (if u.openCopies = [] then v.completed 0x0B03 p ⟨.done, 0⟩ 0 else v.begun 0x0B03 p (.seal u.openCopies))) ∧
    (Passes encodedOutputCmd dt p s → p.u8 0 = 1 →
      let t := u.appendLog 0x08 fn p.ring 0 0
      exec (.encodedOutput dt p) s = .next
        ((({ t with sec := { t.sec with encoded := true } }).tellMembers 0x06 [10]).completed 0x0B04 p ⟨.done, 0⟩ 0)) ∧
    (Passes firmwareStageCmd dt p s →
      exec (.firmwareStage dt p) s = .next
        (({ u with outputs := .hostRead (p.u64 0) (p.u32 8) :: u.outputs }).begun 0x0B05 p
          (.hostRead p (p.u32 8) (u.transferBy (p.u32 8)) [])))

/-- ATTEST_REPORT_WRITTEN: with the host's write refused the command completes TIMEOUT and the refusal is counted (R343); else the
report's 1,676 bytes and a signature field of 2,420 stand at the reply address, and RESULT is LOG_COUNT of the report (R428).
FIRMWARE_STAGE with its image read: an image that fails a check of R415 completes AUTH_FAILED with the check's number and counts,
and changes no slot; a sound one is programmed into the slot the current boot does not use, and FIRMWARE_STAGE_PROGRAMMED then
logs FIRMWARE_STAGED with the payload's hash and the slot holds the image, or is left erased (R421). -/
def Obligations.ReportsAndImagesAreWritten : Prop :=
  (∀ (s : State) (dt id reply : Nat) (f : InFlight) (nonce : Word256) (report : List Byte),
      let u := s.advance dt
      aget u.inflight id = some f → f.work = .attest nonce reply report →
      exec (.attestReportWritten dt id true) s = .next
        (({ u with host := { u.host with writeRefused := u.host.writeRefused.inc } }).finish id ⟨.timeout, 0⟩ 0) ∧
      ∃ (t : State) (sig : List Byte),
        exec (.attestReportWritten dt id false) s = .next (t.finish id ⟨.done, 0⟩ (fieldAt report 176 8)) ∧
        sig.length = 2420 ∧ t.sec.lastReport = report ++ sig ∧ t.sec.reports = u.sec.reports.inc ∧
        .hostBytes reply (report ++ sig) ∈ t.outputs) ∧
  ((∀ (s : State) (dt id n deadline : Nat) (l : List Nat) (f : InFlight) (p : Packet) (data : List Byte),
      let u := s.advance dt
      aget u.inflight id = some f → f.work = .hostRead p n deadline l → f.opcode = 0x0B05 → data.length = n →
      u.time.elapsed ≤ deadline →
      (∀ k, u.sec.imageCause data = some k →
        exec (.commandHostReadComplete dt id data) s = .next
          (({ u with sec := { u.sec with authFailures := u.sec.authFailures.inc } }).finish id ⟨.authFailed, k⟩ 0)) ∧
      (u.sec.imageCause data = none →
        exec (.commandHostReadComplete dt id data) s = .next
          ({ u with inflight := amod u.inflight id fun x => { x with
              work := .firmwareStage data (decide (u.sec.bootSource ≠ 1)) u.time.elapsed } }))) ∧
    (∀ (s : State) (dt id since : Nat) (f : InFlight) (image : List Byte) (slotB : Bool),
      let u := s.advance dt
      aget u.inflight id = some f → f.work = .firmwareStage image slotB since →
      (∃ t : State, exec (.firmwareStageProgrammed dt id true) s = .next (t.finish id ⟨.done, 0⟩ 0) ∧
        (if slotB then t.sec.flashB else t.sec.flashA) = image ∧
        (if slotB then t.sec.flashA = u.sec.flashA else t.sec.flashB = u.sec.flashB) ∧
        t.sec.logCount = (u.appendLog 0x0A (u.ringFn f.ring) f.ring (b2n slotB)
          (BitVec.ofNat 256 (fieldAt image 32 32))).sec.logCount) ∧
      exec (.firmwareStageProgrammed dt id false) s = .next
        (({ u with sec := if slotB then { u.sec with flashB := [] } else { u.sec with flashA := [] } }).finish id ⟨.timeout, 0⟩ 0)))

/-- TRACE_SET replaces the mask (R433). COUNTERS_SNAPSHOT waits for its snapshot, which is taken at acceptance, or at the next
edge when it comes within 1 µs (R437, R439). SNAPSHOT_PUBLISHED of the only snapshot taken shows it in BAR4 under the next
GENERATION, which is every waiting command's RESULT. -/
def Obligations.ObservationCommandsTakeEffect : Prop :=
  ∀ (s : State) (dt : Nat) (p : Packet),
    let u := s.taken dt p
    (Passes traceSetCmd dt p s →
      exec (.traceSet dt p) s = .next
        (({ u with obs := { u.obs with mask := p.u64 0 } }).completed 0x0C01 p ⟨.done, 0⟩ 0)) ∧
    (Passes countersSnapshotCmd dt p s → u.stageManager = false →
      exec (.countersSnapshot dt p) s = .next
        ((if u.cue.byPeriod ∧ u.cue.nextEdge ≤ u.now + 1000 then u else u.takeSnapshot [u.nextId]).begun 0x0C02 p .snapshot)) ∧
    (∀ x : Snapshot, let v := s.advance dt
      v.live = true → v.obs.snapshots = [x] →
      let g := (v.obs.generation + 1) % 2 ^ 32
      exec (.snapshotPublished dt) s = .next
        (x.commands.foldl (fun (t : State) id => t.finish id ⟨.done, 0⟩ g)
          { v with obs := { v.obs with snapshot := x, snapshots := [], generation := g } }))

/-- DRAM_INTERLEAVE that passes its checks sets the grain and fills; DRAM_INTERLEAVE_COMPLETE leaves every byte of DRAM below the
firmware region zero and every other byte as it was, and completes DONE (R379, R396). DRAM_REFRESH_SLICE outside self-refresh
refreshes a slice of the die (R385); DRAM_RECALIBRATION of a channel that has not been recalibrated for 10 ms keeps its margin
(R393); SELF_REFRESH_EXIT ends REST and self-refresh, and contents stay (R394). No memory changes. -/
def Obligations.DramMaintenanceTakesEffect : Prop :=
  ((∀ (s : State) (dt : Nat) (p : Packet), Passes dramInterleaveCmd dt p s →
      let u := s.taken dt p
      exec (.dramInterleave dt p) s = .next
        (({ u with dram := { u.dram with grain := p.u8 0, filling := true } }).begun 0x0D01 p (.dramInterleave (p.u8 0)))) ∧
    (∀ (s : State) (dt id grain : Nat) (f : InFlight),
      let u := s.advance dt
      aget u.inflight id = some f → f.work = .dramInterleave grain → ∃ t : State,
        exec (.dramInterleaveComplete dt id) s = .next (t.finish id ⟨.done, 0⟩ 0) ∧ t.dram.filling = false ∧
        (∀ a, t.dram.mem.read a = if a < firmwareBase then 0 else u.dram.mem.read a) ∧ t.house = u.house)) ∧
  (∀ (s : State) (dt die ch margin : Nat),
      let u := s.advance dt
      let d := u.dram
      (u.live = true → d.selfRefresh = false →
        exec (.dramRefreshSlice dt die) s = .next
          { u with dram := { d with refreshSlices := aset d.refreshSlices die u.time.elapsed } } ∧
        ((∀ t, aget d.recalibrated ch = some t → t + 10000000 ≤ u.time.elapsed) → margin < 64 →
          exec (.dramRecalibration dt ch margin) s = .next
            { u with dram := { d with
                recalibrated := aset d.recalibrated ch u.time.elapsed, channelMargin := aset d.channelMargin ch margin } })) ∧
      (d.selfRefresh = true → ∃ t : State,
        exec (.selfRefreshExit dt) s = .next t ∧ t.dram = { d with selfRefresh := false } ∧ t.pwr.rest = false ∧
        t.house = u.house ∧ t.host = u.host))

/-! ### Fetching, timeouts, refused writes, formation -/

/-- SUBMISSION_FETCH of the next ring in the scan: an entry with the wrong SEQUENCE completes OUT_OF_RANGE on offset 12, is
passed, leaves EXPECTED, and halts the ring with cause SEQUENCE; an opcode that no table lists completes UNKNOWN_OPCODE and both
FETCH and EXPECTED pass it; a listed command whose fence is met is accepted as its own entry is (R300, R301, R309). -/
def Obligations.SubmissionFetchAccepts : Prop :=
  ∀ (s : State) (dt q : Nat) (entry : BitVec 512) (r : Ring),
    let u := s.advance dt
    let opcode := (entry.extractLsb' 0 16).toNat
    let p := packetOf q entry
    let refused : Bool → State := fun matched =>
      { (u.leaveRest).modRing q fun x => { x with
          fetch := (x.fetch + 1) % x.size
          expected := if matched then (x.expected + 1) % 2 ^ 32 else x.expected } with scanPos := q }
    u.nextRing = some q → aget u.rings q = some r →
    ((entry.extractLsb' 96 32).toNat ≠ r.expected →
      exec (.submissionFetch dt entry) s = .next
        (((refused false).completed opcode p (rangeFault 12) 0).haltRing q causeSequence)) ∧
    ((entry.extractLsb' 96 32).toNat = r.expected → (p.fence = true → u.uncompleted q = 0) →
      (commandOf opcode = none →
        exec (.submissionFetch dt entry) s = .next ((refused true).completed opcode p ⟨.unknownOpcode, 0⟩ 0)) ∧
      (∀ c, commandOf opcode = some c → exec (.submissionFetch dt entry) s = .next (u.accept c p))) ∧
    (∀ answered, exec (.submissionFetchTimeout dt answered) s = .next
      (({ u with
          scanPos := q
          host := if answered then { u.host with errorCompletions := u.host.errorCompletions.inc }
            else { u.host with readTimeouts := u.host.readTimeouts.inc } }).haltRing q causeFetch))

/-- POSTED_WRITE_REFUSED: the newest write of the kind is not made and counts; a ring whose completion or record was refused is
HALTED with cause WRITE, and the slot and PHASE stay the next to be written; an event is held again before the others (R302,
R343). METADATA_RECORD_WRITE of a sample whose ring has a slot and no earlier record waiting: its next record is written with the
sample's outcome, the stream counts it, and the last one ends the sample (R325, R327, R403). -/
def Obligations.HostWritesEnd : Prop :=
  (∀ (s : State) (dt q slot : Nat) (o : Output) (rest : List Output) (c : Completion) (r : Ring),
      let u := s.advance dt
      let h := { u.host with writeRefused := u.host.writeRefused.inc }
      let halted : List (Nat × Ring) := amod u.rings q fun r =>
        { r with state := .halted, cause := causeWrite, ctail := slot, phase := c.phase }
      aget u.rings q = some r → r.state ≠ .disabled →
      (o = .completion q slot c → c.event = false → takeOutput (Output.isWrite (.completion q)) u.outputs = some (o, rest) →
        exec (.postedWriteRefused dt (.completion q)) s = .next { u with outputs := rest, host := h, rings := halted }) ∧
      (o = .completion q slot c → c.event = true → takeOutput (Output.isWrite .event) u.outputs = some (o, rest) →
        exec (.postedWriteRefused dt .event) s = .next { u with
          outputs := rest, host := h, rings := halted
          events := Event.mk c.opcode c.status c.detail c.result c.cue :: u.events }) ∧
      (∀ record, o = .record q slot c.phase record → takeOutput (Output.isWrite (.record q)) u.outputs = some (o, rest) →
        exec (.postedWriteRefused dt (.record q)) s = .next { u with outputs := rest, host := h, rings := halted })) ∧
  (∀ (s : State) (dt k : Nat) (m : Sample) (st : Stream) (r : Record) (rest : List Record),
      let u := s.advance dt
      u.live = true → aget u.samples k = some m → aget u.streams m.stream = some st → m.queue = r :: rest →
      u.recordSlot st.metaRing = true → u.earlierSample k m = false →
      let t := u.putRecord st.metaRing { r with body := stampBody r.body m.outcome }
      let v : State := { t with
        samples := amod t.samples k fun x => { x with queue := rest, issued := x.issued + 1 }
        streams := amod t.streams m.stream fun x => { x with counts := { x.counts with records := x.counts.records + 1 } } }
      exec (.metadataRecordWrite dt k) s = .next (if r.last then v.endSample k else v))

/-- CASCADE_FORM that passes its checks enables the named ports, begins the formation and stays in flight (R366); CASCADE_DISSOLVE
on a device that is not the stage manager leaves it a lone device and completes DONE; on the stage manager it first tells every
other member (R375). -/
def Obligations.CascadeCommandsTakeEffect : Prop :=
  ∀ (s : State) (dt : Nat) (p : Packet),
    let u := s.taken dt p
    (Passes cascadeFormCmd dt p s →
      exec (.cascadeForm dt p) s = .next
        (((u.enablePorts (p.u8 1)).beginForming (p.u8 0) true).begun 0x0A01 p (.cascadeForm (p.u8 0) (p.u8 1) u.time.elapsed))) ∧
    (Passes cascadeDissolveCmd dt p s →
      exec (.cascadeDissolve dt p) s = .next
        ((if u.ewl.role = 1 then (u.tellAll 0x06 [5]).becomeLone else u.becomeLone).completed 0x0A02 p ⟨.done, 0⟩ 0))

/-! ### Doorbells and the HOST window -/

/-- A doorbell write of a function that answers memory requests, on a ring it owns, in no fault (R299): a TAIL inside the ring is
set; one of 2^SIZE_LOG2 or more halts the ring with cause TAIL_RANGE; a TAIL write on a DISABLED, HALTED or METADATA ring, and a
HEAD write on a DISABLED one, is dropped and counted; a HEAD write on a ring in use sets HEAD, or HEAD := TAIL where it would free
a slot not yet written (on Q0 events that were held may then be written). A side is empty when its two indexes are equal, and
never holds more than 2^SIZE_LOG2 − 1 entries. PF0's writes of windows and ring ranges (R336, R339): a base aligned to the window
and inside 64 GiB is set, another is not accepted and counts; a VF's range is set while VF Enable is 0, of at most 1,024 rings,
from ring 1, overlapping no other VF's and with no ring of its own in use; another is not accepted and counts. -/
def Obligations.DoorbellAndWindowWritesTakeEffect : Prop :=
  ((∀ r : Ring, r.pendingEntries ≤ r.size - 1 ∧ r.freeSlots ≤ r.size - 1 ∧
      (r.tail < r.size → r.fetch < r.size → (r.pendingEntries = 0 ↔ r.fetch = r.tail)) ∧
      (r.head < r.size → r.ctail < r.size → (r.freeSlots = r.size - 1 ↔ r.head = r.ctail))) ∧
    (∀ (s : State) (dt fn q v : Nat),
      (s.advance dt).answers fn = true →
      let u := ((s.advance dt).wakeLink.leaveRest).noteAccess
      let never : State := { u with rings := aset u.rings q { dropped := ({} : Ring).dropped.inc } }
      u.host.state ≠ .faulted → u.ownsPage fn q = true → v < 65536 →
      (aget u.rings q = none → exec (.ringSubmitTailWrite dt fn q v) s = .next never ∧
        exec (.ringCompleteHeadWrite dt fn q v) s = .next never) ∧
      (∀ r : Ring, aget u.rings q = some r →
        let dropped : State := { u with rings := aset u.rings q { r with dropped := r.dropped.inc } }
        let h := if v < r.size ∧ (v + r.size - r.head) % r.size ≤ (r.ctail + r.size - r.head) % r.size then v else r.ctail
        (r.state = .enabled → r.metadata = false → v < r.size →
          exec (.ringSubmitTailWrite dt fn q v) s = .next { u with rings := amod u.rings q fun x => { x with tail := v } }) ∧
        (r.state = .enabled → r.metadata = false → r.size ≤ v →
          exec (.ringSubmitTailWrite dt fn q v) s = .next
            { u with rings := amod u.rings q fun x => { x with state := .halted, cause := causeTailRange } }) ∧
        (r.state ≠ .enabled ∨ r.metadata = true → exec (.ringSubmitTailWrite dt fn q v) s = .next dropped) ∧
        (r.state = .disabled → exec (.ringCompleteHeadWrite dt fn q v) s = .next dropped) ∧
        (r.state ≠ .disabled → r.head < r.size → r.ctail < r.size →
          (q ≠ 0 → exec (.ringCompleteHeadWrite dt fn q v) s = .next
            { u with rings := amod u.rings q fun x => { x with head := h } }) ∧
          (q = 0 → ∃ t, exec (.ringCompleteHeadWrite dt fn q v) s = .next t ∧
            (aget t.rings 0).map (fun x => x.head) = some h ∧ t.house = u.house ∧ t.dram = u.dram))))) ∧
  (∀ (s : State) (dt vf value first count : Nat),
      (s.advance dt).answers 0 = true → 1 ≤ vf → vf ≤ 63 →
      let u := (s.advance dt).wakeLink.leaveRest
      let refused : State := { u with host := { u.host with badAccess := u.host.badAccess.inc } }
      let fits := fun (n : Nat) =>
        value % 2 ^ (u.fnOf n).bar2Log2 = 0 ∧ value ≤ 2 ^ 36 - 2 ^ (u.fnOf n).bar2Log2
      let rangeOk := u.host.vfEnable = false ∧ count ≤ 1024 ∧ (count = 0 ∨ (1 ≤ first ∧ first + count ≤ 16384)) ∧
        u.rangeTaken vf first count = false ∧ u.rangeInUse vf = false
      (fits 0 → exec (.bar2WindowBaseWrite dt 0 value) s = .next (u.modFn 0 fun f => { f with window := value })) ∧
      (¬ fits 0 → exec (.bar2WindowBaseWrite dt 0 value) s = .next refused) ∧
      (fits vf → exec (.vfWindowBaseWrite dt 0 vf value) s = .next (u.modFn vf fun f => { f with window := value })) ∧
      (¬ fits vf → exec (.vfWindowBaseWrite dt 0 vf value) s = .next refused) ∧
      (rangeOk → exec (.vfRingsWrite dt 0 vf first count) s = .next
        ((u.modFn vf fun f => { f with ringFirst := first, ringCount := count }).playbillDue)) ∧
      (¬ rangeOk → exec (.vfRingsWrite dt 0 vf first count) s = .next refused))

/-- PF0's writes to ADMIN_CONTROL (R347): ENABLE 1 over 0 with Q0 DISABLED makes Q0 ENABLED as a created ring with the set-up
fields' values; ENABLE 0 over 1 with Q0 HALTED and nothing uncompleted makes it DISABLED; RESET with Q0 HALTED waits for Q0's
accepted commands and then resets it; with Q0 not HALTED the write is not accepted and counts. The SEC and PWR registers the host
writes: CAST_KEY_HASH is PF0's until the slots are locked, and any other write of it counts in BAD_ACCESS (R423); LOCK logs
CAST_LOCK and locks; BOOT_PUSH:GO in WAIT_HOST starts a check (R418); LIMIT:WATTS takes 150 to 450 and any other value counts
(R455). -/
def Obligations.AdminAndSecWritesTakeEffect : Prop :=
  (∀ (s : State) (dt : Nat),
      (s.advance dt).answers 0 = true →
      let u := (s.advance dt).wakeLink.leaveRest
      let h := u.host
      let refused : State := { u with host := { h with badAccess := h.badAccess.inc } }
      (h.adminEnable = false → u.live = true → u.ringState 0 = .disabled →
        let v := u.freeDeck 0
        exec (.adminEnable dt 0) s = .next
          (({ v with
              rings := aset v.rings 0
                { state := .enabled, cause := 0, metadata := false, group := 1, fn := 0, sizeLog2 := h.adminSize
                  interruptAll := h.adminInterrupt, vector := h.adminVector, submitBase := h.adminSubmit
                  completeBase := h.adminComplete, tail := 0, head := 0, fetch := 0, expected := 0, ctail := 0, phase := true }
              host := { v.host with adminEnable := true } }).flushEvents)) ∧
      (h.adminEnable = false → u.ringState 0 ≠ .disabled → exec (.adminEnable dt 0) s = .next refused) ∧
      (h.adminEnable = true → u.ringState 0 = .halted → u.uncompleted 0 = 0 →
        exec (.adminDisable dt 0) s = .next { u with
          rings := amod u.rings 0 fun r => { r with state := .disabled, cause := 0 }, host := { h with adminEnable := false } }) ∧
      (h.adminEnable = true → u.ringState 0 = .enabled → exec (.adminDisable dt 0) s = .next refused) ∧
      (u.live = true → u.ringState 0 = .halted →
        exec (.adminReset dt 0) s = .next (({ u with host := { h with adminResetDue := true } }).settleAdminReset)) ∧
      (u.ringState 0 ≠ .halted → exec (.adminReset dt 0) s = .next refused)) ∧
  (∀ (s : State) (dt fn slot watts : Nat) (value : Word256),
      (s.advance dt).answers fn = true →
      let u := (s.advance dt).wakeLink.leaveRest
      let refused : State := { u with host := { u.host with badAccess := u.host.badAccess.inc } }
      (fn = 0 → u.sec.locked = false → slot < 8 →
        exec (.castKeyHashWrite dt fn slot value) s = .next
          { u with sec := { u.sec with castKeys := modAt u.sec.castKeys slot fun _ => value } }) ∧
      (fn ≠ 0 ∨ u.sec.locked = true → slot < 8 → exec (.castKeyHashWrite dt fn slot value) s = .next refused) ∧
      (fn = 0 → u.sec.locked = false → ∃ t : State,
        exec (.castKeysLock dt fn) s = .next t ∧ t.sec.locked = true ∧ t.sec.castKeys = u.sec.castKeys ∧
        t.sec.logCount = u.sec.logCount + 1) ∧
      (fn ≠ 0 → exec (.castKeysLock dt fn) s = .next refused) ∧
      (fn = 0 → u.booting 5 = true → u.sec.pushRunning = false →
        exec (.bootPushGo dt fn) s = .next { u with sec := { u.sec with pushRunning := true } }) ∧
      (fn = 0 → 150 ≤ watts → watts ≤ 450 →
        exec (.limitWattsWrite dt fn watts) s = .next { u with pwr := { u.pwr with limit := watts } }) ∧
      (fn = 0 → watts < 150 ∨ 450 < watts → exec (.limitWattsWrite dt fn watts) s = .next refused))

/-! ### Register reads and writes, BAR2 -/

/-- PF0's reads of the registers that latch (R45, R49): NOW_LO reads the time's low word and latches the high word, PPS_LO
likewise, NUMBER_LO reads the cue number's low word and latches its high word and the edge; each 32-bit read of RING_DROPPED or
BAD_ACCESS gives the count and clears it (R8); a misaligned or odd-sized read gives 0 and counts (R337). REGISTER_WRITE of PF0
(R8, R9, R337): a misaligned or odd-sized write has no effect but BAD_ACCESS; a 32-bit write in the window of a block with no
writable register has none at all; one at a ring's TAIL or at LIMIT acts as the register's own row does. -/
def Obligations.RegisterAccessesTakeEffect : Prop :=
  (∀ (s : State) (dt q size offset : Nat) (r : Ring),
      (s.advance dt).answers 0 = true →
      let u := (s.advance dt).wakeLink
      let got := fun (t : State) (v : Nat) => { t with lastRead := BitVec.ofNat 64 v }
      exec (.nowLoRead dt 0) s = .next
        (got { u with time := { u.time with nowHi := bitsOf u.time.now 32 32 } } (bitsOf u.time.now 0 32)) ∧
      exec (.ppsLoRead dt 0) s = .next
        (got { u with time := { u.time with ppsHi := bitsOf u.time.ppsTime 32 32 } } (bitsOf u.time.ppsTime 0 32)) ∧
      exec (.numberLoRead dt 0) s = .next
        (got { u with cue := { u.cue with numberHi := bitsOf u.cueNow 32 32, edgeLatch := u.cue.edge } } (bitsOf u.cueNow 0 32)) ∧
      exec (.readClear dt 0 (windowOffset 0 0x30) 4) s = .next
        (got { u with host := { u.host with badAccess := u.host.badAccess.clear } } u.host.badAccess.val) ∧
      (aget u.rings q = some r → u.ownsPage 0 q = true →
        exec (.readClear dt 0 (0x1000 * q + 0x1C) 4) s = .next
          (got { u.noteAccess with rings := amod u.rings q fun x => { x with dropped := x.dropped.clear } } r.dropped.val)) ∧
      ((size ≠ 4 ∧ size ≠ 8) ∨ offset % size ≠ 0 →
        exec (.readClear dt 0 offset size) s = .next
          (got { u with host := { u.host with badAccess := u.host.badAccess.inc } } 0))) ∧
  (∀ (s : State) (dt offset size q : Nat) (value : Word64) (b : Block19) (o : Nat),
      (s.advance dt).answers 0 = true →
      let u := (s.advance dt).wakeLink.leaveRest
      ((size ≠ 4 ∧ size ≠ 8) ∨ offset % size ≠ 0 →
        exec (.registerWrite dt 0 offset size value) s = .next
          { u with host := { u.host with badAccess := u.host.badAccess.inc } }) ∧
      (offset % 4 = 0 → windowAt offset = some (b, o) → b ≠ .host → b ≠ .sec → b ≠ .pwr → b ≠ .time →
        exec (.registerWrite dt 0 offset 4 value) s = .next u) ∧
      (q < 16384 → exec (.registerWrite dt 0 (0x1000 * q) 4 value) s = exec (.ringSubmitTailWrite dt 0 q (value.toNat % 65536)) s) ∧
      exec (.registerWrite dt 0 (windowOffset 39 4) 4 value) s = exec (.limitWattsWrite dt 0 (value.toNat % 1024)) s)

/-- BAR2 accesses of a function that answers, in the House (R63, R72, R74, R336, R337): a read of good lines that are not sealed
for the function gives their bytes; a sealed read gives zeros and counts, a sealed write is discarded and counts; a poisoned write
is discarded and counts; a write that meets no failing line stores its bytes; an access of a length or alignment that R337 does
not accept counts. -/
def Obligations.Bar2AccessesReachMemory : Prop :=
  ∀ (s : State) (dt fn x a n : Nat) (data : List Byte),
    (s.advance dt).answers fn = true →
    let u := (s.advance dt).wakeLink.noteAccess
    let w := ((s.advance dt).wakeLink.leaveRest).noteAccess
    let zeros : List Byte := List.replicate n 0
    (bar2Accepted x n = true → u.bar2At fn x = .memory false a → u.sealedFor fn false a = false →
      (∀ l ∈ linesOf a n, u.lineFails l = false) →
      exec (.bar2Read dt fn x n) s = .next
        { u with lastReadBytes := u.house.mem.readBytes a n, lastReadPoisoned := false }) ∧
    (bar2Accepted x n = true → u.bar2At fn x = .memory false a → u.sealedFor fn false a = true →
      exec (.bar2Read dt fn x n) s = .next
        { u with
          lastReadBytes := zeros, lastReadPoisoned := false
          house := { u.house with sealedReads := u.house.sealedReads.inc } }) ∧
    (bar2Accepted x data.length = true → w.bar2At fn x = .memory false a → w.sealedFor fn false a = true →
      exec (.bar2Write dt fn x data false) s = .next
        { w with house := { w.house with sealedWrites := w.house.sealedWrites.inc } }) ∧
    (bar2Accepted x data.length = true → w.bar2At fn x = .memory false a → w.sealedFor fn false a = false →
      (∀ l ∈ linesOf a data.length, w.lineFails l = false) →
      exec (.bar2Write dt fn x data false) s = .next (w.writeMem false a data)) ∧
    (∃ t : State, exec (.bar2Write dt fn x data true) s = .next t ∧ t.host.poisonedIn = u.host.poisonedIn.inc ∧
      t.house = u.house ∧ t.dram.mem = u.dram.mem) ∧
    (bar2Accepted x n = false → ∃ t : State,
      exec (.bar2Read dt fn x n) s = .next t ∧ t.lastReadBytes = zeros ∧ t.host.badAccess = u.host.badAccess.inc)

/-! ### Function state and Function Level Reset -/

/-- The configuration accesses of a function that answers configuration requests (R333, R340, R343, R446): D3hot entry and exit
and Bus Master Enable change that bit of the function only; VF Enable going to 1 takes the number of VFs, at most 7 without an ARI
Capable Hierarchy; unmasking a vector clears its mask and sends the message it had pending. FUNCTION_LEVEL_RESET of a VF or of
PF0, outside BOOT and FAULTED (R345, R346): afterwards every ring of the function is DISABLED and no cast or script of one of its
groups is left; of PF0 it also seals, turns encoded output off, removes the VFs and leaves ADMIN_CONTROL, the Q0 bases and every
window and range at their reset values. -/
def Obligations.FunctionConfigurationTakesEffect : Prop :=
  (∀ (s : State) (dt fn v n : Nat) (b ari : Bool),
      let u := s.advance dt
      (u.configurable fn = true →
        exec (.d3hotEntry dt fn) s = .next (u.modFn fn fun f => { f with d3hot := true }) ∧
        exec (.d3hotExit dt fn) s = .next (u.modFn fn fun f => { f with d3hot := false }) ∧
        exec (.busMasterEnableWrite dt fn b) s = .next (u.modFn fn fun f => { f with busMaster := b })) ∧
      (u.configurable 0 = true → u.host.vfEnable = false → n ≤ 63 →
        exec (.vfEnableWrite dt true n ari) s = .next
          { u with host := { u.host with vfEnable := true, ari := ari, numVfs := if ari then n else min n 7 } }) ∧
      (u.answers fn = true → v < vectorsOf fn →
        let w := u.wakeLink.leaveRest
        let e : MsixEntry := agetD (w.fnOf fn).msix v {}
        let t := w.modFn fn fun f => { f with msix := aset f.msix v { e with masked := false, pending := false } }
        (e.pending = false → exec (.msixUnmask dt fn v) s = .next t) ∧
        (e.pending = true → ∃ x : State,
          exec (.msixUnmask dt fn v) s = .next x ∧ x.outputs = .interrupt fn v :: w.outputs ∧
          agetD (x.fnOf fn).msix v {} = { e with masked := false, pending := false }))) ∧
  (∀ (s : State) (dt vf : Nat),
      let u := s.advance dt
      u.host.state ≠ .boot → u.host.state ≠ .faulted →
      (vf ≠ 0 → u.configurable vf = true → ∃ t : State,
        exec (.functionLevelResetVf dt vf) s = .next t ∧
        (∀ q r, aget t.rings q = some r → r.fn = vf → r.state = .disabled) ∧
        (∀ e ∈ t.casts, e.2.group < 1024 → u.groupOwner e.2.group ≠ some vf) ∧
        (∀ e ∈ t.scripts, e.2.group < 1024 → u.groupOwner e.2.group ≠ some vf)) ∧
      (u.configurable 0 = true → ∃ t : State,
        exec (.functionLevelResetPf dt) s = .next t ∧
        (∀ q r, aget t.rings q = some r → r.fn = 0 → r.state = .disabled) ∧
        t.sec.unsealed = false ∧ t.sec.encoded = false ∧ t.host.vfEnable = false ∧ t.host.adminEnable = false ∧
        t.host.adminSize = 6 ∧ t.host.adminSubmit = 0 ∧ t.host.adminComplete = 0))

/-! ### Resets and boot -/

/-- Each reset event leaves the device in BOOT at step 0; of a device out of reset RESET_CAUSE:KIND becomes the reset's kind and
PREVIOUS the kind before it, which POWER_ON clears (R454); while causes overlap KIND is the lowest of them (R464); no ring,
stream, sample, pool, command or event, and nothing unsealed or declared; a HOST reset keeps device time, every other one starts
it at 0; a rail's undervoltage is a POWER_ON cause whichever rail it is (R344, R444, R453, R462 to R464). -/
def Obligations.ResetsEnterBoot : Prop :=
  ∀ (s : State) (dt rail : Nat),
    let u := s.advance dt
    let cleared := fun (kind : Nat) (t : State) =>
      t.host.state = .boot ∧ t.host.bootStep = 0 ∧
      (u.host.bootStep ≠ 0 → t.pwr.resetKind = kind ∧ t.pwr.resetPrevious = (if kind = 1 then 0 else u.pwr.resetKind)) ∧
      (u.host.bootStep = 0 →
        t.pwr.resetKind ≤ kind ∧ (∀ k ∈ u.pwr.resetCauses, t.pwr.resetKind ≤ k) ∧ t.pwr.resetKind ∈ kind :: u.pwr.resetCauses ∧
        t.pwr.resetPrevious = (if t.pwr.resetKind = 1 then 0 else u.pwr.resetPrevious)) ∧
      kind ∈ t.pwr.resetCauses ∧
      t.rings = [] ∧ t.streams = [] ∧ t.samples = [] ∧ t.inflight = [] ∧ t.events = [] ∧ t.casts = [] ∧ t.scripts = [] ∧
      t.wardrobe.pools = [] ∧ t.sec.unsealed = false ∧ t.sec.encoded = false ∧ t.sec.logCount = 0 ∧ t.pending = u.pending ∧
      t.time.now = (if kind = 4 then u.time.now else 0) ∧ t.time.elapsed = u.time.elapsed
    (∃ t, exec (.hostReset dt) s = .next t ∧ cleared 4 t) ∧
    (∃ t, exec (.coldReset dt) s = .next t ∧ cleared 2 t) ∧
    (∃ t, exec (.powerOnReset dt) s = .next t ∧ cleared 1 t) ∧
    (∃ t, exec (.pwrokFall dt) s = .next t ∧ cleared 1 t) ∧
    (rail < 8 → ∃ t, exec (.railUndervoltage dt rail) s = .next t ∧ cleared 1 t) ∧
    (∃ t, exec (.sysRefclkLoss dt) s = .next t ∧ cleared 3 t)

/-- Boot up to firmware (R412 to R418): the release starts step 3, or faults on four fuse mismatches after a reset that re-reads
the fuses; the third failed read of a slot makes it unusable; of two valid slots the larger SECURITY_VERSION, then BUILD, loads, A
on a tie, and with none valid boot waits for the host at step 5; a payload of the right hash starts firmware, and a pushed image
likewise, while a refused push gives its cause and counts. Boot from firmware to STANDBY (R393, R416, R420): DRAM training of
margins of 16 and more goes on, a worse channel faults; after the fill all memory reads as zero and rehearsal begins; a rehearsal
without a wrong answer enters STANDBY with the shared pools of Table 4.4, pixels sealed and encoded output off, a wrong one is a
SELF_TEST fault of its node; the pending floor and revocation are burned. -/
def Obligations.BootReachesStandby : Prop :=
  (∀ (s : State) (dt n k : Nat) (b : Bool),
      let u := s.advance dt
      let version := fun (slot : Bool) => fieldAt (u.sec.flashBytes slot 0 4096) 8 1
      let build := fun (slot : Bool) => fieldAt (u.sec.flashBytes slot 0 4096) 24 8
      (u.host.bootStep = 0 → u.pwr.resetKind = 4 ∨ n < 4 →
        exec (.resetRelease dt n) s = .next
          { u with
            pwr := { u.pwr with resetCauses := [] }, host := { u.host with bootStep := 3 }
            tap := if tapDrives u.tap then .bypass else u.tap }) ∧
      (u.host.bootStep = 0 → u.host.state = .boot → u.pwr.resetKind ≠ 4 → 4 ≤ n → ∃ t,
        exec (.resetRelease dt n) s = .next t ∧ t.host.state = .faulted ∧ t.host.fault = clsSelfTest) ∧
      (u.booting 3 = true → u.sec.flashRetries = [2, 2] → u.sec.flashUnusable = [false, false] → ∃ t,
        exec (.flashReadTimeout dt b) s = .next t ∧ t.sec.flashUnusable = [!b, b] ∧
        t.sec.flashErrors = u.sec.flashErrors.inc ∧ t.host = u.host) ∧
      (u.booting 3 = true → u.sec.slotValid false = true → u.sec.slotValid true = true → ∃ t,
        exec (.flashSlotSelect dt) s = .next t ∧ t.host.bootStep = 4 ∧
        t.sec.loading = some (decide (version false < version true ∨
          version false = version true ∧ build false < build true))) ∧
      (u.booting 3 = true → u.sec.slotValid false = false → u.sec.slotValid true = false → ∃ t,
        exec (.flashSlotSelect dt) s = .next t ∧ t.host.bootStep = 5) ∧
      (u.booting 4 = true → u.sec.loading = some b →
        let header := u.sec.flashBytes b 0 4096
        let payload := u.sec.flashBytes b 4096 (fieldAt header 16 4)
        sha3 payload = BitVec.ofNat 256 (fieldAt header 32 32) → ∃ t,
        exec (.firmwareLoadComplete dt) s = .next t ∧ t.host.bootStep = 6 ∧ t.sec.version = version b ∧ t.sec.build = build b ∧
        t.sec.imageHash = sha3 payload ∧ t.sec.bootSource = b2n b ∧ t.house.mem = u.house.mem.writeBytes 0 payload) ∧
      (u.booting 5 = true → u.sec.pushRunning = true →
        let image := u.readMem false 0 (min u.sec.pushLength 16781313)
        (u.sec.imageCause image = some k →
          exec (.bootPushCheckComplete dt) s = .next { u with
            sec := { u.sec with pushRunning := false, pushCause := k, authFailures := u.sec.authFailures.inc } }) ∧
        (u.sec.imageCause image = none → ∃ t,
          exec (.bootPushCheckComplete dt) s = .next t ∧ t.host.bootStep = 6 ∧ t.sec.bootSource = 2 ∧
          t.sec.pushRunning = false ∧ t.sec.version = fieldAt image 8 1))) ∧
  (∀ (s : State) (dt n : Nat) (margins : List Nat),
      let u := s.advance dt
      (u.booting 6 = true → margins.length = 128 → (∀ m ∈ margins, 16 ≤ m) → ∃ t,
        exec (.dramTrainingComplete dt margins) s = .next t ∧ t.host.bootStep = 7 ∧ t.dram.passed = upto 128) ∧
      (u.booting 6 = true → n < 128 → (∀ i m, margins[i]? = some m → i = n → m < 16) → ∃ t,
        exec (.dramTrainingComplete dt margins) s = .next t ∧ t.host.state = .faulted ∧ t.host.fault = clsDram) ∧
      (u.booting 7 = true → ∃ t,
        exec (.dramFillComplete dt) s = .next t ∧ t.host.bootStep = 8 ∧ t.host.rehearsal = true ∧
        (∀ a, t.dram.mem.read a = 0) ∧ (∀ a, t.house.mem.read a = 0)) ∧
      (u.booting 8 = true → u.pwr.trip = false → ∃ t,
        exec (.rehearsalComplete dt none) s = .next t ∧ t.host.state = .standby ∧ t.host.bootStep = 10 ∧
        t.host.rehearsal = false ∧ t.sec.unsealed = false ∧ t.sec.encoded = false ∧ t.wardrobe.pools = defaultPools ∧
        t.sec.logCount = u.sec.logCount + 1) ∧
      (u.booting 8 = true → ∃ t,
        exec (.rehearsalComplete dt (some n)) s = .next t ∧ t.host.state = .faulted ∧ t.host.fault = clsSelfTest ∧
        t.host.faultUnit = n) ∧
      (u.host.bootStep = 10 → u.sec.floorPending = true → u.sec.revokePending = true → ∃ t,
        exec (.floorBurnComplete dt) s = .next t ∧ t.sec.floor = u.sec.version ∧ t.sec.floorPending = false ∧
        t.sec.slot0Revoked = true ∧ t.sec.revokePending = false ∧ t.sec.logCount = u.sec.logCount + 2))

/-! ### Cue edges, PPS and plan slots -/

/-- CUE_EDGE at its due time begins the next cue at that time; a staged period whose edge it is takes effect there, and EPOCH
becomes the edge (R48, R60). Under PIN an edge that comes early is ignored and counted, one in time begins the next cue, and one
missing by P × 1.001 is made by the device, which falls back to INTERNAL after four in a row (R51). -/
def Obligations.CueEdgesBeginCues : Prop :=
  ∀ (s : State) (dt at_ : Nat),
    let u := s.advance dt
    (u.edgeDue = some at_ → ∃ t : State,
      exec (.cueEdge dt) s = .next t ∧ t.cue.edges = u.cue.edges + 1 ∧ t.cue.edge = at_ ∧
      (u.cue.stagedAt = some u.cue.edges →
        t.cue.period = u.cue.nextPeriod ∧ t.cue.epoch = at_ ∧ t.cue.stagedAt = none) ∧
      (u.cue.stagedAt ≠ some u.cue.edges →
        t.cue.period = u.cue.period ∧ t.cue.epoch = u.cue.epoch ∧ t.cue.stagedAt = u.cue.stagedAt)) ∧
    (u.pinSource = true → u.cue.edges ≠ 0 → u.now < u.cue.lastPin + u.cue.period * 999 →
      exec (.cueInEdge dt) s = .next { u with cue := { u.cue with pinEarly := u.cue.pinEarly.inc } }) ∧
    (u.pinSource = true → u.stageManager = false → u.cue.lastPin + u.cue.period * 999 ≤ u.now →
      u.now ≤ u.cue.lastPin + u.cue.period * 1001 → ∃ t : State,
      exec (.cueInEdge dt) s = .next t ∧ t.cue.edges = u.cue.edges + 1 ∧ t.cue.edge = u.now) ∧
    (u.pinSource = true → u.stageManager = false → u.cue.edges ≠ 0 → u.cue.lastPin + u.cue.period * 1001 ≤ u.now →
      ∃ t : State,
      exec (.cueInMissing dt) s = .next t ∧ t.cue.edges = u.cue.edges + 1 ∧
      t.cue.edge = u.cue.lastPin + u.cue.period * 1001 ∧
      (3 ≤ u.cue.missingRun → t.cue.source = .internal ∧ t.cue.fallback = true ∧
        t.cue.epoch = u.cue.lastPin + u.cue.period * 1001))

/-- PPS alignment (R47): while enabled, an edge outside 1 s ± 100 ppm of the last accepted one is rejected and counted; an
accepted one within 10 ms of a whole second slews device time by the negated offset and keeps EDGE's time, and LOCKED follows four
good edges; one farther away changes nothing but LOCKED and posts the event; after 1.5 s without one the alignment is lost, and
the event tells it. -/
def Obligations.PpsAligns : Prop :=
  ∀ (s : State) (dt x : Nat),
    let u := s.advance dt
    let t := u.time
    let o := secondOffset t.now
    t.ppsEnabled = true → u.plainMember = false → u.host.state ≠ .boot →
    (t.lastPps = some x → t.now < x + 999900000 ∨ x + 1000100000 < t.now →
      exec (.ppsInEdge dt) s = .next { u with time := { t with ppsRejected := t.ppsRejected.add 16 1 } }) ∧
    (t.lastPps = none ∨ t.lastPps = some x ∧ x + 999900000 ≤ t.now ∧ t.now ≤ x + 1000100000 →
      (o.natAbs ≤ 10000000 → ∃ v : TimeBlk,
        exec (.ppsInEdge dt) s = .next { u with time := v } ∧
        v.ppsTime = t.now ∧ v.lastPps = some t.now ∧ (o ≠ 0 → v.slewRemain = -o) ∧
        v.ppsGood = (if o.natAbs ≤ 100 then t.ppsGood + 1 else 0) ∧
        (100 < o.natAbs → v.ppsLocked = false) ∧ (o.natAbs ≤ 100 → 3 ≤ t.ppsGood → v.ppsLocked = true)) ∧
      (10000000 < o.natAbs →
        exec (.ppsInEdge dt) s = .next
          (({ u with time := { t with
              ppsTime := t.now, lastPps := some t.now, ppsWaitFrom := t.elapsed, ppsLocked := false, ppsGood := 0 } }).postEvent
            0x0003 .done 1 t.now))) ∧
    (t.ppsWaitFrom + 1500000000 ≤ t.elapsed →
      exec (.ppsLost dt) s = .next
        (({ u with time := { t with
            ppsLost := true, ppsLocked := false, ppsGood := 0, lastPps := none, ppsWaitFrom := t.elapsed } }).postEvent
          0x0003 .done 2 0))

/-- PLAN_SLOT_START in an open slot whose needs are met (R24, R140, R195, R325 to R327): a run-time shape beyond its planned one
ends the chain with SHAPE_EXCEEDS_PLAN and the layer; sampler words with room are queued with the chain's deck in slot 4; records
of a chain with nothing running are queued for the host, the last marked LAST, and an empty list makes a SAMPLE record; an output
of n bytes makes ceil(n / 36) VALUES records (R326), and a frame one DETECTION record per candidate (R233). -/
def Obligations.PlanSlotsStart : Prop :=
  ∀ (s : State) (dt k b : Nat) (m : Sample) (shapes : List LayerShape) (needs : List (Nat × Nat × Nat)) (work : SlotWork)
      (words : List Word256) (sources : List RecordSource) (output fmt line n : Nat),
    let u := s.advance dt
    aget u.samples k = some m → u.slotOpen m = true → (∀ n ∈ needs, u.needMet n = true) →
    (∀ i x, shapes[i]? = some x → (x.pm < x.m ∨ x.pn < x.n ∨ x.pk < x.k) → i < 65536 →
      (∀ j y, shapes[j]? = some y → j < i → y.m ≤ y.pm ∧ y.n ≤ y.pn ∧ y.k ≤ y.pk) →
      exec (.planSlotStart dt k shapes needs work) s = .next (u.endChain k ⟨.shapeExceedsPlan, i⟩)) ∧
    ((∀ x ∈ shapes, x.m ≤ x.pm ∧ x.n ≤ x.pn ∧ x.k ≤ x.pk) →
      ((u.samp b).queue.length + words.length ≤ 64 →
        exec (.planSlotStart dt k shapes needs (.samplerWords b words)) s = .next
          (words.foldl (fun (t : State) w => t.queueSamp b (.chain k) w) (u.loadDeck b 4 (.chain k)))) ∧
      (u.hasJobs (.chain k) = false →
        (sources.flatMap (u.recordsOf m) ≠ [] →
          exec (.planSlotStart dt k shapes needs (.records sources)) s = .next
            { u with samples := amod u.samples k fun x => x.queueRecords (sources.flatMap (u.recordsOf m)) true }) ∧
        (u.recordsOf m (.values output fmt line n)).length = ceilDiv n 36 ∧
        (0 < n → (u.recordsOf m (.frame line n none)).length = n) ∧
        exec (.planSlotStart dt k shapes needs (.records [])) s = .next
          { u with samples := amod u.samples k fun x => { x with
              finished := true
              queue := x.queue ++ [⟨0x01, true, x.stream, x.assigned, x.capture, sampleBody x.issued x.arrival⟩] } }))

/-! ### Arrays -/

/-- The array events of a part whose conditions hold (R95 to R98, R102). SHADOW_LOAD_START of the next MATMUL whose weight rows
are signalled and good and whose tags match loads its block into the shadow; ARRAY_ROW0_ENTRY of the head that fails a check
completes it with the check's status and no other effect, and of one that is ready makes its block the active one, counts its M
rows and lets them stream; ARRAY_CLOCK_GATE gates an array idle for 1,024 cycles; SPLIT_MODE_CHANGE of an idle array sets the mode
and leaves no block. -/
def Obligations.ArrayInstructionsEnter : Prop :=
  ∀ (s : State) (dt a p i ready mode : Nat) (j : ArrayJob) (rest : List ArrayJob) (st : Status),
    let u := s.advance dt
    let part := u.arrayPart a p
    let w := arrayWordOf j.word
    let now := u.time.elapsed
    u.computing = true → a < u.arrays.length → p < (u.array a).parts.length →
    (nextLoad part.queue = some i → part.queue[i]? = some j → u.arrayCheck a j.owner w none = none →
      part.swapAt = none → (u.array a).splitAt ≤ now → u.weightTagsOk w = true →
      (∀ r ∈ (w.reads.drop 1).take 1, u.rowsReady j.tile r = true ∧ u.linesClean r.1 ((r.2.2.2 - 1) * r.2.1 + r.2.2.1) = true) →
      ∃ t : State, exec (.shadowLoadStart dt a p) s = .next t ∧ (t.arrayPart a p).shadow = some (u.readBlock w) ∧
        (t.arrayPart a p).active = part.active ∧ t.house = u.house) ∧
    (part.queue = j :: rest → j.phase = .queued → u.arrayCheck a j.owner w part.active = some st →
      exec (.arrayRow0Entry dt a p) s = .next ((u.signalTile j.tile).finishArray a p 0 j st)) ∧
    (part.queue = j :: rest → j.streaming = false → u.arrayCheck a j.owner w part.active = none → loadedAt j = some ready →
      ready ≤ now → part.lastRowAt ≤ now → (u.array a).wakeAt ≤ now → (u.array a).splitAt ≤ now →
      (∀ r ∈ (if w.k = 0 then [] else w.reads.take 1), u.rowsReady j.tile r = true) →
      u.operandsClean w = true → u.actTagsOk w = true → ∃ t : State,
      exec (.arrayRow0Entry dt a p) s = .next t ∧
      (t.arrayPart a p).active = (if w.loads then j.block else part.active) ∧
      (t.array a).rows = (u.array a).rows.add 32 (if w.k = 0 then 0 else w.m) ∧
      (∃ x l, (t.arrayPart a p).queue = x :: l ∧ x.streaming = true ∧ x.word = j.word) ∧ t.house = u.house) ∧
    ((u.array a).idle = true → (u.array a).idleSince + ns600 1024 ≤ now →
      exec (.arrayClockGate dt a) s = .next (u.modArray a fun b => { b with gated := true })) ∧
    ((u.array a).idle = true → mode ≤ 2 → (u.array a).fixed = none ∨ (u.array a).fixed = some mode →
      exec (.splitModeChange dt a mode) s = .next (u.modArray a fun b => { b with
        parts := b.parts.map fun (q : ArrayPart) => { q with active := none, shadow := none, swapAt := none }
        split := mode, splitAt := now + ns600 64 }))

/-- ARRAY_INSTRUCTION_COMPLETE of a head whose last row is due and whose operands are good: its results and counts are as R103 to
R112 give them, its rows are signalled (R221), it leaves the queue DONE, or RECOMPUTED where it was repeated, and the layer's clip
trigger is then decided (R132). What an array instruction of four-byte results leaves in the House: element n of row m at line
O_ADDR + m × O_PITCH; nothing outside those rows changes (R103, R110). -/
def Obligations.ArrayInstructionsComplete : Prop :=
  (∀ (s : State) (dt a p : Nat) (j : ArrayJob) (rest : List ArrayJob),
      let u := s.advance dt
      let w := arrayWordOf j.word
      let again := j.repeated || j.restarted
      u.computing = true → (u.arrayPart a p).queue = j :: rest → j.streaming = true → j.doneAt ≤ u.time.elapsed →
      (w.toVector = true → u.canDeliver a p = true) → u.operandsClean w = true →
      exec (.arrayInstructionComplete dt a p) s = .next
        (((((u.arrayEffect a p j).signalTile j.tile).modArray a fun b => { b with
            recomputed := if again then b.recomputed.inc else b.recomputed
            scaleRetries := if j.scaleRetry then b.scaleRetries.inc else b.scaleRetries }).finishArray a p 0 j
              (if again then .recomputed else .done)).clipTrigger j.owner w.layer w.aFmt)) ∧
  (∀ (u : State) (a p : Nat) (j : ArrayJob) (w : ArrayWord),
      w = arrayWordOf j.word → w.toHouse = true → w.toVector = false → w.legal = true →
      4 * w.n ≤ 64 * w.oPitch → (u.arrayResults w j.block).length = w.m * w.n →
      (∀ m n v, m < w.m → n < w.n → (u.arrayResults w j.block)[m * w.n + n]? = some v →
        (u.arrayEffect a p j).readMem false (64 * (w.oAddr + m * w.oPitch) + 4 * n) 4 = leBytes 4 v.1.toNat) ∧
      (∀ x, (∀ m < w.m, ¬ (64 * (w.oAddr + m * w.oPitch) ≤ x ∧ x < 64 * (w.oAddr + m * w.oPitch) + 4 * w.n)) →
        (u.arrayEffect a p j).house.mem.read x = u.house.mem.read x))

/-- The failures of an array (R99, R101, R108, R109, R398): a residue failure counts and repeats the running instruction, and in
the repetition, or at the rate of R398, it is a persistent fault; a first scale-tag mismatch of the head runs it again, a second
completes it SCALE_MISMATCH. -/
def Obligations.ArrayFailuresRepeat : Prop :=
  ∀ (s : State) (dt a p column row : Nat) (j : ArrayJob) (rest : List ArrayJob),
    let u := s.advance dt
    let part := u.arrayPart a p
    let w := arrayWordOf j.word
    let t := u.modArray a fun b => { b with
      residueErrors := b.residueErrors.inc, errorPart := p, errorColumn := column % 512, errorRow := row % 2 ^ 17 }
    u.computing = true → part.queue = j :: rest →
    (j.streaming = true → j.repeated = false → (recordRepeat u.ms part.repeats).2 = false →
      exec (.arrayResidueFailure dt a p column row) s = .next
        (((t.modArrayPart a p fun q => { q with repeats := (recordRepeat u.ms part.repeats).1 }).repeatArray a p).repeatUnit
          j.owner 0x01 (arrayRepeatCost w.m (u.array a).split) clsArray (4 * a + p))) ∧
    (j.streaming = true → j.repeated = true → u.host.state ≠ .faulted → ∃ v : State,
      exec (.arrayResidueFailure dt a p column row) s = .next v ∧ v.host.state = .faulted ∧ v.host.fault = clsArray ∧
      v.host.faultUnit = 4 * a + p) ∧
    (j.streaming = false → w.aScaled = true → u.arrayCheck a j.owner w part.active = none →
      (j.scaleRetry = false →
        exec (.scaleTagMismatch dt false a p) s = .next
          ((((u.modArrayJob a p 0 fun x => { x with phase := .queued, scaleRetry := true }).modArrayPart a p fun q =>
            { q with shadow := none }).trace 5 clsArray (4 * a + p) w.layer u.cueNow).drawReserve j.owner
              (arrayRepeatCost w.m (u.array a).split))) ∧
      (j.scaleRetry = true →
        exec (.scaleTagMismatch dt false a p) s = .next
          (((u.trace 5 clsArray (4 * a + p) (w.layer + 16) u.cueNow).modArray a fun b => { b with
            scaleMismatch := b.scaleMismatch.inc }).finishArray a p 0 j .scaleMismatch)))

/-! ### Vector engines and samplers -/

/-- The vector events of a part whose conditions hold (R154, R171, R176 to R185). VECTOR_INSTRUCTION_ISSUE of a head that fails a
check completes it with the check's status; of one whose inputs are ready issues it with the scalars it reads;
VECTOR_INSTRUCTION_COMPLETE of an issued head writes its results and takes it from the queue DONE, or RECOMPUTED where it was
repeated, with its flags; VECTOR_SPLIT_MODE_CHANGE of an idle engine sets the mode; a parity failure counts and puts the head's
link group in repetition, and in the repetition it is a persistent fault; a second scale-tag mismatch completes SCALE_MISMATCH.
CONTEXT_SAVE of an issued group of a chain into a held 512-byte buffer takes the group from the part and its 512 bytes stand in
the buffer; CONTEXT_RESTORE of a context whose CHECK is right gives the part the same instructions at the saved POSITION, with the
saved flags, and leaves no context there (R183, R184). -/
def Obligations.VectorInstructionsAndContexts : Prop :=
  (∀ (s : State) (dt e p mode : Nat) (j : VecJob) (rest : List VecJob) (st : Status),
      let u := s.advance dt
      let q := u.vecPart e p
      let w := vecWordOf j.word
      let again := j.repeated || j.restarted
      u.computing = true → e < u.vecs.length → p < (u.vec e).parts.length →
      (q.queue = j :: rest → j.phase = .queued → (u.vec e).splitAt ≤ u.time.elapsed → w.dDst = 0 ∨ rest ≠ [] →
        (u.vecCheck e p (u.readScalars e j) rest.head? = some st →
          exec (.vectorInstructionIssue dt e p) s = .next
            (((u.modVecPart e p fun x => { x with link := none }).signalTile (u.readScalars e j).tile).finishVec e p
              (u.readScalars e j) st 0)) ∧
        (u.vecCheck e p (u.readScalars e j) rest.head? = none → u.inputsReady (u.readScalars e j) = true →
          u.vecTagsOk (u.readScalars e j) = true → ∃ t : State,
          exec (.vectorInstructionIssue dt e p) s = .next t ∧
          (t.vecPart e p).queue = { u.readScalars e j with phase := .issued } :: rest ∧ t.house = u.house)) ∧
      (q.queue = j :: rest → j.phase = .issued → w.aSrc ≠ 2 → isVision w.op = false →
        (∀ o ∈ (u.vecExtents j).1, u.linesClean o.1 o.2 = true) → ∃ (v t : State) (fx : VecEffect),
        fx = u.plainEffect e p j ((u.samp e).decks.getD p none) ∧
        exec (.vectorInstructionComplete dt e p) s = .next t ∧
        t = v.finishVec e p j (if again then .recomputed else .done) fx.flags ∧
        v.house.mem = (u.storeAll fx.writes).house.mem) ∧
      ((u.vec e).idle = true → mode ≤ 2 → (u.vec e).fixed = none ∨ (u.vec e).fixed = some mode →
        exec (.vectorSplitModeChange dt e mode) s = .next
          (u.modVec e fun v => { v with split := mode, splitAt := u.time.elapsed + ns1200 32 })) ∧
      (q.queue = j :: rest → j.phase = .issued → j.repeated = true → u.host.state ≠ .faulted → ∃ t : State,
        exec (.vectorParityFailure dt e p 0 false false) s = .next t ∧ t.host.state = .faulted ∧ t.host.fault = clsVector ∧
        t.host.faultUnit = 4 * e + p) ∧
      (q.queue = j :: rest → j.phase = .issued → j.repeated = false → (recordRepeat u.ms q.repeats).2 = false → ∃ t : State,
        exec (.vectorParityFailure dt e p 0 false false) s = .next t ∧ (t.vec e).parityErrors = (u.vec e).parityErrors.inc ∧
        (t.vecPart e p).rehearsal = true ∧ (t.vecPart e p).queue.head? = some { j with repeated := true } ∧
        t.house = u.house) ∧
      (q.queue = j :: rest → j.phase = .queued → j.scaleRetry = true → blockLen w.aFmt ≠ 0 → w.aSrc = 0 → readsA w.op = true →
        u.vecCheck e p (u.readScalars e j) rest.head? = none → ∃ v : State,
        exec (.scaleTagMismatch dt true e p) s = .next (v.finishVec e p (u.readScalars e j) .scaleMismatch 0) ∧
        (v.vec e).scaleMismatch = (u.vec e).scaleMismatch.inc ∧ v.house = u.house)) ∧
  (∀ (s : State) (dt e p line position k : Nat) (j : VecJob) (rest : List VecJob) (c : SavedContext),
      let u := s.advance dt
      let q := u.vecPart e p
      u.computing = true → e < u.vecs.length → p < (u.vec e).parts.length →
      (q.queue = j :: rest → j.phase = .issued → j.owner = .chain k → u.holds (u.ownerGroup j.owner) line 8 = true →
        ∃ t : State, exec (.contextSave dt e p line position) s = .next t ∧
          t.house.mem = u.house.mem.writeBytes (64 * line) (u.contextBytes e p position (headGroup q.queue) q) ∧
          (t.vecPart e p).queue = q.queue.drop (headGroup q.queue).length ∧
          aget t.contexts line = some { jobs := headGroup q.queue, descriptor := q.descriptor, vl := q.vl, flags := q.flags
                                        position := position }) ∧
      (aget u.contexts line = some c → c.jobs = j :: rest → q.queue = [] → p < partCount (u.vec e).split → c.jobs.length ≤ 32 →
        fieldAt (u.readMem false (64 * line) 512) 508 4 = crc32c ((u.readMem false (64 * line) 512).take 508) % 2 ^ 32 →
        ∃ t : State, exec (.contextRestore dt e p line) s = .next t ∧ aget t.contexts line = none ∧
          (t.vecPart e p).queue.map (fun x => x.word) = c.jobs.map (fun x => x.word) ∧
          (∀ x ∈ (t.vecPart e p).queue, x.position = c.position ∧ x.vl = min c.vl (partWidth (u.vec e).split)) ∧
          (t.vecPart e p).flags = c.flags))

/-- The sampler events (R196, R200, R203 to R206): an instruction that fails a check completes with its status at the head; one
that is ready issues now; the head's result line stands at R_ADDR when its time has come, its row is signalled, its counts follow
Table 9.6 and it completes; a failure counts by its kind and repeats the running instruction, and in the repetition it is a
persistent fault. -/
def Obligations.SamplersChooseTokens : Prop :=
  ∀ (s : State) (dt b : Nat) (j : SampJob) (rest : List SampJob) (st : Status) (compare : Bool),
    let u := s.advance dt
    let w := sampWordOf j.word
    let r := u.sampResult b w
    let again := j.repeated || j.restarted
    u.live = true → (u.samp b).queue = j :: rest →
    (j.issued = false → u.sampCheck j.owner w = some st →
      exec (.samplerInstructionIssue dt b) s = .next ((u.signalTile j.tile).finishSamp b j st)) ∧
    (j.issued = false → u.sampCheck j.owner w = none →
      (∀ o ∈ w.operands, o.1 ≠ w.rAddr → u.rowsReady j.tile (o.1, o.2, o.2, 1) = true ∧ u.linesClean o.1 o.2 = true) →
      exec (.samplerInstructionIssue dt b) s = .next (u.modSamp b fun x => { x with
        queue := modAt x.queue 0 fun y => { y with issued := true, issuedAt := u.time.elapsed } })) ∧
    (j.issued = true → j.issuedAt + ns1200 (sampResultCycles w.v) ≤ u.time.elapsed →
      (∀ o ∈ w.operands, u.linesClean o.1 o.2 = true) → ∃ v : State,
      exec (.samplerResultWrite dt b) s = .next (v.finishSamp b j (if again then .recomputed else .done)) ∧
      v.house.mem = u.house.mem.writeBytes (64 * w.rAddr)
        (r.line w (r.outcome.getD ⟨if again then .recomputed else .done, 0⟩))) ∧
    (j.issued = true → j.repeated = true → u.host.state ≠ .faulted → ∃ t : State,
      exec (.samplerParityFailure dt b compare false) s = .next t ∧ t.host.state = .faulted ∧ t.host.fault = clsSampler ∧
      t.host.faultUnit = b) ∧
    (j.issued = true → j.repeated = false → (recordRepeat u.ms (u.samp b).repeats).2 = false →
      exec (.samplerParityFailure dt b compare false) s = .next
        ((u.modSamp b fun x => { x with
            compareErrors := if compare then x.compareErrors.inc else x.compareErrors
            parityErrors := if compare then x.parityErrors else x.parityErrors.inc
            repeats := (recordRepeat u.ms (u.samp b).repeats).1
            queue := match x.queue with
              | [] => []
              | y :: l => { y with repeated := true, issuedAt := u.time.elapsed } :: l.map fun z => { z with issued := false } }).repeatUnit
          j.owner 0x04 (ns1200 (sampResultCycles w.v)) clsSampler b))

/-! ### Buffers of the Wardrobe and House lines -/

/-- BUFFER_ALLOCATION (R80): from a named pool that can be taken from, the group holds the lowest-numbered FREE buffer, and every
other buffer and pool is as before; with no named pool, the buffer comes from the first usable pool of the lowest class that fits
and can be taken from, and an allocation above the smallest class counts as a fallback; one that finds nothing changes only its
counter. -/
def Obligations.AllocationsTakeTheLowestFreeBuffer : Prop :=
  ∀ (s : State) (dt g size q : Nat) (dram sealed : Bool) (pool : Pool) (rest : List (Nat × Pool)),
    let u := s.advance dt
    let k := freeKey pool.bufs 0
    let c := smallestClass size
    let order := (upto 8).flatMap fun j => u.wardrobe.pools.filter fun e =>
      c ≤ j && e.2.cls = j && e.2.dram = dram && u.poolUsable e.2 g && u.wardrobe.takeable e.1 e.2 g
    u.live = true → 0 < size →
    (aget u.wardrobe.pools q = some pool → size ≤ classBytes pool.cls → pool.cls ≤ 7 → u.wardrobe.takeable q pool g = true →
      ∃ t : State, exec (.bufferAllocation dt g dram size (some q) sealed) s = .next t ∧
        u.bufAt q k = none ∧ (∀ i < k, u.bufAt q i ≠ none) ∧
        t.bufAt q k = some { state := .held, group := g, sealed := sealed } ∧
        (∀ i l, (i, l) ≠ (q, k) → t.bufAt i l = u.bufAt i l) ∧
        t = { u with wardrobe := { u.wardrobe with pools := t.wardrobe.pools } }) ∧
    (aget u.wardrobe.pools q = some pool → size ≤ classBytes pool.cls → pool.cls ≤ 7 → u.wardrobe.takeable q pool g = false →
      exec (.bufferAllocation dt g dram size (some q) sealed) s = .next
        { u with wardrobe := { u.wardrobe with noResource := u.wardrobe.noResource.inc } }) ∧
    (size ≤ classBytes 7 → order = (q, pool) :: rest →
      exec (.bufferAllocation dt g dram size none sealed) s = .next
        { (u.take q pool g sealed).2 with
          wardrobe := { (u.take q pool g sealed).2.wardrobe with
            fallback := if pool.cls > c then u.wardrobe.fallback.inc else u.wardrobe.fallback } }) ∧
    (size ≤ classBytes 7 → order = [] →
      exec (.bufferAllocation dt g dram size none sealed) s = .next
        { u with wardrobe := { u.wardrobe with noResource := u.wardrobe.noResource.inc } })

/-- READER_SIGNAL (R22, R82): a registered reader's signal removes it, and the last one releases the buffer; a signal on a FREE or
SCRUBBING buffer is a double free, which leaves the buffer, counts, and is recorded and traced. SCRUB_COMPLETE (R75): the buffer's
bytes are zero and it is FREE. -/
def Obligations.ReadersReleaseAndScrubsFree : Prop :=
  ∀ (s : State) (dt q k o reader : Nat) (w : Word64) (b : Buf) (pool : Pool),
    let u := s.advance dt
    let v := u.modBuf q k fun x => { x with readers := x.readers.erase reader }
    let base := pool.base + k * classBytes pool.cls
    u.live = true → aget u.wardrobe.pools q = some pool →
    (u.locate (bufDram w.toNat) (bufAddr w.toNat) = some (q, k, o) →
      (u.bufAt q k = some b → b.state = .held → b.readers.contains reader = true →
        exec (.readerSignal dt w reader) s = .next (if b.readers.erase reader = [] then v.release q k else v)) ∧
      (u.bufAt q k = none ∨ u.bufAt q k = some b ∧ b.state = .scrubbing → ∃ t : State,
        exec (.readerSignal dt w reader) s = .next t ∧ t.wardrobe.pools = u.wardrobe.pools ∧
        t.wardrobe.doubleFree = u.wardrobe.doubleFree.inc ∧ t.wardrobe.lastDoublePool = q ∧ t.wardrobe.lastDoubleBuffer = k)) ∧
    (u.bufAt q k = some b → b.state = .scrubbing → ∃ t : State,
      exec (.scrubComplete dt q k) s = .next t ∧ t.bufAt q k = none ∧
      (∀ a < classBytes pool.cls, (if pool.dram then t.dram.mem else t.house.mem).read (base + a) = 0) ∧
      (∀ a, a < base ∨ base + classBytes pool.cls ≤ a → (if pool.dram then t.dram.mem else t.house.mem).read a =
        (if pool.dram then u.dram.mem else u.house.mem).read a))

/-- HOUSE_LINE_MISMATCH (R68 to R73): the mismatch is counted for the line's bank and shown, and more than 16 on one bank within
1,000 ms fault the device with the bank; a line that the host reads is not rebuilt, the read completes poisoned and what its bytes
are is free (log entry 1); a line that only the host wrote becomes poisoned and is not rebuilt. LINE_REBUILD_COMPLETE: the line is
good again, or a line that fails its next check faults the device with its bank. -/
def Obligations.FailingLinesAreRebuilt : Prop :=
  ∀ (s : State) (dt line unit part reader : Nat),
    let u := s.advance dt
    let h := u.house.countMismatch line reader u.time.elapsed
    let onBank := (h.bankTimes.filter fun e => e.1 = bankOf line).length
    u.live = true →
    (16 < onBank → reader ≠ 8 → ∃ v : State,
      exec (.houseLineMismatch dt line reader unit part) s = .next v ∧
      v.host.state = .faulted ∧ v.host.fault = clsHouse ∧ v.host.faultUnit = bankOf line) ∧
    (onBank ≤ 16 → reader = 8 → ∃ v : State,
      exec (.houseLineMismatch dt line reader unit part) s = .next v ∧
      v.house.errors = u.house.errors.inc ∧ v.house.errorLine = line ∧ v.house.errorBank = bankOf line ∧ v.house.errorReader = 8 ∧
      v.house.mem = u.house.mem ∧ v.house.rebuilding = u.house.rebuilding ∧ v.house.poisonReads = u.house.poisonReads.inc ∧
      v.lastReadPoisoned = true ∧ v.lastReadBytes = (upto 64).map (Config.freeByte u.freeCount) ∧ v.host = u.host) ∧
    (onBank ≤ 16 → reader ≠ 8 → reader ≠ 2 → u.lineContent line = .hostWritten →
      (u.house.rebuilding.any fun e => e.1 = line) = false → ∃ v : State,
      exec (.houseLineMismatch dt line reader unit part) s = .next v ∧ v.house.poisonedLines.contains line = true ∧
      v.house.rebuilding = u.house.rebuilding ∧ v.house.mem = u.house.mem ∧ v.house.errors = u.house.errors.inc ∧ v.host = u.host) ∧
    ((u.house.rebuilding.any fun e => e.1 = line) = true →
      exec (.lineRebuildComplete dt line false) s = .next
        { u with house := { u.house with
            rebuilding := u.house.rebuilding.filter fun e => e.1 ≠ line, bad := u.house.bad.filter (· ≠ line) } } ∧
      exec (.lineRebuildComplete dt line true) s = .next (u.enterFaulted clsHouse (bankOf line)))

/-! ### Camera frames -/

/-- CSI-2 packets on an enabled port (R265 to R271). A frame start latches device time, and holds sealed House buffers for the
frame's strips; a line packet of the stream's data type is stored, one that fails its CRC, has a wrong length or comes after the
last row makes the frame corrupt, and packets that no stream takes, or of another data type, are discarded; an uncorrectable
header makes every open frame of the port corrupt, a start-of-transmission error the channel's. A frame ends with its frame end
packet, or is closed when none has come by FS + MAX_READOUT + 1,000 µs (R265, R266, R270): it arrives as a sample with the capture
time latched at its frame start; too few rows make it corrupt with LINE_COUNT, another frame number with FRAME_NUMBER, the timeout
with FRAME_TIMEOUT. -/
def Obligations.CameraFramesAreBuiltAndArrive : Prop :=
  (∀ (s : State) (dt port vc number n : Nat) (st : Stream) (f : OpenFrame) (l : List Nat) (v : State) (payload : List Byte)
        (crcOk ecc : Bool) (w : Nat),
      let u := s.advance dt
      let c := st.camera
      let row := lineBytes (c.width * dataTypeBytes c.dataType)
      let bytes := (unpackLine c.dataType c.width payload).take (c.width * dataTypeBytes c.dataType)
      u.live = true → (u.port port).enabled = true → port < u.ingest.ports.length →
      (u.cameraStream port vc = none →
        exec (.csi2FrameStart dt port vc number) s = .next (u.discard port) ∧
        exec (.csi2FrameEnd dt port vc number) s = .next (u.discard port) ∧
        (u.discard port).port port = { u.port port with discarded := (u.port port).discarded.inc }) ∧
      (u.cameraStream port vc = some (n, st) → aget (u.port port).open_ vc = none →
        u.allocStrips st.group (16 * row) (ceilDiv c.height 16) = some (l, v) → ∃ t : State,
          exec (.csi2FrameStart dt port vc number) s = .next t ∧
          aget (t.port port).open_ vc = some { number := number, capture := u.now, stream := n, buffers := l } ∧
          t.samples = v.samples ∧ t.wardrobe = v.wardrobe) ∧
      (u.cameraStream port vc = some (n, st) → c.dataType = number → aget (u.port port).open_ vc = some f →
        f.buffers[f.lines / 16]? = some w → f.lines < c.height → ∃ t : State,
          exec (.csi2LinePacket dt port vc number payload crcOk ecc) s = .next t ∧
          t.house = (u.writeMem false (bufAddr w + f.lines % 16 * row) bytes).house ∧ t.samples = u.samples ∧
          (∃ g, aget (t.port port).open_ vc = some g ∧ g.lines = f.lines + 1 ∧ g.buffers = f.buffers ∧ g.capture = f.capture ∧
            (f.corrupt = none → g.corrupt = (if crcOk = false then some 0x75
              else if payload.length ≠ wireBytes number c.width then some 0x76 else none)))) ∧
      (u.cameraStream port vc = some (n, st) → c.dataType ≠ number → ecc = false →
        exec (.csi2LinePacket dt port vc number payload crcOk ecc) s = .next (u.discard port)) ∧
      (aget (u.port port).open_ vc = some f → f.corrupt = none →
        (∃ t : State, exec (.csi2UncorrectableHeader dt port) s = .next t ∧
          (t.port port).headerErrors = (u.port port).headerErrors.inc ∧
          ∃ g, aget (t.port port).open_ vc = some g ∧ g.corrupt = some 0x74) ∧
        (∃ t : State, exec (.csi2SotError dt port vc) s = .next t ∧
          (t.port port).phyErrors = (u.port port).phyErrors.inc ∧
          ∃ g, aget (t.port port).open_ vc = some g ∧ g.corrupt = some 0x79))) ∧
  (∀ (s : State) (dt port vc number n : Nat) (st : Stream) (f : OpenFrame),
      let u := s.advance dt
      let cause := if f.corrupt.isSome then f.corrupt
        else if f.number ≠ number then some 0x77
        else if f.lines < st.camera.height then some 0x76 else none
      let arrives := fun (t : State) (why : Option Nat) =>
        ∃ m, aget t.samples u.sampleOrder = some m ∧ m.stream = n ∧ m.capture = f.capture ∧ m.strips = f.buffers ∧
          m.rowsReady = st.camera.height ∧ m.corrupt = why
      u.live = true → (u.port port).enabled = true → port < u.ingest.ports.length →
      aget (u.port port).open_ vc = some f → f.stored = true → f.stream = n → aget u.streams n = some st →
      (u.cameraStream port vc = some (n, st) → ∃ t : State,
        exec (.csi2FrameEnd dt port vc number) s = .next t ∧ aget (t.port port).open_ vc = none ∧
        t.ingest.frames = u.ingest.frames.inc ∧ arrives t cause) ∧
      (f.capture + (st.camera.maxReadout + 1000) * 1000 ≤ u.now → ∃ t : State,
        exec (.csi2FrameTimeout dt port vc) s = .next t ∧ aget (t.port port).open_ vc = none ∧
        t.ingest.frames = u.ingest.frames.inc ∧ arrives t (if f.corrupt.isSome then f.corrupt else some 0x78)))

/-! ### Codec -/

/-- The decode pipeline (R243 to R255). DECODE_START on an idle cluster of a planned, open sample: an access unit rejected by
Table 11.4 is counted, shown with the check, and makes the sample corrupt with AU_REJECTED and the check; one that is accepted
opens a job at strip 0 with the strips of its height. STRIP_COMPLETE: the strip joins the sample's strips, its rows are ready, and
the job goes on; the last strip of a picture without concealed or propagated blocks ends the job and counts the frames.
STRIP_REBUILD: the cluster decodes the strip again, charged to the sample; a strip that fails while it is decoded again faults the
device (R252, R398). -/
def Obligations.DecodingProceeds : Prop :=
  ∀ (s : State) (dt c k n check strip : Nat) (m : Sample) (st : Stream) (f : AuFacts) (v : State) (j : DecodeJob) (cause : ConcealCause)
      (concealed : Nat) (w : Word64),
    let u := s.advance dt
    let x := u.codecs.getD c {}
    let ready := u.slotOpen m = true ∧ m.buffer.isSome = true ∧ m.corrupt = none ∧ (st.decode.cluster = none ∨ st.decode.cluster = some c) ∧
      x.decoding = none ∧ x.rebuildUntil ≤ u.time.elapsed
    let h0 := stripRows st.decode.codec
    let rows := min h0 (j.facts.height - j.next * h0)
    let size := lineBytes (j.facts.width * depthBytes j.facts.depth) * (rows + (rows + 1) / 2)
    let cost := ceilDiv (m.width * min h0 (m.height - strip * h0)) 16
    c < u.codecs.length → aget u.samples k = some m → m.stream = n → aget u.streams n = some st → st.kind = .decode →
    (ready → auVerdict st m f = .rejected check →
      exec (.decodeStart dt c k f) s = .next
        ((((u.modSample k fun y => { y with buffer := none }).modCodec c fun y => { y with
          rejected := y.rejected.inc, unsupported := if check = 3 then y.unsupported.inc else y.unsupported }).codecError c n check).markCorrupt
            k 0x71 check)) ∧
    (ready → auVerdict st m f = .accepted → u.openAu c k n m st f = some v →
      exec (.decodeStart dt c k f) s = .next v ∧ (f.shown ≤ 1 → ∃ job : DecodeJob,
        (v.codecs.getD c {}).decoding = some job ∧ job.sample = k ∧ job.facts = f ∧ job.next = 0 ∧
        job.strips = ceilDiv f.height h0)) ∧
    (u.computing = true → x.decoding = some j → j.sample = k → x.rebuildUntil ≤ u.time.elapsed →
      u.stripBuffer st.group w.toNat size = true →
      (j.next + 1 < j.strips → ∃ t : State,
        exec (.stripComplete dt c concealed cause w) s = .next t ∧ (t.codecs.getD c {}).strips = x.strips.inc ∧
        (t.codecs.getD c {}).concealed = x.concealed.add 32 concealed ∧
        (∃ job, (t.codecs.getD c {}).decoding = some job ∧ job.next = j.next + 1 ∧ job.concealed = j.concealed + concealed) ∧
        ∃ y, aget t.samples k = some y ∧ y.strips = m.strips ++ [w.toNat] ∧ y.rowsReady = m.rowsReady + rows) ∧
      (j.strips ≤ j.next + 1 → j.concealed = 0 → concealed = 0 → j.propagated = false → j.refs = [] → j.later = [] → ∃ t : State,
        exec (.stripComplete dt c concealed cause w) s = .next t ∧ (t.codecs.getD c {}).decoding = none ∧
        (t.codecs.getD c {}).lastSample = k ∧
        (t.codecs.getD c {}).picturesDecoded = x.picturesDecoded.add 32 j.facts.frames)) ∧
    (u.computing = true → u.rebuildSample c strip = some (k, m) →
      (x.rebuilding = none ∨ x.rebuildUntil ≤ u.time.elapsed → (recordRepeat u.ms x.decodeRepeats).2 = false →
        exec (.stripRebuild dt c strip) s = .next
          ((u.modCodec c fun y => { y with
            rebuilds := y.rebuilds.inc, rebuilding := some strip, rebuildUntil := u.time.elapsed + cost
            decodeRepeats := (recordRepeat u.ms x.decodeRepeats).1 }).repeatUnit (.chain k) 0x05 cost clsCodec (2 * c))) ∧
      (x.rebuilding = some strip → u.time.elapsed < x.rebuildUntil →
        exec (.stripRebuild dt c strip) s = .next (u.enterFaulted clsCodec (2 * c))))

/-- The encode pipeline (R257 to R262). ENCODE_PICTURE_START of a source sample of a RUNNING encode stream in its slot, with a
reconstruction buffer: the cluster has a job of the stream for a new sample. ENCODE_ROW_COMPLETE adds the row's bits and bytes.
ENCODE_PICTURE_END of a finished picture writes its bytes to the host ring; of one that was too large it stores nothing, v is 1000
× VBV and the next picture is an I picture. REENCODE starts the picture again from the state saved at its start. -/
def Obligations.EncodingProceeds : Prop :=
  ∀ (s : State) (dt c n k bits bytes bound : Nat) (m : Sample) (st src : Stream) (crop names : List Nat) (v : State) (j : EncodeJob),
    let u := s.advance dt
    let x := u.codecs.getD c {}
    let e := st.encode
    let offset := if st.enc.hostOffset + j.bytes ≤ e.hostSize then st.enc.hostOffset else 0
    let cost := ceilDiv (e.width * e.height) 4
    c < u.codecs.length → aget u.streams n = some st →
    (aget u.samples k = some m → aget u.streams m.stream = some src → u.slotOpen m = true → st.kind = .encode → st.state = .running →
      st.closing = false → e.source = m.stream → u.sec.encoded = true → x.encoding = none → m.encoded.contains n = false →
      sourceCrop src m e.output = some crop →
      u.allocFrame st.group none (frameBuffers e.width e.height 1) = some (names, v) → ∃ t : State,
        exec (.encodePictureStart dt c n k) s = .next t ∧ (∃ job, (t.codecs.getD c {}).encoding = some job ∧
          job.stream = n ∧ job.source = k ∧ job.sample = u.sampleOrder ∧ job.crop = crop ∧ job.row = 0 ∧ job.bits = 0)) ∧
    (u.computing = true → x.encoding = some j → j.stream = n →
      (j.row < j.rows → j.stopped = false → ∃ t : State,
        exec (.encodeRowComplete dt c bits bytes bound) s = .next t ∧ (∃ job, (t.codecs.getD c {}).encoding = some job ∧
          job.row = j.row + 1 ∧ job.bits = j.bits + bits ∧ job.bytes = j.bytes + bytes ∧ job.rowBits = j.rowBits ++ [bits]) ∧
        t.streams = u.streams ∧ t.samples = u.samples ∧ t.outputs = u.outputs) ∧
      (j.rows ≤ j.row → j.stopped = false → u.sec.encoded = true → ∃ t : State,
        exec (.encodePictureEnd dt c) s = .next t ∧ (t.codecs.getD c {}).encoding = none ∧
        (t.codecs.getD c {}).picturesEncoded = x.picturesEncoded.inc ∧
        t.outputs = .hostBytes (e.hostBase + offset) (pixelBytes u.freeCount j.bytes 1) :: u.outputs ∧
        ∃ y, aget t.streams n = some y ∧ y.enc = st.enc.finish e j offset) ∧
      (j.stopped = true → u.sec.encoded = true → ∃ t : State,
        exec (.encodePictureEnd dt c) s = .next t ∧ (t.codecs.getD c {}).encoding = none ∧
        (t.codecs.getD c {}).rcOverrun = x.rcOverrun.inc ∧ t.outputs = u.outputs ∧
        ∃ y, aget t.streams n = some y ∧ y.enc.v = 1000 * e.vbv ∧ y.enc.retryIntra = true) ∧
      (j.repeated = false → (recordRepeat u.ms x.encodeRepeats).2 = false →
        exec (.reencode dt c false) s = .next
          ((u.modCodec c fun y => { y with
            encoding := some { j with
              qpRow := j.qp, bits := 0, bytes := 0, row := 0, rowBits := [], qpFirst := j.qp, skipRest := false, stopped := false
              repeated := true }
            reencodes := y.reencodes.inc, encodeRepeats := (recordRepeat u.ms x.encodeRepeats).1 }).repeatUnit
              (.chain j.sample) 0x09 cost clsCodec (2 * c + 1))) ∧
      (j.repeated = true →
        exec (.reencode dt c false) s = .next (u.enterFaulted clsCodec (2 * c + 1))))

/-! ### Pre-processing -/

/-- The JPEG units (R274, R278 to R280): an image that fails a check of Table 12.6 is counted and makes its sample corrupt with
JPEG_REJECTED and the check; a good one occupies the idle unit, and its sample has the image's size. A strip joins the sample and
its rows are ready; the last one ends the image and counts it; an entropy error ends it corrupt. -/
def Obligations.JpegImagesAreDecoded : Prop :=
  ∀ (s : State) (dt i k check : Nat) (m : Sample) (st : Stream) (f : JpegFacts) (j : JpegJob) (w : Word64),
    let u := s.advance dt
    let x := u.jpegUnit i
    let mcu := jpegMcuRows j.facts
    let size := (jpegStripBytes j.facts).1 + 2 * (jpegStripBytes j.facts).2
    let rows := min mcu (j.facts.height - j.next * mcu)
    i < u.jpegs.length → aget u.samples k = some m → aget u.streams m.stream = some st →
    (u.slotOpen m = true → st.kind = .jpeg → m.buffer.isSome = true → m.corrupt = none → x.work = none → f.fileLost = false →
      (jpegCheck st m f = some check →
        exec (.jpegImageStart dt i k f) s = .next
          (((u.modSample k fun y => { y with buffer := none }).modJpeg i fun y => { y with rejected := y.rejected.inc }).markCorrupt
            k 0x7B check)) ∧
      (jpegCheck st m f = none → ∃ t : State,
        exec (.jpegImageStart dt i k f) s = .next t ∧ (t.jpegUnit i).work = some { sample := k, facts := f } ∧
        (∃ y, aget t.samples k = some y ∧ y.width = f.width ∧ y.height = f.height ∧ y.jpeg = some f ∧ y.buffer = none) ∧
        t.house = u.house ∧ t.streams = u.streams)) ∧
    (u.computing = true → x.work = some j → j.sample = k →
      (exec (.jpegStripComplete dt i true w) s = .next
        ((u.modJpeg i fun y => { y with work := none, entropyErrors := y.entropyErrors.inc }).markCorrupt k 0x7C 0)) ∧
      (u.stripBuffer st.group w.toNat size = true → ∃ t : State,
        exec (.jpegStripComplete dt i false w) s = .next t ∧
        (t.jpegUnit i).work = (if (j.next + 1) * mcu < j.facts.height then some { j with next := j.next + 1 } else none) ∧
        (t.jpegUnit i).images = (if (j.next + 1) * mcu < j.facts.height then x.images else x.images.inc) ∧
        ∃ y, aget t.samples k = some y ∧ y.strips = m.strips ++ [w.toNat] ∧ y.rowsReady = m.rowsReady + rows))

/-- The scalers (R282 to R286): a pass of an output that the sample does not have yet starts on its idle scaler, in a sealed House
buffer, with the whole picture or the fixed crop; a band whose rows' source pixels are there is written, where the last row ends
the pass and counts it; a band with a parity failure is repeated, charged to the sample, and a second failure in the repetition
faults the device. -/
def Obligations.ScalersMakeOutputs : Prop :=
  ∀ (s : State) (dt c k i line rows a : Nat) (fb parity : Bool) (m : Sample) (st : Stream) (o : OutputCfg) (v : State) (w : ScalePass),
    let u := s.advance dt
    let x := u.scaler c
    let b := w.rowsDone + rows
    let strip := if st.kind = .decode then stripRows st.decode.codec else 16
    let last := sourceReach st m (lastRow o.filter o.outH m.height w.crop (b - 1))
    c < u.scalers.length → aget u.samples k = some m → aget u.streams m.stream = some st → st.outputs[i]? = some o →
    (u.slotOpen m = true → m.corrupt = none → m.width ≠ 0 → o.scaler = some c → x.work = none →
      (∀ y ∈ m.outputs, y.1 ≠ i) → (∀ y ∈ u.scalers, ∀ z, y.work = some z → ¬ (z.sample = k ∧ z.output = i)) → o.crop ≠ 2 →
      u.alloc st.group false o.bytes none true = .got a fb v → ∃ t : State,
        exec (.scalerPassStart dt c k i line) s = .next t ∧
        (∃ p, (t.scaler c).work = some p ∧ p.sample = k ∧ p.output = i ∧ p.crop = o.cropFor m.width m.height ∧
          p.buffer = bufName false a ∧ p.rowsDone = 0) ∧
        t.wardrobe = v.wardrobe ∧ t.house = u.house) ∧
    (u.computing = true → x.work = some w → w.sample = k → w.output = i →
      (0 < rows → b < o.outH → last < m.rowsReady → (o.kind = 1 → b % 2 = 0) →
        ∃ t : State, exec (.scalerBandComplete dt c rows) s = .next t ∧
        (t.scaler c).work = some { w with rowsDone := b, retried := false } ∧
        t.house = ((outputRows o (resample (u.sourcePixel st m) o.filter o.outW o.outH m.width m.height w.crop) w.rowsDone b).foldl
          (fun (y : State) r => y.writeMem false (bufAddr w.buffer + r.1) r.2) u).house) ∧
      (0 < rows → b = o.outH → last < m.rowsReady → (o.kind = 1 → b % 2 = 0) →
        ∃ t : State, exec (.scalerBandComplete dt c rows) s = .next t ∧ (t.scaler c).work = none ∧
        (t.scaler c).passes = x.passes.inc ∧
        ∃ y, aget t.samples k = some y ∧ y.outputs = m.outputs ++ [(i, w.buffer, w.crop)]) ∧
      (w.retried = false → (recordRepeat u.ms x.repeats).2 = false →
        exec (.scalerBandRepeat dt c parity) s = .next
          ((u.modScaler c fun y => { y with
            work := some { w with retried := true, recomputed := true }
            parityErrors := if parity then y.parityErrors.inc else y.parityErrors
            repeats := (recordRepeat u.ms x.repeats).1 }).repeatUnit (.chain k) 0x07 (bandCharge o strip w.crop) clsScaler c)) ∧
      (w.retried = true → u.host.state ≠ .faulted → ∃ t : State,
        exec (.scalerBandRepeat dt c parity) s = .next t ∧ t.host.state = .faulted ∧ t.host.fault = clsScaler ∧
        t.host.faultUnit = c))

/-- AUDIO_BLOCK_PASS (R287 to R291) of a good block with room for its rows: the log-mel rows depend on the parameters, the carry
and the block alone (R290; what they are is the free function of log entry 12), they stand in a sealed House buffer, the frames
are counted, and a block that does not continue the one before starts from a zero carry and counts in AUDIO_GAPS. A second pass
repeats the block, charged to the sample. -/
def Obligations.AudioBlocksBecomeRows : Prop :=
  ∀ (s : State) (dt k a : Nat) (fb : Bool) (m : Sample) (st : Stream) (v : State),
    let u := s.advance dt
    let c := st.audio
    let frames := c.block / c.hop
    let size := frames * c.channels * melBytes c
    let block := match m.buffer with
      | some w => v.readMem false (bufAddr w) st.feedBytes
      | none => []
    let gap := !carryUsable c st.carryFrom m.capture
    let carry := if gap then List.replicate (carryBytes c) 0 else st.carry
    aget u.samples k = some m → aget u.streams m.stream = some st → u.slotOpen m = true → st.kind = .audio →
    (m.audioPasses = 0 → m.corrupt = none → u.alloc st.group false size none true = .got a fb v →
      nonFiniteBlock c.format block = false → ∃ t : State,
        exec (.audioBlockPass dt k) s = .next t ∧
        t.house = (v.writeMem false a ((upto size).map (Config.logMel c carry block))).house ∧
        t.ingest.audioFrames = u.ingest.audioFrames.add 32 (frames * c.channels) ∧
        t.ingest.audioGaps = (if gap then u.ingest.audioGaps.inc else u.ingest.audioGaps) ∧
        (∃ y, aget t.samples k = some y ∧ y.outputs = [(0, bufName false a, [])] ∧ y.audioPasses = 1) ∧
        ∃ y, aget t.streams m.stream = some y ∧ y.carryFrom = some m.capture ∧ y.carry = nextCarry c false carry block) ∧
    (m.audioPasses = 1 → (recordRepeat u.ms u.ingest.audioRepeats).2 = false →
      exec (.audioBlockPass dt k) s = .next
        (({ u with
            samples := amod u.samples k fun y => { y with audioPasses := 2 }
            ingest := { u.ingest with audioRepeats := (recordRepeat u.ms u.ingest.audioRepeats).1 } }).repeatUnit (.chain k) 0x08
          (st.charge 0 9) clsAudio 0))

/-! ### DRAM -/

/-- DRAM_READ_CRC_FAILURE outside self-refresh (R387, R388): one or two failed reads of a burst are made good by a refetch,
counted and charged to the sample whose chain reads; a third loses the burst, which is counted and shown with its channel and
content. DRAM_BURST_REBUILD_COMPLETE: the burst stands again, or a failed read-back faults the channel (R389, R390).
DRAM_WRITE_CODE_ERROR: a refused write is counted, and a second failure of the same write faults the channel (R392). -/
def Obligations.FailingBurstsAreRefetchedOrLost : Prop :=
  ∀ (s : State) (dt address content failed k : Nat) (e : Nat × Nat),
    let u := s.advance dt
    let d := u.dram
    let a := address / 64 * 64
    let ch := channelOf d.grain a
    let counted := { d with channelErrors := aset d.channelErrors ch ((agetD d.channelErrors ch {}).inc) }
    u.live = true →
    (d.selfRefresh = false → d.poisonedBursts.contains (a / 64) = false →
      (failed < 3 →
        exec (.dramReadCrcFailure dt address content failed none) s = .next
          { u with dram := { counted with refetched := d.refetched.inc } } ∧
        exec (.dramReadCrcFailure dt address content failed (some k)) s = .next
          (({ u with dram := { counted with refetched := d.refetched.inc } }).chargeRepair k 0x0B 0 500)) ∧
      (3 ≤ failed → (d.channelTimes.filter fun x => x.1 = ch ∧ u.time.elapsed < x.2 + 1000000000).length < 16 → ∃ t : State,
        exec (.dramReadCrcFailure dt address 2 failed none) s = .next t ∧ t.host = u.host ∧
        t.dram.lost = d.lost.inc ∧ t.dram.lostLast = a ∧ t.dram.lostChannel = ch ∧ t.dram.lostContent = 2 ∧
        (a / 64, 2) ∈ t.dram.lostBursts ∧ t.dram.mem = d.mem) ∧
      (3 ≤ failed → 16 ≤ (d.channelTimes.filter fun x => x.1 = ch ∧ u.time.elapsed < x.2 + 1000000000).length → ∃ t : State,
        exec (.dramReadCrcFailure dt address content failed none) s = .next t ∧ t.host.state = .faulted ∧
        t.host.fault = clsDram ∧ t.host.faultUnit = ch)) ∧
    ((d.lostBursts.find? fun x => x.1 = address / 64) = some e → [1, 2, 8].contains e.2 = true →
      exec (.dramBurstRebuildComplete dt address true) s = .next
        { u with dram := { d with
            rebuilt := d.rebuilt.inc, lostBursts := d.lostBursts.filter fun x => x.1 ≠ address / 64 } } ∧
      exec (.dramBurstRebuildComplete dt address false) s = .next
        (({ u with dram := { d with rebuilt := d.rebuilt.inc } }).enterFaulted clsDram (channelOf d.grain address))) ∧
    exec (.dramWriteCodeError dt address false) s = .next
      { u with dram := { d with writeCodeErrors := d.writeCodeErrors.inc } } ∧
    exec (.dramWriteCodeError dt address true) s = .next
      (({ u with dram := { d with writeCodeErrors := d.writeCodeErrors.inc } }).enterFaulted clsDram (channelOf d.grain address))

/-! ### Power, sensors and clocks -/

/-- CAPACITY_EVALUATION (R58, R449): at most one step is decided in a cue; a decrease goes one step down where one is called for,
an increase one step up where it is allowed, and admission uses the step from the next edge, or from the one after it when less
than 200 µs of the cue are left; a decrease acts on the units one edge later. REST_ENTRY of an idle device after 10 ms without
access puts DRAM in self-refresh and counts; REST_EXIT ends REST (R445). The samples of the power controller of a device that has
left reset (R385, R386, R447). RAIL_SAMPLE: P_1ms, P_100ms and I_core are the means of the samples of the last 1 ms, 100 ms and 1
ms (rounded down, which is the model's choice, log entry 26). The logic and DRAM sensors keep their readings, LOGIC_TEMP and
DRAM_TEMP show the hottest of them, a die shows its hottest and its peak, and a die above 85 °C refreshes at the doubled rate. -/
def Obligations.PowerSamplesAndStepsTakeEffect : Prop :=
  (∀ (s : State) (dt : Nat),
      let u := s.advance dt
      let e := u.cue.edges + (if u.cue.nextEdge < u.now + 200000 then 1 else 0)
      (u.live = true → u.pwr.decided ≠ some u.cue.edges →
        (u.wantsDecrease = true → u.pwr.stepNext < 7 → ∃ t : State,
          exec (.capacityEvaluation dt) s = .next t ∧ t.pwr.stepNext = u.pwr.stepNext + 1 ∧
          t.cue.staged = u.cue.staged ++ [{ level := u.pwr.stepNext + 1, admitEdge := e, physicalEdge := e + 1 }] ∧
          t.pwr.stepChanges = u.pwr.stepChanges.inc ∧ t.pwr.decided = some u.cue.edges ∧ t.mgmt.stepped = true) ∧
        (u.wantsDecrease = false → u.mayIncrease = true → ∃ t : State,
          exec (.capacityEvaluation dt) s = .next t ∧ t.pwr.stepNext = u.pwr.stepNext - 1 ∧
          t.cue.staged = u.cue.staged ++ [{ level := u.pwr.stepNext - 1, admitEdge := e, physicalEdge := e }] ∧
          t.pwr.decided = some u.cue.edges ∧ t.mgmt.stepped = true)) ∧
      (u.live = true → u.pwr.decided = some u.cue.edges → exec (.capacityEvaluation dt) s = .next u) ∧
      (u.host.state = .standby → u.pwr.rest = false → u.inflight = [] → u.anyScrub = false →
        u.pwr.lastAccess + 10000000 ≤ u.time.elapsed →
        exec (.restEntry dt) s = .next { u with
          pwr := { u.pwr with rest := true, restEntries := u.pwr.restEntries.inc }
          dram := { u.dram with selfRefresh := true } }) ∧
      (∃ t : State, exec (.restExit dt) s = .next t ∧ t.pwr.rest = false ∧ t.host = u.host)) ∧
  (∀ (s : State) (dt milliwatts milliamps die a b c d : Nat) (temps : List Nat),
      let u := s.advance dt
      let now := u.time.elapsed
      let hot := max a (max b (max c d))
      u.host.bootStep ≠ 0 →
      (∃ t : State, exec (.railSample dt milliwatts milliamps) s = .next t ∧
        t.pwr.milliwatts = meanOf (recent now 1000000 ((now, milliwatts) :: u.pwr.history1)) ∧
        t.pwr.average = meanOf (recent now 100000000 ((now, milliwatts) :: u.pwr.history100)) ∧
        t.pwr.coreMilliamps = meanOf (recent now 1000000 ((now, milliamps) :: u.pwr.currentHistory)) ∧
        t.pwr.sensors = u.pwr.sensors) ∧
      (temps.length ≤ 64 → ∃ t : State, exec (.logicSensorSample dt temps) s = .next t ∧
        (∀ i x, temps[i]? = some x → aget t.pwr.sensors i = some x) ∧
        t.pwr.logicTemp = hottest t.pwr.sensors 0 64 ∧ t.pwr.dramTemp = hottest t.pwr.sensors 64 96) ∧
      (u.pwr.stopped = false → ∃ t : State, exec (.dramSensorSample dt die [a, b, c, d]) s = .next t ∧
        aget t.pwr.sensors (64 + 4 * die) = some a ∧ aget t.pwr.sensors (64 + 4 * die + 1) = some b ∧
        aget t.pwr.sensors (64 + 4 * die + 2) = some c ∧ aget t.pwr.sensors (64 + 4 * die + 3) = some d ∧
        aget t.dram.dieTemp die = some hot ∧ aget t.dram.diePeak die = some (max hot (agetD u.dram.diePeak die 0)) ∧
        (85 < hot → t.dram.doubled.contains die = true)))

/-- The ends of Table 17.1 that a clock, a core or a trip brings (R399, R444, R452): a trip condition that has held for 100 ms is
the shutdown, FAULTED with class THERMAL and the sensor, THERM_N asserted and the domains stopped; a lost PLL lock and a core that
does not check in are FAULTED with class CORE, the second with the core; a line that a core fetches again from its image counts
and is traced. EW_REFCLK_LOSS takes every enabled Euwald port DOWN. -/
def Obligations.ClocksCoresAndTripsFault : Prop :=
  ∀ (s : State) (dt since domain core n : Nat),
    let u := s.advance dt
    (u.pwr.tripSince = some since → u.pwr.trip = true → since + 100000000 ≤ u.time.elapsed → u.host.state ≠ .faulted → ∃ t : State,
      exec (.tripHoldTimeout dt) s = .next t ∧ t.host.state = .faulted ∧ t.host.fault = clsThermal ∧
      t.host.faultUnit = u.pwr.tripSensor ∧ t.pwr.stopped = true ∧ t.pwr.therm = true) ∧
    (u.pllLocked domain = true → u.host.state ≠ .faulted → ∃ t : State,
      exec (.pllLockLoss dt domain) s = .next t ∧ t.host.state = .faulted ∧ t.host.fault = clsCore) ∧
    (u.host.bootStep ≠ 0 → u.host.state ≠ .faulted →
      (∃ t : State, exec (.watchdogExpiry dt core) s = .next t ∧ t.host.state = .faulted ∧ t.host.fault = clsCore ∧
        t.host.faultUnit = core) ∧
      ((recordRepeat u.ms (agetD u.cores core [])).2 = false →
        exec (.coreInstructionRefetch dt core) s = .next
          (({ u with
              cores := aset u.cores core (recordRepeat u.ms (agetD u.cores core [])).1
              coreRefetches := u.coreRefetches + 1 }).trace 4 clsCore core 0x0F u.cueNow))) ∧
    (n < 8 → u.ewl.ports.length = 8 → (u.ewPort n).state ≠ .disabled → ∃ t : State,
      exec (.ewRefclkLoss dt) s = .next t ∧ (t.ewPort n).state = .down ∧ t.house = u.house ∧ t.dram = u.dram)

/-! ### The host link -/

/-- The host link (R330, R332, R344, R444). LINK_RETRAIN: the trained speed, width and mode show, the link is up in L0, a retrain
of a link that was up counts, and a rate with another HOST share stages it. LINK_DOWN and PCIE_REFCLK_LOSS take the link down and
keep the device state, its rings and its commands. LINK_POWER_ENTRY of an idle link under the conditions of Table 14.2 enters the
state; LINK_POWER_EXIT returns to L0. -/
def Obligations.HostLinkMoves : Prop :=
  ∀ (s : State) (dt speed width : Nat) (flit : Bool) (goal : LinkPower),
    let u := s.advance dt
    (u.host.bootStep ≠ 0 → ∃ t : State,
      exec (.linkRetrain dt speed width flit) s = .next t ∧ t.host.linkUp = true ∧ t.host.speed = speed ∧ t.host.width = width ∧
      t.host.flit = flit ∧ t.host.power = .l0 ∧ t.host.state = u.host.state ∧
      t.host.retrains = (if u.host.linkUp then u.host.retrains.inc else u.host.retrains) ∧
      (u.live = true → payloadRate u.host.speed u.host.width ≠ payloadRate speed width →
        ∃ e, t.host.stagedShare = some (hostShareOf speed width, e))) ∧
    (u.host.linkUp = true →
      exec (.linkDown dt) s = .next
        (({ u with host := { u.host with linkUp := false, l0p := false, power := .l0 } }).trace 9 0 0 (15 + 16) 0)) ∧
    (∃ t : State, exec (.pcieRefclkLoss dt) s = .next t ∧ t.host.linkUp = false ∧ t.host.state = u.host.state ∧
      t.pwr.absent % 2 = 1 ∧ t.rings = u.rings ∧ t.inflight = u.inflight) ∧
    (u.mayIdle goal = true → ∃ t : State, exec (.linkPowerEntry dt goal) s = .next t ∧ t.host.power = goal ∧
      t = { u with host := { u.host with power := goal, powerSince := t.host.powerSince } }) ∧
    exec (.linkPowerExit dt) s = .next
      { u with host := { u.host with power := .l0, lastTransfer := u.time.elapsed } }

/-! ### Euwald links -/

/-- The reliable delivery of an Euwald port that is UP (R354, R355). A flit with a bad CRC or an uncorrectable codeword counts and
sets NAK; a good DATA flit in SEQ order is taken and moves the expected SEQ on. The oldest unacknowledged flit that has waited 2
µs is replayed with all after it, and its eighth replay retrains the port, as 2 µs without a valid flit and a lost lane do. A
retrained port is UP again or DOWN; a DOWN port trains again after 100 ms; a trained port is UP with SEQ 0 expected and its peer
known. A LINK flit keeps its timestamps, and from the second on gives the one-way delay (R363). -/
def Obligations.EuwaldPortsDeliver : Prop :=
  ∀ (s : State) (dt n lane t1 echo t4 member peer : Nat) (f : Flit) (e : Nat × Nat) (l : List (Nat × Nat)),
    let u := s.advance dt
    let p := u.ewPort n
    let now := u.time.elapsed
    n < u.ewl.ports.length →
    (p.state = .up → f.uncorrectable = true ∨ f.crcOk = false → ∃ t : State,
      exec (.ewlFlitReceived dt n f) s = .next t ∧ (t.ewPort n).crcErrors = p.crcErrors.inc ∧ (t.ewPort n).nak = true ∧
      (t.ewPort n).expectSeq = p.expectSeq ∧ (t.ewPort n).replay = p.replay) ∧
    (p.state = .up → f.uncorrectable = false → f.crcOk = true → f.data = true → f.seq = p.expectSeq → f.nak = false → ∃ t : State,
      exec (.ewlFlitReceived dt n f) s = .next t ∧ (t.ewPort n).expectSeq = (p.expectSeq + 1) % 4096 ∧
      (t.ewPort n).lastGood = f.seq ∧ (t.ewPort n).nak = false ∧ (t.ewPort n).flitsReceived = p.flitsReceived.inc ∧
      (t.ewPort n).lastValid = now) ∧
    (p.replay = e :: l → p.state = .up → e.2 + 2000 ≤ now → ∃ t : State,
      exec (.ewlReplayTimeout dt n) s = .next t ∧
      (t.ewPort n).replays = p.replays.add 32 (l.length + 1) ∧ (t.ewPort n).replay.map (·.1) = e.1 :: l.map (·.1) ∧
      (t.ewPort n).replayCount = p.replayCount + 1 ∧
      (t.ewPort n).state = (if p.replayCount < 7 then .up else .retraining)) ∧
    (p.state = .up → p.lastValid + 2000 ≤ now → ∃ t : State,
      exec (.ewlNoFlitTimeout dt n) s = .next t ∧ (t.ewPort n).state = .retraining ∧ (t.ewPort n).retrains = p.retrains.inc) ∧
    (p.state = .up → lane < 8 → ∃ t : State,
      exec (.ewlLaneLockLoss dt n lane) s = .next t ∧ (t.ewPort n).state = .retraining ∧ (t.ewPort n).retrains = p.retrains.inc) ∧
    (p.state = .retraining →
      (∃ t : State, exec (.ewlRetrainComplete dt n true) s = .next t ∧ (t.ewPort n).state = .up ∧
        (t.ewPort n).expectSeq = p.expectSeq ∧ (t.ewPort n).lastValid = now) ∧
      (∃ t : State, exec (.ewlRetrainComplete dt n false) s = .next t ∧ (t.ewPort n).state = .down ∧
        (t.ewPort n).downSince = now)) ∧
    (p.state = .training →
      (∃ t : State, exec (.ewlTrainingComplete dt n true member peer) s = .next t ∧ (t.ewPort n).state = .up ∧
        (t.ewPort n).peerMember = member ∧ (t.ewPort n).peerPort = peer ∧ (t.ewPort n).expectSeq = 0) ∧
      (∃ t : State, exec (.ewlTrainingComplete dt n false member peer) s = .next t ∧ (t.ewPort n).state = .down)) ∧
    (u.live = true → p.state = .down → p.downSince + 100000000 ≤ now → ∃ t : State,
      exec (.ewlTrainingRetry dt n) s = .next t ∧ (t.ewPort n).state = .training) ∧
    (p.state = .up → u.ewl.cascade ≠ .forming → ∃ t : State,
      exec (.ewlLinkFlit dt n t1 echo t4 member peer) s = .next t ∧ (t.ewPort n).lastT1 = t1 ∧ (t.ewPort n).lastReceive = u.now ∧
      (t.ewPort n).peerMember = member ∧
      (t.ewPort n).delay = (if echo = 0 then p.delay else (linkExchange t1 u.now echo t4).1))

/-! ### Cascade messages -/

/-- Blocks and bulk data that end at this member of a cascade (R358, R360, R362). A BLOCK into a House buffer that is held is
written, its first arrival counts, and each arrival is acknowledged where a port leads back; one that no held buffer takes is
dropped and counted. A WRITE is written. A BLOCK_ACK ends the wait of its retained copy; a copy without one for 20 µs is sent
again. A RESEND of a block whose copy is freed is answered with a REPLY, and a single retained block goes again to the member that
asks. -/
def Obligations.BlocksArriveAndAreRetained : Prop :=
  ∀ (s : State) (dt chain index : Nat) (m : Msg) (data : List Byte) (r : Retained),
    let u := s.advance dt
    let key := (m.chain, m.block, m.address)
    let late := fun (x : Retained) => x.chain = chain && x.index = index && !x.acked && x.sentAt + 20000 ≤ u.time.elapsed
    let bad := { u with ewl := { u.ewl with badMessages := u.ewl.badMessages.inc } }
    let goal := if m.address = 0 then r.address else m.address + 65536 * (r.index - m.block)
    u.live = true → u.inCascade = true → (u.stageManager = true → m.epoch ≤ u.ewl.epoch) → m.length ≤ 65536 → m.dst = u.ewl.member →
    (m.kind = 0x01 → bufDram m.address = false → u.takesBytes m data = true → ∃ t : State,
      exec (.block dt m data) s = .next t ∧ t.house = (u.writeMem false (bufAddr m.address) data).house ∧ t.dram = u.dram ∧
      t.ewl.received = (if u.ewl.received.contains key then u.ewl.received else key :: u.ewl.received) ∧
      t.ewl.handoffReceived = (if u.ewl.received.contains key then u.ewl.handoffReceived else u.ewl.handoffReceived.inc) ∧
      (∀ port, (u.routePorts m.src).head? = some port →
        .message port (u.header 0x02 m.src m.address m.chain m.block 0 false) [] ∈ t.outputs)) ∧
    (m.kind = 0x01 → u.takesBytes m data = false → exec (.block dt m data) s = .next bad) ∧
    (m.kind = 0x04 → u.takesBytes m data = true → ∃ t : State,
      exec (.write dt m data) s = .next t ∧
      t.house = (u.writeMem (bufDram m.address) (bufAddr m.address) data).house ∧
      t.dram = (u.writeMem (bufDram m.address) (bufAddr m.address) data).dram ∧ t.ewl = u.ewl) ∧
    (m.kind = 0x02 →
      exec (.blockAck dt m) s = .next { u with ewl := { u.ewl with retained := u.ewl.retained.map fun (x : Retained) =>
        if x.chain = m.chain ∧ x.index = m.block ∧ x.dst = m.src then { x with acked := true } else x } }) ∧
    (u.ewl.retained.find? late = some r → ∃ v : State,
      v.ewl.handoffResent = u.ewl.handoffResent.inc ∧ v.house = u.house ∧ v.dram = u.dram ∧
      (r.sample = none → exec (.blockAckTimeout dt chain index) s = .next (v.trace 4 0 0 0x0E v.cueNow)) ∧
      (∀ k, r.sample = some k →
        exec (.blockAckTimeout dt chain index) s = .next (v.repeatUnit (.chain k) 0x0E 21000 0 0))) ∧
    (m.kind = 0x03 → u.memberLost m.src = false →
      ((∀ x ∈ u.ewl.retained, ¬ (x.chain = m.chain ∧ x.index = m.block)) →
        exec (.resend dt m) s = .next (u.send 0x07 m.src 0 m.chain m.block false ([3] ++ leBytes 4 m.block))) ∧
      (u.ewl.retained = [r] → r.chain = m.chain → r.index = m.block → ∃ t : State,
        exec (.resend dt m) s = .next t ∧ t.ewl.handoffResent = u.ewl.handoffResent.inc ∧
        t.ewl.retained = [{ r with sentAt := u.time.elapsed, acked := false, dst := m.src, address := goal }]))

/-- Heartbeats and cascade control (R358, R365, R369, R406). A new HEARTBEAT of another member in service is recorded; the own one
goes out each 50 µs. The stage manager declares a member that has been silent for 200 µs LOST, and the cascade is then REMAPPING
or BROKEN (said where no command waits for the mirror, since one that does runs then, and it may be CASCADE_DISSOLVE). A COMMAND
from the stage manager is answered and carried out, and one from another member is dropped and counted; a REPLY ends the wait of
its COMMAND; a COMMAND without its REPLY for 100 µs goes again over the backup port. (What COMMAND and REPLY carry is the model's
own layout, log entry 25.) -/
def Obligations.HeartbeatsAndControl : Prop :=
  ∀ (s : State) (dt cue state n port : Nat) (ready : Bool) (m : Msg) (c : CascadeControl) (w : Nat × Nat × List Byte),
    let u := s.advance dt
    let now := u.time.elapsed
    let x := u.memberOf m.src
    let bad := { u with ewl := { u.ewl with badMessages := u.ewl.badMessages.inc } }
    let comes := u.inCascade = true ∧ (u.stageManager = true → m.epoch ≤ u.ewl.epoch) ∧ m.length ≤ 65536
    u.live = true →
    (comes → m.kind = 0x05 → m.src ≠ u.ewl.member → x.lost = false →
      0 < (m.block + 2 ^ 32 - x.lastSequence % 2 ^ 32) % 2 ^ 32 →
      (m.block + 2 ^ 32 - x.lastSequence % 2 ^ 32) % 2 ^ 32 < 2 ^ 31 → ∃ t : State,
      exec (.heartbeat dt m cue state ready) s = .next t ∧
      t.memberOf m.src = { x with lastHeartbeat := now, lastSequence := m.block, hostReady := ready } ∧
      t.ewl.heartbeatLate = (if x.lastSequence ≠ 0 ∧ x.lastHeartbeat + 100000 < now then u.ewl.heartbeatLate.inc
        else u.ewl.heartbeatLate)) ∧
    (u.inCascade = true → u.ewl.lastHeartbeatSent + 50000 ≤ now → ∃ t : State,
      exec (.heartbeatSend dt) s = .next t ∧ t.ewl.heartbeatSeq = (u.ewl.heartbeatSeq + 1) % 2 ^ 32 ∧
      t.ewl.lastHeartbeatSent = now ∧ t.house = u.house ∧ t.samples = u.samples) ∧
    (u.inCascade = true → u.ewl.cascade ≠ .broken → n ≠ u.ewl.member → n < u.ewl.members → u.memberLost n = false →
      (u.memberOf n).lastHeartbeat + 200000 ≤ now → u.ewl.role = 1 → ∃ t : State,
      exec (.memberLost dt n) s = .next t ∧ t = u.declareLost n ∧
      ((∀ h ∈ u.ewl.mirrorQueue, h.command = none) → t.memberLost n = true ∧
        (t.ewl.cascade = .remapping ∨ t.ewl.cascade = .broken))) ∧
    (comes → m.kind = 0x06 → m.dst = u.ewl.member → controlForms c = false → u.ewl.assigned = true →
      (u.fromManager m = true →
        exec (.command dt m c) s = .next ((u.send 0x07 m.src 0 0 0 false [0]).carryOut m c)) ∧
      (u.fromManager m = false → exec (.command dt m c) s = .next bad)) ∧
    (comes → m.kind = 0x07 → m.dst = u.ewl.member →
      exec (.reply dt m .carried) s = .next
        { u with ewl := { u.ewl with waitingReply := eraseFirst (fun y => y.1 = m.src) u.ewl.waitingReply } }) ∧
    (u.ewl.role = 1 → (u.ewl.waitingReply.find? fun y => y.1 = n && y.2.1 + 100000 ≤ now) = some w →
      u.backupPort n = some port → ∃ t : State,
      exec (.replyTimeout dt n) s = .next t ∧
      t.outputs = .message port (u.header 0x06 n 0 0 0 w.2.2.length false) w.2.2 :: u.outputs ∧
      t.ewl.waitingReply = u.ewl.waitingReply.map fun (y : Nat × Nat × List Byte) => if y = w then (y.1, now, y.2.2) else y)

/-- Mirror, takeover, cue grid and formation (R363, R366, R367, R371 to R373). The deputy keeps a MIRROR record and says so; the
oldest held completion is written when its MIRROR_ACK comes; a deputy without one for 200 µs is declared LOST. A deputy whose
stage manager has been silent for 200 µs takes over with the next EPOCH where it has heard more than half of the others, and
otherwise the cascade is BROKEN (said where no command waits for the mirror); a member takes the new stage manager. A CUE message
sets the grid, the staged period or the edge of the PIN. A HELLO joins a formation; one not complete within 1 s fails with
TIMEOUT. -/
def Obligations.MirrorTakeoverAndFormation : Prop :=
  ∀ (s : State) (dt identity members ep period number at_ d : Nat) (issued : Bool) (m : Msg) (c : MirrorContent) (h : MirrorHold)
      (l : List MirrorHold) (w : Completion × Bool),
    let u := s.advance dt
    let now := u.time.elapsed
    let comes := u.inCascade = true ∧ (u.stageManager = true → m.epoch ≤ u.ewl.epoch) ∧ m.length ≤ 65536 ∧ m.dst = u.ewl.member
    let others := u.otherMembers.filter (· ≠ u.ewl.manager)
    let heard := (others.filter fun k => !u.silent k).length + 1
    let e : Nat × Nat × Bool := (identity, members, issued)
    u.live = true →
    (comes → m.kind = 0x08 → u.fromManager m = true → u.ewl.role = 2 →
      exec (.mirror dt m c) s = .next
        (({ u with ewl := { u.ewl with mirrorRecords := mirrorWith u.ewl.mirrorRecords c } }).send 0x09 m.src 0 0 0 false [])) ∧
    (comes → m.kind = 0x09 → u.ewl.role = 1 → u.ewl.deputy = some m.src → u.ewl.mirrorQueue = h :: l → h.write = some w →
      h.command = none →
      exec (.mirrorAck dt m) s = .next
        (({ u with ewl := { u.ewl with mirrorQueue := l } }).putCompletion w.1.ring w.1 w.2)) ∧
    (u.ewl.mirrorQueue = h :: l → u.ewl.deputy = some d → u.stageManager = true → h.sentAt + 200000 ≤ now →
      exec (.mirrorAckTimeout dt) s = .next (u.declareLost d)) ∧
    (u.inCascade = true → u.ewl.cascade ≠ .broken → u.ewl.role = 2 → u.ewl.managerHeard + 200000 ≤ now →
      (others.length + 1 < 2 * heard → exec (.takeoverDecision dt) s = .next u.takeOver ∧
        u.takeOver.ewl.epoch = u.ewl.epoch + 1 ∧ u.takeOver.ewl.role = 1 ∧ u.takeOver.ewl.manager = u.ewl.member) ∧
      (2 * heard ≤ others.length + 1 →
        exec (.takeoverDecision dt) s = .next u.breakCascade ∧
        ((∀ x ∈ u.ewl.mirrorQueue, x.command = none) → u.breakCascade.ewl.cascade = .broken))) ∧
    (u.inCascade = true → u.stageManager = false → m.kind = 0x0A → m.length ≤ 65536 → u.ewl.epoch < m.epoch →
      u.ewl.deputy = some m.src → ∃ t : State,
      exec (.takeover dt m) s = .next t ∧ t.ewl.epoch = m.epoch ∧ t.ewl.manager = m.src ∧ t.ewl.deputy = none ∧
      t.memberLost u.ewl.manager = true) ∧
    (comes → m.kind = 0x0B → u.fromManager m = true →
      exec (.cue dt m (.grid ep period number)) s = .next { u with cue := { u.cue with
          epoch := ep, period := period, edges := number + 1, nextEdge := edgeBeyond ep period u.now, linkEdgeAt := none } } ∧
      exec (.cue dt m (.staged period at_)) s = .next
        { u with cue := { u.cue with nextPeriod := period, stagedAt := some at_ } } ∧
      exec (.cue dt m (.pinEdge at_)) s = .next { u with cue := { u.cue with linkEdgeAt := some at_ } }) ∧
    (u.ewl.cascade = .forming → m.kind = 0x0C → m.length ≤ 65536 → u.formMembers = none →
      (u.ewl.formIdentities.any fun x => x.1 = identity) = false → ∃ t : State,
      exec (.hello dt m identity members issued) s = .next t ∧ t.ewl.formIdentities = insertIdentity e u.ewl.formIdentities ∧
      t.ewl.cascade = .forming) ∧
    (u.ewl.cascade = .forming → u.ewl.formAt + 1000000000 ≤ now →
      exec (.formationTimeout dt) s = .next (u.formFails .timeout) ∧ (u.formFails .timeout).ewl.cascade = .none_)

/-- The remap and the Playbill (R38, R41, R406, R408, R411). REMAP_PLANS_BUILT at the stage manager of a REMAPPING cascade records
which chains repeat and which samples cannot; a remap not complete in 800 µs breaks the cascade. A Playbill update that completes
moves GENERATION on and publishes what it began with, at the present time and cue. -/
def Obligations.RemapAndPlaybillUpdates : Prop :=
  ∀ (s : State) (dt : Nat) (paused repeated missed : List Nat),
    let u := s.advance dt
    (u.ewl.role = 1 → u.ewl.cascade = .remapping → u.ewl.remapBuilt = false → ∃ t : State,
      exec (.remapPlansBuilt dt paused repeated missed) s = .next t ∧ t.ewl.remapBuilt = true ∧ t.ewl.remapRepeat = repeated ∧
      t.ewl.remapMissed = missed ∧ t.ewl.cascade = .remapping) ∧
    (u.ewl.cascade = .remapping → u.ewl.remapAt + 800000 ≤ u.time.elapsed →
      exec (.remapTimeout dt) s = .next u.breakCascade) ∧
    (∀ began, u.playbill.updating = some began → u.live = true → u.playbill.again = false → u.playbill.remapDue = none →
      u.playbill.remapEvent = none → ∃ t : State,
      exec (.playbillUpdateComplete dt) s = .next t ∧ t.playbill.generation = (u.playbill.generation + 1) % 2 ^ 32 ∧
      t.playbill.view = u.playbill.staged ∧ t.playbill.updating = none ∧ t.playbill.changeTime = u.now ∧
      t.playbill.changeCue = u.cueNow)

/-! ### The management port, the test access port and planned transfers -/

/-- The management port and the test access port (R442, R468 to R472): a pointer write with a right PEC sets POINTER, a wrong one
counts; a read of 1 to 32 bytes answers the bytes from POINTER as they stand at its first one, and POINTER advances; another
length is refused and counts; a timeout counts and POINTER keeps its value; SETDASA and ENTDAA give the dynamic address. An
instruction that drives the balls is refused and counted, acting as BYPASS, unless COLD_RST_N is asserted; any other is loaded. A
planned transfer lands: its bytes stand at the destination (R22, R381). -/
def Obligations.ManagementAndTransfers : Prop :=
  ∀ (s : State) (dt pointer count address n : Nat) (setdasa : Bool) (i : TapInstruction) (src dst : Word64),
    let u := s.advance dt
    let g := u.mgmt
    let bytes := u.readMem (bufDram src.toNat) (bufAddr src.toNat) n
    (pointer < 65536 →
      exec (.mgmtPointerWrite dt pointer true) s = .next { u with mgmt := { g with pointer := pointer } }) ∧
    exec (.mgmtPointerWrite dt pointer false) s = .next { u with mgmt := { g with pecErrors := g.pecErrors.inc } } ∧
    (0 < count → count ≤ 32 → ∃ t : State,
      exec (.mgmtRead dt count) s = .next t ∧ t.mgmt.pointer = (g.pointer + count) % 65536 ∧
      t.mgmt.lastRead = (upto count).map fun k => u.mgmtByte ((g.pointer + k) % 65536)) ∧
    (count = 0 ∨ 32 < count →
      exec (.mgmtRead dt count) s = .next { u with mgmt := { g with refused := g.refused.inc } }) ∧
    exec (.mgmtRefused dt) s = .next { u with mgmt := { g with refused := g.refused.inc } } ∧
    exec (.mgmtTimeout dt) s = .next { u with mgmt := { g with timeouts := g.timeouts.inc } } ∧
    (address < 128 →
      exec (.i3cDynamicAddress dt address setdasa) s = .next { u with mgmt := { g with dynamicAddress := some address } }) ∧
    (tapDrives i = false ∨ u.coldAsserted = true →
      exec (.tapInstruction dt i) s = .next { u with tap := i }) ∧
    (tapDrives i = true → u.coldAsserted = false →
      exec (.tapInstruction dt i) s = .next
        { u with tap := .bypass, obs := { u.obs with bscanRefused := u.obs.bscanRefused.inc } }) ∧
    (u.live = true → ∃ t : State,
      exec (.dmaTransferComplete dt src dst n) s = .next t ∧
      t.house = (u.writeMem (bufDram dst.toNat) (bufAddr dst.toNat) bytes).house ∧
      t.dram = (u.writeMem (bufDram dst.toNat) (bufAddr dst.toNat) bytes).dram ∧
      t.streams = u.streams ∧ t.rings = u.rings)

/-! ### Rules of the whole machine -/

/-- The machine right after reset (R10, R49, R348, R412, R453, R462, R471): BOOT at step 0 of a POWER_ON reset, no ring, command,
stream, sample, cast, script, pool, event or trace record, the cue period 16,667 µs with the INTERNAL source, the power limit 450
W, pixels sealed and encoded output off, the trace mask and both memories as their tables and log entries 3 and 13 give them
(memories list nothing, so every byte reads as zero and the canonical form holds). -/
def Obligations.ResetStateHolds : Prop :=
  let s := State.reset
  s.host.state = .boot ∧ s.host.bootStep = 0 ∧ s.host.rehearsal = false ∧ s.host.fault = 0 ∧ s.host.adminEnable = false ∧
  s.host.vfEnable = false ∧ s.pwr.resetKind = 1 ∧ s.pwr.limit = 450 ∧ s.pwr.trip = false ∧ s.pwr.rest = false ∧
  s.time.now = 0 ∧ s.time.rateAdj = 0 ∧ s.cue.period = 16667 ∧ s.cue.source = .internal ∧ s.cue.outEnable = false ∧ s.cue.edges = 0 ∧
  s.rings = [] ∧ s.inflight = [] ∧ s.streams = [] ∧ s.samples = [] ∧ s.casts = [] ∧ s.scripts = [] ∧ s.events = [] ∧
  s.wardrobe.pools = [] ∧ s.obs.ring = [] ∧ s.obs.mask = 0x37B1 ∧ s.sec.logCount = 0 ∧ s.sec.unsealed = false ∧ s.sec.encoded = false ∧ s.sec.locked = false ∧
  s.ewl.cascade = .none_ ∧ (∀ p ∈ s.ewl.ports, p.state = .disabled) ∧ s.mgmt.pointer = 0 ∧ s.tap = .idcode ∧ s.pending = [] ∧
  (∀ a, s.house.mem.read a = 0 ∧ s.dram.mem.read a = 0) ∧ s.memWf = true

/-- House lines over the banks (R64): the bank of line L is L[7:0] XOR L[15:8] XOR L[22:16]; each run of 256 lines with the same
row L[22:8] places exactly one line in every bank, so a buffer of 16 KiB at a 16 KiB boundary touches every bank equally; and no
power-of-two stride of lines falls on a single bank. -/
def Obligations.HouseLinesSpreadOverBanks : Prop :=
  (∀ l, l < 6291456 → bankOf l = (l % 256) ^^^ (l / 256 % 256) ^^^ (l / 65536 % 128)) ∧
  (∀ row b, row < 24576 → b < 256 → ∃ l, l / 256 = row ∧ bankOf l = b ∧ ∀ k, k / 256 = row → bankOf k = b → k = l) ∧
  (∀ first n b, first % 256 = 0 → first + 256 * n ≤ 6291456 → b < 256 →
    ((upto (256 * n)).filter fun i => bankOf (first + i) = b).length = n) ∧
  (∀ k, k < 22 → ∃ i, i * 2 ^ k < 6291456 ∧ bankOf (i * 2 ^ k) ≠ bankOf 0)

/-- The order of command checks (R309, Table 13.5), for every host command that is fetched: a failure of check 2 or 3 decides the
outcome whatever the later checks say, else for a command without an extended block the first failure of checks 4 to 6 does; the
command completes with that outcome, and the completion changes no object: no stream, sample, cast file, script, pool, command in
flight or byte of memory. -/
def Obligations.FirstFailedCheckDecides : Prop :=
  ∀ e ∈ hostCommands, ∀ (s : State) (dt : Nat) (p : Packet) (o : Outcome),
    let u := s.taken dt p
    let t := u.completed e.2.opcode p o 0
    Fetchable dt p s = true →
    (headChecks e.2 p = some o → exec (e.1 dt p) s = .next t) ∧
    (e.2.extended = false → headChecks e.2 p = none → bodyChecks e.2 p u = some o → exec (e.1 dt p) s = .next t) ∧
    t.streams = u.streams ∧ t.samples = u.samples ∧ t.casts = u.casts ∧ t.scripts = u.scripts ∧ t.wardrobe = u.wardrobe ∧
    t.inflight = u.inflight ∧ t.house = u.house ∧ t.dram = u.dram ∧ t.time = u.time ∧ t.cue = u.cue

/-- A completion (R306, Table 13.4), shown on a NOP of a ring that is not mirrored: the entry stands at the completion side's tail
with TAG, STATUS, CUE, OPCODE, FETCH after acceptance and RING, its PHASE the ring's; the tail moves on, PHASE inverts on a wrap,
and the ring's vector is raised when the ring raises it for every completion or the command asked, as a message where its entry is
unmasked and as its pending bit where it is masked. -/
def Obligations.CompletionsCarryPhase : Prop :=
  ∀ (s : State) (dt : Nat) (p : Packet) (r : Ring),
    let u := s.taken dt p
    let q := p.ring
    let x := agetD (u.fnOf r.fn).msix r.vector {}
    Passes nopCmd dt p s = true → aget u.rings q = some r → q ≠ remoteRing → (q = 0 ∨ u.mirrors = false) → ∃ t : State,
      exec (.nop dt p) s = .next t ∧
      .completion q r.ctail { tag := p.tag.toNat, status := .done, detail := 0, cue := u.cueNow, result := 0, opcode := 0x0100
                              fetch := r.fetch, ring := q, event := false, phase := r.phase } ∈ t.outputs ∧
      aget t.rings q = some { r with
        ctail := (r.ctail + 1) % r.size, phase := if (r.ctail + 1) % r.size = 0 then !r.phase else r.phase } ∧
      (r.interruptAll || p.interrupt → x.masked = false → .interrupt r.fn r.vector ∈ t.outputs) ∧
      (r.interruptAll || p.interrupt → x.masked = true →
        (agetD (t.fnOf r.fn).msix r.vector {}).pending = true)

/-- Both byte stores keep their canonical form: from every state in which addresses rise strictly and no listed byte is zero,
every step of the block leads to such a state (log entry 13; that it holds right after reset is ResetStateHolds). -/
def Obligations.MemoryStaysCanonical : Prop :=
  ∀ s t : State, s.memWf = true → step s = .next t → t.memWf = true

/-- The device moves between states as in Table 13.6 and in no other way (R312): one step leaves its state as it is, or makes a
transition of the table; it enters FAULTED from any state, and BOOT only by a reset, so that nothing but a reset ends FAULTED. -/
def Obligations.DeviceStatesMoveAsTabled : Prop :=
  ∀ (s t : State) (c : Instr) (l : List Instr), s.pending = c :: l → step s = .next t →
    (isReset c = true ∧ t.host.state = .boot) ∨ t.host.state = s.host.state ∨ t.host.state = .faulted ∨
      (s.host.state, t.host.state) ∈ stateMoves

/-- The frame of memory: of all commands only those `mayWriteMemory` names can change a byte of the House or of DRAM (data that
arrives, results, copies, fills, scrubbing, resets, and what starts a held command); after any other, every address of both reads
as before. -/
def Obligations.OtherCommandsKeepMemory : Prop :=
  ∀ (c : Instr) (s t : State), mayWriteMemory c = false → exec c s = .next t →
    (∀ a, t.house.mem.read a = s.house.mem.read a) ∧ (∀ a, t.dram.mem.read a = s.dram.mem.read a)

end
end

