-- ==== Sys2Proof/Laws/Commands.lean ====
section
/-! SUPPORT. What accepting a host command does, once for every command (R300, R309): an entry that cannot be fetched changes
nothing, the first failing check completes it, and one that passes runs its own part. -/

namespace Sys2Proof.Machine

open Sys2Proof

/-- An entry that cannot be fetched leaves the state. -/
theorem accept_unfetchable {s : State} {c : Cmd} {p : Packet} (h : s.canFetch p.ring p.fence = false) :
    s.accept c p = s := by
  simp [State.accept, h]

/-- A fetched entry, its acceptance mirrored nowhere, is started in the state that has taken it. -/
theorem accept_fetchable {s : State} {c : Cmd} {dt : Nat} {p : Packet} (h : Fetchable dt p s = true) :
    (s.advance dt).accept c p = settle c.opcode p (startCommand c p (s.taken dt p)) := by
  simp only [Fetchable, Bool.and_eq_true, Bool.not_eq_true'] at h
  obtain ⟨h1, h2⟩ := h
  simp only [State.accept, h1, Bool.not_true, Bool.false_eq_true, if_false]
  rw [if_neg]
  · rfl
  · intro h3
    have : (decide (p.ring ≠ 0) && (s.taken dt p).mirrors) = true := by simpa [State.taken] using h3
    simp_all

/-- A command that passes checks 1 to 6 runs its own part. -/
theorem accept_passes {s : State} {c : Cmd} {dt : Nat} {p : Packet} (h : Passes c dt p s = true) :
    (s.advance dt).accept c p = settle c.opcode p (c.body (s.taken dt p) p) := by
  simp only [Passes, Bool.and_eq_true, Bool.not_eq_true', Option.isNone_iff_eq_none] at h
  obtain ⟨⟨⟨⟨h1, h2⟩, h3⟩, h4⟩, h5⟩ := h
  rw [accept_fetchable h1]
  simp only [startCommand, h3, h2, checked, h4]
  simp only [localTarget] at h5
  cases ht : c.target with
  | root => rfl
  | kind k =>
    cases hn : findNode (s.taken dt p) p.target.toNat with
    | none => simp
    | some n => simp [ht, hn] at h5; simp [h5]

/-- A command with an extended block that passes checks 1 to 3 reads the block. -/
theorem accept_opens {s : State} {c : Cmd} {dt : Nat} {p : Packet} (h : Opens c dt p s = true) :
    (s.advance dt).accept c p = settle c.opcode p (readHost p (p.u64 0) (p.u16 8) (s.taken dt p)) := by
  simp only [Opens, Bool.and_eq_true, Option.isNone_iff_eq_none] at h
  obtain ⟨⟨h1, h2⟩, h3⟩ := h
  rw [accept_fetchable h1]
  simp [startCommand, h3, h2]

/-- A verdict that completes writes the completion. -/
theorem settle_done (opcode : Nat) (p : Packet) (o : Outcome) (r : Nat) (s : State) :
    settle opcode p (.done o r s) = s.completed opcode p o r := rfl

end Sys2Proof.Machine
end

