-- ==== Sys2Proof/Laws/Ops.lean ====
section
/-! SUPPORT. What each shared operation of Machine/Ops.lean can change, said once for each: the operation is the state with new
values in the fields named, and every other field reads as before. -/

namespace Sys2Proof.Machine

open Sys2Proof

/-- Sending frames on the lanes changes the trace and the outputs only. -/
theorem sendFrames_only {n : Nat} {s : State} :
    ∃ o l, sendFrames n s = { s with obs := o, outputs := l } := by
  induction n generalizing s with
  | zero => exact ⟨_, _, rfl⟩
  | succ n ih =>
    unfold sendFrames
    split
    · exact ⟨_, _, rfl⟩
    · rename_i r k l _
      obtain ⟨o, m, e⟩ := ih (s := { s with
        obs := { s.obs with lanes := l }, outputs := .frame (traceFrame r k) :: s.outputs })
      rw [e]; exact ⟨_, _, rfl⟩

/-- Draining the trace changes the trace and the outputs only. -/
theorem drainTrace_only {s : State} {x y : Nat} :
    ∃ o l, s.drainTrace x y = { s with obs := o, outputs := l } := by
  unfold State.drainTrace
  obtain ⟨o, l, e⟩ := sendFrames_only (n := min (y / 160 - x / 160)
    (s.obs.takeRecords (min (y / 20 - x / 20) s.obs.queue.length)).lanes.length)
    (s := { s with obs := s.obs.takeRecords (min (y / 20 - x / 20) s.obs.queue.length) })
  dsimp only
  rw [e]; exact ⟨_, _, rfl⟩

/-- Time that passes changes time, obs, outputs and host only. -/
theorem State.advance_only {s : State} {dt : Nat} :
    ∃ x0 x1 x2 x3, s.advance dt = { s with time := x0, obs := x1, outputs := x2, host := x3 } := by
  unfold State.advance
  by_cases h : dt = 0
  · simp only [h, if_true]; exact ⟨_, _, _, _, rfl⟩
  · simp only [h, if_false]
    obtain ⟨o, l, e⟩ := drainTrace_only (s := { s with time := s.time.advance dt }) (x := s.time.elapsed)
      (y := s.time.elapsed + dt)
    rw [e]
    split <;> exact ⟨_, _, _, _, rfl⟩

@[simp] theorem State.advance_cue (s : State) (dt : Nat) : (s.advance dt).cue = s.cue := by
  obtain ⟨_, _, _, _, h⟩ := State.advance_only (s := s) (dt := dt); rw [h]
@[simp] theorem State.advance_rings (s : State) (dt : Nat) : (s.advance dt).rings = s.rings := by
  obtain ⟨_, _, _, _, h⟩ := State.advance_only (s := s) (dt := dt); rw [h]
@[simp] theorem State.advance_scanPos (s : State) (dt : Nat) : (s.advance dt).scanPos = s.scanPos := by
  obtain ⟨_, _, _, _, h⟩ := State.advance_only (s := s) (dt := dt); rw [h]
@[simp] theorem State.advance_inflight (s : State) (dt : Nat) : (s.advance dt).inflight = s.inflight := by
  obtain ⟨_, _, _, _, h⟩ := State.advance_only (s := s) (dt := dt); rw [h]
@[simp] theorem State.advance_nextId (s : State) (dt : Nat) : (s.advance dt).nextId = s.nextId := by
  obtain ⟨_, _, _, _, h⟩ := State.advance_only (s := s) (dt := dt); rw [h]
@[simp] theorem State.advance_groupFn (s : State) (dt : Nat) : (s.advance dt).groupFn = s.groupFn := by
  obtain ⟨_, _, _, _, h⟩ := State.advance_only (s := s) (dt := dt); rw [h]
@[simp] theorem State.advance_events (s : State) (dt : Nat) : (s.advance dt).events = s.events := by
  obtain ⟨_, _, _, _, h⟩ := State.advance_only (s := s) (dt := dt); rw [h]
@[simp] theorem State.advance_eventsLost (s : State) (dt : Nat) : (s.advance dt).eventsLost = s.eventsLost := by
  obtain ⟨_, _, _, _, h⟩ := State.advance_only (s := s) (dt := dt); rw [h]
@[simp] theorem State.advance_lastRead (s : State) (dt : Nat) : (s.advance dt).lastRead = s.lastRead := by
  obtain ⟨_, _, _, _, h⟩ := State.advance_only (s := s) (dt := dt); rw [h]
@[simp] theorem State.advance_lastReadBytes (s : State) (dt : Nat) : (s.advance dt).lastReadBytes = s.lastReadBytes := by
  obtain ⟨_, _, _, _, h⟩ := State.advance_only (s := s) (dt := dt); rw [h]
@[simp] theorem State.advance_lastReadPoisoned (s : State) (dt : Nat) : (s.advance dt).lastReadPoisoned = s.lastReadPoisoned := by
  obtain ⟨_, _, _, _, h⟩ := State.advance_only (s := s) (dt := dt); rw [h]
@[simp] theorem State.advance_streams (s : State) (dt : Nat) : (s.advance dt).streams = s.streams := by
  obtain ⟨_, _, _, _, h⟩ := State.advance_only (s := s) (dt := dt); rw [h]
@[simp] theorem State.advance_samples (s : State) (dt : Nat) : (s.advance dt).samples = s.samples := by
  obtain ⟨_, _, _, _, h⟩ := State.advance_only (s := s) (dt := dt); rw [h]
@[simp] theorem State.advance_sampleOrder (s : State) (dt : Nat) : (s.advance dt).sampleOrder = s.sampleOrder := by
  obtain ⟨_, _, _, _, h⟩ := State.advance_only (s := s) (dt := dt); rw [h]
@[simp] theorem State.advance_casts (s : State) (dt : Nat) : (s.advance dt).casts = s.casts := by
  obtain ⟨_, _, _, _, h⟩ := State.advance_only (s := s) (dt := dt); rw [h]
@[simp] theorem State.advance_scripts (s : State) (dt : Nat) : (s.advance dt).scripts = s.scripts := by
  obtain ⟨_, _, _, _, h⟩ := State.advance_only (s := s) (dt := dt); rw [h]
@[simp] theorem State.advance_wardrobe (s : State) (dt : Nat) : (s.advance dt).wardrobe = s.wardrobe := by
  obtain ⟨_, _, _, _, h⟩ := State.advance_only (s := s) (dt := dt); rw [h]
@[simp] theorem State.advance_house (s : State) (dt : Nat) : (s.advance dt).house = s.house := by
  obtain ⟨_, _, _, _, h⟩ := State.advance_only (s := s) (dt := dt); rw [h]
@[simp] theorem State.advance_dram (s : State) (dt : Nat) : (s.advance dt).dram = s.dram := by
  obtain ⟨_, _, _, _, h⟩ := State.advance_only (s := s) (dt := dt); rw [h]
@[simp] theorem State.advance_arrays (s : State) (dt : Nat) : (s.advance dt).arrays = s.arrays := by
  obtain ⟨_, _, _, _, h⟩ := State.advance_only (s := s) (dt := dt); rw [h]
@[simp] theorem State.advance_vecs (s : State) (dt : Nat) : (s.advance dt).vecs = s.vecs := by
  obtain ⟨_, _, _, _, h⟩ := State.advance_only (s := s) (dt := dt); rw [h]
@[simp] theorem State.advance_samps (s : State) (dt : Nat) : (s.advance dt).samps = s.samps := by
  obtain ⟨_, _, _, _, h⟩ := State.advance_only (s := s) (dt := dt); rw [h]
@[simp] theorem State.advance_codecs (s : State) (dt : Nat) : (s.advance dt).codecs = s.codecs := by
  obtain ⟨_, _, _, _, h⟩ := State.advance_only (s := s) (dt := dt); rw [h]
@[simp] theorem State.advance_ingest (s : State) (dt : Nat) : (s.advance dt).ingest = s.ingest := by
  obtain ⟨_, _, _, _, h⟩ := State.advance_only (s := s) (dt := dt); rw [h]
@[simp] theorem State.advance_jpegs (s : State) (dt : Nat) : (s.advance dt).jpegs = s.jpegs := by
  obtain ⟨_, _, _, _, h⟩ := State.advance_only (s := s) (dt := dt); rw [h]
@[simp] theorem State.advance_scalers (s : State) (dt : Nat) : (s.advance dt).scalers = s.scalers := by
  obtain ⟨_, _, _, _, h⟩ := State.advance_only (s := s) (dt := dt); rw [h]
@[simp] theorem State.advance_scoreboard (s : State) (dt : Nat) : (s.advance dt).scoreboard = s.scoreboard := by
  obtain ⟨_, _, _, _, h⟩ := State.advance_only (s := s) (dt := dt); rw [h]
@[simp] theorem State.advance_contexts (s : State) (dt : Nat) : (s.advance dt).contexts = s.contexts := by
  obtain ⟨_, _, _, _, h⟩ := State.advance_only (s := s) (dt := dt); rw [h]
@[simp] theorem State.advance_ewl (s : State) (dt : Nat) : (s.advance dt).ewl = s.ewl := by
  obtain ⟨_, _, _, _, h⟩ := State.advance_only (s := s) (dt := dt); rw [h]
@[simp] theorem State.advance_sec (s : State) (dt : Nat) : (s.advance dt).sec = s.sec := by
  obtain ⟨_, _, _, _, h⟩ := State.advance_only (s := s) (dt := dt); rw [h]
@[simp] theorem State.advance_pwr (s : State) (dt : Nat) : (s.advance dt).pwr = s.pwr := by
  obtain ⟨_, _, _, _, h⟩ := State.advance_only (s := s) (dt := dt); rw [h]
@[simp] theorem State.advance_mgmt (s : State) (dt : Nat) : (s.advance dt).mgmt = s.mgmt := by
  obtain ⟨_, _, _, _, h⟩ := State.advance_only (s := s) (dt := dt); rw [h]
@[simp] theorem State.advance_playbill (s : State) (dt : Nat) : (s.advance dt).playbill = s.playbill := by
  obtain ⟨_, _, _, _, h⟩ := State.advance_only (s := s) (dt := dt); rw [h]
@[simp] theorem State.advance_tap (s : State) (dt : Nat) : (s.advance dt).tap = s.tap := by
  obtain ⟨_, _, _, _, h⟩ := State.advance_only (s := s) (dt := dt); rw [h]
@[simp] theorem State.advance_cores (s : State) (dt : Nat) : (s.advance dt).cores = s.cores := by
  obtain ⟨_, _, _, _, h⟩ := State.advance_only (s := s) (dt := dt); rw [h]
@[simp] theorem State.advance_coreRefetches (s : State) (dt : Nat) : (s.advance dt).coreRefetches = s.coreRefetches := by
  obtain ⟨_, _, _, _, h⟩ := State.advance_only (s := s) (dt := dt); rw [h]
@[simp] theorem State.advance_freeCount (s : State) (dt : Nat) : (s.advance dt).freeCount = s.freeCount := by
  obtain ⟨_, _, _, _, h⟩ := State.advance_only (s := s) (dt := dt); rw [h]
@[simp] theorem State.advance_pending (s : State) (dt : Nat) : (s.advance dt).pending = s.pending := by
  obtain ⟨_, _, _, _, h⟩ := State.advance_only (s := s) (dt := dt); rw [h]

/-- Leaving REST changes pwr and dram only. -/
theorem State.leaveRest_only {s : State} :
    ∃ x0 x1, s.leaveRest = { s with pwr := x0, dram := x1 } := by
  unfold State.leaveRest; split <;> exact ⟨_, _, rfl⟩

@[simp] theorem State.leaveRest_time (s : State) : (s.leaveRest).time = s.time := by
  obtain ⟨_, _, h⟩ := State.leaveRest_only (s := s); rw [h]
@[simp] theorem State.leaveRest_cue (s : State) : (s.leaveRest).cue = s.cue := by
  obtain ⟨_, _, h⟩ := State.leaveRest_only (s := s); rw [h]
@[simp] theorem State.leaveRest_host (s : State) : (s.leaveRest).host = s.host := by
  obtain ⟨_, _, h⟩ := State.leaveRest_only (s := s); rw [h]
@[simp] theorem State.leaveRest_rings (s : State) : (s.leaveRest).rings = s.rings := by
  obtain ⟨_, _, h⟩ := State.leaveRest_only (s := s); rw [h]
@[simp] theorem State.leaveRest_scanPos (s : State) : (s.leaveRest).scanPos = s.scanPos := by
  obtain ⟨_, _, h⟩ := State.leaveRest_only (s := s); rw [h]
@[simp] theorem State.leaveRest_inflight (s : State) : (s.leaveRest).inflight = s.inflight := by
  obtain ⟨_, _, h⟩ := State.leaveRest_only (s := s); rw [h]
@[simp] theorem State.leaveRest_nextId (s : State) : (s.leaveRest).nextId = s.nextId := by
  obtain ⟨_, _, h⟩ := State.leaveRest_only (s := s); rw [h]
@[simp] theorem State.leaveRest_groupFn (s : State) : (s.leaveRest).groupFn = s.groupFn := by
  obtain ⟨_, _, h⟩ := State.leaveRest_only (s := s); rw [h]
@[simp] theorem State.leaveRest_events (s : State) : (s.leaveRest).events = s.events := by
  obtain ⟨_, _, h⟩ := State.leaveRest_only (s := s); rw [h]
@[simp] theorem State.leaveRest_eventsLost (s : State) : (s.leaveRest).eventsLost = s.eventsLost := by
  obtain ⟨_, _, h⟩ := State.leaveRest_only (s := s); rw [h]
@[simp] theorem State.leaveRest_outputs (s : State) : (s.leaveRest).outputs = s.outputs := by
  obtain ⟨_, _, h⟩ := State.leaveRest_only (s := s); rw [h]
@[simp] theorem State.leaveRest_lastRead (s : State) : (s.leaveRest).lastRead = s.lastRead := by
  obtain ⟨_, _, h⟩ := State.leaveRest_only (s := s); rw [h]
@[simp] theorem State.leaveRest_lastReadBytes (s : State) : (s.leaveRest).lastReadBytes = s.lastReadBytes := by
  obtain ⟨_, _, h⟩ := State.leaveRest_only (s := s); rw [h]
@[simp] theorem State.leaveRest_lastReadPoisoned (s : State) : (s.leaveRest).lastReadPoisoned = s.lastReadPoisoned := by
  obtain ⟨_, _, h⟩ := State.leaveRest_only (s := s); rw [h]
@[simp] theorem State.leaveRest_streams (s : State) : (s.leaveRest).streams = s.streams := by
  obtain ⟨_, _, h⟩ := State.leaveRest_only (s := s); rw [h]
@[simp] theorem State.leaveRest_samples (s : State) : (s.leaveRest).samples = s.samples := by
  obtain ⟨_, _, h⟩ := State.leaveRest_only (s := s); rw [h]
@[simp] theorem State.leaveRest_sampleOrder (s : State) : (s.leaveRest).sampleOrder = s.sampleOrder := by
  obtain ⟨_, _, h⟩ := State.leaveRest_only (s := s); rw [h]
@[simp] theorem State.leaveRest_casts (s : State) : (s.leaveRest).casts = s.casts := by
  obtain ⟨_, _, h⟩ := State.leaveRest_only (s := s); rw [h]
@[simp] theorem State.leaveRest_scripts (s : State) : (s.leaveRest).scripts = s.scripts := by
  obtain ⟨_, _, h⟩ := State.leaveRest_only (s := s); rw [h]
@[simp] theorem State.leaveRest_wardrobe (s : State) : (s.leaveRest).wardrobe = s.wardrobe := by
  obtain ⟨_, _, h⟩ := State.leaveRest_only (s := s); rw [h]
@[simp] theorem State.leaveRest_house (s : State) : (s.leaveRest).house = s.house := by
  obtain ⟨_, _, h⟩ := State.leaveRest_only (s := s); rw [h]
@[simp] theorem State.leaveRest_arrays (s : State) : (s.leaveRest).arrays = s.arrays := by
  obtain ⟨_, _, h⟩ := State.leaveRest_only (s := s); rw [h]
@[simp] theorem State.leaveRest_vecs (s : State) : (s.leaveRest).vecs = s.vecs := by
  obtain ⟨_, _, h⟩ := State.leaveRest_only (s := s); rw [h]
@[simp] theorem State.leaveRest_samps (s : State) : (s.leaveRest).samps = s.samps := by
  obtain ⟨_, _, h⟩ := State.leaveRest_only (s := s); rw [h]
@[simp] theorem State.leaveRest_codecs (s : State) : (s.leaveRest).codecs = s.codecs := by
  obtain ⟨_, _, h⟩ := State.leaveRest_only (s := s); rw [h]
@[simp] theorem State.leaveRest_ingest (s : State) : (s.leaveRest).ingest = s.ingest := by
  obtain ⟨_, _, h⟩ := State.leaveRest_only (s := s); rw [h]
@[simp] theorem State.leaveRest_jpegs (s : State) : (s.leaveRest).jpegs = s.jpegs := by
  obtain ⟨_, _, h⟩ := State.leaveRest_only (s := s); rw [h]
@[simp] theorem State.leaveRest_scalers (s : State) : (s.leaveRest).scalers = s.scalers := by
  obtain ⟨_, _, h⟩ := State.leaveRest_only (s := s); rw [h]
@[simp] theorem State.leaveRest_scoreboard (s : State) : (s.leaveRest).scoreboard = s.scoreboard := by
  obtain ⟨_, _, h⟩ := State.leaveRest_only (s := s); rw [h]
@[simp] theorem State.leaveRest_contexts (s : State) : (s.leaveRest).contexts = s.contexts := by
  obtain ⟨_, _, h⟩ := State.leaveRest_only (s := s); rw [h]
@[simp] theorem State.leaveRest_ewl (s : State) : (s.leaveRest).ewl = s.ewl := by
  obtain ⟨_, _, h⟩ := State.leaveRest_only (s := s); rw [h]
@[simp] theorem State.leaveRest_sec (s : State) : (s.leaveRest).sec = s.sec := by
  obtain ⟨_, _, h⟩ := State.leaveRest_only (s := s); rw [h]
@[simp] theorem State.leaveRest_obs (s : State) : (s.leaveRest).obs = s.obs := by
  obtain ⟨_, _, h⟩ := State.leaveRest_only (s := s); rw [h]
@[simp] theorem State.leaveRest_mgmt (s : State) : (s.leaveRest).mgmt = s.mgmt := by
  obtain ⟨_, _, h⟩ := State.leaveRest_only (s := s); rw [h]
@[simp] theorem State.leaveRest_playbill (s : State) : (s.leaveRest).playbill = s.playbill := by
  obtain ⟨_, _, h⟩ := State.leaveRest_only (s := s); rw [h]
@[simp] theorem State.leaveRest_tap (s : State) : (s.leaveRest).tap = s.tap := by
  obtain ⟨_, _, h⟩ := State.leaveRest_only (s := s); rw [h]
@[simp] theorem State.leaveRest_cores (s : State) : (s.leaveRest).cores = s.cores := by
  obtain ⟨_, _, h⟩ := State.leaveRest_only (s := s); rw [h]
@[simp] theorem State.leaveRest_coreRefetches (s : State) : (s.leaveRest).coreRefetches = s.coreRefetches := by
  obtain ⟨_, _, h⟩ := State.leaveRest_only (s := s); rw [h]
@[simp] theorem State.leaveRest_freeCount (s : State) : (s.leaveRest).freeCount = s.freeCount := by
  obtain ⟨_, _, h⟩ := State.leaveRest_only (s := s); rw [h]
@[simp] theorem State.leaveRest_pending (s : State) : (s.leaveRest).pending = s.pending := by
  obtain ⟨_, _, h⟩ := State.leaveRest_only (s := s); rw [h]

/-- A trace record changes obs only. -/
theorem State.trace_only {s : State} {k c u a b : Nat} :
    ∃ x0, s.trace k c u a b = { s with obs := x0 } := by
  simp only [State.trace]; (repeat' split) <;> exact ⟨_, rfl⟩

@[simp] theorem State.trace_time (s : State) (k c u a b : Nat) : (s.trace k c u a b).time = s.time := by
  obtain ⟨_, h⟩ := State.trace_only (s := s) (k := k) (c := c) (u := u) (a := a) (b := b); rw [h]
@[simp] theorem State.trace_cue (s : State) (k c u a b : Nat) : (s.trace k c u a b).cue = s.cue := by
  obtain ⟨_, h⟩ := State.trace_only (s := s) (k := k) (c := c) (u := u) (a := a) (b := b); rw [h]
@[simp] theorem State.trace_host (s : State) (k c u a b : Nat) : (s.trace k c u a b).host = s.host := by
  obtain ⟨_, h⟩ := State.trace_only (s := s) (k := k) (c := c) (u := u) (a := a) (b := b); rw [h]
@[simp] theorem State.trace_rings (s : State) (k c u a b : Nat) : (s.trace k c u a b).rings = s.rings := by
  obtain ⟨_, h⟩ := State.trace_only (s := s) (k := k) (c := c) (u := u) (a := a) (b := b); rw [h]
@[simp] theorem State.trace_scanPos (s : State) (k c u a b : Nat) : (s.trace k c u a b).scanPos = s.scanPos := by
  obtain ⟨_, h⟩ := State.trace_only (s := s) (k := k) (c := c) (u := u) (a := a) (b := b); rw [h]
@[simp] theorem State.trace_inflight (s : State) (k c u a b : Nat) : (s.trace k c u a b).inflight = s.inflight := by
  obtain ⟨_, h⟩ := State.trace_only (s := s) (k := k) (c := c) (u := u) (a := a) (b := b); rw [h]
@[simp] theorem State.trace_nextId (s : State) (k c u a b : Nat) : (s.trace k c u a b).nextId = s.nextId := by
  obtain ⟨_, h⟩ := State.trace_only (s := s) (k := k) (c := c) (u := u) (a := a) (b := b); rw [h]
@[simp] theorem State.trace_groupFn (s : State) (k c u a b : Nat) : (s.trace k c u a b).groupFn = s.groupFn := by
  obtain ⟨_, h⟩ := State.trace_only (s := s) (k := k) (c := c) (u := u) (a := a) (b := b); rw [h]
@[simp] theorem State.trace_events (s : State) (k c u a b : Nat) : (s.trace k c u a b).events = s.events := by
  obtain ⟨_, h⟩ := State.trace_only (s := s) (k := k) (c := c) (u := u) (a := a) (b := b); rw [h]
@[simp] theorem State.trace_eventsLost (s : State) (k c u a b : Nat) : (s.trace k c u a b).eventsLost = s.eventsLost := by
  obtain ⟨_, h⟩ := State.trace_only (s := s) (k := k) (c := c) (u := u) (a := a) (b := b); rw [h]
@[simp] theorem State.trace_outputs (s : State) (k c u a b : Nat) : (s.trace k c u a b).outputs = s.outputs := by
  obtain ⟨_, h⟩ := State.trace_only (s := s) (k := k) (c := c) (u := u) (a := a) (b := b); rw [h]
@[simp] theorem State.trace_lastRead (s : State) (k c u a b : Nat) : (s.trace k c u a b).lastRead = s.lastRead := by
  obtain ⟨_, h⟩ := State.trace_only (s := s) (k := k) (c := c) (u := u) (a := a) (b := b); rw [h]
@[simp] theorem State.trace_lastReadBytes (s : State) (k c u a b : Nat) : (s.trace k c u a b).lastReadBytes = s.lastReadBytes := by
  obtain ⟨_, h⟩ := State.trace_only (s := s) (k := k) (c := c) (u := u) (a := a) (b := b); rw [h]
@[simp] theorem State.trace_lastReadPoisoned (s : State) (k c u a b : Nat) : (s.trace k c u a b).lastReadPoisoned = s.lastReadPoisoned := by
  obtain ⟨_, h⟩ := State.trace_only (s := s) (k := k) (c := c) (u := u) (a := a) (b := b); rw [h]
@[simp] theorem State.trace_streams (s : State) (k c u a b : Nat) : (s.trace k c u a b).streams = s.streams := by
  obtain ⟨_, h⟩ := State.trace_only (s := s) (k := k) (c := c) (u := u) (a := a) (b := b); rw [h]
@[simp] theorem State.trace_samples (s : State) (k c u a b : Nat) : (s.trace k c u a b).samples = s.samples := by
  obtain ⟨_, h⟩ := State.trace_only (s := s) (k := k) (c := c) (u := u) (a := a) (b := b); rw [h]
@[simp] theorem State.trace_sampleOrder (s : State) (k c u a b : Nat) : (s.trace k c u a b).sampleOrder = s.sampleOrder := by
  obtain ⟨_, h⟩ := State.trace_only (s := s) (k := k) (c := c) (u := u) (a := a) (b := b); rw [h]
@[simp] theorem State.trace_casts (s : State) (k c u a b : Nat) : (s.trace k c u a b).casts = s.casts := by
  obtain ⟨_, h⟩ := State.trace_only (s := s) (k := k) (c := c) (u := u) (a := a) (b := b); rw [h]
@[simp] theorem State.trace_scripts (s : State) (k c u a b : Nat) : (s.trace k c u a b).scripts = s.scripts := by
  obtain ⟨_, h⟩ := State.trace_only (s := s) (k := k) (c := c) (u := u) (a := a) (b := b); rw [h]
@[simp] theorem State.trace_wardrobe (s : State) (k c u a b : Nat) : (s.trace k c u a b).wardrobe = s.wardrobe := by
  obtain ⟨_, h⟩ := State.trace_only (s := s) (k := k) (c := c) (u := u) (a := a) (b := b); rw [h]
@[simp] theorem State.trace_house (s : State) (k c u a b : Nat) : (s.trace k c u a b).house = s.house := by
  obtain ⟨_, h⟩ := State.trace_only (s := s) (k := k) (c := c) (u := u) (a := a) (b := b); rw [h]
@[simp] theorem State.trace_dram (s : State) (k c u a b : Nat) : (s.trace k c u a b).dram = s.dram := by
  obtain ⟨_, h⟩ := State.trace_only (s := s) (k := k) (c := c) (u := u) (a := a) (b := b); rw [h]
@[simp] theorem State.trace_arrays (s : State) (k c u a b : Nat) : (s.trace k c u a b).arrays = s.arrays := by
  obtain ⟨_, h⟩ := State.trace_only (s := s) (k := k) (c := c) (u := u) (a := a) (b := b); rw [h]
@[simp] theorem State.trace_vecs (s : State) (k c u a b : Nat) : (s.trace k c u a b).vecs = s.vecs := by
  obtain ⟨_, h⟩ := State.trace_only (s := s) (k := k) (c := c) (u := u) (a := a) (b := b); rw [h]
@[simp] theorem State.trace_samps (s : State) (k c u a b : Nat) : (s.trace k c u a b).samps = s.samps := by
  obtain ⟨_, h⟩ := State.trace_only (s := s) (k := k) (c := c) (u := u) (a := a) (b := b); rw [h]
@[simp] theorem State.trace_codecs (s : State) (k c u a b : Nat) : (s.trace k c u a b).codecs = s.codecs := by
  obtain ⟨_, h⟩ := State.trace_only (s := s) (k := k) (c := c) (u := u) (a := a) (b := b); rw [h]
@[simp] theorem State.trace_ingest (s : State) (k c u a b : Nat) : (s.trace k c u a b).ingest = s.ingest := by
  obtain ⟨_, h⟩ := State.trace_only (s := s) (k := k) (c := c) (u := u) (a := a) (b := b); rw [h]
@[simp] theorem State.trace_jpegs (s : State) (k c u a b : Nat) : (s.trace k c u a b).jpegs = s.jpegs := by
  obtain ⟨_, h⟩ := State.trace_only (s := s) (k := k) (c := c) (u := u) (a := a) (b := b); rw [h]
@[simp] theorem State.trace_scalers (s : State) (k c u a b : Nat) : (s.trace k c u a b).scalers = s.scalers := by
  obtain ⟨_, h⟩ := State.trace_only (s := s) (k := k) (c := c) (u := u) (a := a) (b := b); rw [h]
@[simp] theorem State.trace_scoreboard (s : State) (k c u a b : Nat) : (s.trace k c u a b).scoreboard = s.scoreboard := by
  obtain ⟨_, h⟩ := State.trace_only (s := s) (k := k) (c := c) (u := u) (a := a) (b := b); rw [h]
@[simp] theorem State.trace_contexts (s : State) (k c u a b : Nat) : (s.trace k c u a b).contexts = s.contexts := by
  obtain ⟨_, h⟩ := State.trace_only (s := s) (k := k) (c := c) (u := u) (a := a) (b := b); rw [h]
@[simp] theorem State.trace_ewl (s : State) (k c u a b : Nat) : (s.trace k c u a b).ewl = s.ewl := by
  obtain ⟨_, h⟩ := State.trace_only (s := s) (k := k) (c := c) (u := u) (a := a) (b := b); rw [h]
@[simp] theorem State.trace_sec (s : State) (k c u a b : Nat) : (s.trace k c u a b).sec = s.sec := by
  obtain ⟨_, h⟩ := State.trace_only (s := s) (k := k) (c := c) (u := u) (a := a) (b := b); rw [h]
@[simp] theorem State.trace_pwr (s : State) (k c u a b : Nat) : (s.trace k c u a b).pwr = s.pwr := by
  obtain ⟨_, h⟩ := State.trace_only (s := s) (k := k) (c := c) (u := u) (a := a) (b := b); rw [h]
@[simp] theorem State.trace_mgmt (s : State) (k c u a b : Nat) : (s.trace k c u a b).mgmt = s.mgmt := by
  obtain ⟨_, h⟩ := State.trace_only (s := s) (k := k) (c := c) (u := u) (a := a) (b := b); rw [h]
@[simp] theorem State.trace_playbill (s : State) (k c u a b : Nat) : (s.trace k c u a b).playbill = s.playbill := by
  obtain ⟨_, h⟩ := State.trace_only (s := s) (k := k) (c := c) (u := u) (a := a) (b := b); rw [h]
@[simp] theorem State.trace_tap (s : State) (k c u a b : Nat) : (s.trace k c u a b).tap = s.tap := by
  obtain ⟨_, h⟩ := State.trace_only (s := s) (k := k) (c := c) (u := u) (a := a) (b := b); rw [h]
@[simp] theorem State.trace_cores (s : State) (k c u a b : Nat) : (s.trace k c u a b).cores = s.cores := by
  obtain ⟨_, h⟩ := State.trace_only (s := s) (k := k) (c := c) (u := u) (a := a) (b := b); rw [h]
@[simp] theorem State.trace_coreRefetches (s : State) (k c u a b : Nat) : (s.trace k c u a b).coreRefetches = s.coreRefetches := by
  obtain ⟨_, h⟩ := State.trace_only (s := s) (k := k) (c := c) (u := u) (a := a) (b := b); rw [h]
@[simp] theorem State.trace_freeCount (s : State) (k c u a b : Nat) : (s.trace k c u a b).freeCount = s.freeCount := by
  obtain ⟨_, h⟩ := State.trace_only (s := s) (k := k) (c := c) (u := u) (a := a) (b := b); rw [h]
@[simp] theorem State.trace_pending (s : State) (k c u a b : Nat) : (s.trace k c u a b).pending = s.pending := by
  obtain ⟨_, h⟩ := State.trace_only (s := s) (k := k) (c := c) (u := u) (a := a) (b := b); rw [h]

/-- Raising a vector changes host and outputs only. -/
theorem State.raiseVector_only {s : State} {fn v : Nat} :
    ∃ x0 x1, s.raiseVector fn v = { s with host := x0, outputs := x1 } := by
  simp only [State.raiseVector, State.modFn]; split <;> exact ⟨_, _, rfl⟩

@[simp] theorem State.raiseVector_time (s : State) (fn v : Nat) : (s.raiseVector fn v).time = s.time := by
  obtain ⟨_, _, h⟩ := State.raiseVector_only (s := s) (fn := fn) (v := v); rw [h]
@[simp] theorem State.raiseVector_cue (s : State) (fn v : Nat) : (s.raiseVector fn v).cue = s.cue := by
  obtain ⟨_, _, h⟩ := State.raiseVector_only (s := s) (fn := fn) (v := v); rw [h]
@[simp] theorem State.raiseVector_rings (s : State) (fn v : Nat) : (s.raiseVector fn v).rings = s.rings := by
  obtain ⟨_, _, h⟩ := State.raiseVector_only (s := s) (fn := fn) (v := v); rw [h]
@[simp] theorem State.raiseVector_scanPos (s : State) (fn v : Nat) : (s.raiseVector fn v).scanPos = s.scanPos := by
  obtain ⟨_, _, h⟩ := State.raiseVector_only (s := s) (fn := fn) (v := v); rw [h]
@[simp] theorem State.raiseVector_inflight (s : State) (fn v : Nat) : (s.raiseVector fn v).inflight = s.inflight := by
  obtain ⟨_, _, h⟩ := State.raiseVector_only (s := s) (fn := fn) (v := v); rw [h]
@[simp] theorem State.raiseVector_nextId (s : State) (fn v : Nat) : (s.raiseVector fn v).nextId = s.nextId := by
  obtain ⟨_, _, h⟩ := State.raiseVector_only (s := s) (fn := fn) (v := v); rw [h]
@[simp] theorem State.raiseVector_groupFn (s : State) (fn v : Nat) : (s.raiseVector fn v).groupFn = s.groupFn := by
  obtain ⟨_, _, h⟩ := State.raiseVector_only (s := s) (fn := fn) (v := v); rw [h]
@[simp] theorem State.raiseVector_events (s : State) (fn v : Nat) : (s.raiseVector fn v).events = s.events := by
  obtain ⟨_, _, h⟩ := State.raiseVector_only (s := s) (fn := fn) (v := v); rw [h]
@[simp] theorem State.raiseVector_eventsLost (s : State) (fn v : Nat) : (s.raiseVector fn v).eventsLost = s.eventsLost := by
  obtain ⟨_, _, h⟩ := State.raiseVector_only (s := s) (fn := fn) (v := v); rw [h]
@[simp] theorem State.raiseVector_lastRead (s : State) (fn v : Nat) : (s.raiseVector fn v).lastRead = s.lastRead := by
  obtain ⟨_, _, h⟩ := State.raiseVector_only (s := s) (fn := fn) (v := v); rw [h]
@[simp] theorem State.raiseVector_lastReadBytes (s : State) (fn v : Nat) : (s.raiseVector fn v).lastReadBytes = s.lastReadBytes := by
  obtain ⟨_, _, h⟩ := State.raiseVector_only (s := s) (fn := fn) (v := v); rw [h]
@[simp] theorem State.raiseVector_lastReadPoisoned (s : State) (fn v : Nat) : (s.raiseVector fn v).lastReadPoisoned = s.lastReadPoisoned := by
  obtain ⟨_, _, h⟩ := State.raiseVector_only (s := s) (fn := fn) (v := v); rw [h]
@[simp] theorem State.raiseVector_streams (s : State) (fn v : Nat) : (s.raiseVector fn v).streams = s.streams := by
  obtain ⟨_, _, h⟩ := State.raiseVector_only (s := s) (fn := fn) (v := v); rw [h]
@[simp] theorem State.raiseVector_samples (s : State) (fn v : Nat) : (s.raiseVector fn v).samples = s.samples := by
  obtain ⟨_, _, h⟩ := State.raiseVector_only (s := s) (fn := fn) (v := v); rw [h]
@[simp] theorem State.raiseVector_sampleOrder (s : State) (fn v : Nat) : (s.raiseVector fn v).sampleOrder = s.sampleOrder := by
  obtain ⟨_, _, h⟩ := State.raiseVector_only (s := s) (fn := fn) (v := v); rw [h]
@[simp] theorem State.raiseVector_casts (s : State) (fn v : Nat) : (s.raiseVector fn v).casts = s.casts := by
  obtain ⟨_, _, h⟩ := State.raiseVector_only (s := s) (fn := fn) (v := v); rw [h]
@[simp] theorem State.raiseVector_scripts (s : State) (fn v : Nat) : (s.raiseVector fn v).scripts = s.scripts := by
  obtain ⟨_, _, h⟩ := State.raiseVector_only (s := s) (fn := fn) (v := v); rw [h]
@[simp] theorem State.raiseVector_wardrobe (s : State) (fn v : Nat) : (s.raiseVector fn v).wardrobe = s.wardrobe := by
  obtain ⟨_, _, h⟩ := State.raiseVector_only (s := s) (fn := fn) (v := v); rw [h]
@[simp] theorem State.raiseVector_house (s : State) (fn v : Nat) : (s.raiseVector fn v).house = s.house := by
  obtain ⟨_, _, h⟩ := State.raiseVector_only (s := s) (fn := fn) (v := v); rw [h]
@[simp] theorem State.raiseVector_dram (s : State) (fn v : Nat) : (s.raiseVector fn v).dram = s.dram := by
  obtain ⟨_, _, h⟩ := State.raiseVector_only (s := s) (fn := fn) (v := v); rw [h]
@[simp] theorem State.raiseVector_arrays (s : State) (fn v : Nat) : (s.raiseVector fn v).arrays = s.arrays := by
  obtain ⟨_, _, h⟩ := State.raiseVector_only (s := s) (fn := fn) (v := v); rw [h]
@[simp] theorem State.raiseVector_vecs (s : State) (fn v : Nat) : (s.raiseVector fn v).vecs = s.vecs := by
  obtain ⟨_, _, h⟩ := State.raiseVector_only (s := s) (fn := fn) (v := v); rw [h]
@[simp] theorem State.raiseVector_samps (s : State) (fn v : Nat) : (s.raiseVector fn v).samps = s.samps := by
  obtain ⟨_, _, h⟩ := State.raiseVector_only (s := s) (fn := fn) (v := v); rw [h]
@[simp] theorem State.raiseVector_codecs (s : State) (fn v : Nat) : (s.raiseVector fn v).codecs = s.codecs := by
  obtain ⟨_, _, h⟩ := State.raiseVector_only (s := s) (fn := fn) (v := v); rw [h]
@[simp] theorem State.raiseVector_ingest (s : State) (fn v : Nat) : (s.raiseVector fn v).ingest = s.ingest := by
  obtain ⟨_, _, h⟩ := State.raiseVector_only (s := s) (fn := fn) (v := v); rw [h]
@[simp] theorem State.raiseVector_jpegs (s : State) (fn v : Nat) : (s.raiseVector fn v).jpegs = s.jpegs := by
  obtain ⟨_, _, h⟩ := State.raiseVector_only (s := s) (fn := fn) (v := v); rw [h]
@[simp] theorem State.raiseVector_scalers (s : State) (fn v : Nat) : (s.raiseVector fn v).scalers = s.scalers := by
  obtain ⟨_, _, h⟩ := State.raiseVector_only (s := s) (fn := fn) (v := v); rw [h]
@[simp] theorem State.raiseVector_scoreboard (s : State) (fn v : Nat) : (s.raiseVector fn v).scoreboard = s.scoreboard := by
  obtain ⟨_, _, h⟩ := State.raiseVector_only (s := s) (fn := fn) (v := v); rw [h]
@[simp] theorem State.raiseVector_contexts (s : State) (fn v : Nat) : (s.raiseVector fn v).contexts = s.contexts := by
  obtain ⟨_, _, h⟩ := State.raiseVector_only (s := s) (fn := fn) (v := v); rw [h]
@[simp] theorem State.raiseVector_ewl (s : State) (fn v : Nat) : (s.raiseVector fn v).ewl = s.ewl := by
  obtain ⟨_, _, h⟩ := State.raiseVector_only (s := s) (fn := fn) (v := v); rw [h]
@[simp] theorem State.raiseVector_sec (s : State) (fn v : Nat) : (s.raiseVector fn v).sec = s.sec := by
  obtain ⟨_, _, h⟩ := State.raiseVector_only (s := s) (fn := fn) (v := v); rw [h]
@[simp] theorem State.raiseVector_obs (s : State) (fn v : Nat) : (s.raiseVector fn v).obs = s.obs := by
  obtain ⟨_, _, h⟩ := State.raiseVector_only (s := s) (fn := fn) (v := v); rw [h]
@[simp] theorem State.raiseVector_pwr (s : State) (fn v : Nat) : (s.raiseVector fn v).pwr = s.pwr := by
  obtain ⟨_, _, h⟩ := State.raiseVector_only (s := s) (fn := fn) (v := v); rw [h]
@[simp] theorem State.raiseVector_mgmt (s : State) (fn v : Nat) : (s.raiseVector fn v).mgmt = s.mgmt := by
  obtain ⟨_, _, h⟩ := State.raiseVector_only (s := s) (fn := fn) (v := v); rw [h]
@[simp] theorem State.raiseVector_playbill (s : State) (fn v : Nat) : (s.raiseVector fn v).playbill = s.playbill := by
  obtain ⟨_, _, h⟩ := State.raiseVector_only (s := s) (fn := fn) (v := v); rw [h]
@[simp] theorem State.raiseVector_tap (s : State) (fn v : Nat) : (s.raiseVector fn v).tap = s.tap := by
  obtain ⟨_, _, h⟩ := State.raiseVector_only (s := s) (fn := fn) (v := v); rw [h]
@[simp] theorem State.raiseVector_cores (s : State) (fn v : Nat) : (s.raiseVector fn v).cores = s.cores := by
  obtain ⟨_, _, h⟩ := State.raiseVector_only (s := s) (fn := fn) (v := v); rw [h]
@[simp] theorem State.raiseVector_coreRefetches (s : State) (fn v : Nat) : (s.raiseVector fn v).coreRefetches = s.coreRefetches := by
  obtain ⟨_, _, h⟩ := State.raiseVector_only (s := s) (fn := fn) (v := v); rw [h]
@[simp] theorem State.raiseVector_freeCount (s : State) (fn v : Nat) : (s.raiseVector fn v).freeCount = s.freeCount := by
  obtain ⟨_, _, h⟩ := State.raiseVector_only (s := s) (fn := fn) (v := v); rw [h]
@[simp] theorem State.raiseVector_pending (s : State) (fn v : Nat) : (s.raiseVector fn v).pending = s.pending := by
  obtain ⟨_, _, h⟩ := State.raiseVector_only (s := s) (fn := fn) (v := v); rw [h]

/-- A completion entry changes rings, outputs and host only. -/
theorem State.putCompletion_only {s : State} {q : Nat} {c : Completion} {r : Bool} :
    ∃ x0 x1 x2, s.putCompletion q c r = { s with rings := x0, outputs := x1, host := x2 } := by
  unfold State.putCompletion
  split
  · exact ⟨_, _, _, rfl⟩
  · split
    · exact ⟨_, _, _, rfl⟩
    · dsimp only
      split
      · obtain ⟨h, o, e⟩ := State.raiseVector_only (s := { s.wakeLink with
          rings := _, outputs := _ }) (fn := _) (v := _)
        rw [e]; exact ⟨_, _, _, rfl⟩
      · exact ⟨_, _, _, rfl⟩

@[simp] theorem State.putCompletion_time (s : State) (q : Nat) (c : Completion) (r : Bool) : (s.putCompletion q c r).time = s.time := by
  obtain ⟨_, _, _, h⟩ := State.putCompletion_only (s := s) (q := q) (c := c) (r := r); rw [h]
@[simp] theorem State.putCompletion_cue (s : State) (q : Nat) (c : Completion) (r : Bool) : (s.putCompletion q c r).cue = s.cue := by
  obtain ⟨_, _, _, h⟩ := State.putCompletion_only (s := s) (q := q) (c := c) (r := r); rw [h]
@[simp] theorem State.putCompletion_scanPos (s : State) (q : Nat) (c : Completion) (r : Bool) : (s.putCompletion q c r).scanPos = s.scanPos := by
  obtain ⟨_, _, _, h⟩ := State.putCompletion_only (s := s) (q := q) (c := c) (r := r); rw [h]
@[simp] theorem State.putCompletion_inflight (s : State) (q : Nat) (c : Completion) (r : Bool) : (s.putCompletion q c r).inflight = s.inflight := by
  obtain ⟨_, _, _, h⟩ := State.putCompletion_only (s := s) (q := q) (c := c) (r := r); rw [h]
@[simp] theorem State.putCompletion_nextId (s : State) (q : Nat) (c : Completion) (r : Bool) : (s.putCompletion q c r).nextId = s.nextId := by
  obtain ⟨_, _, _, h⟩ := State.putCompletion_only (s := s) (q := q) (c := c) (r := r); rw [h]
@[simp] theorem State.putCompletion_groupFn (s : State) (q : Nat) (c : Completion) (r : Bool) : (s.putCompletion q c r).groupFn = s.groupFn := by
  obtain ⟨_, _, _, h⟩ := State.putCompletion_only (s := s) (q := q) (c := c) (r := r); rw [h]
@[simp] theorem State.putCompletion_events (s : State) (q : Nat) (c : Completion) (r : Bool) : (s.putCompletion q c r).events = s.events := by
  obtain ⟨_, _, _, h⟩ := State.putCompletion_only (s := s) (q := q) (c := c) (r := r); rw [h]
@[simp] theorem State.putCompletion_eventsLost (s : State) (q : Nat) (c : Completion) (r : Bool) : (s.putCompletion q c r).eventsLost = s.eventsLost := by
  obtain ⟨_, _, _, h⟩ := State.putCompletion_only (s := s) (q := q) (c := c) (r := r); rw [h]
@[simp] theorem State.putCompletion_lastRead (s : State) (q : Nat) (c : Completion) (r : Bool) : (s.putCompletion q c r).lastRead = s.lastRead := by
  obtain ⟨_, _, _, h⟩ := State.putCompletion_only (s := s) (q := q) (c := c) (r := r); rw [h]
@[simp] theorem State.putCompletion_lastReadBytes (s : State) (q : Nat) (c : Completion) (r : Bool) : (s.putCompletion q c r).lastReadBytes = s.lastReadBytes := by
  obtain ⟨_, _, _, h⟩ := State.putCompletion_only (s := s) (q := q) (c := c) (r := r); rw [h]
@[simp] theorem State.putCompletion_lastReadPoisoned (s : State) (q : Nat) (c : Completion) (r : Bool) : (s.putCompletion q c r).lastReadPoisoned = s.lastReadPoisoned := by
  obtain ⟨_, _, _, h⟩ := State.putCompletion_only (s := s) (q := q) (c := c) (r := r); rw [h]
@[simp] theorem State.putCompletion_streams (s : State) (q : Nat) (c : Completion) (r : Bool) : (s.putCompletion q c r).streams = s.streams := by
  obtain ⟨_, _, _, h⟩ := State.putCompletion_only (s := s) (q := q) (c := c) (r := r); rw [h]
@[simp] theorem State.putCompletion_samples (s : State) (q : Nat) (c : Completion) (r : Bool) : (s.putCompletion q c r).samples = s.samples := by
  obtain ⟨_, _, _, h⟩ := State.putCompletion_only (s := s) (q := q) (c := c) (r := r); rw [h]
@[simp] theorem State.putCompletion_sampleOrder (s : State) (q : Nat) (c : Completion) (r : Bool) : (s.putCompletion q c r).sampleOrder = s.sampleOrder := by
  obtain ⟨_, _, _, h⟩ := State.putCompletion_only (s := s) (q := q) (c := c) (r := r); rw [h]
@[simp] theorem State.putCompletion_casts (s : State) (q : Nat) (c : Completion) (r : Bool) : (s.putCompletion q c r).casts = s.casts := by
  obtain ⟨_, _, _, h⟩ := State.putCompletion_only (s := s) (q := q) (c := c) (r := r); rw [h]
@[simp] theorem State.putCompletion_scripts (s : State) (q : Nat) (c : Completion) (r : Bool) : (s.putCompletion q c r).scripts = s.scripts := by
  obtain ⟨_, _, _, h⟩ := State.putCompletion_only (s := s) (q := q) (c := c) (r := r); rw [h]
@[simp] theorem State.putCompletion_wardrobe (s : State) (q : Nat) (c : Completion) (r : Bool) : (s.putCompletion q c r).wardrobe = s.wardrobe := by
  obtain ⟨_, _, _, h⟩ := State.putCompletion_only (s := s) (q := q) (c := c) (r := r); rw [h]
@[simp] theorem State.putCompletion_house (s : State) (q : Nat) (c : Completion) (r : Bool) : (s.putCompletion q c r).house = s.house := by
  obtain ⟨_, _, _, h⟩ := State.putCompletion_only (s := s) (q := q) (c := c) (r := r); rw [h]
@[simp] theorem State.putCompletion_dram (s : State) (q : Nat) (c : Completion) (r : Bool) : (s.putCompletion q c r).dram = s.dram := by
  obtain ⟨_, _, _, h⟩ := State.putCompletion_only (s := s) (q := q) (c := c) (r := r); rw [h]
@[simp] theorem State.putCompletion_arrays (s : State) (q : Nat) (c : Completion) (r : Bool) : (s.putCompletion q c r).arrays = s.arrays := by
  obtain ⟨_, _, _, h⟩ := State.putCompletion_only (s := s) (q := q) (c := c) (r := r); rw [h]
@[simp] theorem State.putCompletion_vecs (s : State) (q : Nat) (c : Completion) (r : Bool) : (s.putCompletion q c r).vecs = s.vecs := by
  obtain ⟨_, _, _, h⟩ := State.putCompletion_only (s := s) (q := q) (c := c) (r := r); rw [h]
@[simp] theorem State.putCompletion_samps (s : State) (q : Nat) (c : Completion) (r : Bool) : (s.putCompletion q c r).samps = s.samps := by
  obtain ⟨_, _, _, h⟩ := State.putCompletion_only (s := s) (q := q) (c := c) (r := r); rw [h]
@[simp] theorem State.putCompletion_codecs (s : State) (q : Nat) (c : Completion) (r : Bool) : (s.putCompletion q c r).codecs = s.codecs := by
  obtain ⟨_, _, _, h⟩ := State.putCompletion_only (s := s) (q := q) (c := c) (r := r); rw [h]
@[simp] theorem State.putCompletion_ingest (s : State) (q : Nat) (c : Completion) (r : Bool) : (s.putCompletion q c r).ingest = s.ingest := by
  obtain ⟨_, _, _, h⟩ := State.putCompletion_only (s := s) (q := q) (c := c) (r := r); rw [h]
@[simp] theorem State.putCompletion_jpegs (s : State) (q : Nat) (c : Completion) (r : Bool) : (s.putCompletion q c r).jpegs = s.jpegs := by
  obtain ⟨_, _, _, h⟩ := State.putCompletion_only (s := s) (q := q) (c := c) (r := r); rw [h]
@[simp] theorem State.putCompletion_scalers (s : State) (q : Nat) (c : Completion) (r : Bool) : (s.putCompletion q c r).scalers = s.scalers := by
  obtain ⟨_, _, _, h⟩ := State.putCompletion_only (s := s) (q := q) (c := c) (r := r); rw [h]
@[simp] theorem State.putCompletion_scoreboard (s : State) (q : Nat) (c : Completion) (r : Bool) : (s.putCompletion q c r).scoreboard = s.scoreboard := by
  obtain ⟨_, _, _, h⟩ := State.putCompletion_only (s := s) (q := q) (c := c) (r := r); rw [h]
@[simp] theorem State.putCompletion_contexts (s : State) (q : Nat) (c : Completion) (r : Bool) : (s.putCompletion q c r).contexts = s.contexts := by
  obtain ⟨_, _, _, h⟩ := State.putCompletion_only (s := s) (q := q) (c := c) (r := r); rw [h]
@[simp] theorem State.putCompletion_ewl (s : State) (q : Nat) (c : Completion) (r : Bool) : (s.putCompletion q c r).ewl = s.ewl := by
  obtain ⟨_, _, _, h⟩ := State.putCompletion_only (s := s) (q := q) (c := c) (r := r); rw [h]
@[simp] theorem State.putCompletion_sec (s : State) (q : Nat) (c : Completion) (r : Bool) : (s.putCompletion q c r).sec = s.sec := by
  obtain ⟨_, _, _, h⟩ := State.putCompletion_only (s := s) (q := q) (c := c) (r := r); rw [h]
@[simp] theorem State.putCompletion_obs (s : State) (q : Nat) (c : Completion) (r : Bool) : (s.putCompletion q c r).obs = s.obs := by
  obtain ⟨_, _, _, h⟩ := State.putCompletion_only (s := s) (q := q) (c := c) (r := r); rw [h]
@[simp] theorem State.putCompletion_pwr (s : State) (q : Nat) (c : Completion) (r : Bool) : (s.putCompletion q c r).pwr = s.pwr := by
  obtain ⟨_, _, _, h⟩ := State.putCompletion_only (s := s) (q := q) (c := c) (r := r); rw [h]
@[simp] theorem State.putCompletion_mgmt (s : State) (q : Nat) (c : Completion) (r : Bool) : (s.putCompletion q c r).mgmt = s.mgmt := by
  obtain ⟨_, _, _, h⟩ := State.putCompletion_only (s := s) (q := q) (c := c) (r := r); rw [h]
@[simp] theorem State.putCompletion_playbill (s : State) (q : Nat) (c : Completion) (r : Bool) : (s.putCompletion q c r).playbill = s.playbill := by
  obtain ⟨_, _, _, h⟩ := State.putCompletion_only (s := s) (q := q) (c := c) (r := r); rw [h]
@[simp] theorem State.putCompletion_tap (s : State) (q : Nat) (c : Completion) (r : Bool) : (s.putCompletion q c r).tap = s.tap := by
  obtain ⟨_, _, _, h⟩ := State.putCompletion_only (s := s) (q := q) (c := c) (r := r); rw [h]
@[simp] theorem State.putCompletion_cores (s : State) (q : Nat) (c : Completion) (r : Bool) : (s.putCompletion q c r).cores = s.cores := by
  obtain ⟨_, _, _, h⟩ := State.putCompletion_only (s := s) (q := q) (c := c) (r := r); rw [h]
@[simp] theorem State.putCompletion_coreRefetches (s : State) (q : Nat) (c : Completion) (r : Bool) : (s.putCompletion q c r).coreRefetches = s.coreRefetches := by
  obtain ⟨_, _, _, h⟩ := State.putCompletion_only (s := s) (q := q) (c := c) (r := r); rw [h]
@[simp] theorem State.putCompletion_freeCount (s : State) (q : Nat) (c : Completion) (r : Bool) : (s.putCompletion q c r).freeCount = s.freeCount := by
  obtain ⟨_, _, _, h⟩ := State.putCompletion_only (s := s) (q := q) (c := c) (r := r); rw [h]
@[simp] theorem State.putCompletion_pending (s : State) (q : Nat) (c : Completion) (r : Bool) : (s.putCompletion q c r).pending = s.pending := by
  obtain ⟨_, _, _, h⟩ := State.putCompletion_only (s := s) (q := q) (c := c) (r := r); rw [h]

/-- A message put on a port changes ewl and outputs only. -/
theorem State.putMessage_only {s : State} {n : Nat} {m : Msg} {bs : List Byte} :
    ∃ x0 x1, s.putMessage n m bs = { s with ewl := x0, outputs := x1 } := by
  exact ⟨_, _, rfl⟩

@[simp] theorem State.putMessage_time (s : State) (n : Nat) (m : Msg) (bs : List Byte) : (s.putMessage n m bs).time = s.time := by
  obtain ⟨_, _, h⟩ := State.putMessage_only (s := s) (n := n) (m := m) (bs := bs); rw [h]
@[simp] theorem State.putMessage_cue (s : State) (n : Nat) (m : Msg) (bs : List Byte) : (s.putMessage n m bs).cue = s.cue := by
  obtain ⟨_, _, h⟩ := State.putMessage_only (s := s) (n := n) (m := m) (bs := bs); rw [h]
@[simp] theorem State.putMessage_host (s : State) (n : Nat) (m : Msg) (bs : List Byte) : (s.putMessage n m bs).host = s.host := by
  obtain ⟨_, _, h⟩ := State.putMessage_only (s := s) (n := n) (m := m) (bs := bs); rw [h]
@[simp] theorem State.putMessage_rings (s : State) (n : Nat) (m : Msg) (bs : List Byte) : (s.putMessage n m bs).rings = s.rings := by
  obtain ⟨_, _, h⟩ := State.putMessage_only (s := s) (n := n) (m := m) (bs := bs); rw [h]
@[simp] theorem State.putMessage_scanPos (s : State) (n : Nat) (m : Msg) (bs : List Byte) : (s.putMessage n m bs).scanPos = s.scanPos := by
  obtain ⟨_, _, h⟩ := State.putMessage_only (s := s) (n := n) (m := m) (bs := bs); rw [h]
@[simp] theorem State.putMessage_inflight (s : State) (n : Nat) (m : Msg) (bs : List Byte) : (s.putMessage n m bs).inflight = s.inflight := by
  obtain ⟨_, _, h⟩ := State.putMessage_only (s := s) (n := n) (m := m) (bs := bs); rw [h]
@[simp] theorem State.putMessage_nextId (s : State) (n : Nat) (m : Msg) (bs : List Byte) : (s.putMessage n m bs).nextId = s.nextId := by
  obtain ⟨_, _, h⟩ := State.putMessage_only (s := s) (n := n) (m := m) (bs := bs); rw [h]
@[simp] theorem State.putMessage_groupFn (s : State) (n : Nat) (m : Msg) (bs : List Byte) : (s.putMessage n m bs).groupFn = s.groupFn := by
  obtain ⟨_, _, h⟩ := State.putMessage_only (s := s) (n := n) (m := m) (bs := bs); rw [h]
@[simp] theorem State.putMessage_events (s : State) (n : Nat) (m : Msg) (bs : List Byte) : (s.putMessage n m bs).events = s.events := by
  obtain ⟨_, _, h⟩ := State.putMessage_only (s := s) (n := n) (m := m) (bs := bs); rw [h]
@[simp] theorem State.putMessage_eventsLost (s : State) (n : Nat) (m : Msg) (bs : List Byte) : (s.putMessage n m bs).eventsLost = s.eventsLost := by
  obtain ⟨_, _, h⟩ := State.putMessage_only (s := s) (n := n) (m := m) (bs := bs); rw [h]
@[simp] theorem State.putMessage_lastRead (s : State) (n : Nat) (m : Msg) (bs : List Byte) : (s.putMessage n m bs).lastRead = s.lastRead := by
  obtain ⟨_, _, h⟩ := State.putMessage_only (s := s) (n := n) (m := m) (bs := bs); rw [h]
@[simp] theorem State.putMessage_lastReadBytes (s : State) (n : Nat) (m : Msg) (bs : List Byte) : (s.putMessage n m bs).lastReadBytes = s.lastReadBytes := by
  obtain ⟨_, _, h⟩ := State.putMessage_only (s := s) (n := n) (m := m) (bs := bs); rw [h]
@[simp] theorem State.putMessage_lastReadPoisoned (s : State) (n : Nat) (m : Msg) (bs : List Byte) : (s.putMessage n m bs).lastReadPoisoned = s.lastReadPoisoned := by
  obtain ⟨_, _, h⟩ := State.putMessage_only (s := s) (n := n) (m := m) (bs := bs); rw [h]
@[simp] theorem State.putMessage_streams (s : State) (n : Nat) (m : Msg) (bs : List Byte) : (s.putMessage n m bs).streams = s.streams := by
  obtain ⟨_, _, h⟩ := State.putMessage_only (s := s) (n := n) (m := m) (bs := bs); rw [h]
@[simp] theorem State.putMessage_samples (s : State) (n : Nat) (m : Msg) (bs : List Byte) : (s.putMessage n m bs).samples = s.samples := by
  obtain ⟨_, _, h⟩ := State.putMessage_only (s := s) (n := n) (m := m) (bs := bs); rw [h]
@[simp] theorem State.putMessage_sampleOrder (s : State) (n : Nat) (m : Msg) (bs : List Byte) : (s.putMessage n m bs).sampleOrder = s.sampleOrder := by
  obtain ⟨_, _, h⟩ := State.putMessage_only (s := s) (n := n) (m := m) (bs := bs); rw [h]
@[simp] theorem State.putMessage_casts (s : State) (n : Nat) (m : Msg) (bs : List Byte) : (s.putMessage n m bs).casts = s.casts := by
  obtain ⟨_, _, h⟩ := State.putMessage_only (s := s) (n := n) (m := m) (bs := bs); rw [h]
@[simp] theorem State.putMessage_scripts (s : State) (n : Nat) (m : Msg) (bs : List Byte) : (s.putMessage n m bs).scripts = s.scripts := by
  obtain ⟨_, _, h⟩ := State.putMessage_only (s := s) (n := n) (m := m) (bs := bs); rw [h]
@[simp] theorem State.putMessage_wardrobe (s : State) (n : Nat) (m : Msg) (bs : List Byte) : (s.putMessage n m bs).wardrobe = s.wardrobe := by
  obtain ⟨_, _, h⟩ := State.putMessage_only (s := s) (n := n) (m := m) (bs := bs); rw [h]
@[simp] theorem State.putMessage_house (s : State) (n : Nat) (m : Msg) (bs : List Byte) : (s.putMessage n m bs).house = s.house := by
  obtain ⟨_, _, h⟩ := State.putMessage_only (s := s) (n := n) (m := m) (bs := bs); rw [h]
@[simp] theorem State.putMessage_dram (s : State) (n : Nat) (m : Msg) (bs : List Byte) : (s.putMessage n m bs).dram = s.dram := by
  obtain ⟨_, _, h⟩ := State.putMessage_only (s := s) (n := n) (m := m) (bs := bs); rw [h]
@[simp] theorem State.putMessage_arrays (s : State) (n : Nat) (m : Msg) (bs : List Byte) : (s.putMessage n m bs).arrays = s.arrays := by
  obtain ⟨_, _, h⟩ := State.putMessage_only (s := s) (n := n) (m := m) (bs := bs); rw [h]
@[simp] theorem State.putMessage_vecs (s : State) (n : Nat) (m : Msg) (bs : List Byte) : (s.putMessage n m bs).vecs = s.vecs := by
  obtain ⟨_, _, h⟩ := State.putMessage_only (s := s) (n := n) (m := m) (bs := bs); rw [h]
@[simp] theorem State.putMessage_samps (s : State) (n : Nat) (m : Msg) (bs : List Byte) : (s.putMessage n m bs).samps = s.samps := by
  obtain ⟨_, _, h⟩ := State.putMessage_only (s := s) (n := n) (m := m) (bs := bs); rw [h]
@[simp] theorem State.putMessage_codecs (s : State) (n : Nat) (m : Msg) (bs : List Byte) : (s.putMessage n m bs).codecs = s.codecs := by
  obtain ⟨_, _, h⟩ := State.putMessage_only (s := s) (n := n) (m := m) (bs := bs); rw [h]
@[simp] theorem State.putMessage_ingest (s : State) (n : Nat) (m : Msg) (bs : List Byte) : (s.putMessage n m bs).ingest = s.ingest := by
  obtain ⟨_, _, h⟩ := State.putMessage_only (s := s) (n := n) (m := m) (bs := bs); rw [h]
@[simp] theorem State.putMessage_jpegs (s : State) (n : Nat) (m : Msg) (bs : List Byte) : (s.putMessage n m bs).jpegs = s.jpegs := by
  obtain ⟨_, _, h⟩ := State.putMessage_only (s := s) (n := n) (m := m) (bs := bs); rw [h]
@[simp] theorem State.putMessage_scalers (s : State) (n : Nat) (m : Msg) (bs : List Byte) : (s.putMessage n m bs).scalers = s.scalers := by
  obtain ⟨_, _, h⟩ := State.putMessage_only (s := s) (n := n) (m := m) (bs := bs); rw [h]
@[simp] theorem State.putMessage_scoreboard (s : State) (n : Nat) (m : Msg) (bs : List Byte) : (s.putMessage n m bs).scoreboard = s.scoreboard := by
  obtain ⟨_, _, h⟩ := State.putMessage_only (s := s) (n := n) (m := m) (bs := bs); rw [h]
@[simp] theorem State.putMessage_contexts (s : State) (n : Nat) (m : Msg) (bs : List Byte) : (s.putMessage n m bs).contexts = s.contexts := by
  obtain ⟨_, _, h⟩ := State.putMessage_only (s := s) (n := n) (m := m) (bs := bs); rw [h]
@[simp] theorem State.putMessage_sec (s : State) (n : Nat) (m : Msg) (bs : List Byte) : (s.putMessage n m bs).sec = s.sec := by
  obtain ⟨_, _, h⟩ := State.putMessage_only (s := s) (n := n) (m := m) (bs := bs); rw [h]
@[simp] theorem State.putMessage_obs (s : State) (n : Nat) (m : Msg) (bs : List Byte) : (s.putMessage n m bs).obs = s.obs := by
  obtain ⟨_, _, h⟩ := State.putMessage_only (s := s) (n := n) (m := m) (bs := bs); rw [h]
@[simp] theorem State.putMessage_pwr (s : State) (n : Nat) (m : Msg) (bs : List Byte) : (s.putMessage n m bs).pwr = s.pwr := by
  obtain ⟨_, _, h⟩ := State.putMessage_only (s := s) (n := n) (m := m) (bs := bs); rw [h]
@[simp] theorem State.putMessage_mgmt (s : State) (n : Nat) (m : Msg) (bs : List Byte) : (s.putMessage n m bs).mgmt = s.mgmt := by
  obtain ⟨_, _, h⟩ := State.putMessage_only (s := s) (n := n) (m := m) (bs := bs); rw [h]
@[simp] theorem State.putMessage_playbill (s : State) (n : Nat) (m : Msg) (bs : List Byte) : (s.putMessage n m bs).playbill = s.playbill := by
  obtain ⟨_, _, h⟩ := State.putMessage_only (s := s) (n := n) (m := m) (bs := bs); rw [h]
@[simp] theorem State.putMessage_tap (s : State) (n : Nat) (m : Msg) (bs : List Byte) : (s.putMessage n m bs).tap = s.tap := by
  obtain ⟨_, _, h⟩ := State.putMessage_only (s := s) (n := n) (m := m) (bs := bs); rw [h]
@[simp] theorem State.putMessage_cores (s : State) (n : Nat) (m : Msg) (bs : List Byte) : (s.putMessage n m bs).cores = s.cores := by
  obtain ⟨_, _, h⟩ := State.putMessage_only (s := s) (n := n) (m := m) (bs := bs); rw [h]
@[simp] theorem State.putMessage_coreRefetches (s : State) (n : Nat) (m : Msg) (bs : List Byte) : (s.putMessage n m bs).coreRefetches = s.coreRefetches := by
  obtain ⟨_, _, h⟩ := State.putMessage_only (s := s) (n := n) (m := m) (bs := bs); rw [h]
@[simp] theorem State.putMessage_freeCount (s : State) (n : Nat) (m : Msg) (bs : List Byte) : (s.putMessage n m bs).freeCount = s.freeCount := by
  obtain ⟨_, _, h⟩ := State.putMessage_only (s := s) (n := n) (m := m) (bs := bs); rw [h]
@[simp] theorem State.putMessage_pending (s : State) (n : Nat) (m : Msg) (bs : List Byte) : (s.putMessage n m bs).pending = s.pending := by
  obtain ⟨_, _, h⟩ := State.putMessage_only (s := s) (n := n) (m := m) (bs := bs); rw [h]

/-- A message to a member changes ewl and outputs only. -/
theorem State.send_only {s : State} {k d a c b : Nat} {z : Bool} {bs : List Byte} :
    ∃ x0 x1, s.send k d a c b z bs = { s with ewl := x0, outputs := x1 } := by
  unfold State.send; split <;> exact ⟨_, _, rfl⟩

@[simp] theorem State.send_time (s : State) (k d a c b : Nat) (z : Bool) (bs : List Byte) : (s.send k d a c b z bs).time = s.time := by
  obtain ⟨_, _, h⟩ := State.send_only (s := s) (k := k) (d := d) (a := a) (c := c) (b := b) (z := z) (bs := bs); rw [h]
@[simp] theorem State.send_cue (s : State) (k d a c b : Nat) (z : Bool) (bs : List Byte) : (s.send k d a c b z bs).cue = s.cue := by
  obtain ⟨_, _, h⟩ := State.send_only (s := s) (k := k) (d := d) (a := a) (c := c) (b := b) (z := z) (bs := bs); rw [h]
@[simp] theorem State.send_host (s : State) (k d a c b : Nat) (z : Bool) (bs : List Byte) : (s.send k d a c b z bs).host = s.host := by
  obtain ⟨_, _, h⟩ := State.send_only (s := s) (k := k) (d := d) (a := a) (c := c) (b := b) (z := z) (bs := bs); rw [h]
@[simp] theorem State.send_rings (s : State) (k d a c b : Nat) (z : Bool) (bs : List Byte) : (s.send k d a c b z bs).rings = s.rings := by
  obtain ⟨_, _, h⟩ := State.send_only (s := s) (k := k) (d := d) (a := a) (c := c) (b := b) (z := z) (bs := bs); rw [h]
@[simp] theorem State.send_scanPos (s : State) (k d a c b : Nat) (z : Bool) (bs : List Byte) : (s.send k d a c b z bs).scanPos = s.scanPos := by
  obtain ⟨_, _, h⟩ := State.send_only (s := s) (k := k) (d := d) (a := a) (c := c) (b := b) (z := z) (bs := bs); rw [h]
@[simp] theorem State.send_inflight (s : State) (k d a c b : Nat) (z : Bool) (bs : List Byte) : (s.send k d a c b z bs).inflight = s.inflight := by
  obtain ⟨_, _, h⟩ := State.send_only (s := s) (k := k) (d := d) (a := a) (c := c) (b := b) (z := z) (bs := bs); rw [h]
@[simp] theorem State.send_nextId (s : State) (k d a c b : Nat) (z : Bool) (bs : List Byte) : (s.send k d a c b z bs).nextId = s.nextId := by
  obtain ⟨_, _, h⟩ := State.send_only (s := s) (k := k) (d := d) (a := a) (c := c) (b := b) (z := z) (bs := bs); rw [h]
@[simp] theorem State.send_groupFn (s : State) (k d a c b : Nat) (z : Bool) (bs : List Byte) : (s.send k d a c b z bs).groupFn = s.groupFn := by
  obtain ⟨_, _, h⟩ := State.send_only (s := s) (k := k) (d := d) (a := a) (c := c) (b := b) (z := z) (bs := bs); rw [h]
@[simp] theorem State.send_events (s : State) (k d a c b : Nat) (z : Bool) (bs : List Byte) : (s.send k d a c b z bs).events = s.events := by
  obtain ⟨_, _, h⟩ := State.send_only (s := s) (k := k) (d := d) (a := a) (c := c) (b := b) (z := z) (bs := bs); rw [h]
@[simp] theorem State.send_eventsLost (s : State) (k d a c b : Nat) (z : Bool) (bs : List Byte) : (s.send k d a c b z bs).eventsLost = s.eventsLost := by
  obtain ⟨_, _, h⟩ := State.send_only (s := s) (k := k) (d := d) (a := a) (c := c) (b := b) (z := z) (bs := bs); rw [h]
@[simp] theorem State.send_lastRead (s : State) (k d a c b : Nat) (z : Bool) (bs : List Byte) : (s.send k d a c b z bs).lastRead = s.lastRead := by
  obtain ⟨_, _, h⟩ := State.send_only (s := s) (k := k) (d := d) (a := a) (c := c) (b := b) (z := z) (bs := bs); rw [h]
@[simp] theorem State.send_lastReadBytes (s : State) (k d a c b : Nat) (z : Bool) (bs : List Byte) : (s.send k d a c b z bs).lastReadBytes = s.lastReadBytes := by
  obtain ⟨_, _, h⟩ := State.send_only (s := s) (k := k) (d := d) (a := a) (c := c) (b := b) (z := z) (bs := bs); rw [h]
@[simp] theorem State.send_lastReadPoisoned (s : State) (k d a c b : Nat) (z : Bool) (bs : List Byte) : (s.send k d a c b z bs).lastReadPoisoned = s.lastReadPoisoned := by
  obtain ⟨_, _, h⟩ := State.send_only (s := s) (k := k) (d := d) (a := a) (c := c) (b := b) (z := z) (bs := bs); rw [h]
@[simp] theorem State.send_streams (s : State) (k d a c b : Nat) (z : Bool) (bs : List Byte) : (s.send k d a c b z bs).streams = s.streams := by
  obtain ⟨_, _, h⟩ := State.send_only (s := s) (k := k) (d := d) (a := a) (c := c) (b := b) (z := z) (bs := bs); rw [h]
@[simp] theorem State.send_samples (s : State) (k d a c b : Nat) (z : Bool) (bs : List Byte) : (s.send k d a c b z bs).samples = s.samples := by
  obtain ⟨_, _, h⟩ := State.send_only (s := s) (k := k) (d := d) (a := a) (c := c) (b := b) (z := z) (bs := bs); rw [h]
@[simp] theorem State.send_sampleOrder (s : State) (k d a c b : Nat) (z : Bool) (bs : List Byte) : (s.send k d a c b z bs).sampleOrder = s.sampleOrder := by
  obtain ⟨_, _, h⟩ := State.send_only (s := s) (k := k) (d := d) (a := a) (c := c) (b := b) (z := z) (bs := bs); rw [h]
@[simp] theorem State.send_casts (s : State) (k d a c b : Nat) (z : Bool) (bs : List Byte) : (s.send k d a c b z bs).casts = s.casts := by
  obtain ⟨_, _, h⟩ := State.send_only (s := s) (k := k) (d := d) (a := a) (c := c) (b := b) (z := z) (bs := bs); rw [h]
@[simp] theorem State.send_scripts (s : State) (k d a c b : Nat) (z : Bool) (bs : List Byte) : (s.send k d a c b z bs).scripts = s.scripts := by
  obtain ⟨_, _, h⟩ := State.send_only (s := s) (k := k) (d := d) (a := a) (c := c) (b := b) (z := z) (bs := bs); rw [h]
@[simp] theorem State.send_wardrobe (s : State) (k d a c b : Nat) (z : Bool) (bs : List Byte) : (s.send k d a c b z bs).wardrobe = s.wardrobe := by
  obtain ⟨_, _, h⟩ := State.send_only (s := s) (k := k) (d := d) (a := a) (c := c) (b := b) (z := z) (bs := bs); rw [h]
@[simp] theorem State.send_house (s : State) (k d a c b : Nat) (z : Bool) (bs : List Byte) : (s.send k d a c b z bs).house = s.house := by
  obtain ⟨_, _, h⟩ := State.send_only (s := s) (k := k) (d := d) (a := a) (c := c) (b := b) (z := z) (bs := bs); rw [h]
@[simp] theorem State.send_dram (s : State) (k d a c b : Nat) (z : Bool) (bs : List Byte) : (s.send k d a c b z bs).dram = s.dram := by
  obtain ⟨_, _, h⟩ := State.send_only (s := s) (k := k) (d := d) (a := a) (c := c) (b := b) (z := z) (bs := bs); rw [h]
@[simp] theorem State.send_arrays (s : State) (k d a c b : Nat) (z : Bool) (bs : List Byte) : (s.send k d a c b z bs).arrays = s.arrays := by
  obtain ⟨_, _, h⟩ := State.send_only (s := s) (k := k) (d := d) (a := a) (c := c) (b := b) (z := z) (bs := bs); rw [h]
@[simp] theorem State.send_vecs (s : State) (k d a c b : Nat) (z : Bool) (bs : List Byte) : (s.send k d a c b z bs).vecs = s.vecs := by
  obtain ⟨_, _, h⟩ := State.send_only (s := s) (k := k) (d := d) (a := a) (c := c) (b := b) (z := z) (bs := bs); rw [h]
@[simp] theorem State.send_samps (s : State) (k d a c b : Nat) (z : Bool) (bs : List Byte) : (s.send k d a c b z bs).samps = s.samps := by
  obtain ⟨_, _, h⟩ := State.send_only (s := s) (k := k) (d := d) (a := a) (c := c) (b := b) (z := z) (bs := bs); rw [h]
@[simp] theorem State.send_codecs (s : State) (k d a c b : Nat) (z : Bool) (bs : List Byte) : (s.send k d a c b z bs).codecs = s.codecs := by
  obtain ⟨_, _, h⟩ := State.send_only (s := s) (k := k) (d := d) (a := a) (c := c) (b := b) (z := z) (bs := bs); rw [h]
@[simp] theorem State.send_ingest (s : State) (k d a c b : Nat) (z : Bool) (bs : List Byte) : (s.send k d a c b z bs).ingest = s.ingest := by
  obtain ⟨_, _, h⟩ := State.send_only (s := s) (k := k) (d := d) (a := a) (c := c) (b := b) (z := z) (bs := bs); rw [h]
@[simp] theorem State.send_jpegs (s : State) (k d a c b : Nat) (z : Bool) (bs : List Byte) : (s.send k d a c b z bs).jpegs = s.jpegs := by
  obtain ⟨_, _, h⟩ := State.send_only (s := s) (k := k) (d := d) (a := a) (c := c) (b := b) (z := z) (bs := bs); rw [h]
@[simp] theorem State.send_scalers (s : State) (k d a c b : Nat) (z : Bool) (bs : List Byte) : (s.send k d a c b z bs).scalers = s.scalers := by
  obtain ⟨_, _, h⟩ := State.send_only (s := s) (k := k) (d := d) (a := a) (c := c) (b := b) (z := z) (bs := bs); rw [h]
@[simp] theorem State.send_scoreboard (s : State) (k d a c b : Nat) (z : Bool) (bs : List Byte) : (s.send k d a c b z bs).scoreboard = s.scoreboard := by
  obtain ⟨_, _, h⟩ := State.send_only (s := s) (k := k) (d := d) (a := a) (c := c) (b := b) (z := z) (bs := bs); rw [h]
@[simp] theorem State.send_contexts (s : State) (k d a c b : Nat) (z : Bool) (bs : List Byte) : (s.send k d a c b z bs).contexts = s.contexts := by
  obtain ⟨_, _, h⟩ := State.send_only (s := s) (k := k) (d := d) (a := a) (c := c) (b := b) (z := z) (bs := bs); rw [h]
@[simp] theorem State.send_sec (s : State) (k d a c b : Nat) (z : Bool) (bs : List Byte) : (s.send k d a c b z bs).sec = s.sec := by
  obtain ⟨_, _, h⟩ := State.send_only (s := s) (k := k) (d := d) (a := a) (c := c) (b := b) (z := z) (bs := bs); rw [h]
@[simp] theorem State.send_obs (s : State) (k d a c b : Nat) (z : Bool) (bs : List Byte) : (s.send k d a c b z bs).obs = s.obs := by
  obtain ⟨_, _, h⟩ := State.send_only (s := s) (k := k) (d := d) (a := a) (c := c) (b := b) (z := z) (bs := bs); rw [h]
@[simp] theorem State.send_pwr (s : State) (k d a c b : Nat) (z : Bool) (bs : List Byte) : (s.send k d a c b z bs).pwr = s.pwr := by
  obtain ⟨_, _, h⟩ := State.send_only (s := s) (k := k) (d := d) (a := a) (c := c) (b := b) (z := z) (bs := bs); rw [h]
@[simp] theorem State.send_mgmt (s : State) (k d a c b : Nat) (z : Bool) (bs : List Byte) : (s.send k d a c b z bs).mgmt = s.mgmt := by
  obtain ⟨_, _, h⟩ := State.send_only (s := s) (k := k) (d := d) (a := a) (c := c) (b := b) (z := z) (bs := bs); rw [h]
@[simp] theorem State.send_playbill (s : State) (k d a c b : Nat) (z : Bool) (bs : List Byte) : (s.send k d a c b z bs).playbill = s.playbill := by
  obtain ⟨_, _, h⟩ := State.send_only (s := s) (k := k) (d := d) (a := a) (c := c) (b := b) (z := z) (bs := bs); rw [h]
@[simp] theorem State.send_tap (s : State) (k d a c b : Nat) (z : Bool) (bs : List Byte) : (s.send k d a c b z bs).tap = s.tap := by
  obtain ⟨_, _, h⟩ := State.send_only (s := s) (k := k) (d := d) (a := a) (c := c) (b := b) (z := z) (bs := bs); rw [h]
@[simp] theorem State.send_cores (s : State) (k d a c b : Nat) (z : Bool) (bs : List Byte) : (s.send k d a c b z bs).cores = s.cores := by
  obtain ⟨_, _, h⟩ := State.send_only (s := s) (k := k) (d := d) (a := a) (c := c) (b := b) (z := z) (bs := bs); rw [h]
@[simp] theorem State.send_coreRefetches (s : State) (k d a c b : Nat) (z : Bool) (bs : List Byte) : (s.send k d a c b z bs).coreRefetches = s.coreRefetches := by
  obtain ⟨_, _, h⟩ := State.send_only (s := s) (k := k) (d := d) (a := a) (c := c) (b := b) (z := z) (bs := bs); rw [h]
@[simp] theorem State.send_freeCount (s : State) (k d a c b : Nat) (z : Bool) (bs : List Byte) : (s.send k d a c b z bs).freeCount = s.freeCount := by
  obtain ⟨_, _, h⟩ := State.send_only (s := s) (k := k) (d := d) (a := a) (c := c) (b := b) (z := z) (bs := bs); rw [h]
@[simp] theorem State.send_pending (s : State) (k d a c b : Nat) (z : Bool) (bs : List Byte) : (s.send k d a c b z bs).pending = s.pending := by
  obtain ⟨_, _, h⟩ := State.send_only (s := s) (k := k) (d := d) (a := a) (c := c) (b := b) (z := z) (bs := bs); rw [h]

/-- A fold of operations that change the cascade block and the outputs only changes nothing else. -/
theorem foldl_ewl {α : Type} {f : State → α → State}
    (hf : ∀ u a, ∃ e o, f u a = { u with ewl := e, outputs := o }) {l : List α} {s : State} :
    ∃ e o, l.foldl f s = { s with ewl := e, outputs := o } := by
  induction l generalizing s with
  | nil => exact ⟨_, _, rfl⟩
  | cons a l ih =>
    simp only [List.foldl_cons]
    obtain ⟨e, o, h⟩ := hf s a
    rw [h]
    obtain ⟨e', o', h'⟩ := ih (s := { s with ewl := e, outputs := o })
    rw [h']; exact ⟨_, _, rfl⟩

/-- Telling the other members changes the cascade block and the outputs only. -/
theorem tellAll_only {s : State} {k : Nat} {bs : List Byte} :
    ∃ e o, s.tellAll k bs = { s with ewl := e, outputs := o } := by
  unfold State.tellAll
  apply foldl_ewl
  intro u m
  obtain ⟨e, o, h⟩ := State.send_only (s := u) (k := k) (d := m) (a := 0) (c := 0) (b := 0) (z := false) (bs := bs)
  dsimp only
  rw [h]
  split <;> exact ⟨_, _, rfl⟩

/-- A message to every member changes ewl and outputs only. -/
theorem State.tellMembers_only {s : State} {k : Nat} {bs : List Byte} :
    ∃ x0 x1, s.tellMembers k bs = { s with ewl := x0, outputs := x1 } := by
  unfold State.tellMembers
  split
  · exact tellAll_only
  · exact ⟨_, _, rfl⟩

@[simp] theorem State.tellMembers_time (s : State) (k : Nat) (bs : List Byte) : (s.tellMembers k bs).time = s.time := by
  obtain ⟨_, _, h⟩ := State.tellMembers_only (s := s) (k := k) (bs := bs); rw [h]
@[simp] theorem State.tellMembers_cue (s : State) (k : Nat) (bs : List Byte) : (s.tellMembers k bs).cue = s.cue := by
  obtain ⟨_, _, h⟩ := State.tellMembers_only (s := s) (k := k) (bs := bs); rw [h]
@[simp] theorem State.tellMembers_host (s : State) (k : Nat) (bs : List Byte) : (s.tellMembers k bs).host = s.host := by
  obtain ⟨_, _, h⟩ := State.tellMembers_only (s := s) (k := k) (bs := bs); rw [h]
@[simp] theorem State.tellMembers_rings (s : State) (k : Nat) (bs : List Byte) : (s.tellMembers k bs).rings = s.rings := by
  obtain ⟨_, _, h⟩ := State.tellMembers_only (s := s) (k := k) (bs := bs); rw [h]
@[simp] theorem State.tellMembers_scanPos (s : State) (k : Nat) (bs : List Byte) : (s.tellMembers k bs).scanPos = s.scanPos := by
  obtain ⟨_, _, h⟩ := State.tellMembers_only (s := s) (k := k) (bs := bs); rw [h]
@[simp] theorem State.tellMembers_inflight (s : State) (k : Nat) (bs : List Byte) : (s.tellMembers k bs).inflight = s.inflight := by
  obtain ⟨_, _, h⟩ := State.tellMembers_only (s := s) (k := k) (bs := bs); rw [h]
@[simp] theorem State.tellMembers_nextId (s : State) (k : Nat) (bs : List Byte) : (s.tellMembers k bs).nextId = s.nextId := by
  obtain ⟨_, _, h⟩ := State.tellMembers_only (s := s) (k := k) (bs := bs); rw [h]
@[simp] theorem State.tellMembers_groupFn (s : State) (k : Nat) (bs : List Byte) : (s.tellMembers k bs).groupFn = s.groupFn := by
  obtain ⟨_, _, h⟩ := State.tellMembers_only (s := s) (k := k) (bs := bs); rw [h]
@[simp] theorem State.tellMembers_events (s : State) (k : Nat) (bs : List Byte) : (s.tellMembers k bs).events = s.events := by
  obtain ⟨_, _, h⟩ := State.tellMembers_only (s := s) (k := k) (bs := bs); rw [h]
@[simp] theorem State.tellMembers_eventsLost (s : State) (k : Nat) (bs : List Byte) : (s.tellMembers k bs).eventsLost = s.eventsLost := by
  obtain ⟨_, _, h⟩ := State.tellMembers_only (s := s) (k := k) (bs := bs); rw [h]
@[simp] theorem State.tellMembers_lastRead (s : State) (k : Nat) (bs : List Byte) : (s.tellMembers k bs).lastRead = s.lastRead := by
  obtain ⟨_, _, h⟩ := State.tellMembers_only (s := s) (k := k) (bs := bs); rw [h]
@[simp] theorem State.tellMembers_lastReadBytes (s : State) (k : Nat) (bs : List Byte) : (s.tellMembers k bs).lastReadBytes = s.lastReadBytes := by
  obtain ⟨_, _, h⟩ := State.tellMembers_only (s := s) (k := k) (bs := bs); rw [h]
@[simp] theorem State.tellMembers_lastReadPoisoned (s : State) (k : Nat) (bs : List Byte) : (s.tellMembers k bs).lastReadPoisoned = s.lastReadPoisoned := by
  obtain ⟨_, _, h⟩ := State.tellMembers_only (s := s) (k := k) (bs := bs); rw [h]
@[simp] theorem State.tellMembers_streams (s : State) (k : Nat) (bs : List Byte) : (s.tellMembers k bs).streams = s.streams := by
  obtain ⟨_, _, h⟩ := State.tellMembers_only (s := s) (k := k) (bs := bs); rw [h]
@[simp] theorem State.tellMembers_samples (s : State) (k : Nat) (bs : List Byte) : (s.tellMembers k bs).samples = s.samples := by
  obtain ⟨_, _, h⟩ := State.tellMembers_only (s := s) (k := k) (bs := bs); rw [h]
@[simp] theorem State.tellMembers_sampleOrder (s : State) (k : Nat) (bs : List Byte) : (s.tellMembers k bs).sampleOrder = s.sampleOrder := by
  obtain ⟨_, _, h⟩ := State.tellMembers_only (s := s) (k := k) (bs := bs); rw [h]
@[simp] theorem State.tellMembers_casts (s : State) (k : Nat) (bs : List Byte) : (s.tellMembers k bs).casts = s.casts := by
  obtain ⟨_, _, h⟩ := State.tellMembers_only (s := s) (k := k) (bs := bs); rw [h]
@[simp] theorem State.tellMembers_scripts (s : State) (k : Nat) (bs : List Byte) : (s.tellMembers k bs).scripts = s.scripts := by
  obtain ⟨_, _, h⟩ := State.tellMembers_only (s := s) (k := k) (bs := bs); rw [h]
@[simp] theorem State.tellMembers_wardrobe (s : State) (k : Nat) (bs : List Byte) : (s.tellMembers k bs).wardrobe = s.wardrobe := by
  obtain ⟨_, _, h⟩ := State.tellMembers_only (s := s) (k := k) (bs := bs); rw [h]
@[simp] theorem State.tellMembers_house (s : State) (k : Nat) (bs : List Byte) : (s.tellMembers k bs).house = s.house := by
  obtain ⟨_, _, h⟩ := State.tellMembers_only (s := s) (k := k) (bs := bs); rw [h]
@[simp] theorem State.tellMembers_dram (s : State) (k : Nat) (bs : List Byte) : (s.tellMembers k bs).dram = s.dram := by
  obtain ⟨_, _, h⟩ := State.tellMembers_only (s := s) (k := k) (bs := bs); rw [h]
@[simp] theorem State.tellMembers_arrays (s : State) (k : Nat) (bs : List Byte) : (s.tellMembers k bs).arrays = s.arrays := by
  obtain ⟨_, _, h⟩ := State.tellMembers_only (s := s) (k := k) (bs := bs); rw [h]
@[simp] theorem State.tellMembers_vecs (s : State) (k : Nat) (bs : List Byte) : (s.tellMembers k bs).vecs = s.vecs := by
  obtain ⟨_, _, h⟩ := State.tellMembers_only (s := s) (k := k) (bs := bs); rw [h]
@[simp] theorem State.tellMembers_samps (s : State) (k : Nat) (bs : List Byte) : (s.tellMembers k bs).samps = s.samps := by
  obtain ⟨_, _, h⟩ := State.tellMembers_only (s := s) (k := k) (bs := bs); rw [h]
@[simp] theorem State.tellMembers_codecs (s : State) (k : Nat) (bs : List Byte) : (s.tellMembers k bs).codecs = s.codecs := by
  obtain ⟨_, _, h⟩ := State.tellMembers_only (s := s) (k := k) (bs := bs); rw [h]
@[simp] theorem State.tellMembers_ingest (s : State) (k : Nat) (bs : List Byte) : (s.tellMembers k bs).ingest = s.ingest := by
  obtain ⟨_, _, h⟩ := State.tellMembers_only (s := s) (k := k) (bs := bs); rw [h]
@[simp] theorem State.tellMembers_jpegs (s : State) (k : Nat) (bs : List Byte) : (s.tellMembers k bs).jpegs = s.jpegs := by
  obtain ⟨_, _, h⟩ := State.tellMembers_only (s := s) (k := k) (bs := bs); rw [h]
@[simp] theorem State.tellMembers_scalers (s : State) (k : Nat) (bs : List Byte) : (s.tellMembers k bs).scalers = s.scalers := by
  obtain ⟨_, _, h⟩ := State.tellMembers_only (s := s) (k := k) (bs := bs); rw [h]
@[simp] theorem State.tellMembers_scoreboard (s : State) (k : Nat) (bs : List Byte) : (s.tellMembers k bs).scoreboard = s.scoreboard := by
  obtain ⟨_, _, h⟩ := State.tellMembers_only (s := s) (k := k) (bs := bs); rw [h]
@[simp] theorem State.tellMembers_contexts (s : State) (k : Nat) (bs : List Byte) : (s.tellMembers k bs).contexts = s.contexts := by
  obtain ⟨_, _, h⟩ := State.tellMembers_only (s := s) (k := k) (bs := bs); rw [h]
@[simp] theorem State.tellMembers_sec (s : State) (k : Nat) (bs : List Byte) : (s.tellMembers k bs).sec = s.sec := by
  obtain ⟨_, _, h⟩ := State.tellMembers_only (s := s) (k := k) (bs := bs); rw [h]
@[simp] theorem State.tellMembers_obs (s : State) (k : Nat) (bs : List Byte) : (s.tellMembers k bs).obs = s.obs := by
  obtain ⟨_, _, h⟩ := State.tellMembers_only (s := s) (k := k) (bs := bs); rw [h]
@[simp] theorem State.tellMembers_pwr (s : State) (k : Nat) (bs : List Byte) : (s.tellMembers k bs).pwr = s.pwr := by
  obtain ⟨_, _, h⟩ := State.tellMembers_only (s := s) (k := k) (bs := bs); rw [h]
@[simp] theorem State.tellMembers_mgmt (s : State) (k : Nat) (bs : List Byte) : (s.tellMembers k bs).mgmt = s.mgmt := by
  obtain ⟨_, _, h⟩ := State.tellMembers_only (s := s) (k := k) (bs := bs); rw [h]
@[simp] theorem State.tellMembers_playbill (s : State) (k : Nat) (bs : List Byte) : (s.tellMembers k bs).playbill = s.playbill := by
  obtain ⟨_, _, h⟩ := State.tellMembers_only (s := s) (k := k) (bs := bs); rw [h]
@[simp] theorem State.tellMembers_tap (s : State) (k : Nat) (bs : List Byte) : (s.tellMembers k bs).tap = s.tap := by
  obtain ⟨_, _, h⟩ := State.tellMembers_only (s := s) (k := k) (bs := bs); rw [h]
@[simp] theorem State.tellMembers_cores (s : State) (k : Nat) (bs : List Byte) : (s.tellMembers k bs).cores = s.cores := by
  obtain ⟨_, _, h⟩ := State.tellMembers_only (s := s) (k := k) (bs := bs); rw [h]
@[simp] theorem State.tellMembers_coreRefetches (s : State) (k : Nat) (bs : List Byte) : (s.tellMembers k bs).coreRefetches = s.coreRefetches := by
  obtain ⟨_, _, h⟩ := State.tellMembers_only (s := s) (k := k) (bs := bs); rw [h]
@[simp] theorem State.tellMembers_freeCount (s : State) (k : Nat) (bs : List Byte) : (s.tellMembers k bs).freeCount = s.freeCount := by
  obtain ⟨_, _, h⟩ := State.tellMembers_only (s := s) (k := k) (bs := bs); rw [h]
@[simp] theorem State.tellMembers_pending (s : State) (k : Nat) (bs : List Byte) : (s.tellMembers k bs).pending = s.pending := by
  obtain ⟨_, _, h⟩ := State.tellMembers_only (s := s) (k := k) (bs := bs); rw [h]

/-- A mirror record changes ewl and outputs only. -/
theorem State.sendMirror_only {s : State} {c : MirrorContent} {m : Option Nat} {w : Option (Completion × Bool)} :
    ∃ x0 x1, s.sendMirror c m w = { s with ewl := x0, outputs := x1 } := by
  unfold State.sendMirror
  split
  · exact ⟨_, _, rfl⟩
  · obtain ⟨e, o, h⟩ := State.send_only (s := { s with ewl := _ })
      (k := 0x08) (d := _) (a := 0) (c := 0) (b := 0) (z := false) (bs := mirrorBytes c)
    dsimp only; rw [h]; exact ⟨_, _, rfl⟩

@[simp] theorem State.sendMirror_time (s : State) (c : MirrorContent) (m : Option Nat) (w : Option (Completion × Bool)) : (s.sendMirror c m w).time = s.time := by
  obtain ⟨_, _, h⟩ := State.sendMirror_only (s := s) (c := c) (m := m) (w := w); rw [h]
@[simp] theorem State.sendMirror_cue (s : State) (c : MirrorContent) (m : Option Nat) (w : Option (Completion × Bool)) : (s.sendMirror c m w).cue = s.cue := by
  obtain ⟨_, _, h⟩ := State.sendMirror_only (s := s) (c := c) (m := m) (w := w); rw [h]
@[simp] theorem State.sendMirror_host (s : State) (c : MirrorContent) (m : Option Nat) (w : Option (Completion × Bool)) : (s.sendMirror c m w).host = s.host := by
  obtain ⟨_, _, h⟩ := State.sendMirror_only (s := s) (c := c) (m := m) (w := w); rw [h]
@[simp] theorem State.sendMirror_rings (s : State) (c : MirrorContent) (m : Option Nat) (w : Option (Completion × Bool)) : (s.sendMirror c m w).rings = s.rings := by
  obtain ⟨_, _, h⟩ := State.sendMirror_only (s := s) (c := c) (m := m) (w := w); rw [h]
@[simp] theorem State.sendMirror_scanPos (s : State) (c : MirrorContent) (m : Option Nat) (w : Option (Completion × Bool)) : (s.sendMirror c m w).scanPos = s.scanPos := by
  obtain ⟨_, _, h⟩ := State.sendMirror_only (s := s) (c := c) (m := m) (w := w); rw [h]
@[simp] theorem State.sendMirror_inflight (s : State) (c : MirrorContent) (m : Option Nat) (w : Option (Completion × Bool)) : (s.sendMirror c m w).inflight = s.inflight := by
  obtain ⟨_, _, h⟩ := State.sendMirror_only (s := s) (c := c) (m := m) (w := w); rw [h]
@[simp] theorem State.sendMirror_nextId (s : State) (c : MirrorContent) (m : Option Nat) (w : Option (Completion × Bool)) : (s.sendMirror c m w).nextId = s.nextId := by
  obtain ⟨_, _, h⟩ := State.sendMirror_only (s := s) (c := c) (m := m) (w := w); rw [h]
@[simp] theorem State.sendMirror_groupFn (s : State) (c : MirrorContent) (m : Option Nat) (w : Option (Completion × Bool)) : (s.sendMirror c m w).groupFn = s.groupFn := by
  obtain ⟨_, _, h⟩ := State.sendMirror_only (s := s) (c := c) (m := m) (w := w); rw [h]
@[simp] theorem State.sendMirror_events (s : State) (c : MirrorContent) (m : Option Nat) (w : Option (Completion × Bool)) : (s.sendMirror c m w).events = s.events := by
  obtain ⟨_, _, h⟩ := State.sendMirror_only (s := s) (c := c) (m := m) (w := w); rw [h]
@[simp] theorem State.sendMirror_eventsLost (s : State) (c : MirrorContent) (m : Option Nat) (w : Option (Completion × Bool)) : (s.sendMirror c m w).eventsLost = s.eventsLost := by
  obtain ⟨_, _, h⟩ := State.sendMirror_only (s := s) (c := c) (m := m) (w := w); rw [h]
@[simp] theorem State.sendMirror_lastRead (s : State) (c : MirrorContent) (m : Option Nat) (w : Option (Completion × Bool)) : (s.sendMirror c m w).lastRead = s.lastRead := by
  obtain ⟨_, _, h⟩ := State.sendMirror_only (s := s) (c := c) (m := m) (w := w); rw [h]
@[simp] theorem State.sendMirror_lastReadBytes (s : State) (c : MirrorContent) (m : Option Nat) (w : Option (Completion × Bool)) : (s.sendMirror c m w).lastReadBytes = s.lastReadBytes := by
  obtain ⟨_, _, h⟩ := State.sendMirror_only (s := s) (c := c) (m := m) (w := w); rw [h]
@[simp] theorem State.sendMirror_lastReadPoisoned (s : State) (c : MirrorContent) (m : Option Nat) (w : Option (Completion × Bool)) : (s.sendMirror c m w).lastReadPoisoned = s.lastReadPoisoned := by
  obtain ⟨_, _, h⟩ := State.sendMirror_only (s := s) (c := c) (m := m) (w := w); rw [h]
@[simp] theorem State.sendMirror_streams (s : State) (c : MirrorContent) (m : Option Nat) (w : Option (Completion × Bool)) : (s.sendMirror c m w).streams = s.streams := by
  obtain ⟨_, _, h⟩ := State.sendMirror_only (s := s) (c := c) (m := m) (w := w); rw [h]
@[simp] theorem State.sendMirror_samples (s : State) (c : MirrorContent) (m : Option Nat) (w : Option (Completion × Bool)) : (s.sendMirror c m w).samples = s.samples := by
  obtain ⟨_, _, h⟩ := State.sendMirror_only (s := s) (c := c) (m := m) (w := w); rw [h]
@[simp] theorem State.sendMirror_sampleOrder (s : State) (c : MirrorContent) (m : Option Nat) (w : Option (Completion × Bool)) : (s.sendMirror c m w).sampleOrder = s.sampleOrder := by
  obtain ⟨_, _, h⟩ := State.sendMirror_only (s := s) (c := c) (m := m) (w := w); rw [h]
@[simp] theorem State.sendMirror_casts (s : State) (c : MirrorContent) (m : Option Nat) (w : Option (Completion × Bool)) : (s.sendMirror c m w).casts = s.casts := by
  obtain ⟨_, _, h⟩ := State.sendMirror_only (s := s) (c := c) (m := m) (w := w); rw [h]
@[simp] theorem State.sendMirror_scripts (s : State) (c : MirrorContent) (m : Option Nat) (w : Option (Completion × Bool)) : (s.sendMirror c m w).scripts = s.scripts := by
  obtain ⟨_, _, h⟩ := State.sendMirror_only (s := s) (c := c) (m := m) (w := w); rw [h]
@[simp] theorem State.sendMirror_wardrobe (s : State) (c : MirrorContent) (m : Option Nat) (w : Option (Completion × Bool)) : (s.sendMirror c m w).wardrobe = s.wardrobe := by
  obtain ⟨_, _, h⟩ := State.sendMirror_only (s := s) (c := c) (m := m) (w := w); rw [h]
@[simp] theorem State.sendMirror_house (s : State) (c : MirrorContent) (m : Option Nat) (w : Option (Completion × Bool)) : (s.sendMirror c m w).house = s.house := by
  obtain ⟨_, _, h⟩ := State.sendMirror_only (s := s) (c := c) (m := m) (w := w); rw [h]
@[simp] theorem State.sendMirror_dram (s : State) (c : MirrorContent) (m : Option Nat) (w : Option (Completion × Bool)) : (s.sendMirror c m w).dram = s.dram := by
  obtain ⟨_, _, h⟩ := State.sendMirror_only (s := s) (c := c) (m := m) (w := w); rw [h]
@[simp] theorem State.sendMirror_arrays (s : State) (c : MirrorContent) (m : Option Nat) (w : Option (Completion × Bool)) : (s.sendMirror c m w).arrays = s.arrays := by
  obtain ⟨_, _, h⟩ := State.sendMirror_only (s := s) (c := c) (m := m) (w := w); rw [h]
@[simp] theorem State.sendMirror_vecs (s : State) (c : MirrorContent) (m : Option Nat) (w : Option (Completion × Bool)) : (s.sendMirror c m w).vecs = s.vecs := by
  obtain ⟨_, _, h⟩ := State.sendMirror_only (s := s) (c := c) (m := m) (w := w); rw [h]
@[simp] theorem State.sendMirror_samps (s : State) (c : MirrorContent) (m : Option Nat) (w : Option (Completion × Bool)) : (s.sendMirror c m w).samps = s.samps := by
  obtain ⟨_, _, h⟩ := State.sendMirror_only (s := s) (c := c) (m := m) (w := w); rw [h]
@[simp] theorem State.sendMirror_codecs (s : State) (c : MirrorContent) (m : Option Nat) (w : Option (Completion × Bool)) : (s.sendMirror c m w).codecs = s.codecs := by
  obtain ⟨_, _, h⟩ := State.sendMirror_only (s := s) (c := c) (m := m) (w := w); rw [h]
@[simp] theorem State.sendMirror_ingest (s : State) (c : MirrorContent) (m : Option Nat) (w : Option (Completion × Bool)) : (s.sendMirror c m w).ingest = s.ingest := by
  obtain ⟨_, _, h⟩ := State.sendMirror_only (s := s) (c := c) (m := m) (w := w); rw [h]
@[simp] theorem State.sendMirror_jpegs (s : State) (c : MirrorContent) (m : Option Nat) (w : Option (Completion × Bool)) : (s.sendMirror c m w).jpegs = s.jpegs := by
  obtain ⟨_, _, h⟩ := State.sendMirror_only (s := s) (c := c) (m := m) (w := w); rw [h]
@[simp] theorem State.sendMirror_scalers (s : State) (c : MirrorContent) (m : Option Nat) (w : Option (Completion × Bool)) : (s.sendMirror c m w).scalers = s.scalers := by
  obtain ⟨_, _, h⟩ := State.sendMirror_only (s := s) (c := c) (m := m) (w := w); rw [h]
@[simp] theorem State.sendMirror_scoreboard (s : State) (c : MirrorContent) (m : Option Nat) (w : Option (Completion × Bool)) : (s.sendMirror c m w).scoreboard = s.scoreboard := by
  obtain ⟨_, _, h⟩ := State.sendMirror_only (s := s) (c := c) (m := m) (w := w); rw [h]
@[simp] theorem State.sendMirror_contexts (s : State) (c : MirrorContent) (m : Option Nat) (w : Option (Completion × Bool)) : (s.sendMirror c m w).contexts = s.contexts := by
  obtain ⟨_, _, h⟩ := State.sendMirror_only (s := s) (c := c) (m := m) (w := w); rw [h]
@[simp] theorem State.sendMirror_sec (s : State) (c : MirrorContent) (m : Option Nat) (w : Option (Completion × Bool)) : (s.sendMirror c m w).sec = s.sec := by
  obtain ⟨_, _, h⟩ := State.sendMirror_only (s := s) (c := c) (m := m) (w := w); rw [h]
@[simp] theorem State.sendMirror_obs (s : State) (c : MirrorContent) (m : Option Nat) (w : Option (Completion × Bool)) : (s.sendMirror c m w).obs = s.obs := by
  obtain ⟨_, _, h⟩ := State.sendMirror_only (s := s) (c := c) (m := m) (w := w); rw [h]
@[simp] theorem State.sendMirror_pwr (s : State) (c : MirrorContent) (m : Option Nat) (w : Option (Completion × Bool)) : (s.sendMirror c m w).pwr = s.pwr := by
  obtain ⟨_, _, h⟩ := State.sendMirror_only (s := s) (c := c) (m := m) (w := w); rw [h]
@[simp] theorem State.sendMirror_mgmt (s : State) (c : MirrorContent) (m : Option Nat) (w : Option (Completion × Bool)) : (s.sendMirror c m w).mgmt = s.mgmt := by
  obtain ⟨_, _, h⟩ := State.sendMirror_only (s := s) (c := c) (m := m) (w := w); rw [h]
@[simp] theorem State.sendMirror_playbill (s : State) (c : MirrorContent) (m : Option Nat) (w : Option (Completion × Bool)) : (s.sendMirror c m w).playbill = s.playbill := by
  obtain ⟨_, _, h⟩ := State.sendMirror_only (s := s) (c := c) (m := m) (w := w); rw [h]
@[simp] theorem State.sendMirror_tap (s : State) (c : MirrorContent) (m : Option Nat) (w : Option (Completion × Bool)) : (s.sendMirror c m w).tap = s.tap := by
  obtain ⟨_, _, h⟩ := State.sendMirror_only (s := s) (c := c) (m := m) (w := w); rw [h]
@[simp] theorem State.sendMirror_cores (s : State) (c : MirrorContent) (m : Option Nat) (w : Option (Completion × Bool)) : (s.sendMirror c m w).cores = s.cores := by
  obtain ⟨_, _, h⟩ := State.sendMirror_only (s := s) (c := c) (m := m) (w := w); rw [h]
@[simp] theorem State.sendMirror_coreRefetches (s : State) (c : MirrorContent) (m : Option Nat) (w : Option (Completion × Bool)) : (s.sendMirror c m w).coreRefetches = s.coreRefetches := by
  obtain ⟨_, _, h⟩ := State.sendMirror_only (s := s) (c := c) (m := m) (w := w); rw [h]
@[simp] theorem State.sendMirror_freeCount (s : State) (c : MirrorContent) (m : Option Nat) (w : Option (Completion × Bool)) : (s.sendMirror c m w).freeCount = s.freeCount := by
  obtain ⟨_, _, h⟩ := State.sendMirror_only (s := s) (c := c) (m := m) (w := w); rw [h]
@[simp] theorem State.sendMirror_pending (s : State) (c : MirrorContent) (m : Option Nat) (w : Option (Completion × Bool)) : (s.sendMirror c m w).pending = s.pending := by
  obtain ⟨_, _, h⟩ := State.sendMirror_only (s := s) (c := c) (m := m) (w := w); rw [h]

/-- Mirroring what has changed changes ewl and outputs only. -/
theorem State.mirrorChanges_only {s : State} :
    ∃ x0 x1, s.mirrorChanges = { s with ewl := x0, outputs := x1 } := by
  unfold State.mirrorChanges
  split
  · dsimp only
    obtain ⟨e, o, h⟩ := foldl_ewl (f := fun (u : State) (c : MirrorContent) => u.sendMirror c none none)
      (fun u c => State.sendMirror_only) (l := s.mirrorTable.filter fun c => !s.ewl.mirrorSent.contains c) (s := s)
    rw [h]; exact ⟨_, _, rfl⟩
  · exact ⟨_, _, rfl⟩

@[simp] theorem State.mirrorChanges_time (s : State) : (s.mirrorChanges).time = s.time := by
  obtain ⟨_, _, h⟩ := State.mirrorChanges_only (s := s); rw [h]
@[simp] theorem State.mirrorChanges_cue (s : State) : (s.mirrorChanges).cue = s.cue := by
  obtain ⟨_, _, h⟩ := State.mirrorChanges_only (s := s); rw [h]
@[simp] theorem State.mirrorChanges_host (s : State) : (s.mirrorChanges).host = s.host := by
  obtain ⟨_, _, h⟩ := State.mirrorChanges_only (s := s); rw [h]
@[simp] theorem State.mirrorChanges_rings (s : State) : (s.mirrorChanges).rings = s.rings := by
  obtain ⟨_, _, h⟩ := State.mirrorChanges_only (s := s); rw [h]
@[simp] theorem State.mirrorChanges_scanPos (s : State) : (s.mirrorChanges).scanPos = s.scanPos := by
  obtain ⟨_, _, h⟩ := State.mirrorChanges_only (s := s); rw [h]
@[simp] theorem State.mirrorChanges_inflight (s : State) : (s.mirrorChanges).inflight = s.inflight := by
  obtain ⟨_, _, h⟩ := State.mirrorChanges_only (s := s); rw [h]
@[simp] theorem State.mirrorChanges_nextId (s : State) : (s.mirrorChanges).nextId = s.nextId := by
  obtain ⟨_, _, h⟩ := State.mirrorChanges_only (s := s); rw [h]
@[simp] theorem State.mirrorChanges_groupFn (s : State) : (s.mirrorChanges).groupFn = s.groupFn := by
  obtain ⟨_, _, h⟩ := State.mirrorChanges_only (s := s); rw [h]
@[simp] theorem State.mirrorChanges_events (s : State) : (s.mirrorChanges).events = s.events := by
  obtain ⟨_, _, h⟩ := State.mirrorChanges_only (s := s); rw [h]
@[simp] theorem State.mirrorChanges_eventsLost (s : State) : (s.mirrorChanges).eventsLost = s.eventsLost := by
  obtain ⟨_, _, h⟩ := State.mirrorChanges_only (s := s); rw [h]
@[simp] theorem State.mirrorChanges_lastRead (s : State) : (s.mirrorChanges).lastRead = s.lastRead := by
  obtain ⟨_, _, h⟩ := State.mirrorChanges_only (s := s); rw [h]
@[simp] theorem State.mirrorChanges_lastReadBytes (s : State) : (s.mirrorChanges).lastReadBytes = s.lastReadBytes := by
  obtain ⟨_, _, h⟩ := State.mirrorChanges_only (s := s); rw [h]
@[simp] theorem State.mirrorChanges_lastReadPoisoned (s : State) : (s.mirrorChanges).lastReadPoisoned = s.lastReadPoisoned := by
  obtain ⟨_, _, h⟩ := State.mirrorChanges_only (s := s); rw [h]
@[simp] theorem State.mirrorChanges_streams (s : State) : (s.mirrorChanges).streams = s.streams := by
  obtain ⟨_, _, h⟩ := State.mirrorChanges_only (s := s); rw [h]
@[simp] theorem State.mirrorChanges_samples (s : State) : (s.mirrorChanges).samples = s.samples := by
  obtain ⟨_, _, h⟩ := State.mirrorChanges_only (s := s); rw [h]
@[simp] theorem State.mirrorChanges_sampleOrder (s : State) : (s.mirrorChanges).sampleOrder = s.sampleOrder := by
  obtain ⟨_, _, h⟩ := State.mirrorChanges_only (s := s); rw [h]
@[simp] theorem State.mirrorChanges_casts (s : State) : (s.mirrorChanges).casts = s.casts := by
  obtain ⟨_, _, h⟩ := State.mirrorChanges_only (s := s); rw [h]
@[simp] theorem State.mirrorChanges_scripts (s : State) : (s.mirrorChanges).scripts = s.scripts := by
  obtain ⟨_, _, h⟩ := State.mirrorChanges_only (s := s); rw [h]
@[simp] theorem State.mirrorChanges_wardrobe (s : State) : (s.mirrorChanges).wardrobe = s.wardrobe := by
  obtain ⟨_, _, h⟩ := State.mirrorChanges_only (s := s); rw [h]
@[simp] theorem State.mirrorChanges_house (s : State) : (s.mirrorChanges).house = s.house := by
  obtain ⟨_, _, h⟩ := State.mirrorChanges_only (s := s); rw [h]
@[simp] theorem State.mirrorChanges_dram (s : State) : (s.mirrorChanges).dram = s.dram := by
  obtain ⟨_, _, h⟩ := State.mirrorChanges_only (s := s); rw [h]
@[simp] theorem State.mirrorChanges_arrays (s : State) : (s.mirrorChanges).arrays = s.arrays := by
  obtain ⟨_, _, h⟩ := State.mirrorChanges_only (s := s); rw [h]
@[simp] theorem State.mirrorChanges_vecs (s : State) : (s.mirrorChanges).vecs = s.vecs := by
  obtain ⟨_, _, h⟩ := State.mirrorChanges_only (s := s); rw [h]
@[simp] theorem State.mirrorChanges_samps (s : State) : (s.mirrorChanges).samps = s.samps := by
  obtain ⟨_, _, h⟩ := State.mirrorChanges_only (s := s); rw [h]
@[simp] theorem State.mirrorChanges_codecs (s : State) : (s.mirrorChanges).codecs = s.codecs := by
  obtain ⟨_, _, h⟩ := State.mirrorChanges_only (s := s); rw [h]
@[simp] theorem State.mirrorChanges_ingest (s : State) : (s.mirrorChanges).ingest = s.ingest := by
  obtain ⟨_, _, h⟩ := State.mirrorChanges_only (s := s); rw [h]
@[simp] theorem State.mirrorChanges_jpegs (s : State) : (s.mirrorChanges).jpegs = s.jpegs := by
  obtain ⟨_, _, h⟩ := State.mirrorChanges_only (s := s); rw [h]
@[simp] theorem State.mirrorChanges_scalers (s : State) : (s.mirrorChanges).scalers = s.scalers := by
  obtain ⟨_, _, h⟩ := State.mirrorChanges_only (s := s); rw [h]
@[simp] theorem State.mirrorChanges_scoreboard (s : State) : (s.mirrorChanges).scoreboard = s.scoreboard := by
  obtain ⟨_, _, h⟩ := State.mirrorChanges_only (s := s); rw [h]
@[simp] theorem State.mirrorChanges_contexts (s : State) : (s.mirrorChanges).contexts = s.contexts := by
  obtain ⟨_, _, h⟩ := State.mirrorChanges_only (s := s); rw [h]
@[simp] theorem State.mirrorChanges_sec (s : State) : (s.mirrorChanges).sec = s.sec := by
  obtain ⟨_, _, h⟩ := State.mirrorChanges_only (s := s); rw [h]
@[simp] theorem State.mirrorChanges_obs (s : State) : (s.mirrorChanges).obs = s.obs := by
  obtain ⟨_, _, h⟩ := State.mirrorChanges_only (s := s); rw [h]
@[simp] theorem State.mirrorChanges_pwr (s : State) : (s.mirrorChanges).pwr = s.pwr := by
  obtain ⟨_, _, h⟩ := State.mirrorChanges_only (s := s); rw [h]
@[simp] theorem State.mirrorChanges_mgmt (s : State) : (s.mirrorChanges).mgmt = s.mgmt := by
  obtain ⟨_, _, h⟩ := State.mirrorChanges_only (s := s); rw [h]
@[simp] theorem State.mirrorChanges_playbill (s : State) : (s.mirrorChanges).playbill = s.playbill := by
  obtain ⟨_, _, h⟩ := State.mirrorChanges_only (s := s); rw [h]
@[simp] theorem State.mirrorChanges_tap (s : State) : (s.mirrorChanges).tap = s.tap := by
  obtain ⟨_, _, h⟩ := State.mirrorChanges_only (s := s); rw [h]
@[simp] theorem State.mirrorChanges_cores (s : State) : (s.mirrorChanges).cores = s.cores := by
  obtain ⟨_, _, h⟩ := State.mirrorChanges_only (s := s); rw [h]
@[simp] theorem State.mirrorChanges_coreRefetches (s : State) : (s.mirrorChanges).coreRefetches = s.coreRefetches := by
  obtain ⟨_, _, h⟩ := State.mirrorChanges_only (s := s); rw [h]
@[simp] theorem State.mirrorChanges_freeCount (s : State) : (s.mirrorChanges).freeCount = s.freeCount := by
  obtain ⟨_, _, h⟩ := State.mirrorChanges_only (s := s); rw [h]
@[simp] theorem State.mirrorChanges_pending (s : State) : (s.mirrorChanges).pending = s.pending := by
  obtain ⟨_, _, h⟩ := State.mirrorChanges_only (s := s); rw [h]

/-- Completing a command changes rings, outputs, host, ewl and obs only. -/
theorem State.complete_only {s : State} {f : InFlight} {o : Outcome} {r : Nat} :
    ∃ x0 x1 x2 x3 x4, s.complete f o r = { s with rings := x0, outputs := x1, host := x2, ewl := x3, obs := x4 } := by
  have key : ∀ (c : Completion) (raise : Bool), ∃ rs os h e,
      (if f.ring = remoteRing then
        s.send 0x07 s.ewl.manager 0 0 0 false ([2] ++ leBytes 8 f.tag ++ leBytes 1 o.status.code ++ leBytes 3 o.detail ++ leBytes 8 r)
      else if (decide (f.ring ≠ 0) && s.mirrors) = true then
        s.mirrorChanges.sendMirror (.completed f.ring (BitVec.ofNat 256 (leNat c.bytes))) none (some (c, raise))
      else s.putCompletion f.ring c raise) = { s with rings := rs, outputs := os, host := h, ewl := e } := by
    intro c raise
    split
    · obtain ⟨e, os, h⟩ := State.send_only (s := s) (k := 0x07) (d := s.ewl.manager) (a := 0) (c := 0) (b := 0) (z := false)
        (bs := [2] ++ leBytes 8 f.tag ++ leBytes 1 o.status.code ++ leBytes 3 o.detail ++ leBytes 8 r)
      rw [h]; exact ⟨_, _, _, _, rfl⟩
    · split
      · obtain ⟨e, os, h⟩ := State.mirrorChanges_only (s := s)
        rw [h]
        obtain ⟨e', os', h'⟩ := State.sendMirror_only (s := { s with ewl := e, outputs := os })
          (c := .completed f.ring (BitVec.ofNat 256 (leNat c.bytes))) (m := none) (w := some (c, raise))
        rw [h']; exact ⟨_, _, _, _, rfl⟩
      · obtain ⟨rs, os, h, e⟩ := State.putCompletion_only (s := s) (q := f.ring) (c := c) (r := raise)
        rw [e]; exact ⟨_, _, _, _, rfl⟩
  obtain ⟨rs, os, h, e, hk⟩ := key (Completion.mk f.tag o.status (o.detail % 2 ^ 24) s.cueNow (r % 2 ^ 64) f.opcode f.fetch f.ring
    false false) (match aget s.rings f.ring with
    | some r => r.interruptAll || f.interrupt
    | none => false)
  have hc : s.complete f o r = if f.ring = remoteRing then { s with rings := rs, outputs := os, host := h, ewl := e } else
      ({ s with rings := rs, outputs := os, host := h, ewl := e } : State).trace 2 0 f.ring (f.opcode + 65536 * o.status.code) f.tag := by
    rw [← hk]; rfl
  rw [hc]
  split
  · exact ⟨_, _, _, _, _, rfl⟩
  · obtain ⟨ob, ho⟩ := State.trace_only (s := { s with rings := rs, outputs := os, host := h, ewl := e }) (k := 2) (c := 0)
      (u := f.ring) (a := f.opcode + 65536 * o.status.code) (b := f.tag)
    rw [ho]; exact ⟨_, _, _, _, _, rfl⟩

@[simp] theorem State.complete_time (s : State) (f : InFlight) (o : Outcome) (r : Nat) : (s.complete f o r).time = s.time := by
  obtain ⟨_, _, _, _, _, h⟩ := State.complete_only (s := s) (f := f) (o := o) (r := r); rw [h]
@[simp] theorem State.complete_cue (s : State) (f : InFlight) (o : Outcome) (r : Nat) : (s.complete f o r).cue = s.cue := by
  obtain ⟨_, _, _, _, _, h⟩ := State.complete_only (s := s) (f := f) (o := o) (r := r); rw [h]
@[simp] theorem State.complete_scanPos (s : State) (f : InFlight) (o : Outcome) (r : Nat) : (s.complete f o r).scanPos = s.scanPos := by
  obtain ⟨_, _, _, _, _, h⟩ := State.complete_only (s := s) (f := f) (o := o) (r := r); rw [h]
@[simp] theorem State.complete_inflight (s : State) (f : InFlight) (o : Outcome) (r : Nat) : (s.complete f o r).inflight = s.inflight := by
  obtain ⟨_, _, _, _, _, h⟩ := State.complete_only (s := s) (f := f) (o := o) (r := r); rw [h]
@[simp] theorem State.complete_nextId (s : State) (f : InFlight) (o : Outcome) (r : Nat) : (s.complete f o r).nextId = s.nextId := by
  obtain ⟨_, _, _, _, _, h⟩ := State.complete_only (s := s) (f := f) (o := o) (r := r); rw [h]
@[simp] theorem State.complete_groupFn (s : State) (f : InFlight) (o : Outcome) (r : Nat) : (s.complete f o r).groupFn = s.groupFn := by
  obtain ⟨_, _, _, _, _, h⟩ := State.complete_only (s := s) (f := f) (o := o) (r := r); rw [h]
@[simp] theorem State.complete_events (s : State) (f : InFlight) (o : Outcome) (r : Nat) : (s.complete f o r).events = s.events := by
  obtain ⟨_, _, _, _, _, h⟩ := State.complete_only (s := s) (f := f) (o := o) (r := r); rw [h]
@[simp] theorem State.complete_eventsLost (s : State) (f : InFlight) (o : Outcome) (r : Nat) : (s.complete f o r).eventsLost = s.eventsLost := by
  obtain ⟨_, _, _, _, _, h⟩ := State.complete_only (s := s) (f := f) (o := o) (r := r); rw [h]
@[simp] theorem State.complete_lastRead (s : State) (f : InFlight) (o : Outcome) (r : Nat) : (s.complete f o r).lastRead = s.lastRead := by
  obtain ⟨_, _, _, _, _, h⟩ := State.complete_only (s := s) (f := f) (o := o) (r := r); rw [h]
@[simp] theorem State.complete_lastReadBytes (s : State) (f : InFlight) (o : Outcome) (r : Nat) : (s.complete f o r).lastReadBytes = s.lastReadBytes := by
  obtain ⟨_, _, _, _, _, h⟩ := State.complete_only (s := s) (f := f) (o := o) (r := r); rw [h]
@[simp] theorem State.complete_lastReadPoisoned (s : State) (f : InFlight) (o : Outcome) (r : Nat) : (s.complete f o r).lastReadPoisoned = s.lastReadPoisoned := by
  obtain ⟨_, _, _, _, _, h⟩ := State.complete_only (s := s) (f := f) (o := o) (r := r); rw [h]
@[simp] theorem State.complete_streams (s : State) (f : InFlight) (o : Outcome) (r : Nat) : (s.complete f o r).streams = s.streams := by
  obtain ⟨_, _, _, _, _, h⟩ := State.complete_only (s := s) (f := f) (o := o) (r := r); rw [h]
@[simp] theorem State.complete_samples (s : State) (f : InFlight) (o : Outcome) (r : Nat) : (s.complete f o r).samples = s.samples := by
  obtain ⟨_, _, _, _, _, h⟩ := State.complete_only (s := s) (f := f) (o := o) (r := r); rw [h]
@[simp] theorem State.complete_sampleOrder (s : State) (f : InFlight) (o : Outcome) (r : Nat) : (s.complete f o r).sampleOrder = s.sampleOrder := by
  obtain ⟨_, _, _, _, _, h⟩ := State.complete_only (s := s) (f := f) (o := o) (r := r); rw [h]
@[simp] theorem State.complete_casts (s : State) (f : InFlight) (o : Outcome) (r : Nat) : (s.complete f o r).casts = s.casts := by
  obtain ⟨_, _, _, _, _, h⟩ := State.complete_only (s := s) (f := f) (o := o) (r := r); rw [h]
@[simp] theorem State.complete_scripts (s : State) (f : InFlight) (o : Outcome) (r : Nat) : (s.complete f o r).scripts = s.scripts := by
  obtain ⟨_, _, _, _, _, h⟩ := State.complete_only (s := s) (f := f) (o := o) (r := r); rw [h]
@[simp] theorem State.complete_wardrobe (s : State) (f : InFlight) (o : Outcome) (r : Nat) : (s.complete f o r).wardrobe = s.wardrobe := by
  obtain ⟨_, _, _, _, _, h⟩ := State.complete_only (s := s) (f := f) (o := o) (r := r); rw [h]
@[simp] theorem State.complete_house (s : State) (f : InFlight) (o : Outcome) (r : Nat) : (s.complete f o r).house = s.house := by
  obtain ⟨_, _, _, _, _, h⟩ := State.complete_only (s := s) (f := f) (o := o) (r := r); rw [h]
@[simp] theorem State.complete_dram (s : State) (f : InFlight) (o : Outcome) (r : Nat) : (s.complete f o r).dram = s.dram := by
  obtain ⟨_, _, _, _, _, h⟩ := State.complete_only (s := s) (f := f) (o := o) (r := r); rw [h]
@[simp] theorem State.complete_arrays (s : State) (f : InFlight) (o : Outcome) (r : Nat) : (s.complete f o r).arrays = s.arrays := by
  obtain ⟨_, _, _, _, _, h⟩ := State.complete_only (s := s) (f := f) (o := o) (r := r); rw [h]
@[simp] theorem State.complete_vecs (s : State) (f : InFlight) (o : Outcome) (r : Nat) : (s.complete f o r).vecs = s.vecs := by
  obtain ⟨_, _, _, _, _, h⟩ := State.complete_only (s := s) (f := f) (o := o) (r := r); rw [h]
@[simp] theorem State.complete_samps (s : State) (f : InFlight) (o : Outcome) (r : Nat) : (s.complete f o r).samps = s.samps := by
  obtain ⟨_, _, _, _, _, h⟩ := State.complete_only (s := s) (f := f) (o := o) (r := r); rw [h]
@[simp] theorem State.complete_codecs (s : State) (f : InFlight) (o : Outcome) (r : Nat) : (s.complete f o r).codecs = s.codecs := by
  obtain ⟨_, _, _, _, _, h⟩ := State.complete_only (s := s) (f := f) (o := o) (r := r); rw [h]
@[simp] theorem State.complete_ingest (s : State) (f : InFlight) (o : Outcome) (r : Nat) : (s.complete f o r).ingest = s.ingest := by
  obtain ⟨_, _, _, _, _, h⟩ := State.complete_only (s := s) (f := f) (o := o) (r := r); rw [h]
@[simp] theorem State.complete_jpegs (s : State) (f : InFlight) (o : Outcome) (r : Nat) : (s.complete f o r).jpegs = s.jpegs := by
  obtain ⟨_, _, _, _, _, h⟩ := State.complete_only (s := s) (f := f) (o := o) (r := r); rw [h]
@[simp] theorem State.complete_scalers (s : State) (f : InFlight) (o : Outcome) (r : Nat) : (s.complete f o r).scalers = s.scalers := by
  obtain ⟨_, _, _, _, _, h⟩ := State.complete_only (s := s) (f := f) (o := o) (r := r); rw [h]
@[simp] theorem State.complete_scoreboard (s : State) (f : InFlight) (o : Outcome) (r : Nat) : (s.complete f o r).scoreboard = s.scoreboard := by
  obtain ⟨_, _, _, _, _, h⟩ := State.complete_only (s := s) (f := f) (o := o) (r := r); rw [h]
@[simp] theorem State.complete_contexts (s : State) (f : InFlight) (o : Outcome) (r : Nat) : (s.complete f o r).contexts = s.contexts := by
  obtain ⟨_, _, _, _, _, h⟩ := State.complete_only (s := s) (f := f) (o := o) (r := r); rw [h]
@[simp] theorem State.complete_sec (s : State) (f : InFlight) (o : Outcome) (r : Nat) : (s.complete f o r).sec = s.sec := by
  obtain ⟨_, _, _, _, _, h⟩ := State.complete_only (s := s) (f := f) (o := o) (r := r); rw [h]
@[simp] theorem State.complete_pwr (s : State) (f : InFlight) (o : Outcome) (r : Nat) : (s.complete f o r).pwr = s.pwr := by
  obtain ⟨_, _, _, _, _, h⟩ := State.complete_only (s := s) (f := f) (o := o) (r := r); rw [h]
@[simp] theorem State.complete_mgmt (s : State) (f : InFlight) (o : Outcome) (r : Nat) : (s.complete f o r).mgmt = s.mgmt := by
  obtain ⟨_, _, _, _, _, h⟩ := State.complete_only (s := s) (f := f) (o := o) (r := r); rw [h]
@[simp] theorem State.complete_playbill (s : State) (f : InFlight) (o : Outcome) (r : Nat) : (s.complete f o r).playbill = s.playbill := by
  obtain ⟨_, _, _, _, _, h⟩ := State.complete_only (s := s) (f := f) (o := o) (r := r); rw [h]
@[simp] theorem State.complete_tap (s : State) (f : InFlight) (o : Outcome) (r : Nat) : (s.complete f o r).tap = s.tap := by
  obtain ⟨_, _, _, _, _, h⟩ := State.complete_only (s := s) (f := f) (o := o) (r := r); rw [h]
@[simp] theorem State.complete_cores (s : State) (f : InFlight) (o : Outcome) (r : Nat) : (s.complete f o r).cores = s.cores := by
  obtain ⟨_, _, _, _, _, h⟩ := State.complete_only (s := s) (f := f) (o := o) (r := r); rw [h]
@[simp] theorem State.complete_coreRefetches (s : State) (f : InFlight) (o : Outcome) (r : Nat) : (s.complete f o r).coreRefetches = s.coreRefetches := by
  obtain ⟨_, _, _, _, _, h⟩ := State.complete_only (s := s) (f := f) (o := o) (r := r); rw [h]
@[simp] theorem State.complete_freeCount (s : State) (f : InFlight) (o : Outcome) (r : Nat) : (s.complete f o r).freeCount = s.freeCount := by
  obtain ⟨_, _, _, _, _, h⟩ := State.complete_only (s := s) (f := f) (o := o) (r := r); rw [h]
@[simp] theorem State.complete_pending (s : State) (f : InFlight) (o : Outcome) (r : Nat) : (s.complete f o r).pending = s.pending := by
  obtain ⟨_, _, _, _, _, h⟩ := State.complete_only (s := s) (f := f) (o := o) (r := r); rw [h]

/-- Settling the seals that wait changes inflight, rings, outputs, host, ewl and obs only. -/
theorem State.settleSeals_only {s : State} :
    ∃ x0 x1 x2 x3 x4 x5, s.settleSeals = { s with inflight := x0, rings := x1, outputs := x2, host := x3, ewl := x4, obs := x5 } := by
  unfold State.settleSeals
  generalize (s.inflight.filter fun e => s.sealSettled e.2.work) = l
  induction l generalizing s with
  | nil => exact ⟨_, _, _, _, _, _, rfl⟩
  | cons x l ih =>
    simp only [List.foldl_cons]
    obtain ⟨rs, os, h, e, ob, hc⟩ := State.complete_only (s := { s with inflight := adel s.inflight x.1 }) (f := x.2)
      (o := ⟨.done, 0⟩) (r := 0)
    rw [hc]
    obtain ⟨i', rs', os', h', e', ob', hc'⟩ := ih (s := { s with
      inflight := adel s.inflight x.1, rings := rs, outputs := os, host := h, ewl := e, obs := ob })
    rw [hc']; exact ⟨_, _, _, _, _, _, rfl⟩

@[simp] theorem State.settleSeals_time (s : State) : (s.settleSeals).time = s.time := by
  obtain ⟨_, _, _, _, _, _, h⟩ := State.settleSeals_only (s := s); rw [h]
@[simp] theorem State.settleSeals_cue (s : State) : (s.settleSeals).cue = s.cue := by
  obtain ⟨_, _, _, _, _, _, h⟩ := State.settleSeals_only (s := s); rw [h]
@[simp] theorem State.settleSeals_scanPos (s : State) : (s.settleSeals).scanPos = s.scanPos := by
  obtain ⟨_, _, _, _, _, _, h⟩ := State.settleSeals_only (s := s); rw [h]
@[simp] theorem State.settleSeals_nextId (s : State) : (s.settleSeals).nextId = s.nextId := by
  obtain ⟨_, _, _, _, _, _, h⟩ := State.settleSeals_only (s := s); rw [h]
@[simp] theorem State.settleSeals_groupFn (s : State) : (s.settleSeals).groupFn = s.groupFn := by
  obtain ⟨_, _, _, _, _, _, h⟩ := State.settleSeals_only (s := s); rw [h]
@[simp] theorem State.settleSeals_events (s : State) : (s.settleSeals).events = s.events := by
  obtain ⟨_, _, _, _, _, _, h⟩ := State.settleSeals_only (s := s); rw [h]
@[simp] theorem State.settleSeals_eventsLost (s : State) : (s.settleSeals).eventsLost = s.eventsLost := by
  obtain ⟨_, _, _, _, _, _, h⟩ := State.settleSeals_only (s := s); rw [h]
@[simp] theorem State.settleSeals_lastRead (s : State) : (s.settleSeals).lastRead = s.lastRead := by
  obtain ⟨_, _, _, _, _, _, h⟩ := State.settleSeals_only (s := s); rw [h]
@[simp] theorem State.settleSeals_lastReadBytes (s : State) : (s.settleSeals).lastReadBytes = s.lastReadBytes := by
  obtain ⟨_, _, _, _, _, _, h⟩ := State.settleSeals_only (s := s); rw [h]
@[simp] theorem State.settleSeals_lastReadPoisoned (s : State) : (s.settleSeals).lastReadPoisoned = s.lastReadPoisoned := by
  obtain ⟨_, _, _, _, _, _, h⟩ := State.settleSeals_only (s := s); rw [h]
@[simp] theorem State.settleSeals_streams (s : State) : (s.settleSeals).streams = s.streams := by
  obtain ⟨_, _, _, _, _, _, h⟩ := State.settleSeals_only (s := s); rw [h]
@[simp] theorem State.settleSeals_samples (s : State) : (s.settleSeals).samples = s.samples := by
  obtain ⟨_, _, _, _, _, _, h⟩ := State.settleSeals_only (s := s); rw [h]
@[simp] theorem State.settleSeals_sampleOrder (s : State) : (s.settleSeals).sampleOrder = s.sampleOrder := by
  obtain ⟨_, _, _, _, _, _, h⟩ := State.settleSeals_only (s := s); rw [h]
@[simp] theorem State.settleSeals_casts (s : State) : (s.settleSeals).casts = s.casts := by
  obtain ⟨_, _, _, _, _, _, h⟩ := State.settleSeals_only (s := s); rw [h]
@[simp] theorem State.settleSeals_scripts (s : State) : (s.settleSeals).scripts = s.scripts := by
  obtain ⟨_, _, _, _, _, _, h⟩ := State.settleSeals_only (s := s); rw [h]
@[simp] theorem State.settleSeals_wardrobe (s : State) : (s.settleSeals).wardrobe = s.wardrobe := by
  obtain ⟨_, _, _, _, _, _, h⟩ := State.settleSeals_only (s := s); rw [h]
@[simp] theorem State.settleSeals_house (s : State) : (s.settleSeals).house = s.house := by
  obtain ⟨_, _, _, _, _, _, h⟩ := State.settleSeals_only (s := s); rw [h]
@[simp] theorem State.settleSeals_dram (s : State) : (s.settleSeals).dram = s.dram := by
  obtain ⟨_, _, _, _, _, _, h⟩ := State.settleSeals_only (s := s); rw [h]
@[simp] theorem State.settleSeals_arrays (s : State) : (s.settleSeals).arrays = s.arrays := by
  obtain ⟨_, _, _, _, _, _, h⟩ := State.settleSeals_only (s := s); rw [h]
@[simp] theorem State.settleSeals_vecs (s : State) : (s.settleSeals).vecs = s.vecs := by
  obtain ⟨_, _, _, _, _, _, h⟩ := State.settleSeals_only (s := s); rw [h]
@[simp] theorem State.settleSeals_samps (s : State) : (s.settleSeals).samps = s.samps := by
  obtain ⟨_, _, _, _, _, _, h⟩ := State.settleSeals_only (s := s); rw [h]
@[simp] theorem State.settleSeals_codecs (s : State) : (s.settleSeals).codecs = s.codecs := by
  obtain ⟨_, _, _, _, _, _, h⟩ := State.settleSeals_only (s := s); rw [h]
@[simp] theorem State.settleSeals_ingest (s : State) : (s.settleSeals).ingest = s.ingest := by
  obtain ⟨_, _, _, _, _, _, h⟩ := State.settleSeals_only (s := s); rw [h]
@[simp] theorem State.settleSeals_jpegs (s : State) : (s.settleSeals).jpegs = s.jpegs := by
  obtain ⟨_, _, _, _, _, _, h⟩ := State.settleSeals_only (s := s); rw [h]
@[simp] theorem State.settleSeals_scalers (s : State) : (s.settleSeals).scalers = s.scalers := by
  obtain ⟨_, _, _, _, _, _, h⟩ := State.settleSeals_only (s := s); rw [h]
@[simp] theorem State.settleSeals_scoreboard (s : State) : (s.settleSeals).scoreboard = s.scoreboard := by
  obtain ⟨_, _, _, _, _, _, h⟩ := State.settleSeals_only (s := s); rw [h]
@[simp] theorem State.settleSeals_contexts (s : State) : (s.settleSeals).contexts = s.contexts := by
  obtain ⟨_, _, _, _, _, _, h⟩ := State.settleSeals_only (s := s); rw [h]
@[simp] theorem State.settleSeals_sec (s : State) : (s.settleSeals).sec = s.sec := by
  obtain ⟨_, _, _, _, _, _, h⟩ := State.settleSeals_only (s := s); rw [h]
@[simp] theorem State.settleSeals_pwr (s : State) : (s.settleSeals).pwr = s.pwr := by
  obtain ⟨_, _, _, _, _, _, h⟩ := State.settleSeals_only (s := s); rw [h]
@[simp] theorem State.settleSeals_mgmt (s : State) : (s.settleSeals).mgmt = s.mgmt := by
  obtain ⟨_, _, _, _, _, _, h⟩ := State.settleSeals_only (s := s); rw [h]
@[simp] theorem State.settleSeals_playbill (s : State) : (s.settleSeals).playbill = s.playbill := by
  obtain ⟨_, _, _, _, _, _, h⟩ := State.settleSeals_only (s := s); rw [h]
@[simp] theorem State.settleSeals_tap (s : State) : (s.settleSeals).tap = s.tap := by
  obtain ⟨_, _, _, _, _, _, h⟩ := State.settleSeals_only (s := s); rw [h]
@[simp] theorem State.settleSeals_cores (s : State) : (s.settleSeals).cores = s.cores := by
  obtain ⟨_, _, _, _, _, _, h⟩ := State.settleSeals_only (s := s); rw [h]
@[simp] theorem State.settleSeals_coreRefetches (s : State) : (s.settleSeals).coreRefetches = s.coreRefetches := by
  obtain ⟨_, _, _, _, _, _, h⟩ := State.settleSeals_only (s := s); rw [h]
@[simp] theorem State.settleSeals_freeCount (s : State) : (s.settleSeals).freeCount = s.freeCount := by
  obtain ⟨_, _, _, _, _, _, h⟩ := State.settleSeals_only (s := s); rw [h]
@[simp] theorem State.settleSeals_pending (s : State) : (s.settleSeals).pending = s.pending := by
  obtain ⟨_, _, _, _, _, _, h⟩ := State.settleSeals_only (s := s); rw [h]

/-- Writing held events changes the rings, the outputs, the host block and the events only. -/
theorem writeHeld_only {l : List Event} {s : State} :
    ∃ rs os h ev, writeHeld l s = { s with rings := rs, outputs := os, host := h, events := ev } := by
  induction l generalizing s with
  | nil => exact ⟨_, _, _, _, rfl⟩
  | cons e l ih =>
    unfold writeHeld
    split
    · obtain ⟨rs, os, h, k⟩ := State.putCompletion_only (s := s) (q := 0)
        (c := Completion.mk 0 e.status (e.detail % 2 ^ 24) e.cue (e.result % 2 ^ 64) e.code 0 0 true false) (r := true)
      unfold State.putEvent
      rw [k]
      obtain ⟨rs', os', h', ev', k'⟩ := ih (s := { s with rings := rs, outputs := os, host := h })
      rw [k']; exact ⟨_, _, _, _, rfl⟩
    · exact ⟨_, _, _, _, rfl⟩

/-- Writing the held events changes rings, outputs, host, events and eventsLost only. -/
theorem State.flushEvents_only {s : State} :
    ∃ x0 x1 x2 x3 x4, s.flushEvents = { s with rings := x0, outputs := x1, host := x2, events := x3, eventsLost := x4 } := by
  unfold State.flushEvents
  have key : ∃ rs os h ev el, (if (decide (s.eventsLost ≠ 0) && s.eventSlot) = true then
      ({ s with eventsLost := 0 }).putEvent (Event.mk 0x0009 .done 0 s.eventsLost s.cueNow) else s)
      = { s with rings := rs, outputs := os, host := h, events := ev, eventsLost := el } := by
    split
    · obtain ⟨rs, os, h, e⟩ := State.putCompletion_only (s := { s with eventsLost := 0 }) (q := 0)
        (c := Completion.mk 0 .done (0 % 2 ^ 24) s.cueNow (s.eventsLost % 2 ^ 64) 0x0009 0 0 true false) (r := true)
      unfold State.putEvent
      rw [e]; exact ⟨_, _, _, _, _, rfl⟩
    · exact ⟨_, _, _, _, _, rfl⟩
  obtain ⟨rs, os, h, ev, el, hk⟩ := key
  dsimp only
  rw [hk]
  split
  · exact ⟨_, _, _, _, _, rfl⟩
  · obtain ⟨rs', os', h', ev', e⟩ := writeHeld_only (s := { s with
      rings := rs, outputs := os, host := h, events := ev, eventsLost := el }) (l := ev)
    rw [e]; exact ⟨_, _, _, _, _, rfl⟩

@[simp] theorem State.flushEvents_time (s : State) : (s.flushEvents).time = s.time := by
  obtain ⟨_, _, _, _, _, h⟩ := State.flushEvents_only (s := s); rw [h]
@[simp] theorem State.flushEvents_cue (s : State) : (s.flushEvents).cue = s.cue := by
  obtain ⟨_, _, _, _, _, h⟩ := State.flushEvents_only (s := s); rw [h]
@[simp] theorem State.flushEvents_scanPos (s : State) : (s.flushEvents).scanPos = s.scanPos := by
  obtain ⟨_, _, _, _, _, h⟩ := State.flushEvents_only (s := s); rw [h]
@[simp] theorem State.flushEvents_inflight (s : State) : (s.flushEvents).inflight = s.inflight := by
  obtain ⟨_, _, _, _, _, h⟩ := State.flushEvents_only (s := s); rw [h]
@[simp] theorem State.flushEvents_nextId (s : State) : (s.flushEvents).nextId = s.nextId := by
  obtain ⟨_, _, _, _, _, h⟩ := State.flushEvents_only (s := s); rw [h]
@[simp] theorem State.flushEvents_groupFn (s : State) : (s.flushEvents).groupFn = s.groupFn := by
  obtain ⟨_, _, _, _, _, h⟩ := State.flushEvents_only (s := s); rw [h]
@[simp] theorem State.flushEvents_lastRead (s : State) : (s.flushEvents).lastRead = s.lastRead := by
  obtain ⟨_, _, _, _, _, h⟩ := State.flushEvents_only (s := s); rw [h]
@[simp] theorem State.flushEvents_lastReadBytes (s : State) : (s.flushEvents).lastReadBytes = s.lastReadBytes := by
  obtain ⟨_, _, _, _, _, h⟩ := State.flushEvents_only (s := s); rw [h]
@[simp] theorem State.flushEvents_lastReadPoisoned (s : State) : (s.flushEvents).lastReadPoisoned = s.lastReadPoisoned := by
  obtain ⟨_, _, _, _, _, h⟩ := State.flushEvents_only (s := s); rw [h]
@[simp] theorem State.flushEvents_streams (s : State) : (s.flushEvents).streams = s.streams := by
  obtain ⟨_, _, _, _, _, h⟩ := State.flushEvents_only (s := s); rw [h]
@[simp] theorem State.flushEvents_samples (s : State) : (s.flushEvents).samples = s.samples := by
  obtain ⟨_, _, _, _, _, h⟩ := State.flushEvents_only (s := s); rw [h]
@[simp] theorem State.flushEvents_sampleOrder (s : State) : (s.flushEvents).sampleOrder = s.sampleOrder := by
  obtain ⟨_, _, _, _, _, h⟩ := State.flushEvents_only (s := s); rw [h]
@[simp] theorem State.flushEvents_casts (s : State) : (s.flushEvents).casts = s.casts := by
  obtain ⟨_, _, _, _, _, h⟩ := State.flushEvents_only (s := s); rw [h]
@[simp] theorem State.flushEvents_scripts (s : State) : (s.flushEvents).scripts = s.scripts := by
  obtain ⟨_, _, _, _, _, h⟩ := State.flushEvents_only (s := s); rw [h]
@[simp] theorem State.flushEvents_wardrobe (s : State) : (s.flushEvents).wardrobe = s.wardrobe := by
  obtain ⟨_, _, _, _, _, h⟩ := State.flushEvents_only (s := s); rw [h]
@[simp] theorem State.flushEvents_house (s : State) : (s.flushEvents).house = s.house := by
  obtain ⟨_, _, _, _, _, h⟩ := State.flushEvents_only (s := s); rw [h]
@[simp] theorem State.flushEvents_dram (s : State) : (s.flushEvents).dram = s.dram := by
  obtain ⟨_, _, _, _, _, h⟩ := State.flushEvents_only (s := s); rw [h]
@[simp] theorem State.flushEvents_arrays (s : State) : (s.flushEvents).arrays = s.arrays := by
  obtain ⟨_, _, _, _, _, h⟩ := State.flushEvents_only (s := s); rw [h]
@[simp] theorem State.flushEvents_vecs (s : State) : (s.flushEvents).vecs = s.vecs := by
  obtain ⟨_, _, _, _, _, h⟩ := State.flushEvents_only (s := s); rw [h]
@[simp] theorem State.flushEvents_samps (s : State) : (s.flushEvents).samps = s.samps := by
  obtain ⟨_, _, _, _, _, h⟩ := State.flushEvents_only (s := s); rw [h]
@[simp] theorem State.flushEvents_codecs (s : State) : (s.flushEvents).codecs = s.codecs := by
  obtain ⟨_, _, _, _, _, h⟩ := State.flushEvents_only (s := s); rw [h]
@[simp] theorem State.flushEvents_ingest (s : State) : (s.flushEvents).ingest = s.ingest := by
  obtain ⟨_, _, _, _, _, h⟩ := State.flushEvents_only (s := s); rw [h]
@[simp] theorem State.flushEvents_jpegs (s : State) : (s.flushEvents).jpegs = s.jpegs := by
  obtain ⟨_, _, _, _, _, h⟩ := State.flushEvents_only (s := s); rw [h]
@[simp] theorem State.flushEvents_scalers (s : State) : (s.flushEvents).scalers = s.scalers := by
  obtain ⟨_, _, _, _, _, h⟩ := State.flushEvents_only (s := s); rw [h]
@[simp] theorem State.flushEvents_scoreboard (s : State) : (s.flushEvents).scoreboard = s.scoreboard := by
  obtain ⟨_, _, _, _, _, h⟩ := State.flushEvents_only (s := s); rw [h]
@[simp] theorem State.flushEvents_contexts (s : State) : (s.flushEvents).contexts = s.contexts := by
  obtain ⟨_, _, _, _, _, h⟩ := State.flushEvents_only (s := s); rw [h]
@[simp] theorem State.flushEvents_ewl (s : State) : (s.flushEvents).ewl = s.ewl := by
  obtain ⟨_, _, _, _, _, h⟩ := State.flushEvents_only (s := s); rw [h]
@[simp] theorem State.flushEvents_sec (s : State) : (s.flushEvents).sec = s.sec := by
  obtain ⟨_, _, _, _, _, h⟩ := State.flushEvents_only (s := s); rw [h]
@[simp] theorem State.flushEvents_obs (s : State) : (s.flushEvents).obs = s.obs := by
  obtain ⟨_, _, _, _, _, h⟩ := State.flushEvents_only (s := s); rw [h]
@[simp] theorem State.flushEvents_pwr (s : State) : (s.flushEvents).pwr = s.pwr := by
  obtain ⟨_, _, _, _, _, h⟩ := State.flushEvents_only (s := s); rw [h]
@[simp] theorem State.flushEvents_mgmt (s : State) : (s.flushEvents).mgmt = s.mgmt := by
  obtain ⟨_, _, _, _, _, h⟩ := State.flushEvents_only (s := s); rw [h]
@[simp] theorem State.flushEvents_playbill (s : State) : (s.flushEvents).playbill = s.playbill := by
  obtain ⟨_, _, _, _, _, h⟩ := State.flushEvents_only (s := s); rw [h]
@[simp] theorem State.flushEvents_tap (s : State) : (s.flushEvents).tap = s.tap := by
  obtain ⟨_, _, _, _, _, h⟩ := State.flushEvents_only (s := s); rw [h]
@[simp] theorem State.flushEvents_cores (s : State) : (s.flushEvents).cores = s.cores := by
  obtain ⟨_, _, _, _, _, h⟩ := State.flushEvents_only (s := s); rw [h]
@[simp] theorem State.flushEvents_coreRefetches (s : State) : (s.flushEvents).coreRefetches = s.coreRefetches := by
  obtain ⟨_, _, _, _, _, h⟩ := State.flushEvents_only (s := s); rw [h]
@[simp] theorem State.flushEvents_freeCount (s : State) : (s.flushEvents).freeCount = s.freeCount := by
  obtain ⟨_, _, _, _, _, h⟩ := State.flushEvents_only (s := s); rw [h]
@[simp] theorem State.flushEvents_pending (s : State) : (s.flushEvents).pending = s.pending := by
  obtain ⟨_, _, _, _, _, h⟩ := State.flushEvents_only (s := s); rw [h]

/-- A due reset of Q0 changes rings, outputs, host, events and eventsLost only. -/
theorem State.settleAdminReset_only {s : State} :
    ∃ x0 x1 x2 x3 x4, s.settleAdminReset = { s with rings := x0, outputs := x1, host := x2, events := x3, eventsLost := x4 } := by
  unfold State.settleAdminReset
  split
  · obtain ⟨rs, os, h, ev, el, e⟩ := State.flushEvents_only
      (s := ({ s with host := { s.host with adminResetDue := false } }).modRing 0 Ring.restart)
    rw [e]; exact ⟨_, _, _, _, _, rfl⟩
  · exact ⟨_, _, _, _, _, rfl⟩

@[simp] theorem State.settleAdminReset_time (s : State) : (s.settleAdminReset).time = s.time := by
  obtain ⟨_, _, _, _, _, h⟩ := State.settleAdminReset_only (s := s); rw [h]
@[simp] theorem State.settleAdminReset_cue (s : State) : (s.settleAdminReset).cue = s.cue := by
  obtain ⟨_, _, _, _, _, h⟩ := State.settleAdminReset_only (s := s); rw [h]
@[simp] theorem State.settleAdminReset_scanPos (s : State) : (s.settleAdminReset).scanPos = s.scanPos := by
  obtain ⟨_, _, _, _, _, h⟩ := State.settleAdminReset_only (s := s); rw [h]
@[simp] theorem State.settleAdminReset_inflight (s : State) : (s.settleAdminReset).inflight = s.inflight := by
  obtain ⟨_, _, _, _, _, h⟩ := State.settleAdminReset_only (s := s); rw [h]
@[simp] theorem State.settleAdminReset_nextId (s : State) : (s.settleAdminReset).nextId = s.nextId := by
  obtain ⟨_, _, _, _, _, h⟩ := State.settleAdminReset_only (s := s); rw [h]
@[simp] theorem State.settleAdminReset_groupFn (s : State) : (s.settleAdminReset).groupFn = s.groupFn := by
  obtain ⟨_, _, _, _, _, h⟩ := State.settleAdminReset_only (s := s); rw [h]
@[simp] theorem State.settleAdminReset_lastRead (s : State) : (s.settleAdminReset).lastRead = s.lastRead := by
  obtain ⟨_, _, _, _, _, h⟩ := State.settleAdminReset_only (s := s); rw [h]
@[simp] theorem State.settleAdminReset_lastReadBytes (s : State) : (s.settleAdminReset).lastReadBytes = s.lastReadBytes := by
  obtain ⟨_, _, _, _, _, h⟩ := State.settleAdminReset_only (s := s); rw [h]
@[simp] theorem State.settleAdminReset_lastReadPoisoned (s : State) : (s.settleAdminReset).lastReadPoisoned = s.lastReadPoisoned := by
  obtain ⟨_, _, _, _, _, h⟩ := State.settleAdminReset_only (s := s); rw [h]
@[simp] theorem State.settleAdminReset_streams (s : State) : (s.settleAdminReset).streams = s.streams := by
  obtain ⟨_, _, _, _, _, h⟩ := State.settleAdminReset_only (s := s); rw [h]
@[simp] theorem State.settleAdminReset_samples (s : State) : (s.settleAdminReset).samples = s.samples := by
  obtain ⟨_, _, _, _, _, h⟩ := State.settleAdminReset_only (s := s); rw [h]
@[simp] theorem State.settleAdminReset_sampleOrder (s : State) : (s.settleAdminReset).sampleOrder = s.sampleOrder := by
  obtain ⟨_, _, _, _, _, h⟩ := State.settleAdminReset_only (s := s); rw [h]
@[simp] theorem State.settleAdminReset_casts (s : State) : (s.settleAdminReset).casts = s.casts := by
  obtain ⟨_, _, _, _, _, h⟩ := State.settleAdminReset_only (s := s); rw [h]
@[simp] theorem State.settleAdminReset_scripts (s : State) : (s.settleAdminReset).scripts = s.scripts := by
  obtain ⟨_, _, _, _, _, h⟩ := State.settleAdminReset_only (s := s); rw [h]
@[simp] theorem State.settleAdminReset_wardrobe (s : State) : (s.settleAdminReset).wardrobe = s.wardrobe := by
  obtain ⟨_, _, _, _, _, h⟩ := State.settleAdminReset_only (s := s); rw [h]
@[simp] theorem State.settleAdminReset_house (s : State) : (s.settleAdminReset).house = s.house := by
  obtain ⟨_, _, _, _, _, h⟩ := State.settleAdminReset_only (s := s); rw [h]
@[simp] theorem State.settleAdminReset_dram (s : State) : (s.settleAdminReset).dram = s.dram := by
  obtain ⟨_, _, _, _, _, h⟩ := State.settleAdminReset_only (s := s); rw [h]
@[simp] theorem State.settleAdminReset_arrays (s : State) : (s.settleAdminReset).arrays = s.arrays := by
  obtain ⟨_, _, _, _, _, h⟩ := State.settleAdminReset_only (s := s); rw [h]
@[simp] theorem State.settleAdminReset_vecs (s : State) : (s.settleAdminReset).vecs = s.vecs := by
  obtain ⟨_, _, _, _, _, h⟩ := State.settleAdminReset_only (s := s); rw [h]
@[simp] theorem State.settleAdminReset_samps (s : State) : (s.settleAdminReset).samps = s.samps := by
  obtain ⟨_, _, _, _, _, h⟩ := State.settleAdminReset_only (s := s); rw [h]
@[simp] theorem State.settleAdminReset_codecs (s : State) : (s.settleAdminReset).codecs = s.codecs := by
  obtain ⟨_, _, _, _, _, h⟩ := State.settleAdminReset_only (s := s); rw [h]
@[simp] theorem State.settleAdminReset_ingest (s : State) : (s.settleAdminReset).ingest = s.ingest := by
  obtain ⟨_, _, _, _, _, h⟩ := State.settleAdminReset_only (s := s); rw [h]
@[simp] theorem State.settleAdminReset_jpegs (s : State) : (s.settleAdminReset).jpegs = s.jpegs := by
  obtain ⟨_, _, _, _, _, h⟩ := State.settleAdminReset_only (s := s); rw [h]
@[simp] theorem State.settleAdminReset_scalers (s : State) : (s.settleAdminReset).scalers = s.scalers := by
  obtain ⟨_, _, _, _, _, h⟩ := State.settleAdminReset_only (s := s); rw [h]
@[simp] theorem State.settleAdminReset_scoreboard (s : State) : (s.settleAdminReset).scoreboard = s.scoreboard := by
  obtain ⟨_, _, _, _, _, h⟩ := State.settleAdminReset_only (s := s); rw [h]
@[simp] theorem State.settleAdminReset_contexts (s : State) : (s.settleAdminReset).contexts = s.contexts := by
  obtain ⟨_, _, _, _, _, h⟩ := State.settleAdminReset_only (s := s); rw [h]
@[simp] theorem State.settleAdminReset_ewl (s : State) : (s.settleAdminReset).ewl = s.ewl := by
  obtain ⟨_, _, _, _, _, h⟩ := State.settleAdminReset_only (s := s); rw [h]
@[simp] theorem State.settleAdminReset_sec (s : State) : (s.settleAdminReset).sec = s.sec := by
  obtain ⟨_, _, _, _, _, h⟩ := State.settleAdminReset_only (s := s); rw [h]
@[simp] theorem State.settleAdminReset_obs (s : State) : (s.settleAdminReset).obs = s.obs := by
  obtain ⟨_, _, _, _, _, h⟩ := State.settleAdminReset_only (s := s); rw [h]
@[simp] theorem State.settleAdminReset_pwr (s : State) : (s.settleAdminReset).pwr = s.pwr := by
  obtain ⟨_, _, _, _, _, h⟩ := State.settleAdminReset_only (s := s); rw [h]
@[simp] theorem State.settleAdminReset_mgmt (s : State) : (s.settleAdminReset).mgmt = s.mgmt := by
  obtain ⟨_, _, _, _, _, h⟩ := State.settleAdminReset_only (s := s); rw [h]
@[simp] theorem State.settleAdminReset_playbill (s : State) : (s.settleAdminReset).playbill = s.playbill := by
  obtain ⟨_, _, _, _, _, h⟩ := State.settleAdminReset_only (s := s); rw [h]
@[simp] theorem State.settleAdminReset_tap (s : State) : (s.settleAdminReset).tap = s.tap := by
  obtain ⟨_, _, _, _, _, h⟩ := State.settleAdminReset_only (s := s); rw [h]
@[simp] theorem State.settleAdminReset_cores (s : State) : (s.settleAdminReset).cores = s.cores := by
  obtain ⟨_, _, _, _, _, h⟩ := State.settleAdminReset_only (s := s); rw [h]
@[simp] theorem State.settleAdminReset_coreRefetches (s : State) : (s.settleAdminReset).coreRefetches = s.coreRefetches := by
  obtain ⟨_, _, _, _, _, h⟩ := State.settleAdminReset_only (s := s); rw [h]
@[simp] theorem State.settleAdminReset_freeCount (s : State) : (s.settleAdminReset).freeCount = s.freeCount := by
  obtain ⟨_, _, _, _, _, h⟩ := State.settleAdminReset_only (s := s); rw [h]
@[simp] theorem State.settleAdminReset_pending (s : State) : (s.settleAdminReset).pending = s.pending := by
  obtain ⟨_, _, _, _, _, h⟩ := State.settleAdminReset_only (s := s); rw [h]

/-- Completing a command in flight changes inflight, rings, outputs, host, ewl, obs, events and eventsLost only. -/
theorem State.finish_only {s : State} {i : Nat} {o : Outcome} {r : Nat} :
    ∃ x0 x1 x2 x3 x4 x5 x6 x7, s.finish i o r = { s with inflight := x0, rings := x1, outputs := x2, host := x3, ewl := x4, obs := x5, events := x6, eventsLost := x7 } := by
  unfold State.finish
  split
  · exact ⟨_, _, _, _, _, _, _, _, rfl⟩
  · rename_i f _
    obtain ⟨rs, os, h, e, ob, hc⟩ := State.complete_only (s := { s with inflight := adel s.inflight i }) (f := f) (o := o) (r := r)
    rw [hc]
    obtain ⟨i', rs', os', h', e', ob', hc'⟩ := State.settleSeals_only (s := { s with
      inflight := adel s.inflight i, rings := rs, outputs := os, host := h, ewl := e, obs := ob })
    rw [hc']
    obtain ⟨rs2, os2, h2, ev2, el2, hc2⟩ := State.settleAdminReset_only (s := { s with
      inflight := i', rings := rs', outputs := os', host := h', ewl := e', obs := ob' })
    rw [hc2]; exact ⟨_, _, _, _, _, _, _, _, rfl⟩

@[simp] theorem State.finish_time (s : State) (i : Nat) (o : Outcome) (r : Nat) : (s.finish i o r).time = s.time := by
  obtain ⟨_, _, _, _, _, _, _, _, h⟩ := State.finish_only (s := s) (i := i) (o := o) (r := r); rw [h]
@[simp] theorem State.finish_cue (s : State) (i : Nat) (o : Outcome) (r : Nat) : (s.finish i o r).cue = s.cue := by
  obtain ⟨_, _, _, _, _, _, _, _, h⟩ := State.finish_only (s := s) (i := i) (o := o) (r := r); rw [h]
@[simp] theorem State.finish_scanPos (s : State) (i : Nat) (o : Outcome) (r : Nat) : (s.finish i o r).scanPos = s.scanPos := by
  obtain ⟨_, _, _, _, _, _, _, _, h⟩ := State.finish_only (s := s) (i := i) (o := o) (r := r); rw [h]
@[simp] theorem State.finish_nextId (s : State) (i : Nat) (o : Outcome) (r : Nat) : (s.finish i o r).nextId = s.nextId := by
  obtain ⟨_, _, _, _, _, _, _, _, h⟩ := State.finish_only (s := s) (i := i) (o := o) (r := r); rw [h]
@[simp] theorem State.finish_groupFn (s : State) (i : Nat) (o : Outcome) (r : Nat) : (s.finish i o r).groupFn = s.groupFn := by
  obtain ⟨_, _, _, _, _, _, _, _, h⟩ := State.finish_only (s := s) (i := i) (o := o) (r := r); rw [h]
@[simp] theorem State.finish_lastRead (s : State) (i : Nat) (o : Outcome) (r : Nat) : (s.finish i o r).lastRead = s.lastRead := by
  obtain ⟨_, _, _, _, _, _, _, _, h⟩ := State.finish_only (s := s) (i := i) (o := o) (r := r); rw [h]
@[simp] theorem State.finish_lastReadBytes (s : State) (i : Nat) (o : Outcome) (r : Nat) : (s.finish i o r).lastReadBytes = s.lastReadBytes := by
  obtain ⟨_, _, _, _, _, _, _, _, h⟩ := State.finish_only (s := s) (i := i) (o := o) (r := r); rw [h]
@[simp] theorem State.finish_lastReadPoisoned (s : State) (i : Nat) (o : Outcome) (r : Nat) : (s.finish i o r).lastReadPoisoned = s.lastReadPoisoned := by
  obtain ⟨_, _, _, _, _, _, _, _, h⟩ := State.finish_only (s := s) (i := i) (o := o) (r := r); rw [h]
@[simp] theorem State.finish_streams (s : State) (i : Nat) (o : Outcome) (r : Nat) : (s.finish i o r).streams = s.streams := by
  obtain ⟨_, _, _, _, _, _, _, _, h⟩ := State.finish_only (s := s) (i := i) (o := o) (r := r); rw [h]
@[simp] theorem State.finish_samples (s : State) (i : Nat) (o : Outcome) (r : Nat) : (s.finish i o r).samples = s.samples := by
  obtain ⟨_, _, _, _, _, _, _, _, h⟩ := State.finish_only (s := s) (i := i) (o := o) (r := r); rw [h]
@[simp] theorem State.finish_sampleOrder (s : State) (i : Nat) (o : Outcome) (r : Nat) : (s.finish i o r).sampleOrder = s.sampleOrder := by
  obtain ⟨_, _, _, _, _, _, _, _, h⟩ := State.finish_only (s := s) (i := i) (o := o) (r := r); rw [h]
@[simp] theorem State.finish_casts (s : State) (i : Nat) (o : Outcome) (r : Nat) : (s.finish i o r).casts = s.casts := by
  obtain ⟨_, _, _, _, _, _, _, _, h⟩ := State.finish_only (s := s) (i := i) (o := o) (r := r); rw [h]
@[simp] theorem State.finish_scripts (s : State) (i : Nat) (o : Outcome) (r : Nat) : (s.finish i o r).scripts = s.scripts := by
  obtain ⟨_, _, _, _, _, _, _, _, h⟩ := State.finish_only (s := s) (i := i) (o := o) (r := r); rw [h]
@[simp] theorem State.finish_wardrobe (s : State) (i : Nat) (o : Outcome) (r : Nat) : (s.finish i o r).wardrobe = s.wardrobe := by
  obtain ⟨_, _, _, _, _, _, _, _, h⟩ := State.finish_only (s := s) (i := i) (o := o) (r := r); rw [h]
@[simp] theorem State.finish_house (s : State) (i : Nat) (o : Outcome) (r : Nat) : (s.finish i o r).house = s.house := by
  obtain ⟨_, _, _, _, _, _, _, _, h⟩ := State.finish_only (s := s) (i := i) (o := o) (r := r); rw [h]
@[simp] theorem State.finish_dram (s : State) (i : Nat) (o : Outcome) (r : Nat) : (s.finish i o r).dram = s.dram := by
  obtain ⟨_, _, _, _, _, _, _, _, h⟩ := State.finish_only (s := s) (i := i) (o := o) (r := r); rw [h]
@[simp] theorem State.finish_arrays (s : State) (i : Nat) (o : Outcome) (r : Nat) : (s.finish i o r).arrays = s.arrays := by
  obtain ⟨_, _, _, _, _, _, _, _, h⟩ := State.finish_only (s := s) (i := i) (o := o) (r := r); rw [h]
@[simp] theorem State.finish_vecs (s : State) (i : Nat) (o : Outcome) (r : Nat) : (s.finish i o r).vecs = s.vecs := by
  obtain ⟨_, _, _, _, _, _, _, _, h⟩ := State.finish_only (s := s) (i := i) (o := o) (r := r); rw [h]
@[simp] theorem State.finish_samps (s : State) (i : Nat) (o : Outcome) (r : Nat) : (s.finish i o r).samps = s.samps := by
  obtain ⟨_, _, _, _, _, _, _, _, h⟩ := State.finish_only (s := s) (i := i) (o := o) (r := r); rw [h]
@[simp] theorem State.finish_codecs (s : State) (i : Nat) (o : Outcome) (r : Nat) : (s.finish i o r).codecs = s.codecs := by
  obtain ⟨_, _, _, _, _, _, _, _, h⟩ := State.finish_only (s := s) (i := i) (o := o) (r := r); rw [h]
@[simp] theorem State.finish_ingest (s : State) (i : Nat) (o : Outcome) (r : Nat) : (s.finish i o r).ingest = s.ingest := by
  obtain ⟨_, _, _, _, _, _, _, _, h⟩ := State.finish_only (s := s) (i := i) (o := o) (r := r); rw [h]
@[simp] theorem State.finish_jpegs (s : State) (i : Nat) (o : Outcome) (r : Nat) : (s.finish i o r).jpegs = s.jpegs := by
  obtain ⟨_, _, _, _, _, _, _, _, h⟩ := State.finish_only (s := s) (i := i) (o := o) (r := r); rw [h]
@[simp] theorem State.finish_scalers (s : State) (i : Nat) (o : Outcome) (r : Nat) : (s.finish i o r).scalers = s.scalers := by
  obtain ⟨_, _, _, _, _, _, _, _, h⟩ := State.finish_only (s := s) (i := i) (o := o) (r := r); rw [h]
@[simp] theorem State.finish_scoreboard (s : State) (i : Nat) (o : Outcome) (r : Nat) : (s.finish i o r).scoreboard = s.scoreboard := by
  obtain ⟨_, _, _, _, _, _, _, _, h⟩ := State.finish_only (s := s) (i := i) (o := o) (r := r); rw [h]
@[simp] theorem State.finish_contexts (s : State) (i : Nat) (o : Outcome) (r : Nat) : (s.finish i o r).contexts = s.contexts := by
  obtain ⟨_, _, _, _, _, _, _, _, h⟩ := State.finish_only (s := s) (i := i) (o := o) (r := r); rw [h]
@[simp] theorem State.finish_sec (s : State) (i : Nat) (o : Outcome) (r : Nat) : (s.finish i o r).sec = s.sec := by
  obtain ⟨_, _, _, _, _, _, _, _, h⟩ := State.finish_only (s := s) (i := i) (o := o) (r := r); rw [h]
@[simp] theorem State.finish_pwr (s : State) (i : Nat) (o : Outcome) (r : Nat) : (s.finish i o r).pwr = s.pwr := by
  obtain ⟨_, _, _, _, _, _, _, _, h⟩ := State.finish_only (s := s) (i := i) (o := o) (r := r); rw [h]
@[simp] theorem State.finish_mgmt (s : State) (i : Nat) (o : Outcome) (r : Nat) : (s.finish i o r).mgmt = s.mgmt := by
  obtain ⟨_, _, _, _, _, _, _, _, h⟩ := State.finish_only (s := s) (i := i) (o := o) (r := r); rw [h]
@[simp] theorem State.finish_playbill (s : State) (i : Nat) (o : Outcome) (r : Nat) : (s.finish i o r).playbill = s.playbill := by
  obtain ⟨_, _, _, _, _, _, _, _, h⟩ := State.finish_only (s := s) (i := i) (o := o) (r := r); rw [h]
@[simp] theorem State.finish_tap (s : State) (i : Nat) (o : Outcome) (r : Nat) : (s.finish i o r).tap = s.tap := by
  obtain ⟨_, _, _, _, _, _, _, _, h⟩ := State.finish_only (s := s) (i := i) (o := o) (r := r); rw [h]
@[simp] theorem State.finish_cores (s : State) (i : Nat) (o : Outcome) (r : Nat) : (s.finish i o r).cores = s.cores := by
  obtain ⟨_, _, _, _, _, _, _, _, h⟩ := State.finish_only (s := s) (i := i) (o := o) (r := r); rw [h]
@[simp] theorem State.finish_coreRefetches (s : State) (i : Nat) (o : Outcome) (r : Nat) : (s.finish i o r).coreRefetches = s.coreRefetches := by
  obtain ⟨_, _, _, _, _, _, _, _, h⟩ := State.finish_only (s := s) (i := i) (o := o) (r := r); rw [h]
@[simp] theorem State.finish_freeCount (s : State) (i : Nat) (o : Outcome) (r : Nat) : (s.finish i o r).freeCount = s.freeCount := by
  obtain ⟨_, _, _, _, _, _, _, _, h⟩ := State.finish_only (s := s) (i := i) (o := o) (r := r); rw [h]
@[simp] theorem State.finish_pending (s : State) (i : Nat) (o : Outcome) (r : Nat) : (s.finish i o r).pending = s.pending := by
  obtain ⟨_, _, _, _, _, _, _, _, h⟩ := State.finish_only (s := s) (i := i) (o := o) (r := r); rw [h]

/-- Posting an event changes rings, outputs, host, events and eventsLost only. -/
theorem State.postEvent_only {s : State} {c : Nat} {st : Status} {d r : Nat} :
    ∃ x0 x1 x2 x3 x4, s.postEvent c st d r = { s with rings := x0, outputs := x1, host := x2, events := x3, eventsLost := x4 } := by
  unfold State.postEvent
  split
  · exact ⟨_, _, _, _, _, rfl⟩
  · obtain ⟨rs, os, h, ev, el, e⟩ := State.flushEvents_only (s := { s with
      events := s.events ++ [Event.mk c st d r s.cueNow] })
    rw [e]; exact ⟨_, _, _, _, _, rfl⟩

@[simp] theorem State.postEvent_time (s : State) (c : Nat) (st : Status) (d r : Nat) : (s.postEvent c st d r).time = s.time := by
  obtain ⟨_, _, _, _, _, h⟩ := State.postEvent_only (s := s) (c := c) (st := st) (d := d) (r := r); rw [h]
@[simp] theorem State.postEvent_cue (s : State) (c : Nat) (st : Status) (d r : Nat) : (s.postEvent c st d r).cue = s.cue := by
  obtain ⟨_, _, _, _, _, h⟩ := State.postEvent_only (s := s) (c := c) (st := st) (d := d) (r := r); rw [h]
@[simp] theorem State.postEvent_scanPos (s : State) (c : Nat) (st : Status) (d r : Nat) : (s.postEvent c st d r).scanPos = s.scanPos := by
  obtain ⟨_, _, _, _, _, h⟩ := State.postEvent_only (s := s) (c := c) (st := st) (d := d) (r := r); rw [h]
@[simp] theorem State.postEvent_inflight (s : State) (c : Nat) (st : Status) (d r : Nat) : (s.postEvent c st d r).inflight = s.inflight := by
  obtain ⟨_, _, _, _, _, h⟩ := State.postEvent_only (s := s) (c := c) (st := st) (d := d) (r := r); rw [h]
@[simp] theorem State.postEvent_nextId (s : State) (c : Nat) (st : Status) (d r : Nat) : (s.postEvent c st d r).nextId = s.nextId := by
  obtain ⟨_, _, _, _, _, h⟩ := State.postEvent_only (s := s) (c := c) (st := st) (d := d) (r := r); rw [h]
@[simp] theorem State.postEvent_groupFn (s : State) (c : Nat) (st : Status) (d r : Nat) : (s.postEvent c st d r).groupFn = s.groupFn := by
  obtain ⟨_, _, _, _, _, h⟩ := State.postEvent_only (s := s) (c := c) (st := st) (d := d) (r := r); rw [h]
@[simp] theorem State.postEvent_lastRead (s : State) (c : Nat) (st : Status) (d r : Nat) : (s.postEvent c st d r).lastRead = s.lastRead := by
  obtain ⟨_, _, _, _, _, h⟩ := State.postEvent_only (s := s) (c := c) (st := st) (d := d) (r := r); rw [h]
@[simp] theorem State.postEvent_lastReadBytes (s : State) (c : Nat) (st : Status) (d r : Nat) : (s.postEvent c st d r).lastReadBytes = s.lastReadBytes := by
  obtain ⟨_, _, _, _, _, h⟩ := State.postEvent_only (s := s) (c := c) (st := st) (d := d) (r := r); rw [h]
@[simp] theorem State.postEvent_lastReadPoisoned (s : State) (c : Nat) (st : Status) (d r : Nat) : (s.postEvent c st d r).lastReadPoisoned = s.lastReadPoisoned := by
  obtain ⟨_, _, _, _, _, h⟩ := State.postEvent_only (s := s) (c := c) (st := st) (d := d) (r := r); rw [h]
@[simp] theorem State.postEvent_streams (s : State) (c : Nat) (st : Status) (d r : Nat) : (s.postEvent c st d r).streams = s.streams := by
  obtain ⟨_, _, _, _, _, h⟩ := State.postEvent_only (s := s) (c := c) (st := st) (d := d) (r := r); rw [h]
@[simp] theorem State.postEvent_samples (s : State) (c : Nat) (st : Status) (d r : Nat) : (s.postEvent c st d r).samples = s.samples := by
  obtain ⟨_, _, _, _, _, h⟩ := State.postEvent_only (s := s) (c := c) (st := st) (d := d) (r := r); rw [h]
@[simp] theorem State.postEvent_sampleOrder (s : State) (c : Nat) (st : Status) (d r : Nat) : (s.postEvent c st d r).sampleOrder = s.sampleOrder := by
  obtain ⟨_, _, _, _, _, h⟩ := State.postEvent_only (s := s) (c := c) (st := st) (d := d) (r := r); rw [h]
@[simp] theorem State.postEvent_casts (s : State) (c : Nat) (st : Status) (d r : Nat) : (s.postEvent c st d r).casts = s.casts := by
  obtain ⟨_, _, _, _, _, h⟩ := State.postEvent_only (s := s) (c := c) (st := st) (d := d) (r := r); rw [h]
@[simp] theorem State.postEvent_scripts (s : State) (c : Nat) (st : Status) (d r : Nat) : (s.postEvent c st d r).scripts = s.scripts := by
  obtain ⟨_, _, _, _, _, h⟩ := State.postEvent_only (s := s) (c := c) (st := st) (d := d) (r := r); rw [h]
@[simp] theorem State.postEvent_wardrobe (s : State) (c : Nat) (st : Status) (d r : Nat) : (s.postEvent c st d r).wardrobe = s.wardrobe := by
  obtain ⟨_, _, _, _, _, h⟩ := State.postEvent_only (s := s) (c := c) (st := st) (d := d) (r := r); rw [h]
@[simp] theorem State.postEvent_house (s : State) (c : Nat) (st : Status) (d r : Nat) : (s.postEvent c st d r).house = s.house := by
  obtain ⟨_, _, _, _, _, h⟩ := State.postEvent_only (s := s) (c := c) (st := st) (d := d) (r := r); rw [h]
@[simp] theorem State.postEvent_dram (s : State) (c : Nat) (st : Status) (d r : Nat) : (s.postEvent c st d r).dram = s.dram := by
  obtain ⟨_, _, _, _, _, h⟩ := State.postEvent_only (s := s) (c := c) (st := st) (d := d) (r := r); rw [h]
@[simp] theorem State.postEvent_arrays (s : State) (c : Nat) (st : Status) (d r : Nat) : (s.postEvent c st d r).arrays = s.arrays := by
  obtain ⟨_, _, _, _, _, h⟩ := State.postEvent_only (s := s) (c := c) (st := st) (d := d) (r := r); rw [h]
@[simp] theorem State.postEvent_vecs (s : State) (c : Nat) (st : Status) (d r : Nat) : (s.postEvent c st d r).vecs = s.vecs := by
  obtain ⟨_, _, _, _, _, h⟩ := State.postEvent_only (s := s) (c := c) (st := st) (d := d) (r := r); rw [h]
@[simp] theorem State.postEvent_samps (s : State) (c : Nat) (st : Status) (d r : Nat) : (s.postEvent c st d r).samps = s.samps := by
  obtain ⟨_, _, _, _, _, h⟩ := State.postEvent_only (s := s) (c := c) (st := st) (d := d) (r := r); rw [h]
@[simp] theorem State.postEvent_codecs (s : State) (c : Nat) (st : Status) (d r : Nat) : (s.postEvent c st d r).codecs = s.codecs := by
  obtain ⟨_, _, _, _, _, h⟩ := State.postEvent_only (s := s) (c := c) (st := st) (d := d) (r := r); rw [h]
@[simp] theorem State.postEvent_ingest (s : State) (c : Nat) (st : Status) (d r : Nat) : (s.postEvent c st d r).ingest = s.ingest := by
  obtain ⟨_, _, _, _, _, h⟩ := State.postEvent_only (s := s) (c := c) (st := st) (d := d) (r := r); rw [h]
@[simp] theorem State.postEvent_jpegs (s : State) (c : Nat) (st : Status) (d r : Nat) : (s.postEvent c st d r).jpegs = s.jpegs := by
  obtain ⟨_, _, _, _, _, h⟩ := State.postEvent_only (s := s) (c := c) (st := st) (d := d) (r := r); rw [h]
@[simp] theorem State.postEvent_scalers (s : State) (c : Nat) (st : Status) (d r : Nat) : (s.postEvent c st d r).scalers = s.scalers := by
  obtain ⟨_, _, _, _, _, h⟩ := State.postEvent_only (s := s) (c := c) (st := st) (d := d) (r := r); rw [h]
@[simp] theorem State.postEvent_scoreboard (s : State) (c : Nat) (st : Status) (d r : Nat) : (s.postEvent c st d r).scoreboard = s.scoreboard := by
  obtain ⟨_, _, _, _, _, h⟩ := State.postEvent_only (s := s) (c := c) (st := st) (d := d) (r := r); rw [h]
@[simp] theorem State.postEvent_contexts (s : State) (c : Nat) (st : Status) (d r : Nat) : (s.postEvent c st d r).contexts = s.contexts := by
  obtain ⟨_, _, _, _, _, h⟩ := State.postEvent_only (s := s) (c := c) (st := st) (d := d) (r := r); rw [h]
@[simp] theorem State.postEvent_ewl (s : State) (c : Nat) (st : Status) (d r : Nat) : (s.postEvent c st d r).ewl = s.ewl := by
  obtain ⟨_, _, _, _, _, h⟩ := State.postEvent_only (s := s) (c := c) (st := st) (d := d) (r := r); rw [h]
@[simp] theorem State.postEvent_sec (s : State) (c : Nat) (st : Status) (d r : Nat) : (s.postEvent c st d r).sec = s.sec := by
  obtain ⟨_, _, _, _, _, h⟩ := State.postEvent_only (s := s) (c := c) (st := st) (d := d) (r := r); rw [h]
@[simp] theorem State.postEvent_obs (s : State) (c : Nat) (st : Status) (d r : Nat) : (s.postEvent c st d r).obs = s.obs := by
  obtain ⟨_, _, _, _, _, h⟩ := State.postEvent_only (s := s) (c := c) (st := st) (d := d) (r := r); rw [h]
@[simp] theorem State.postEvent_pwr (s : State) (c : Nat) (st : Status) (d r : Nat) : (s.postEvent c st d r).pwr = s.pwr := by
  obtain ⟨_, _, _, _, _, h⟩ := State.postEvent_only (s := s) (c := c) (st := st) (d := d) (r := r); rw [h]
@[simp] theorem State.postEvent_mgmt (s : State) (c : Nat) (st : Status) (d r : Nat) : (s.postEvent c st d r).mgmt = s.mgmt := by
  obtain ⟨_, _, _, _, _, h⟩ := State.postEvent_only (s := s) (c := c) (st := st) (d := d) (r := r); rw [h]
@[simp] theorem State.postEvent_playbill (s : State) (c : Nat) (st : Status) (d r : Nat) : (s.postEvent c st d r).playbill = s.playbill := by
  obtain ⟨_, _, _, _, _, h⟩ := State.postEvent_only (s := s) (c := c) (st := st) (d := d) (r := r); rw [h]
@[simp] theorem State.postEvent_tap (s : State) (c : Nat) (st : Status) (d r : Nat) : (s.postEvent c st d r).tap = s.tap := by
  obtain ⟨_, _, _, _, _, h⟩ := State.postEvent_only (s := s) (c := c) (st := st) (d := d) (r := r); rw [h]
@[simp] theorem State.postEvent_cores (s : State) (c : Nat) (st : Status) (d r : Nat) : (s.postEvent c st d r).cores = s.cores := by
  obtain ⟨_, _, _, _, _, h⟩ := State.postEvent_only (s := s) (c := c) (st := st) (d := d) (r := r); rw [h]
@[simp] theorem State.postEvent_coreRefetches (s : State) (c : Nat) (st : Status) (d r : Nat) : (s.postEvent c st d r).coreRefetches = s.coreRefetches := by
  obtain ⟨_, _, _, _, _, h⟩ := State.postEvent_only (s := s) (c := c) (st := st) (d := d) (r := r); rw [h]
@[simp] theorem State.postEvent_freeCount (s : State) (c : Nat) (st : Status) (d r : Nat) : (s.postEvent c st d r).freeCount = s.freeCount := by
  obtain ⟨_, _, _, _, _, h⟩ := State.postEvent_only (s := s) (c := c) (st := st) (d := d) (r := r); rw [h]
@[simp] theorem State.postEvent_pending (s : State) (c : Nat) (st : Status) (d r : Nat) : (s.postEvent c st d r).pending = s.pending := by
  obtain ⟨_, _, _, _, _, h⟩ := State.postEvent_only (s := s) (c := c) (st := st) (d := d) (r := r); rw [h]

/-- A Playbill change falling due changes playbill only. -/
theorem State.playbillDue_only {s : State} :
    ∃ x0, s.playbillDue = { s with playbill := x0 } := by
  unfold State.playbillDue State.playbillBegins; (repeat' split) <;> exact ⟨_, rfl⟩

@[simp] theorem State.playbillDue_time (s : State) : (s.playbillDue).time = s.time := by
  obtain ⟨_, h⟩ := State.playbillDue_only (s := s); rw [h]
@[simp] theorem State.playbillDue_cue (s : State) : (s.playbillDue).cue = s.cue := by
  obtain ⟨_, h⟩ := State.playbillDue_only (s := s); rw [h]
@[simp] theorem State.playbillDue_host (s : State) : (s.playbillDue).host = s.host := by
  obtain ⟨_, h⟩ := State.playbillDue_only (s := s); rw [h]
@[simp] theorem State.playbillDue_rings (s : State) : (s.playbillDue).rings = s.rings := by
  obtain ⟨_, h⟩ := State.playbillDue_only (s := s); rw [h]
@[simp] theorem State.playbillDue_scanPos (s : State) : (s.playbillDue).scanPos = s.scanPos := by
  obtain ⟨_, h⟩ := State.playbillDue_only (s := s); rw [h]
@[simp] theorem State.playbillDue_inflight (s : State) : (s.playbillDue).inflight = s.inflight := by
  obtain ⟨_, h⟩ := State.playbillDue_only (s := s); rw [h]
@[simp] theorem State.playbillDue_nextId (s : State) : (s.playbillDue).nextId = s.nextId := by
  obtain ⟨_, h⟩ := State.playbillDue_only (s := s); rw [h]
@[simp] theorem State.playbillDue_groupFn (s : State) : (s.playbillDue).groupFn = s.groupFn := by
  obtain ⟨_, h⟩ := State.playbillDue_only (s := s); rw [h]
@[simp] theorem State.playbillDue_events (s : State) : (s.playbillDue).events = s.events := by
  obtain ⟨_, h⟩ := State.playbillDue_only (s := s); rw [h]
@[simp] theorem State.playbillDue_eventsLost (s : State) : (s.playbillDue).eventsLost = s.eventsLost := by
  obtain ⟨_, h⟩ := State.playbillDue_only (s := s); rw [h]
@[simp] theorem State.playbillDue_outputs (s : State) : (s.playbillDue).outputs = s.outputs := by
  obtain ⟨_, h⟩ := State.playbillDue_only (s := s); rw [h]
@[simp] theorem State.playbillDue_lastRead (s : State) : (s.playbillDue).lastRead = s.lastRead := by
  obtain ⟨_, h⟩ := State.playbillDue_only (s := s); rw [h]
@[simp] theorem State.playbillDue_lastReadBytes (s : State) : (s.playbillDue).lastReadBytes = s.lastReadBytes := by
  obtain ⟨_, h⟩ := State.playbillDue_only (s := s); rw [h]
@[simp] theorem State.playbillDue_lastReadPoisoned (s : State) : (s.playbillDue).lastReadPoisoned = s.lastReadPoisoned := by
  obtain ⟨_, h⟩ := State.playbillDue_only (s := s); rw [h]
@[simp] theorem State.playbillDue_streams (s : State) : (s.playbillDue).streams = s.streams := by
  obtain ⟨_, h⟩ := State.playbillDue_only (s := s); rw [h]
@[simp] theorem State.playbillDue_samples (s : State) : (s.playbillDue).samples = s.samples := by
  obtain ⟨_, h⟩ := State.playbillDue_only (s := s); rw [h]
@[simp] theorem State.playbillDue_sampleOrder (s : State) : (s.playbillDue).sampleOrder = s.sampleOrder := by
  obtain ⟨_, h⟩ := State.playbillDue_only (s := s); rw [h]
@[simp] theorem State.playbillDue_casts (s : State) : (s.playbillDue).casts = s.casts := by
  obtain ⟨_, h⟩ := State.playbillDue_only (s := s); rw [h]
@[simp] theorem State.playbillDue_scripts (s : State) : (s.playbillDue).scripts = s.scripts := by
  obtain ⟨_, h⟩ := State.playbillDue_only (s := s); rw [h]
@[simp] theorem State.playbillDue_wardrobe (s : State) : (s.playbillDue).wardrobe = s.wardrobe := by
  obtain ⟨_, h⟩ := State.playbillDue_only (s := s); rw [h]
@[simp] theorem State.playbillDue_house (s : State) : (s.playbillDue).house = s.house := by
  obtain ⟨_, h⟩ := State.playbillDue_only (s := s); rw [h]
@[simp] theorem State.playbillDue_dram (s : State) : (s.playbillDue).dram = s.dram := by
  obtain ⟨_, h⟩ := State.playbillDue_only (s := s); rw [h]
@[simp] theorem State.playbillDue_arrays (s : State) : (s.playbillDue).arrays = s.arrays := by
  obtain ⟨_, h⟩ := State.playbillDue_only (s := s); rw [h]
@[simp] theorem State.playbillDue_vecs (s : State) : (s.playbillDue).vecs = s.vecs := by
  obtain ⟨_, h⟩ := State.playbillDue_only (s := s); rw [h]
@[simp] theorem State.playbillDue_samps (s : State) : (s.playbillDue).samps = s.samps := by
  obtain ⟨_, h⟩ := State.playbillDue_only (s := s); rw [h]
@[simp] theorem State.playbillDue_codecs (s : State) : (s.playbillDue).codecs = s.codecs := by
  obtain ⟨_, h⟩ := State.playbillDue_only (s := s); rw [h]
@[simp] theorem State.playbillDue_ingest (s : State) : (s.playbillDue).ingest = s.ingest := by
  obtain ⟨_, h⟩ := State.playbillDue_only (s := s); rw [h]
@[simp] theorem State.playbillDue_jpegs (s : State) : (s.playbillDue).jpegs = s.jpegs := by
  obtain ⟨_, h⟩ := State.playbillDue_only (s := s); rw [h]
@[simp] theorem State.playbillDue_scalers (s : State) : (s.playbillDue).scalers = s.scalers := by
  obtain ⟨_, h⟩ := State.playbillDue_only (s := s); rw [h]
@[simp] theorem State.playbillDue_scoreboard (s : State) : (s.playbillDue).scoreboard = s.scoreboard := by
  obtain ⟨_, h⟩ := State.playbillDue_only (s := s); rw [h]
@[simp] theorem State.playbillDue_contexts (s : State) : (s.playbillDue).contexts = s.contexts := by
  obtain ⟨_, h⟩ := State.playbillDue_only (s := s); rw [h]
@[simp] theorem State.playbillDue_ewl (s : State) : (s.playbillDue).ewl = s.ewl := by
  obtain ⟨_, h⟩ := State.playbillDue_only (s := s); rw [h]
@[simp] theorem State.playbillDue_sec (s : State) : (s.playbillDue).sec = s.sec := by
  obtain ⟨_, h⟩ := State.playbillDue_only (s := s); rw [h]
@[simp] theorem State.playbillDue_obs (s : State) : (s.playbillDue).obs = s.obs := by
  obtain ⟨_, h⟩ := State.playbillDue_only (s := s); rw [h]
@[simp] theorem State.playbillDue_pwr (s : State) : (s.playbillDue).pwr = s.pwr := by
  obtain ⟨_, h⟩ := State.playbillDue_only (s := s); rw [h]
@[simp] theorem State.playbillDue_mgmt (s : State) : (s.playbillDue).mgmt = s.mgmt := by
  obtain ⟨_, h⟩ := State.playbillDue_only (s := s); rw [h]
@[simp] theorem State.playbillDue_tap (s : State) : (s.playbillDue).tap = s.tap := by
  obtain ⟨_, h⟩ := State.playbillDue_only (s := s); rw [h]
@[simp] theorem State.playbillDue_cores (s : State) : (s.playbillDue).cores = s.cores := by
  obtain ⟨_, h⟩ := State.playbillDue_only (s := s); rw [h]
@[simp] theorem State.playbillDue_coreRefetches (s : State) : (s.playbillDue).coreRefetches = s.coreRefetches := by
  obtain ⟨_, h⟩ := State.playbillDue_only (s := s); rw [h]
@[simp] theorem State.playbillDue_freeCount (s : State) : (s.playbillDue).freeCount = s.freeCount := by
  obtain ⟨_, h⟩ := State.playbillDue_only (s := s); rw [h]
@[simp] theorem State.playbillDue_pending (s : State) : (s.playbillDue).pending = s.pending := by
  obtain ⟨_, h⟩ := State.playbillDue_only (s := s); rw [h]

/-- A log entry changes sec only. -/
theorem State.appendLog_only {s : State} {k f q a : Nat} {w : Word256} :
    ∃ x0, s.appendLog k f q a w = { s with sec := x0 } := by
  exact ⟨_, rfl⟩

@[simp] theorem State.appendLog_time (s : State) (k f q a : Nat) (w : Word256) : (s.appendLog k f q a w).time = s.time := by
  obtain ⟨_, h⟩ := State.appendLog_only (s := s) (k := k) (f := f) (q := q) (a := a) (w := w); rw [h]
@[simp] theorem State.appendLog_cue (s : State) (k f q a : Nat) (w : Word256) : (s.appendLog k f q a w).cue = s.cue := by
  obtain ⟨_, h⟩ := State.appendLog_only (s := s) (k := k) (f := f) (q := q) (a := a) (w := w); rw [h]
@[simp] theorem State.appendLog_host (s : State) (k f q a : Nat) (w : Word256) : (s.appendLog k f q a w).host = s.host := by
  obtain ⟨_, h⟩ := State.appendLog_only (s := s) (k := k) (f := f) (q := q) (a := a) (w := w); rw [h]
@[simp] theorem State.appendLog_rings (s : State) (k f q a : Nat) (w : Word256) : (s.appendLog k f q a w).rings = s.rings := by
  obtain ⟨_, h⟩ := State.appendLog_only (s := s) (k := k) (f := f) (q := q) (a := a) (w := w); rw [h]
@[simp] theorem State.appendLog_scanPos (s : State) (k f q a : Nat) (w : Word256) : (s.appendLog k f q a w).scanPos = s.scanPos := by
  obtain ⟨_, h⟩ := State.appendLog_only (s := s) (k := k) (f := f) (q := q) (a := a) (w := w); rw [h]
@[simp] theorem State.appendLog_inflight (s : State) (k f q a : Nat) (w : Word256) : (s.appendLog k f q a w).inflight = s.inflight := by
  obtain ⟨_, h⟩ := State.appendLog_only (s := s) (k := k) (f := f) (q := q) (a := a) (w := w); rw [h]
@[simp] theorem State.appendLog_nextId (s : State) (k f q a : Nat) (w : Word256) : (s.appendLog k f q a w).nextId = s.nextId := by
  obtain ⟨_, h⟩ := State.appendLog_only (s := s) (k := k) (f := f) (q := q) (a := a) (w := w); rw [h]
@[simp] theorem State.appendLog_groupFn (s : State) (k f q a : Nat) (w : Word256) : (s.appendLog k f q a w).groupFn = s.groupFn := by
  obtain ⟨_, h⟩ := State.appendLog_only (s := s) (k := k) (f := f) (q := q) (a := a) (w := w); rw [h]
@[simp] theorem State.appendLog_events (s : State) (k f q a : Nat) (w : Word256) : (s.appendLog k f q a w).events = s.events := by
  obtain ⟨_, h⟩ := State.appendLog_only (s := s) (k := k) (f := f) (q := q) (a := a) (w := w); rw [h]
@[simp] theorem State.appendLog_eventsLost (s : State) (k f q a : Nat) (w : Word256) : (s.appendLog k f q a w).eventsLost = s.eventsLost := by
  obtain ⟨_, h⟩ := State.appendLog_only (s := s) (k := k) (f := f) (q := q) (a := a) (w := w); rw [h]
@[simp] theorem State.appendLog_outputs (s : State) (k f q a : Nat) (w : Word256) : (s.appendLog k f q a w).outputs = s.outputs := by
  obtain ⟨_, h⟩ := State.appendLog_only (s := s) (k := k) (f := f) (q := q) (a := a) (w := w); rw [h]
@[simp] theorem State.appendLog_lastRead (s : State) (k f q a : Nat) (w : Word256) : (s.appendLog k f q a w).lastRead = s.lastRead := by
  obtain ⟨_, h⟩ := State.appendLog_only (s := s) (k := k) (f := f) (q := q) (a := a) (w := w); rw [h]
@[simp] theorem State.appendLog_lastReadBytes (s : State) (k f q a : Nat) (w : Word256) : (s.appendLog k f q a w).lastReadBytes = s.lastReadBytes := by
  obtain ⟨_, h⟩ := State.appendLog_only (s := s) (k := k) (f := f) (q := q) (a := a) (w := w); rw [h]
@[simp] theorem State.appendLog_lastReadPoisoned (s : State) (k f q a : Nat) (w : Word256) : (s.appendLog k f q a w).lastReadPoisoned = s.lastReadPoisoned := by
  obtain ⟨_, h⟩ := State.appendLog_only (s := s) (k := k) (f := f) (q := q) (a := a) (w := w); rw [h]
@[simp] theorem State.appendLog_streams (s : State) (k f q a : Nat) (w : Word256) : (s.appendLog k f q a w).streams = s.streams := by
  obtain ⟨_, h⟩ := State.appendLog_only (s := s) (k := k) (f := f) (q := q) (a := a) (w := w); rw [h]
@[simp] theorem State.appendLog_samples (s : State) (k f q a : Nat) (w : Word256) : (s.appendLog k f q a w).samples = s.samples := by
  obtain ⟨_, h⟩ := State.appendLog_only (s := s) (k := k) (f := f) (q := q) (a := a) (w := w); rw [h]
@[simp] theorem State.appendLog_sampleOrder (s : State) (k f q a : Nat) (w : Word256) : (s.appendLog k f q a w).sampleOrder = s.sampleOrder := by
  obtain ⟨_, h⟩ := State.appendLog_only (s := s) (k := k) (f := f) (q := q) (a := a) (w := w); rw [h]
@[simp] theorem State.appendLog_casts (s : State) (k f q a : Nat) (w : Word256) : (s.appendLog k f q a w).casts = s.casts := by
  obtain ⟨_, h⟩ := State.appendLog_only (s := s) (k := k) (f := f) (q := q) (a := a) (w := w); rw [h]
@[simp] theorem State.appendLog_scripts (s : State) (k f q a : Nat) (w : Word256) : (s.appendLog k f q a w).scripts = s.scripts := by
  obtain ⟨_, h⟩ := State.appendLog_only (s := s) (k := k) (f := f) (q := q) (a := a) (w := w); rw [h]
@[simp] theorem State.appendLog_wardrobe (s : State) (k f q a : Nat) (w : Word256) : (s.appendLog k f q a w).wardrobe = s.wardrobe := by
  obtain ⟨_, h⟩ := State.appendLog_only (s := s) (k := k) (f := f) (q := q) (a := a) (w := w); rw [h]
@[simp] theorem State.appendLog_house (s : State) (k f q a : Nat) (w : Word256) : (s.appendLog k f q a w).house = s.house := by
  obtain ⟨_, h⟩ := State.appendLog_only (s := s) (k := k) (f := f) (q := q) (a := a) (w := w); rw [h]
@[simp] theorem State.appendLog_dram (s : State) (k f q a : Nat) (w : Word256) : (s.appendLog k f q a w).dram = s.dram := by
  obtain ⟨_, h⟩ := State.appendLog_only (s := s) (k := k) (f := f) (q := q) (a := a) (w := w); rw [h]
@[simp] theorem State.appendLog_arrays (s : State) (k f q a : Nat) (w : Word256) : (s.appendLog k f q a w).arrays = s.arrays := by
  obtain ⟨_, h⟩ := State.appendLog_only (s := s) (k := k) (f := f) (q := q) (a := a) (w := w); rw [h]
@[simp] theorem State.appendLog_vecs (s : State) (k f q a : Nat) (w : Word256) : (s.appendLog k f q a w).vecs = s.vecs := by
  obtain ⟨_, h⟩ := State.appendLog_only (s := s) (k := k) (f := f) (q := q) (a := a) (w := w); rw [h]
@[simp] theorem State.appendLog_samps (s : State) (k f q a : Nat) (w : Word256) : (s.appendLog k f q a w).samps = s.samps := by
  obtain ⟨_, h⟩ := State.appendLog_only (s := s) (k := k) (f := f) (q := q) (a := a) (w := w); rw [h]
@[simp] theorem State.appendLog_codecs (s : State) (k f q a : Nat) (w : Word256) : (s.appendLog k f q a w).codecs = s.codecs := by
  obtain ⟨_, h⟩ := State.appendLog_only (s := s) (k := k) (f := f) (q := q) (a := a) (w := w); rw [h]
@[simp] theorem State.appendLog_ingest (s : State) (k f q a : Nat) (w : Word256) : (s.appendLog k f q a w).ingest = s.ingest := by
  obtain ⟨_, h⟩ := State.appendLog_only (s := s) (k := k) (f := f) (q := q) (a := a) (w := w); rw [h]
@[simp] theorem State.appendLog_jpegs (s : State) (k f q a : Nat) (w : Word256) : (s.appendLog k f q a w).jpegs = s.jpegs := by
  obtain ⟨_, h⟩ := State.appendLog_only (s := s) (k := k) (f := f) (q := q) (a := a) (w := w); rw [h]
@[simp] theorem State.appendLog_scalers (s : State) (k f q a : Nat) (w : Word256) : (s.appendLog k f q a w).scalers = s.scalers := by
  obtain ⟨_, h⟩ := State.appendLog_only (s := s) (k := k) (f := f) (q := q) (a := a) (w := w); rw [h]
@[simp] theorem State.appendLog_scoreboard (s : State) (k f q a : Nat) (w : Word256) : (s.appendLog k f q a w).scoreboard = s.scoreboard := by
  obtain ⟨_, h⟩ := State.appendLog_only (s := s) (k := k) (f := f) (q := q) (a := a) (w := w); rw [h]
@[simp] theorem State.appendLog_contexts (s : State) (k f q a : Nat) (w : Word256) : (s.appendLog k f q a w).contexts = s.contexts := by
  obtain ⟨_, h⟩ := State.appendLog_only (s := s) (k := k) (f := f) (q := q) (a := a) (w := w); rw [h]
@[simp] theorem State.appendLog_ewl (s : State) (k f q a : Nat) (w : Word256) : (s.appendLog k f q a w).ewl = s.ewl := by
  obtain ⟨_, h⟩ := State.appendLog_only (s := s) (k := k) (f := f) (q := q) (a := a) (w := w); rw [h]
@[simp] theorem State.appendLog_obs (s : State) (k f q a : Nat) (w : Word256) : (s.appendLog k f q a w).obs = s.obs := by
  obtain ⟨_, h⟩ := State.appendLog_only (s := s) (k := k) (f := f) (q := q) (a := a) (w := w); rw [h]
@[simp] theorem State.appendLog_pwr (s : State) (k f q a : Nat) (w : Word256) : (s.appendLog k f q a w).pwr = s.pwr := by
  obtain ⟨_, h⟩ := State.appendLog_only (s := s) (k := k) (f := f) (q := q) (a := a) (w := w); rw [h]
@[simp] theorem State.appendLog_mgmt (s : State) (k f q a : Nat) (w : Word256) : (s.appendLog k f q a w).mgmt = s.mgmt := by
  obtain ⟨_, h⟩ := State.appendLog_only (s := s) (k := k) (f := f) (q := q) (a := a) (w := w); rw [h]
@[simp] theorem State.appendLog_playbill (s : State) (k f q a : Nat) (w : Word256) : (s.appendLog k f q a w).playbill = s.playbill := by
  obtain ⟨_, h⟩ := State.appendLog_only (s := s) (k := k) (f := f) (q := q) (a := a) (w := w); rw [h]
@[simp] theorem State.appendLog_tap (s : State) (k f q a : Nat) (w : Word256) : (s.appendLog k f q a w).tap = s.tap := by
  obtain ⟨_, h⟩ := State.appendLog_only (s := s) (k := k) (f := f) (q := q) (a := a) (w := w); rw [h]
@[simp] theorem State.appendLog_cores (s : State) (k f q a : Nat) (w : Word256) : (s.appendLog k f q a w).cores = s.cores := by
  obtain ⟨_, h⟩ := State.appendLog_only (s := s) (k := k) (f := f) (q := q) (a := a) (w := w); rw [h]
@[simp] theorem State.appendLog_coreRefetches (s : State) (k f q a : Nat) (w : Word256) : (s.appendLog k f q a w).coreRefetches = s.coreRefetches := by
  obtain ⟨_, h⟩ := State.appendLog_only (s := s) (k := k) (f := f) (q := q) (a := a) (w := w); rw [h]
@[simp] theorem State.appendLog_freeCount (s : State) (k f q a : Nat) (w : Word256) : (s.appendLog k f q a w).freeCount = s.freeCount := by
  obtain ⟨_, h⟩ := State.appendLog_only (s := s) (k := k) (f := f) (q := q) (a := a) (w := w); rw [h]
@[simp] theorem State.appendLog_pending (s : State) (k f q a : Nat) (w : Word256) : (s.appendLog k f q a w).pending = s.pending := by
  obtain ⟨_, h⟩ := State.appendLog_only (s := s) (k := k) (f := f) (q := q) (a := a) (w := w); rw [h]

end Sys2Proof.Machine
end

