-- ==== Sys2Proof/Laws/Host.lean ====
section
/-! SUPPORT. What completions, events and passing time can change in the host block: the link's power state and last transfer, the
functions' MSI-X entries, a due reset of Q0 and the L1 residency count; the device state and the rest stay. -/

namespace Sys2Proof.Machine

open Sys2Proof

/-- The second host block differs from the first in those fields at most. -/
def HostBlk.Keeps (a b : HostBlk) : Prop :=
  ∃ p t fs d x, b = { a with power := p, lastTransfer := t, fns := fs, adminResetDue := d, l1Residency := x }

theorem HostBlk.Keeps.refl (a : HostBlk) : HostBlk.Keeps a a := ⟨_, _, _, _, _, rfl⟩

theorem HostBlk.Keeps.trans {a b c : HostBlk} (h : HostBlk.Keeps a b) (k : HostBlk.Keeps b c) : HostBlk.Keeps a c := by
  obtain ⟨_, _, _, _, _, rfl⟩ := h; obtain ⟨_, _, _, _, _, rfl⟩ := k; exact ⟨_, _, _, _, _, rfl⟩

theorem HostBlk.Keeps.of_eq {a b : HostBlk} (h : b = a) : HostBlk.Keeps a b := by rw [h]; exact .refl a

theorem HostBlk.Keeps.state {a b : HostBlk} (h : HostBlk.Keeps a b) : b.state = a.state := by
  obtain ⟨_, _, _, _, _, rfl⟩ := h; rfl

theorem HostBlk.Keeps.linkUp {a b : HostBlk} (h : HostBlk.Keeps a b) : b.linkUp = a.linkUp := by
  obtain ⟨_, _, _, _, _, rfl⟩ := h; rfl

theorem HostBlk.Keeps.bootStep {a b : HostBlk} (h : HostBlk.Keeps a b) : b.bootStep = a.bootStep := by
  obtain ⟨_, _, _, _, _, rfl⟩ := h; rfl

/-- Draining the trace leaves the host block. -/
theorem drainTrace_host {s : State} {x y : Nat} : (s.drainTrace x y).host = s.host := by
  obtain ⟨_, _, h⟩ := drainTrace_only (s := s) (x := x) (y := y); rw [h]

theorem State.advance_host (s : State) (dt : Nat) : HostBlk.Keeps s.host (s.advance dt).host := by
  unfold State.advance
  split
  · exact HostBlk.Keeps.refl _
  · dsimp only
    have h := drainTrace_host (s := { s with time := s.time.advance dt }) (x := s.time.elapsed) (y := s.time.elapsed + dt)
    split
    · exact .trans (.of_eq h) ⟨_, _, _, _, _, rfl⟩
    · exact .of_eq h

@[simp] theorem State.advance_host_state (s : State) (dt : Nat) : (s.advance dt).host.state = s.host.state :=
  (State.advance_host s dt).state

@[simp] theorem State.advance_host_linkUp (s : State) (dt : Nat) : (s.advance dt).host.linkUp = s.host.linkUp :=
  (State.advance_host s dt).linkUp

@[simp] theorem State.advance_host_bootStep (s : State) (dt : Nat) : (s.advance dt).host.bootStep = s.host.bootStep :=
  (State.advance_host s dt).bootStep

theorem State.raiseVector_host (s : State) (fn v : Nat) : HostBlk.Keeps s.host (s.raiseVector fn v).host := by
  simp only [State.raiseVector, State.modFn]; split <;> exact ⟨_, _, _, _, _, rfl⟩

@[simp] theorem State.raiseVector_host_state (s : State) (fn v : Nat) : (s.raiseVector fn v).host.state = s.host.state :=
  (State.raiseVector_host s fn v).state

@[simp] theorem State.raiseVector_host_linkUp (s : State) (fn v : Nat) : (s.raiseVector fn v).host.linkUp = s.host.linkUp :=
  (State.raiseVector_host s fn v).linkUp

@[simp] theorem State.raiseVector_host_bootStep (s : State) (fn v : Nat) : (s.raiseVector fn v).host.bootStep = s.host.bootStep :=
  (State.raiseVector_host s fn v).bootStep

theorem State.putCompletion_host (s : State) (q : Nat) (c : Completion) (r : Bool) : HostBlk.Keeps s.host (s.putCompletion q c r).host := by
  unfold State.putCompletion
  split
  · exact .refl _
  · split
    · exact .refl _
    · dsimp only
      split
      · exact .trans ⟨_, _, _, _, _, rfl⟩ (State.raiseVector_host _ _ _)
      · exact ⟨_, _, _, _, _, rfl⟩

@[simp] theorem State.putCompletion_host_state (s : State) (q : Nat) (c : Completion) (r : Bool) : (s.putCompletion q c r).host.state = s.host.state :=
  (State.putCompletion_host s q c r).state

@[simp] theorem State.putCompletion_host_linkUp (s : State) (q : Nat) (c : Completion) (r : Bool) : (s.putCompletion q c r).host.linkUp = s.host.linkUp :=
  (State.putCompletion_host s q c r).linkUp

@[simp] theorem State.putCompletion_host_bootStep (s : State) (q : Nat) (c : Completion) (r : Bool) : (s.putCompletion q c r).host.bootStep = s.host.bootStep :=
  (State.putCompletion_host s q c r).bootStep

theorem State.complete_host (s : State) (f : InFlight) (o : Outcome) (r : Nat) : HostBlk.Keeps s.host (s.complete f o r).host := by
  unfold State.complete
  dsimp only
  have key : ∀ (t : State), HostBlk.Keeps s.host t.host → HostBlk.Keeps s.host
      (if f.ring = remoteRing then t else t.trace 2 0 f.ring (f.opcode + 65536 * o.status.code) f.tag).host := by
    intro t ht; split
    · exact ht
    · rw [State.trace_host]; exact ht
  apply key
  split
  · rw [State.send_host]; exact .refl _
  · split
    · rw [State.sendMirror_host, State.mirrorChanges_host]; exact .refl _
    · exact State.putCompletion_host s _ _ _

@[simp] theorem State.complete_host_state (s : State) (f : InFlight) (o : Outcome) (r : Nat) : (s.complete f o r).host.state = s.host.state :=
  (State.complete_host s f o r).state

@[simp] theorem State.complete_host_linkUp (s : State) (f : InFlight) (o : Outcome) (r : Nat) : (s.complete f o r).host.linkUp = s.host.linkUp :=
  (State.complete_host s f o r).linkUp

@[simp] theorem State.complete_host_bootStep (s : State) (f : InFlight) (o : Outcome) (r : Nat) : (s.complete f o r).host.bootStep = s.host.bootStep :=
  (State.complete_host s f o r).bootStep

theorem State.settleSeals_host (s : State) : HostBlk.Keeps s.host (s.settleSeals).host := by
  unfold State.settleSeals
  generalize (s.inflight.filter fun e => s.sealSettled e.2.work) = l
  induction l generalizing s with
  | nil => exact .refl _
  | cons x l ih =>
    simp only [List.foldl_cons]
    exact .trans (State.complete_host { s with inflight := adel s.inflight x.1 } _ _ _) (ih _)

@[simp] theorem State.settleSeals_host_state (s : State) : (s.settleSeals).host.state = s.host.state :=
  (State.settleSeals_host s).state

@[simp] theorem State.settleSeals_host_linkUp (s : State) : (s.settleSeals).host.linkUp = s.host.linkUp :=
  (State.settleSeals_host s).linkUp

@[simp] theorem State.settleSeals_host_bootStep (s : State) : (s.settleSeals).host.bootStep = s.host.bootStep :=
  (State.settleSeals_host s).bootStep

theorem State.putEvent_host (s : State) (e : Event) : HostBlk.Keeps s.host (s.putEvent e).host := by
  exact State.putCompletion_host s _ _ _

@[simp] theorem State.putEvent_host_state (s : State) (e : Event) : (s.putEvent e).host.state = s.host.state :=
  (State.putEvent_host s e).state

@[simp] theorem State.putEvent_host_linkUp (s : State) (e : Event) : (s.putEvent e).host.linkUp = s.host.linkUp :=
  (State.putEvent_host s e).linkUp

@[simp] theorem State.putEvent_host_bootStep (s : State) (e : Event) : (s.putEvent e).host.bootStep = s.host.bootStep :=
  (State.putEvent_host s e).bootStep

/-- Writing held events keeps the host block's set-up. -/
theorem writeHeld_host (l : List Event) (s : State) : HostBlk.Keeps s.host (writeHeld l s).host := by
  induction l generalizing s with
  | nil => exact .refl _
  | cons e l ih =>
    unfold writeHeld
    split
    · exact .trans (State.putEvent_host s e) (ih _)
    · exact .refl _

theorem State.flushEvents_host (s : State) : HostBlk.Keeps s.host (s.flushEvents).host := by
  unfold State.flushEvents
  have key : HostBlk.Keeps s.host (if (decide (s.eventsLost ≠ 0) && s.eventSlot) = true then
      ({ s with eventsLost := 0 }).putEvent (Event.mk 0x0009 .done 0 s.eventsLost s.cueNow) else s).host := by
    split
    · exact State.putEvent_host { s with eventsLost := 0 } _
    · exact .refl _
  dsimp only
  generalize (if (decide (s.eventsLost ≠ 0) && s.eventSlot) = true then
      ({ s with eventsLost := 0 }).putEvent (Event.mk 0x0009 .done 0 s.eventsLost s.cueNow) else s) = t at key ⊢
  split
  · exact key
  · exact .trans key (writeHeld_host _ _)

@[simp] theorem State.flushEvents_host_state (s : State) : (s.flushEvents).host.state = s.host.state :=
  (State.flushEvents_host s).state

@[simp] theorem State.flushEvents_host_linkUp (s : State) : (s.flushEvents).host.linkUp = s.host.linkUp :=
  (State.flushEvents_host s).linkUp

@[simp] theorem State.flushEvents_host_bootStep (s : State) : (s.flushEvents).host.bootStep = s.host.bootStep :=
  (State.flushEvents_host s).bootStep

theorem State.settleAdminReset_host (s : State) : HostBlk.Keeps s.host (s.settleAdminReset).host := by
  unfold State.settleAdminReset
  split
  · exact .trans ⟨_, _, _, _, _, rfl⟩
      (State.flushEvents_host (({ s with host := { s.host with adminResetDue := false } }).modRing 0 Ring.restart))
  · exact .refl _

@[simp] theorem State.settleAdminReset_host_state (s : State) : (s.settleAdminReset).host.state = s.host.state :=
  (State.settleAdminReset_host s).state

@[simp] theorem State.settleAdminReset_host_linkUp (s : State) : (s.settleAdminReset).host.linkUp = s.host.linkUp :=
  (State.settleAdminReset_host s).linkUp

@[simp] theorem State.settleAdminReset_host_bootStep (s : State) : (s.settleAdminReset).host.bootStep = s.host.bootStep :=
  (State.settleAdminReset_host s).bootStep

theorem State.finish_host (s : State) (i : Nat) (o : Outcome) (r : Nat) : HostBlk.Keeps s.host (s.finish i o r).host := by
  unfold State.finish
  split
  · exact .refl _
  · exact .trans (State.complete_host { s with inflight := adel s.inflight i } _ _ _)
      (.trans (State.settleSeals_host _) (State.settleAdminReset_host _))

@[simp] theorem State.finish_host_state (s : State) (i : Nat) (o : Outcome) (r : Nat) : (s.finish i o r).host.state = s.host.state :=
  (State.finish_host s i o r).state

@[simp] theorem State.finish_host_linkUp (s : State) (i : Nat) (o : Outcome) (r : Nat) : (s.finish i o r).host.linkUp = s.host.linkUp :=
  (State.finish_host s i o r).linkUp

@[simp] theorem State.finish_host_bootStep (s : State) (i : Nat) (o : Outcome) (r : Nat) : (s.finish i o r).host.bootStep = s.host.bootStep :=
  (State.finish_host s i o r).bootStep

theorem State.postEvent_host (s : State) (c : Nat) (st : Status) (d r : Nat) : HostBlk.Keeps s.host (s.postEvent c st d r).host := by
  unfold State.postEvent
  split
  · exact .refl _
  · exact State.flushEvents_host { s with events := s.events ++ [Event.mk c st d r s.cueNow] }

@[simp] theorem State.postEvent_host_state (s : State) (c : Nat) (st : Status) (d r : Nat) : (s.postEvent c st d r).host.state = s.host.state :=
  (State.postEvent_host s c st d r).state

@[simp] theorem State.postEvent_host_linkUp (s : State) (c : Nat) (st : Status) (d r : Nat) : (s.postEvent c st d r).host.linkUp = s.host.linkUp :=
  (State.postEvent_host s c st d r).linkUp

@[simp] theorem State.postEvent_host_bootStep (s : State) (c : Nat) (st : Status) (d r : Nat) : (s.postEvent c st d r).host.bootStep = s.host.bootStep :=
  (State.postEvent_host s c st d r).bootStep

end Sys2Proof.Machine
end

