-- ==== Sys2Proof/Laws/Memory.lean ====
section
/-! SUPPORT. The byte stores: every operation keeps the canonical form, a byte that is written reads back, and every other byte reads as
before. -/

namespace Sys2Proof.Machine

open Sys2Proof

/-! ### The canonical form -/

/-- A canonical list of cells is the empty list, or a cell that is not zero before a canonical list of higher addresses. -/
theorem cellsWf_cons (c : Host.Cell) (l : List Host.Cell) :
    cellsWf (c :: l) = true ↔ c.2 ≠ 0 ∧ (∀ d ∈ l, c.1 < d.1) ∧ cellsWf l = true := by
  induction l generalizing c with
  | nil => simp [cellsWf]
  | cons d l ih =>
    simp only [cellsWf, Bool.and_eq_true, decide_eq_true_eq]
    constructor
    · rintro ⟨⟨h1, h2⟩, h3⟩
      refine ⟨h1, ?_, h3⟩
      intro e he
      rcases List.mem_cons.1 he with rfl | he
      · exact h2
      · exact Nat.lt_trans h2 (((ih d).1 h3).2.1 e he)
    · rintro ⟨h1, h2, h3⟩
      exact ⟨⟨h1, h2 d (List.mem_cons_self ..)⟩, h3⟩

/-- Every address of written cells was there before or is the one written. -/
theorem mem_cellsWrite {l : List Host.Cell} {a : Nat} {b : Byte} {d : Host.Cell} (h : d ∈ cellsWrite l a b) :
    d ∈ l ∨ d = (a, b) := by
  induction l with
  | nil => by_cases hb : b = 0 <;> simp_all [cellsWrite]
  | cons c l ih =>
    simp only [cellsWrite] at h
    split at h
    · split at h
      · exact .inl h
      · rcases List.mem_cons.1 h with h | h
        · exact .inr h
        · exact .inl h
    · split at h
      · split at h
        · exact .inl (List.mem_cons_of_mem _ h)
        · rcases List.mem_cons.1 h with h | h
          · exact .inr h
          · exact .inl (List.mem_cons_of_mem _ h)
      · rcases List.mem_cons.1 h with h | h
        · exact .inl (h ▸ List.mem_cons_self ..)
        · rcases ih h with h | h
          · exact .inl (List.mem_cons_of_mem _ h)
          · exact .inr h

/-- A write keeps the canonical form. -/
theorem cellsWrite_wf {l : List Host.Cell} (a : Nat) (b : Byte) (h : cellsWf l = true) : cellsWf (cellsWrite l a b) = true := by
  induction l with
  | nil =>
    by_cases hb : b = 0
    · simp only [cellsWrite]; rw [if_pos hb]; rfl
    · simp only [cellsWrite]; rw [if_neg hb]; exact (cellsWf_cons _ _).2 ⟨hb, fun d hd => (List.not_mem_nil hd).elim, rfl⟩
  | cons c l ih =>
    obtain ⟨h1, h2, h3⟩ := (cellsWf_cons c l).1 h
    simp only [cellsWrite]
    split
    · next ha =>
      split
      · exact h
      · next hb =>
        refine (cellsWf_cons _ _).2 ⟨hb, ?_, h⟩
        intro d hd
        rcases List.mem_cons.1 hd with rfl | hd
        · exact ha
        · exact Nat.lt_trans ha (h2 d hd)
    · split
      · next ha =>
        split
        · exact h3
        · next hb => exact (cellsWf_cons _ _).2 ⟨hb, fun d hd => ha ▸ h2 d hd, h3⟩
      · next ha hb =>
        refine (cellsWf_cons _ _).2 ⟨h1, ?_, ih h3⟩
        intro d hd
        rcases mem_cellsWrite hd with hd | rfl
        · exact h2 d hd
        · exact Nat.lt_of_le_of_ne (Nat.le_of_not_lt ha) (Ne.symm hb)

/-- Cells left out keep the canonical form. -/
theorem cellsFilter_wf {l : List Host.Cell} (p : Host.Cell → Bool) (h : cellsWf l = true) : cellsWf (l.filter p) = true := by
  induction l with
  | nil => rfl
  | cons c l ih =>
    obtain ⟨h1, h2, h3⟩ := (cellsWf_cons c l).1 h
    by_cases hp : p c = true
    · rw [List.filter_cons_of_pos hp]
      exact (cellsWf_cons _ _).2 ⟨h1, fun d hd => h2 d (List.mem_filter.1 hd).1, ih h3⟩
    · rw [List.filter_cons_of_neg hp]
      exact ih h3

@[simp] theorem Memory.wf_empty : ({} : Memory).wf = true := rfl

theorem Memory.write_wf {m : Memory} (a : Nat) (b : Byte) (h : m.wf = true) : (m.write a b).wf = true := cellsWrite_wf a b h

theorem Memory.writeBytes_wf {m : Memory} (a : Nat) (bs : List Byte) (h : m.wf = true) : (m.writeBytes a bs).wf = true := by
  induction bs generalizing m a with
  | nil => exact h
  | cons b bs ih => exact ih _ (write_wf a b h)

theorem Memory.erase_wf {m : Memory} (a n : Nat) (h : m.wf = true) : (m.erase a n).wf = true := cellsFilter_wf _ h

/-! ### Reads -/

/-- An address below every listed one reads as zero. -/
theorem cellsRead_of_lt {l : List Host.Cell} {a : Nat} (h : ∀ d ∈ l, a < d.1) : cellsRead l a = 0 := by
  induction l with
  | nil => rfl
  | cons c l ih =>
    have hc := h c (List.mem_cons_self ..)
    rw [cellsRead, if_neg (by omega)]
    exact ih fun d hd => h d (List.mem_cons_of_mem _ hd)

/-- A read after a write of one byte. -/
theorem cellsRead_write {l : List Host.Cell} (a x : Nat) (b : Byte) (h : cellsWf l = true) :
    cellsRead (cellsWrite l a b) x = if x = a then b else cellsRead l x := by
  induction l with
  | nil =>
    simp only [cellsWrite]
    by_cases hb : b = 0
    · rw [if_pos hb, hb]
      by_cases hx : x = a
      · rw [if_pos hx]; rfl
      · rw [if_neg hx]
    · rw [if_neg hb]
      by_cases hx : x = a
      · rw [if_pos hx, cellsRead, if_pos hx.symm]
      · rw [if_neg hx]; simp only [cellsRead]; rw [if_neg (Ne.symm hx)]
  | cons c l ih =>
    obtain ⟨h1, h2, h3⟩ := (cellsWf_cons c l).1 h
    simp only [cellsWrite]
    split
    · next ha =>
      by_cases hb : b = 0
      · rw [if_pos hb]
        by_cases hx : x = a
        · subst hx
          rw [if_pos rfl, hb]
          refine cellsRead_of_lt fun d hd => ?_
          rcases List.mem_cons.1 hd with rfl | hd
          · exact ha
          · exact Nat.lt_trans ha (h2 d hd)
        · rw [if_neg hx]
      · rw [if_neg hb]
        by_cases hx : x = a
        · subst hx; simp [cellsRead]
        · rw [if_neg hx, cellsRead, if_neg (Ne.symm hx)]
    · split
      · next ha =>
        subst ha
        by_cases hb : b = 0
        · rw [if_pos hb]
          by_cases hx : x = c.1
          · subst hx
            rw [if_pos rfl, hb]
            exact cellsRead_of_lt h2
          · rw [if_neg hx]
            show cellsRead l x = cellsRead (c :: l) x
            rw [cellsRead, if_neg (Ne.symm hx)]
        · rw [if_neg hb]
          by_cases hx : x = c.1
          · subst hx; simp [cellsRead]
          · rw [if_neg hx]
            simp only [cellsRead]
            rw [if_neg (Ne.symm hx), if_neg (Ne.symm hx)]
      · next ha hb =>
        simp only [cellsRead]
        by_cases hx : c.1 = x
        · subst hx
          rw [if_pos rfl, if_pos rfl, if_neg (Ne.symm hb)]
        · rw [if_neg hx, if_neg hx]
          exact ih h3

theorem Memory.read_write {m : Memory} (a x : Nat) (b : Byte) (h : m.wf = true) :
    (m.write a b).read x = if x = a then b else m.read x := cellsRead_write a x b h

/-- A read after a write of bytes: those that were written, and every other as before. -/
theorem Memory.read_writeBytes {m : Memory} (a x : Nat) (bs : List Byte) (h : m.wf = true) :
    (m.writeBytes a bs).read x = if a ≤ x ∧ x < a + bs.length then bs.getD (x - a) 0 else m.read x := by
  induction bs generalizing m a with
  | nil => simp only [writeBytes, List.length_nil]; rw [if_neg (by omega)]
  | cons b bs ih =>
    rw [writeBytes, ih _ (write_wf a b h), read_write a x b h, List.length_cons]
    by_cases hx : x = a
    · subst hx
      rw [if_neg (by omega), if_pos rfl, if_pos (by omega)]
      simp
    · rw [if_neg hx]
      by_cases hr : a + 1 ≤ x ∧ x < a + 1 + bs.length
      · rw [if_pos hr, if_pos (by omega)]
        obtain ⟨k, rfl⟩ : ∃ k, x = a + 1 + k := ⟨x - (a + 1), by omega⟩
        rw [show a + 1 + k - (a + 1) = k by omega, show a + 1 + k - a = k + 1 by omega, List.getD_cons_succ]
      · rw [if_neg hr, if_neg (by omega)]

/-- A read of cells from which some addresses were left out. -/
theorem cellsRead_filter (l : List Host.Cell) (p : Nat → Bool) (a : Nat) :
    cellsRead (l.filter fun c => p c.1) a = if p a then cellsRead l a else 0 := by
  induction l with
  | nil => simp [cellsRead]
  | cons c l ih =>
    by_cases hp : p c.1 = true
    · rw [List.filter_cons_of_pos (p := fun c : Host.Cell => p c.1) hp]
      simp only [cellsRead, ih]
      by_cases hc : c.1 = a
      · subst hc; simp [hp]
      · simp [hc]
    · rw [List.filter_cons_of_neg (p := fun c : Host.Cell => p c.1) hp, ih]
      by_cases hc : c.1 = a
      · subst hc; simp [hp]
      · simp [cellsRead, hc]

/-- A read after an erasure: zero where bytes were erased, and every other as before. -/
theorem Memory.read_erase (m : Memory) (a n x : Nat) :
    (m.erase a n).read x = if a ≤ x ∧ x < a + n then 0 else m.read x := by
  simp only [erase, read]
  rw [cellsRead_filter m.cells (fun i => !(decide (a ≤ i) && decide (i < a + n))) x]
  by_cases h : a ≤ x ∧ x < a + n
  · simp [h.1, h.2]
  · rw [if_neg h]
    by_cases h1 : a ≤ x
    · simp [h1, show ¬ x < a + n by omega]
    · simp [h1]

/-- The bytes of an extent are those that read at its addresses. -/
theorem Memory.readBytes_eq (m : Memory) (a n : Nat) : m.readBytes a n = (upto n).map fun i => m.read (a + i) := by
  simp only [readBytes, read]
  refine List.map_congr_left fun i hi => ?_
  rw [cellsRead_filter m.cells (fun x => decide (a ≤ x) && decide (x < a + n)) (a + i)]
  have : i < n := by simpa [upto] using hi
  simp [this]

/-- A read of the extent just written gives the bytes written. -/
theorem Memory.readBytes_writeBytes {m : Memory} (a : Nat) (bs : List Byte) (h : m.wf = true) :
    (m.writeBytes a bs).readBytes a bs.length = bs := by
  rw [readBytes_eq]
  apply List.ext_getElem
  · simp [upto]
  · intro i h1 h2
    rw [List.getElem_map, read_writeBytes _ _ _ h, if_pos (by simp [upto]; exact h2)]
    simp [upto, h2]

end Sys2Proof.Machine
end

