-- ==== Sys2Proof/Laws/State.lean ====
section
/-! SUPPORT. What each named update of one object does to every field of State: the field that holds the object changes, every
other one is as before. True by unfolding, so that no proof unfolds a record update. -/

set_option linter.all false

namespace Sys2Proof.Machine

open Sys2Proof

/-! ### modFn: a function of the PCI port -/

@[simp] theorem State.modFn_time (s : State) (fn : Nat) (f : Fn → Fn) : (s.modFn fn f).time = s.time := rfl
@[simp] theorem State.modFn_cue (s : State) (fn : Nat) (f : Fn → Fn) : (s.modFn fn f).cue = s.cue := rfl
@[simp] theorem State.modFn_host (s : State) (fn : Nat) (f : Fn → Fn) : (s.modFn fn f).host = { s.host with fns := aset s.host.fns fn (f (s.fnOf fn)) } := rfl
@[simp] theorem State.modFn_rings (s : State) (fn : Nat) (f : Fn → Fn) : (s.modFn fn f).rings = s.rings := rfl
@[simp] theorem State.modFn_scanPos (s : State) (fn : Nat) (f : Fn → Fn) : (s.modFn fn f).scanPos = s.scanPos := rfl
@[simp] theorem State.modFn_inflight (s : State) (fn : Nat) (f : Fn → Fn) : (s.modFn fn f).inflight = s.inflight := rfl
@[simp] theorem State.modFn_nextId (s : State) (fn : Nat) (f : Fn → Fn) : (s.modFn fn f).nextId = s.nextId := rfl
@[simp] theorem State.modFn_groupFn (s : State) (fn : Nat) (f : Fn → Fn) : (s.modFn fn f).groupFn = s.groupFn := rfl
@[simp] theorem State.modFn_events (s : State) (fn : Nat) (f : Fn → Fn) : (s.modFn fn f).events = s.events := rfl
@[simp] theorem State.modFn_eventsLost (s : State) (fn : Nat) (f : Fn → Fn) : (s.modFn fn f).eventsLost = s.eventsLost := rfl
@[simp] theorem State.modFn_outputs (s : State) (fn : Nat) (f : Fn → Fn) : (s.modFn fn f).outputs = s.outputs := rfl
@[simp] theorem State.modFn_lastRead (s : State) (fn : Nat) (f : Fn → Fn) : (s.modFn fn f).lastRead = s.lastRead := rfl
@[simp] theorem State.modFn_lastReadBytes (s : State) (fn : Nat) (f : Fn → Fn) : (s.modFn fn f).lastReadBytes = s.lastReadBytes := rfl
@[simp] theorem State.modFn_lastReadPoisoned (s : State) (fn : Nat) (f : Fn → Fn) : (s.modFn fn f).lastReadPoisoned = s.lastReadPoisoned := rfl
@[simp] theorem State.modFn_streams (s : State) (fn : Nat) (f : Fn → Fn) : (s.modFn fn f).streams = s.streams := rfl
@[simp] theorem State.modFn_samples (s : State) (fn : Nat) (f : Fn → Fn) : (s.modFn fn f).samples = s.samples := rfl
@[simp] theorem State.modFn_sampleOrder (s : State) (fn : Nat) (f : Fn → Fn) : (s.modFn fn f).sampleOrder = s.sampleOrder := rfl
@[simp] theorem State.modFn_casts (s : State) (fn : Nat) (f : Fn → Fn) : (s.modFn fn f).casts = s.casts := rfl
@[simp] theorem State.modFn_scripts (s : State) (fn : Nat) (f : Fn → Fn) : (s.modFn fn f).scripts = s.scripts := rfl
@[simp] theorem State.modFn_wardrobe (s : State) (fn : Nat) (f : Fn → Fn) : (s.modFn fn f).wardrobe = s.wardrobe := rfl
@[simp] theorem State.modFn_house (s : State) (fn : Nat) (f : Fn → Fn) : (s.modFn fn f).house = s.house := rfl
@[simp] theorem State.modFn_dram (s : State) (fn : Nat) (f : Fn → Fn) : (s.modFn fn f).dram = s.dram := rfl
@[simp] theorem State.modFn_arrays (s : State) (fn : Nat) (f : Fn → Fn) : (s.modFn fn f).arrays = s.arrays := rfl
@[simp] theorem State.modFn_vecs (s : State) (fn : Nat) (f : Fn → Fn) : (s.modFn fn f).vecs = s.vecs := rfl
@[simp] theorem State.modFn_samps (s : State) (fn : Nat) (f : Fn → Fn) : (s.modFn fn f).samps = s.samps := rfl
@[simp] theorem State.modFn_codecs (s : State) (fn : Nat) (f : Fn → Fn) : (s.modFn fn f).codecs = s.codecs := rfl
@[simp] theorem State.modFn_ingest (s : State) (fn : Nat) (f : Fn → Fn) : (s.modFn fn f).ingest = s.ingest := rfl
@[simp] theorem State.modFn_jpegs (s : State) (fn : Nat) (f : Fn → Fn) : (s.modFn fn f).jpegs = s.jpegs := rfl
@[simp] theorem State.modFn_scalers (s : State) (fn : Nat) (f : Fn → Fn) : (s.modFn fn f).scalers = s.scalers := rfl
@[simp] theorem State.modFn_scoreboard (s : State) (fn : Nat) (f : Fn → Fn) : (s.modFn fn f).scoreboard = s.scoreboard := rfl
@[simp] theorem State.modFn_contexts (s : State) (fn : Nat) (f : Fn → Fn) : (s.modFn fn f).contexts = s.contexts := rfl
@[simp] theorem State.modFn_ewl (s : State) (fn : Nat) (f : Fn → Fn) : (s.modFn fn f).ewl = s.ewl := rfl
@[simp] theorem State.modFn_sec (s : State) (fn : Nat) (f : Fn → Fn) : (s.modFn fn f).sec = s.sec := rfl
@[simp] theorem State.modFn_obs (s : State) (fn : Nat) (f : Fn → Fn) : (s.modFn fn f).obs = s.obs := rfl
@[simp] theorem State.modFn_pwr (s : State) (fn : Nat) (f : Fn → Fn) : (s.modFn fn f).pwr = s.pwr := rfl
@[simp] theorem State.modFn_mgmt (s : State) (fn : Nat) (f : Fn → Fn) : (s.modFn fn f).mgmt = s.mgmt := rfl
@[simp] theorem State.modFn_playbill (s : State) (fn : Nat) (f : Fn → Fn) : (s.modFn fn f).playbill = s.playbill := rfl
@[simp] theorem State.modFn_tap (s : State) (fn : Nat) (f : Fn → Fn) : (s.modFn fn f).tap = s.tap := rfl
@[simp] theorem State.modFn_cores (s : State) (fn : Nat) (f : Fn → Fn) : (s.modFn fn f).cores = s.cores := rfl
@[simp] theorem State.modFn_coreRefetches (s : State) (fn : Nat) (f : Fn → Fn) : (s.modFn fn f).coreRefetches = s.coreRefetches := rfl
@[simp] theorem State.modFn_freeCount (s : State) (fn : Nat) (f : Fn → Fn) : (s.modFn fn f).freeCount = s.freeCount := rfl
@[simp] theorem State.modFn_pending (s : State) (fn : Nat) (f : Fn → Fn) : (s.modFn fn f).pending = s.pending := rfl

/-! ### modRing: a ring -/

@[simp] theorem State.modRing_time (s : State) (q : Nat) (f : Ring → Ring) : (s.modRing q f).time = s.time := rfl
@[simp] theorem State.modRing_cue (s : State) (q : Nat) (f : Ring → Ring) : (s.modRing q f).cue = s.cue := rfl
@[simp] theorem State.modRing_host (s : State) (q : Nat) (f : Ring → Ring) : (s.modRing q f).host = s.host := rfl
@[simp] theorem State.modRing_rings (s : State) (q : Nat) (f : Ring → Ring) : (s.modRing q f).rings = amod s.rings q f := rfl
@[simp] theorem State.modRing_scanPos (s : State) (q : Nat) (f : Ring → Ring) : (s.modRing q f).scanPos = s.scanPos := rfl
@[simp] theorem State.modRing_inflight (s : State) (q : Nat) (f : Ring → Ring) : (s.modRing q f).inflight = s.inflight := rfl
@[simp] theorem State.modRing_nextId (s : State) (q : Nat) (f : Ring → Ring) : (s.modRing q f).nextId = s.nextId := rfl
@[simp] theorem State.modRing_groupFn (s : State) (q : Nat) (f : Ring → Ring) : (s.modRing q f).groupFn = s.groupFn := rfl
@[simp] theorem State.modRing_events (s : State) (q : Nat) (f : Ring → Ring) : (s.modRing q f).events = s.events := rfl
@[simp] theorem State.modRing_eventsLost (s : State) (q : Nat) (f : Ring → Ring) : (s.modRing q f).eventsLost = s.eventsLost := rfl
@[simp] theorem State.modRing_outputs (s : State) (q : Nat) (f : Ring → Ring) : (s.modRing q f).outputs = s.outputs := rfl
@[simp] theorem State.modRing_lastRead (s : State) (q : Nat) (f : Ring → Ring) : (s.modRing q f).lastRead = s.lastRead := rfl
@[simp] theorem State.modRing_lastReadBytes (s : State) (q : Nat) (f : Ring → Ring) : (s.modRing q f).lastReadBytes = s.lastReadBytes := rfl
@[simp] theorem State.modRing_lastReadPoisoned (s : State) (q : Nat) (f : Ring → Ring) : (s.modRing q f).lastReadPoisoned = s.lastReadPoisoned := rfl
@[simp] theorem State.modRing_streams (s : State) (q : Nat) (f : Ring → Ring) : (s.modRing q f).streams = s.streams := rfl
@[simp] theorem State.modRing_samples (s : State) (q : Nat) (f : Ring → Ring) : (s.modRing q f).samples = s.samples := rfl
@[simp] theorem State.modRing_sampleOrder (s : State) (q : Nat) (f : Ring → Ring) : (s.modRing q f).sampleOrder = s.sampleOrder := rfl
@[simp] theorem State.modRing_casts (s : State) (q : Nat) (f : Ring → Ring) : (s.modRing q f).casts = s.casts := rfl
@[simp] theorem State.modRing_scripts (s : State) (q : Nat) (f : Ring → Ring) : (s.modRing q f).scripts = s.scripts := rfl
@[simp] theorem State.modRing_wardrobe (s : State) (q : Nat) (f : Ring → Ring) : (s.modRing q f).wardrobe = s.wardrobe := rfl
@[simp] theorem State.modRing_house (s : State) (q : Nat) (f : Ring → Ring) : (s.modRing q f).house = s.house := rfl
@[simp] theorem State.modRing_dram (s : State) (q : Nat) (f : Ring → Ring) : (s.modRing q f).dram = s.dram := rfl
@[simp] theorem State.modRing_arrays (s : State) (q : Nat) (f : Ring → Ring) : (s.modRing q f).arrays = s.arrays := rfl
@[simp] theorem State.modRing_vecs (s : State) (q : Nat) (f : Ring → Ring) : (s.modRing q f).vecs = s.vecs := rfl
@[simp] theorem State.modRing_samps (s : State) (q : Nat) (f : Ring → Ring) : (s.modRing q f).samps = s.samps := rfl
@[simp] theorem State.modRing_codecs (s : State) (q : Nat) (f : Ring → Ring) : (s.modRing q f).codecs = s.codecs := rfl
@[simp] theorem State.modRing_ingest (s : State) (q : Nat) (f : Ring → Ring) : (s.modRing q f).ingest = s.ingest := rfl
@[simp] theorem State.modRing_jpegs (s : State) (q : Nat) (f : Ring → Ring) : (s.modRing q f).jpegs = s.jpegs := rfl
@[simp] theorem State.modRing_scalers (s : State) (q : Nat) (f : Ring → Ring) : (s.modRing q f).scalers = s.scalers := rfl
@[simp] theorem State.modRing_scoreboard (s : State) (q : Nat) (f : Ring → Ring) : (s.modRing q f).scoreboard = s.scoreboard := rfl
@[simp] theorem State.modRing_contexts (s : State) (q : Nat) (f : Ring → Ring) : (s.modRing q f).contexts = s.contexts := rfl
@[simp] theorem State.modRing_ewl (s : State) (q : Nat) (f : Ring → Ring) : (s.modRing q f).ewl = s.ewl := rfl
@[simp] theorem State.modRing_sec (s : State) (q : Nat) (f : Ring → Ring) : (s.modRing q f).sec = s.sec := rfl
@[simp] theorem State.modRing_obs (s : State) (q : Nat) (f : Ring → Ring) : (s.modRing q f).obs = s.obs := rfl
@[simp] theorem State.modRing_pwr (s : State) (q : Nat) (f : Ring → Ring) : (s.modRing q f).pwr = s.pwr := rfl
@[simp] theorem State.modRing_mgmt (s : State) (q : Nat) (f : Ring → Ring) : (s.modRing q f).mgmt = s.mgmt := rfl
@[simp] theorem State.modRing_playbill (s : State) (q : Nat) (f : Ring → Ring) : (s.modRing q f).playbill = s.playbill := rfl
@[simp] theorem State.modRing_tap (s : State) (q : Nat) (f : Ring → Ring) : (s.modRing q f).tap = s.tap := rfl
@[simp] theorem State.modRing_cores (s : State) (q : Nat) (f : Ring → Ring) : (s.modRing q f).cores = s.cores := rfl
@[simp] theorem State.modRing_coreRefetches (s : State) (q : Nat) (f : Ring → Ring) : (s.modRing q f).coreRefetches = s.coreRefetches := rfl
@[simp] theorem State.modRing_freeCount (s : State) (q : Nat) (f : Ring → Ring) : (s.modRing q f).freeCount = s.freeCount := rfl
@[simp] theorem State.modRing_pending (s : State) (q : Nat) (f : Ring → Ring) : (s.modRing q f).pending = s.pending := rfl

/-! ### modEw: an Euwald port -/

@[simp] theorem State.modEw_time (s : State) (n : Nat) (f : EwPort → EwPort) : (s.modEw n f).time = s.time := rfl
@[simp] theorem State.modEw_cue (s : State) (n : Nat) (f : EwPort → EwPort) : (s.modEw n f).cue = s.cue := rfl
@[simp] theorem State.modEw_host (s : State) (n : Nat) (f : EwPort → EwPort) : (s.modEw n f).host = s.host := rfl
@[simp] theorem State.modEw_rings (s : State) (n : Nat) (f : EwPort → EwPort) : (s.modEw n f).rings = s.rings := rfl
@[simp] theorem State.modEw_scanPos (s : State) (n : Nat) (f : EwPort → EwPort) : (s.modEw n f).scanPos = s.scanPos := rfl
@[simp] theorem State.modEw_inflight (s : State) (n : Nat) (f : EwPort → EwPort) : (s.modEw n f).inflight = s.inflight := rfl
@[simp] theorem State.modEw_nextId (s : State) (n : Nat) (f : EwPort → EwPort) : (s.modEw n f).nextId = s.nextId := rfl
@[simp] theorem State.modEw_groupFn (s : State) (n : Nat) (f : EwPort → EwPort) : (s.modEw n f).groupFn = s.groupFn := rfl
@[simp] theorem State.modEw_events (s : State) (n : Nat) (f : EwPort → EwPort) : (s.modEw n f).events = s.events := rfl
@[simp] theorem State.modEw_eventsLost (s : State) (n : Nat) (f : EwPort → EwPort) : (s.modEw n f).eventsLost = s.eventsLost := rfl
@[simp] theorem State.modEw_outputs (s : State) (n : Nat) (f : EwPort → EwPort) : (s.modEw n f).outputs = s.outputs := rfl
@[simp] theorem State.modEw_lastRead (s : State) (n : Nat) (f : EwPort → EwPort) : (s.modEw n f).lastRead = s.lastRead := rfl
@[simp] theorem State.modEw_lastReadBytes (s : State) (n : Nat) (f : EwPort → EwPort) : (s.modEw n f).lastReadBytes = s.lastReadBytes := rfl
@[simp] theorem State.modEw_lastReadPoisoned (s : State) (n : Nat) (f : EwPort → EwPort) : (s.modEw n f).lastReadPoisoned = s.lastReadPoisoned := rfl
@[simp] theorem State.modEw_streams (s : State) (n : Nat) (f : EwPort → EwPort) : (s.modEw n f).streams = s.streams := rfl
@[simp] theorem State.modEw_samples (s : State) (n : Nat) (f : EwPort → EwPort) : (s.modEw n f).samples = s.samples := rfl
@[simp] theorem State.modEw_sampleOrder (s : State) (n : Nat) (f : EwPort → EwPort) : (s.modEw n f).sampleOrder = s.sampleOrder := rfl
@[simp] theorem State.modEw_casts (s : State) (n : Nat) (f : EwPort → EwPort) : (s.modEw n f).casts = s.casts := rfl
@[simp] theorem State.modEw_scripts (s : State) (n : Nat) (f : EwPort → EwPort) : (s.modEw n f).scripts = s.scripts := rfl
@[simp] theorem State.modEw_wardrobe (s : State) (n : Nat) (f : EwPort → EwPort) : (s.modEw n f).wardrobe = s.wardrobe := rfl
@[simp] theorem State.modEw_house (s : State) (n : Nat) (f : EwPort → EwPort) : (s.modEw n f).house = s.house := rfl
@[simp] theorem State.modEw_dram (s : State) (n : Nat) (f : EwPort → EwPort) : (s.modEw n f).dram = s.dram := rfl
@[simp] theorem State.modEw_arrays (s : State) (n : Nat) (f : EwPort → EwPort) : (s.modEw n f).arrays = s.arrays := rfl
@[simp] theorem State.modEw_vecs (s : State) (n : Nat) (f : EwPort → EwPort) : (s.modEw n f).vecs = s.vecs := rfl
@[simp] theorem State.modEw_samps (s : State) (n : Nat) (f : EwPort → EwPort) : (s.modEw n f).samps = s.samps := rfl
@[simp] theorem State.modEw_codecs (s : State) (n : Nat) (f : EwPort → EwPort) : (s.modEw n f).codecs = s.codecs := rfl
@[simp] theorem State.modEw_ingest (s : State) (n : Nat) (f : EwPort → EwPort) : (s.modEw n f).ingest = s.ingest := rfl
@[simp] theorem State.modEw_jpegs (s : State) (n : Nat) (f : EwPort → EwPort) : (s.modEw n f).jpegs = s.jpegs := rfl
@[simp] theorem State.modEw_scalers (s : State) (n : Nat) (f : EwPort → EwPort) : (s.modEw n f).scalers = s.scalers := rfl
@[simp] theorem State.modEw_scoreboard (s : State) (n : Nat) (f : EwPort → EwPort) : (s.modEw n f).scoreboard = s.scoreboard := rfl
@[simp] theorem State.modEw_contexts (s : State) (n : Nat) (f : EwPort → EwPort) : (s.modEw n f).contexts = s.contexts := rfl
@[simp] theorem State.modEw_ewl (s : State) (n : Nat) (f : EwPort → EwPort) : (s.modEw n f).ewl = { s.ewl with ports := modAt s.ewl.ports n f } := rfl
@[simp] theorem State.modEw_sec (s : State) (n : Nat) (f : EwPort → EwPort) : (s.modEw n f).sec = s.sec := rfl
@[simp] theorem State.modEw_obs (s : State) (n : Nat) (f : EwPort → EwPort) : (s.modEw n f).obs = s.obs := rfl
@[simp] theorem State.modEw_pwr (s : State) (n : Nat) (f : EwPort → EwPort) : (s.modEw n f).pwr = s.pwr := rfl
@[simp] theorem State.modEw_mgmt (s : State) (n : Nat) (f : EwPort → EwPort) : (s.modEw n f).mgmt = s.mgmt := rfl
@[simp] theorem State.modEw_playbill (s : State) (n : Nat) (f : EwPort → EwPort) : (s.modEw n f).playbill = s.playbill := rfl
@[simp] theorem State.modEw_tap (s : State) (n : Nat) (f : EwPort → EwPort) : (s.modEw n f).tap = s.tap := rfl
@[simp] theorem State.modEw_cores (s : State) (n : Nat) (f : EwPort → EwPort) : (s.modEw n f).cores = s.cores := rfl
@[simp] theorem State.modEw_coreRefetches (s : State) (n : Nat) (f : EwPort → EwPort) : (s.modEw n f).coreRefetches = s.coreRefetches := rfl
@[simp] theorem State.modEw_freeCount (s : State) (n : Nat) (f : EwPort → EwPort) : (s.modEw n f).freeCount = s.freeCount := rfl
@[simp] theorem State.modEw_pending (s : State) (n : Nat) (f : EwPort → EwPort) : (s.modEw n f).pending = s.pending := rfl

/-! ### modMember: a row of the member table -/

@[simp] theorem State.modMember_time (s : State) (m : Nat) (f : Member → Member) : (s.modMember m f).time = s.time := rfl
@[simp] theorem State.modMember_cue (s : State) (m : Nat) (f : Member → Member) : (s.modMember m f).cue = s.cue := rfl
@[simp] theorem State.modMember_host (s : State) (m : Nat) (f : Member → Member) : (s.modMember m f).host = s.host := rfl
@[simp] theorem State.modMember_rings (s : State) (m : Nat) (f : Member → Member) : (s.modMember m f).rings = s.rings := rfl
@[simp] theorem State.modMember_scanPos (s : State) (m : Nat) (f : Member → Member) : (s.modMember m f).scanPos = s.scanPos := rfl
@[simp] theorem State.modMember_inflight (s : State) (m : Nat) (f : Member → Member) : (s.modMember m f).inflight = s.inflight := rfl
@[simp] theorem State.modMember_nextId (s : State) (m : Nat) (f : Member → Member) : (s.modMember m f).nextId = s.nextId := rfl
@[simp] theorem State.modMember_groupFn (s : State) (m : Nat) (f : Member → Member) : (s.modMember m f).groupFn = s.groupFn := rfl
@[simp] theorem State.modMember_events (s : State) (m : Nat) (f : Member → Member) : (s.modMember m f).events = s.events := rfl
@[simp] theorem State.modMember_eventsLost (s : State) (m : Nat) (f : Member → Member) : (s.modMember m f).eventsLost = s.eventsLost := rfl
@[simp] theorem State.modMember_outputs (s : State) (m : Nat) (f : Member → Member) : (s.modMember m f).outputs = s.outputs := rfl
@[simp] theorem State.modMember_lastRead (s : State) (m : Nat) (f : Member → Member) : (s.modMember m f).lastRead = s.lastRead := rfl
@[simp] theorem State.modMember_lastReadBytes (s : State) (m : Nat) (f : Member → Member) : (s.modMember m f).lastReadBytes = s.lastReadBytes := rfl
@[simp] theorem State.modMember_lastReadPoisoned (s : State) (m : Nat) (f : Member → Member) : (s.modMember m f).lastReadPoisoned = s.lastReadPoisoned := rfl
@[simp] theorem State.modMember_streams (s : State) (m : Nat) (f : Member → Member) : (s.modMember m f).streams = s.streams := rfl
@[simp] theorem State.modMember_samples (s : State) (m : Nat) (f : Member → Member) : (s.modMember m f).samples = s.samples := rfl
@[simp] theorem State.modMember_sampleOrder (s : State) (m : Nat) (f : Member → Member) : (s.modMember m f).sampleOrder = s.sampleOrder := rfl
@[simp] theorem State.modMember_casts (s : State) (m : Nat) (f : Member → Member) : (s.modMember m f).casts = s.casts := rfl
@[simp] theorem State.modMember_scripts (s : State) (m : Nat) (f : Member → Member) : (s.modMember m f).scripts = s.scripts := rfl
@[simp] theorem State.modMember_wardrobe (s : State) (m : Nat) (f : Member → Member) : (s.modMember m f).wardrobe = s.wardrobe := rfl
@[simp] theorem State.modMember_house (s : State) (m : Nat) (f : Member → Member) : (s.modMember m f).house = s.house := rfl
@[simp] theorem State.modMember_dram (s : State) (m : Nat) (f : Member → Member) : (s.modMember m f).dram = s.dram := rfl
@[simp] theorem State.modMember_arrays (s : State) (m : Nat) (f : Member → Member) : (s.modMember m f).arrays = s.arrays := rfl
@[simp] theorem State.modMember_vecs (s : State) (m : Nat) (f : Member → Member) : (s.modMember m f).vecs = s.vecs := rfl
@[simp] theorem State.modMember_samps (s : State) (m : Nat) (f : Member → Member) : (s.modMember m f).samps = s.samps := rfl
@[simp] theorem State.modMember_codecs (s : State) (m : Nat) (f : Member → Member) : (s.modMember m f).codecs = s.codecs := rfl
@[simp] theorem State.modMember_ingest (s : State) (m : Nat) (f : Member → Member) : (s.modMember m f).ingest = s.ingest := rfl
@[simp] theorem State.modMember_jpegs (s : State) (m : Nat) (f : Member → Member) : (s.modMember m f).jpegs = s.jpegs := rfl
@[simp] theorem State.modMember_scalers (s : State) (m : Nat) (f : Member → Member) : (s.modMember m f).scalers = s.scalers := rfl
@[simp] theorem State.modMember_scoreboard (s : State) (m : Nat) (f : Member → Member) : (s.modMember m f).scoreboard = s.scoreboard := rfl
@[simp] theorem State.modMember_contexts (s : State) (m : Nat) (f : Member → Member) : (s.modMember m f).contexts = s.contexts := rfl
@[simp] theorem State.modMember_ewl (s : State) (m : Nat) (f : Member → Member) : (s.modMember m f).ewl = { s.ewl with table := aset s.ewl.table m (f (s.memberOf m)) } := rfl
@[simp] theorem State.modMember_sec (s : State) (m : Nat) (f : Member → Member) : (s.modMember m f).sec = s.sec := rfl
@[simp] theorem State.modMember_obs (s : State) (m : Nat) (f : Member → Member) : (s.modMember m f).obs = s.obs := rfl
@[simp] theorem State.modMember_pwr (s : State) (m : Nat) (f : Member → Member) : (s.modMember m f).pwr = s.pwr := rfl
@[simp] theorem State.modMember_mgmt (s : State) (m : Nat) (f : Member → Member) : (s.modMember m f).mgmt = s.mgmt := rfl
@[simp] theorem State.modMember_playbill (s : State) (m : Nat) (f : Member → Member) : (s.modMember m f).playbill = s.playbill := rfl
@[simp] theorem State.modMember_tap (s : State) (m : Nat) (f : Member → Member) : (s.modMember m f).tap = s.tap := rfl
@[simp] theorem State.modMember_cores (s : State) (m : Nat) (f : Member → Member) : (s.modMember m f).cores = s.cores := rfl
@[simp] theorem State.modMember_coreRefetches (s : State) (m : Nat) (f : Member → Member) : (s.modMember m f).coreRefetches = s.coreRefetches := rfl
@[simp] theorem State.modMember_freeCount (s : State) (m : Nat) (f : Member → Member) : (s.modMember m f).freeCount = s.freeCount := rfl
@[simp] theorem State.modMember_pending (s : State) (m : Nat) (f : Member → Member) : (s.modMember m f).pending = s.pending := rfl

/-! ### setWork: what a command in flight waits for -/

@[simp] theorem State.setWork_time (s : State) (id : Nat) (w : Work) : (s.setWork id w).time = s.time := rfl
@[simp] theorem State.setWork_cue (s : State) (id : Nat) (w : Work) : (s.setWork id w).cue = s.cue := rfl
@[simp] theorem State.setWork_host (s : State) (id : Nat) (w : Work) : (s.setWork id w).host = s.host := rfl
@[simp] theorem State.setWork_rings (s : State) (id : Nat) (w : Work) : (s.setWork id w).rings = s.rings := rfl
@[simp] theorem State.setWork_scanPos (s : State) (id : Nat) (w : Work) : (s.setWork id w).scanPos = s.scanPos := rfl
@[simp] theorem State.setWork_inflight (s : State) (id : Nat) (w : Work) : (s.setWork id w).inflight = amod s.inflight id fun f => { f with work := w } := rfl
@[simp] theorem State.setWork_nextId (s : State) (id : Nat) (w : Work) : (s.setWork id w).nextId = s.nextId := rfl
@[simp] theorem State.setWork_groupFn (s : State) (id : Nat) (w : Work) : (s.setWork id w).groupFn = s.groupFn := rfl
@[simp] theorem State.setWork_events (s : State) (id : Nat) (w : Work) : (s.setWork id w).events = s.events := rfl
@[simp] theorem State.setWork_eventsLost (s : State) (id : Nat) (w : Work) : (s.setWork id w).eventsLost = s.eventsLost := rfl
@[simp] theorem State.setWork_outputs (s : State) (id : Nat) (w : Work) : (s.setWork id w).outputs = s.outputs := rfl
@[simp] theorem State.setWork_lastRead (s : State) (id : Nat) (w : Work) : (s.setWork id w).lastRead = s.lastRead := rfl
@[simp] theorem State.setWork_lastReadBytes (s : State) (id : Nat) (w : Work) : (s.setWork id w).lastReadBytes = s.lastReadBytes := rfl
@[simp] theorem State.setWork_lastReadPoisoned (s : State) (id : Nat) (w : Work) : (s.setWork id w).lastReadPoisoned = s.lastReadPoisoned := rfl
@[simp] theorem State.setWork_streams (s : State) (id : Nat) (w : Work) : (s.setWork id w).streams = s.streams := rfl
@[simp] theorem State.setWork_samples (s : State) (id : Nat) (w : Work) : (s.setWork id w).samples = s.samples := rfl
@[simp] theorem State.setWork_sampleOrder (s : State) (id : Nat) (w : Work) : (s.setWork id w).sampleOrder = s.sampleOrder := rfl
@[simp] theorem State.setWork_casts (s : State) (id : Nat) (w : Work) : (s.setWork id w).casts = s.casts := rfl
@[simp] theorem State.setWork_scripts (s : State) (id : Nat) (w : Work) : (s.setWork id w).scripts = s.scripts := rfl
@[simp] theorem State.setWork_wardrobe (s : State) (id : Nat) (w : Work) : (s.setWork id w).wardrobe = s.wardrobe := rfl
@[simp] theorem State.setWork_house (s : State) (id : Nat) (w : Work) : (s.setWork id w).house = s.house := rfl
@[simp] theorem State.setWork_dram (s : State) (id : Nat) (w : Work) : (s.setWork id w).dram = s.dram := rfl
@[simp] theorem State.setWork_arrays (s : State) (id : Nat) (w : Work) : (s.setWork id w).arrays = s.arrays := rfl
@[simp] theorem State.setWork_vecs (s : State) (id : Nat) (w : Work) : (s.setWork id w).vecs = s.vecs := rfl
@[simp] theorem State.setWork_samps (s : State) (id : Nat) (w : Work) : (s.setWork id w).samps = s.samps := rfl
@[simp] theorem State.setWork_codecs (s : State) (id : Nat) (w : Work) : (s.setWork id w).codecs = s.codecs := rfl
@[simp] theorem State.setWork_ingest (s : State) (id : Nat) (w : Work) : (s.setWork id w).ingest = s.ingest := rfl
@[simp] theorem State.setWork_jpegs (s : State) (id : Nat) (w : Work) : (s.setWork id w).jpegs = s.jpegs := rfl
@[simp] theorem State.setWork_scalers (s : State) (id : Nat) (w : Work) : (s.setWork id w).scalers = s.scalers := rfl
@[simp] theorem State.setWork_scoreboard (s : State) (id : Nat) (w : Work) : (s.setWork id w).scoreboard = s.scoreboard := rfl
@[simp] theorem State.setWork_contexts (s : State) (id : Nat) (w : Work) : (s.setWork id w).contexts = s.contexts := rfl
@[simp] theorem State.setWork_ewl (s : State) (id : Nat) (w : Work) : (s.setWork id w).ewl = s.ewl := rfl
@[simp] theorem State.setWork_sec (s : State) (id : Nat) (w : Work) : (s.setWork id w).sec = s.sec := rfl
@[simp] theorem State.setWork_obs (s : State) (id : Nat) (w : Work) : (s.setWork id w).obs = s.obs := rfl
@[simp] theorem State.setWork_pwr (s : State) (id : Nat) (w : Work) : (s.setWork id w).pwr = s.pwr := rfl
@[simp] theorem State.setWork_mgmt (s : State) (id : Nat) (w : Work) : (s.setWork id w).mgmt = s.mgmt := rfl
@[simp] theorem State.setWork_playbill (s : State) (id : Nat) (w : Work) : (s.setWork id w).playbill = s.playbill := rfl
@[simp] theorem State.setWork_tap (s : State) (id : Nat) (w : Work) : (s.setWork id w).tap = s.tap := rfl
@[simp] theorem State.setWork_cores (s : State) (id : Nat) (w : Work) : (s.setWork id w).cores = s.cores := rfl
@[simp] theorem State.setWork_coreRefetches (s : State) (id : Nat) (w : Work) : (s.setWork id w).coreRefetches = s.coreRefetches := rfl
@[simp] theorem State.setWork_freeCount (s : State) (id : Nat) (w : Work) : (s.setWork id w).freeCount = s.freeCount := rfl
@[simp] theorem State.setWork_pending (s : State) (id : Nat) (w : Work) : (s.setWork id w).pending = s.pending := rfl

/-! ### modArray: an array -/

@[simp] theorem State.modArray_time (s : State) (a : Nat) (f : ArrayBlk → ArrayBlk) : (s.modArray a f).time = s.time := rfl
@[simp] theorem State.modArray_cue (s : State) (a : Nat) (f : ArrayBlk → ArrayBlk) : (s.modArray a f).cue = s.cue := rfl
@[simp] theorem State.modArray_host (s : State) (a : Nat) (f : ArrayBlk → ArrayBlk) : (s.modArray a f).host = s.host := rfl
@[simp] theorem State.modArray_rings (s : State) (a : Nat) (f : ArrayBlk → ArrayBlk) : (s.modArray a f).rings = s.rings := rfl
@[simp] theorem State.modArray_scanPos (s : State) (a : Nat) (f : ArrayBlk → ArrayBlk) : (s.modArray a f).scanPos = s.scanPos := rfl
@[simp] theorem State.modArray_inflight (s : State) (a : Nat) (f : ArrayBlk → ArrayBlk) : (s.modArray a f).inflight = s.inflight := rfl
@[simp] theorem State.modArray_nextId (s : State) (a : Nat) (f : ArrayBlk → ArrayBlk) : (s.modArray a f).nextId = s.nextId := rfl
@[simp] theorem State.modArray_groupFn (s : State) (a : Nat) (f : ArrayBlk → ArrayBlk) : (s.modArray a f).groupFn = s.groupFn := rfl
@[simp] theorem State.modArray_events (s : State) (a : Nat) (f : ArrayBlk → ArrayBlk) : (s.modArray a f).events = s.events := rfl
@[simp] theorem State.modArray_eventsLost (s : State) (a : Nat) (f : ArrayBlk → ArrayBlk) : (s.modArray a f).eventsLost = s.eventsLost := rfl
@[simp] theorem State.modArray_outputs (s : State) (a : Nat) (f : ArrayBlk → ArrayBlk) : (s.modArray a f).outputs = s.outputs := rfl
@[simp] theorem State.modArray_lastRead (s : State) (a : Nat) (f : ArrayBlk → ArrayBlk) : (s.modArray a f).lastRead = s.lastRead := rfl
@[simp] theorem State.modArray_lastReadBytes (s : State) (a : Nat) (f : ArrayBlk → ArrayBlk) : (s.modArray a f).lastReadBytes = s.lastReadBytes := rfl
@[simp] theorem State.modArray_lastReadPoisoned (s : State) (a : Nat) (f : ArrayBlk → ArrayBlk) : (s.modArray a f).lastReadPoisoned = s.lastReadPoisoned := rfl
@[simp] theorem State.modArray_streams (s : State) (a : Nat) (f : ArrayBlk → ArrayBlk) : (s.modArray a f).streams = s.streams := rfl
@[simp] theorem State.modArray_samples (s : State) (a : Nat) (f : ArrayBlk → ArrayBlk) : (s.modArray a f).samples = s.samples := rfl
@[simp] theorem State.modArray_sampleOrder (s : State) (a : Nat) (f : ArrayBlk → ArrayBlk) : (s.modArray a f).sampleOrder = s.sampleOrder := rfl
@[simp] theorem State.modArray_casts (s : State) (a : Nat) (f : ArrayBlk → ArrayBlk) : (s.modArray a f).casts = s.casts := rfl
@[simp] theorem State.modArray_scripts (s : State) (a : Nat) (f : ArrayBlk → ArrayBlk) : (s.modArray a f).scripts = s.scripts := rfl
@[simp] theorem State.modArray_wardrobe (s : State) (a : Nat) (f : ArrayBlk → ArrayBlk) : (s.modArray a f).wardrobe = s.wardrobe := rfl
@[simp] theorem State.modArray_house (s : State) (a : Nat) (f : ArrayBlk → ArrayBlk) : (s.modArray a f).house = s.house := rfl
@[simp] theorem State.modArray_dram (s : State) (a : Nat) (f : ArrayBlk → ArrayBlk) : (s.modArray a f).dram = s.dram := rfl
@[simp] theorem State.modArray_arrays (s : State) (a : Nat) (f : ArrayBlk → ArrayBlk) : (s.modArray a f).arrays = modAt s.arrays a f := rfl
@[simp] theorem State.modArray_vecs (s : State) (a : Nat) (f : ArrayBlk → ArrayBlk) : (s.modArray a f).vecs = s.vecs := rfl
@[simp] theorem State.modArray_samps (s : State) (a : Nat) (f : ArrayBlk → ArrayBlk) : (s.modArray a f).samps = s.samps := rfl
@[simp] theorem State.modArray_codecs (s : State) (a : Nat) (f : ArrayBlk → ArrayBlk) : (s.modArray a f).codecs = s.codecs := rfl
@[simp] theorem State.modArray_ingest (s : State) (a : Nat) (f : ArrayBlk → ArrayBlk) : (s.modArray a f).ingest = s.ingest := rfl
@[simp] theorem State.modArray_jpegs (s : State) (a : Nat) (f : ArrayBlk → ArrayBlk) : (s.modArray a f).jpegs = s.jpegs := rfl
@[simp] theorem State.modArray_scalers (s : State) (a : Nat) (f : ArrayBlk → ArrayBlk) : (s.modArray a f).scalers = s.scalers := rfl
@[simp] theorem State.modArray_scoreboard (s : State) (a : Nat) (f : ArrayBlk → ArrayBlk) : (s.modArray a f).scoreboard = s.scoreboard := rfl
@[simp] theorem State.modArray_contexts (s : State) (a : Nat) (f : ArrayBlk → ArrayBlk) : (s.modArray a f).contexts = s.contexts := rfl
@[simp] theorem State.modArray_ewl (s : State) (a : Nat) (f : ArrayBlk → ArrayBlk) : (s.modArray a f).ewl = s.ewl := rfl
@[simp] theorem State.modArray_sec (s : State) (a : Nat) (f : ArrayBlk → ArrayBlk) : (s.modArray a f).sec = s.sec := rfl
@[simp] theorem State.modArray_obs (s : State) (a : Nat) (f : ArrayBlk → ArrayBlk) : (s.modArray a f).obs = s.obs := rfl
@[simp] theorem State.modArray_pwr (s : State) (a : Nat) (f : ArrayBlk → ArrayBlk) : (s.modArray a f).pwr = s.pwr := rfl
@[simp] theorem State.modArray_mgmt (s : State) (a : Nat) (f : ArrayBlk → ArrayBlk) : (s.modArray a f).mgmt = s.mgmt := rfl
@[simp] theorem State.modArray_playbill (s : State) (a : Nat) (f : ArrayBlk → ArrayBlk) : (s.modArray a f).playbill = s.playbill := rfl
@[simp] theorem State.modArray_tap (s : State) (a : Nat) (f : ArrayBlk → ArrayBlk) : (s.modArray a f).tap = s.tap := rfl
@[simp] theorem State.modArray_cores (s : State) (a : Nat) (f : ArrayBlk → ArrayBlk) : (s.modArray a f).cores = s.cores := rfl
@[simp] theorem State.modArray_coreRefetches (s : State) (a : Nat) (f : ArrayBlk → ArrayBlk) : (s.modArray a f).coreRefetches = s.coreRefetches := rfl
@[simp] theorem State.modArray_freeCount (s : State) (a : Nat) (f : ArrayBlk → ArrayBlk) : (s.modArray a f).freeCount = s.freeCount := rfl
@[simp] theorem State.modArray_pending (s : State) (a : Nat) (f : ArrayBlk → ArrayBlk) : (s.modArray a f).pending = s.pending := rfl

/-! ### modVec: a vector engine -/

@[simp] theorem State.modVec_time (s : State) (e : Nat) (f : VecBlk → VecBlk) : (s.modVec e f).time = s.time := rfl
@[simp] theorem State.modVec_cue (s : State) (e : Nat) (f : VecBlk → VecBlk) : (s.modVec e f).cue = s.cue := rfl
@[simp] theorem State.modVec_host (s : State) (e : Nat) (f : VecBlk → VecBlk) : (s.modVec e f).host = s.host := rfl
@[simp] theorem State.modVec_rings (s : State) (e : Nat) (f : VecBlk → VecBlk) : (s.modVec e f).rings = s.rings := rfl
@[simp] theorem State.modVec_scanPos (s : State) (e : Nat) (f : VecBlk → VecBlk) : (s.modVec e f).scanPos = s.scanPos := rfl
@[simp] theorem State.modVec_inflight (s : State) (e : Nat) (f : VecBlk → VecBlk) : (s.modVec e f).inflight = s.inflight := rfl
@[simp] theorem State.modVec_nextId (s : State) (e : Nat) (f : VecBlk → VecBlk) : (s.modVec e f).nextId = s.nextId := rfl
@[simp] theorem State.modVec_groupFn (s : State) (e : Nat) (f : VecBlk → VecBlk) : (s.modVec e f).groupFn = s.groupFn := rfl
@[simp] theorem State.modVec_events (s : State) (e : Nat) (f : VecBlk → VecBlk) : (s.modVec e f).events = s.events := rfl
@[simp] theorem State.modVec_eventsLost (s : State) (e : Nat) (f : VecBlk → VecBlk) : (s.modVec e f).eventsLost = s.eventsLost := rfl
@[simp] theorem State.modVec_outputs (s : State) (e : Nat) (f : VecBlk → VecBlk) : (s.modVec e f).outputs = s.outputs := rfl
@[simp] theorem State.modVec_lastRead (s : State) (e : Nat) (f : VecBlk → VecBlk) : (s.modVec e f).lastRead = s.lastRead := rfl
@[simp] theorem State.modVec_lastReadBytes (s : State) (e : Nat) (f : VecBlk → VecBlk) : (s.modVec e f).lastReadBytes = s.lastReadBytes := rfl
@[simp] theorem State.modVec_lastReadPoisoned (s : State) (e : Nat) (f : VecBlk → VecBlk) : (s.modVec e f).lastReadPoisoned = s.lastReadPoisoned := rfl
@[simp] theorem State.modVec_streams (s : State) (e : Nat) (f : VecBlk → VecBlk) : (s.modVec e f).streams = s.streams := rfl
@[simp] theorem State.modVec_samples (s : State) (e : Nat) (f : VecBlk → VecBlk) : (s.modVec e f).samples = s.samples := rfl
@[simp] theorem State.modVec_sampleOrder (s : State) (e : Nat) (f : VecBlk → VecBlk) : (s.modVec e f).sampleOrder = s.sampleOrder := rfl
@[simp] theorem State.modVec_casts (s : State) (e : Nat) (f : VecBlk → VecBlk) : (s.modVec e f).casts = s.casts := rfl
@[simp] theorem State.modVec_scripts (s : State) (e : Nat) (f : VecBlk → VecBlk) : (s.modVec e f).scripts = s.scripts := rfl
@[simp] theorem State.modVec_wardrobe (s : State) (e : Nat) (f : VecBlk → VecBlk) : (s.modVec e f).wardrobe = s.wardrobe := rfl
@[simp] theorem State.modVec_house (s : State) (e : Nat) (f : VecBlk → VecBlk) : (s.modVec e f).house = s.house := rfl
@[simp] theorem State.modVec_dram (s : State) (e : Nat) (f : VecBlk → VecBlk) : (s.modVec e f).dram = s.dram := rfl
@[simp] theorem State.modVec_arrays (s : State) (e : Nat) (f : VecBlk → VecBlk) : (s.modVec e f).arrays = s.arrays := rfl
@[simp] theorem State.modVec_vecs (s : State) (e : Nat) (f : VecBlk → VecBlk) : (s.modVec e f).vecs = modAt s.vecs e f := rfl
@[simp] theorem State.modVec_samps (s : State) (e : Nat) (f : VecBlk → VecBlk) : (s.modVec e f).samps = s.samps := rfl
@[simp] theorem State.modVec_codecs (s : State) (e : Nat) (f : VecBlk → VecBlk) : (s.modVec e f).codecs = s.codecs := rfl
@[simp] theorem State.modVec_ingest (s : State) (e : Nat) (f : VecBlk → VecBlk) : (s.modVec e f).ingest = s.ingest := rfl
@[simp] theorem State.modVec_jpegs (s : State) (e : Nat) (f : VecBlk → VecBlk) : (s.modVec e f).jpegs = s.jpegs := rfl
@[simp] theorem State.modVec_scalers (s : State) (e : Nat) (f : VecBlk → VecBlk) : (s.modVec e f).scalers = s.scalers := rfl
@[simp] theorem State.modVec_scoreboard (s : State) (e : Nat) (f : VecBlk → VecBlk) : (s.modVec e f).scoreboard = s.scoreboard := rfl
@[simp] theorem State.modVec_contexts (s : State) (e : Nat) (f : VecBlk → VecBlk) : (s.modVec e f).contexts = s.contexts := rfl
@[simp] theorem State.modVec_ewl (s : State) (e : Nat) (f : VecBlk → VecBlk) : (s.modVec e f).ewl = s.ewl := rfl
@[simp] theorem State.modVec_sec (s : State) (e : Nat) (f : VecBlk → VecBlk) : (s.modVec e f).sec = s.sec := rfl
@[simp] theorem State.modVec_obs (s : State) (e : Nat) (f : VecBlk → VecBlk) : (s.modVec e f).obs = s.obs := rfl
@[simp] theorem State.modVec_pwr (s : State) (e : Nat) (f : VecBlk → VecBlk) : (s.modVec e f).pwr = s.pwr := rfl
@[simp] theorem State.modVec_mgmt (s : State) (e : Nat) (f : VecBlk → VecBlk) : (s.modVec e f).mgmt = s.mgmt := rfl
@[simp] theorem State.modVec_playbill (s : State) (e : Nat) (f : VecBlk → VecBlk) : (s.modVec e f).playbill = s.playbill := rfl
@[simp] theorem State.modVec_tap (s : State) (e : Nat) (f : VecBlk → VecBlk) : (s.modVec e f).tap = s.tap := rfl
@[simp] theorem State.modVec_cores (s : State) (e : Nat) (f : VecBlk → VecBlk) : (s.modVec e f).cores = s.cores := rfl
@[simp] theorem State.modVec_coreRefetches (s : State) (e : Nat) (f : VecBlk → VecBlk) : (s.modVec e f).coreRefetches = s.coreRefetches := rfl
@[simp] theorem State.modVec_freeCount (s : State) (e : Nat) (f : VecBlk → VecBlk) : (s.modVec e f).freeCount = s.freeCount := rfl
@[simp] theorem State.modVec_pending (s : State) (e : Nat) (f : VecBlk → VecBlk) : (s.modVec e f).pending = s.pending := rfl

/-! ### modSamp: a sampler -/

@[simp] theorem State.modSamp_time (s : State) (b : Nat) (f : SampBlk → SampBlk) : (s.modSamp b f).time = s.time := rfl
@[simp] theorem State.modSamp_cue (s : State) (b : Nat) (f : SampBlk → SampBlk) : (s.modSamp b f).cue = s.cue := rfl
@[simp] theorem State.modSamp_host (s : State) (b : Nat) (f : SampBlk → SampBlk) : (s.modSamp b f).host = s.host := rfl
@[simp] theorem State.modSamp_rings (s : State) (b : Nat) (f : SampBlk → SampBlk) : (s.modSamp b f).rings = s.rings := rfl
@[simp] theorem State.modSamp_scanPos (s : State) (b : Nat) (f : SampBlk → SampBlk) : (s.modSamp b f).scanPos = s.scanPos := rfl
@[simp] theorem State.modSamp_inflight (s : State) (b : Nat) (f : SampBlk → SampBlk) : (s.modSamp b f).inflight = s.inflight := rfl
@[simp] theorem State.modSamp_nextId (s : State) (b : Nat) (f : SampBlk → SampBlk) : (s.modSamp b f).nextId = s.nextId := rfl
@[simp] theorem State.modSamp_groupFn (s : State) (b : Nat) (f : SampBlk → SampBlk) : (s.modSamp b f).groupFn = s.groupFn := rfl
@[simp] theorem State.modSamp_events (s : State) (b : Nat) (f : SampBlk → SampBlk) : (s.modSamp b f).events = s.events := rfl
@[simp] theorem State.modSamp_eventsLost (s : State) (b : Nat) (f : SampBlk → SampBlk) : (s.modSamp b f).eventsLost = s.eventsLost := rfl
@[simp] theorem State.modSamp_outputs (s : State) (b : Nat) (f : SampBlk → SampBlk) : (s.modSamp b f).outputs = s.outputs := rfl
@[simp] theorem State.modSamp_lastRead (s : State) (b : Nat) (f : SampBlk → SampBlk) : (s.modSamp b f).lastRead = s.lastRead := rfl
@[simp] theorem State.modSamp_lastReadBytes (s : State) (b : Nat) (f : SampBlk → SampBlk) : (s.modSamp b f).lastReadBytes = s.lastReadBytes := rfl
@[simp] theorem State.modSamp_lastReadPoisoned (s : State) (b : Nat) (f : SampBlk → SampBlk) : (s.modSamp b f).lastReadPoisoned = s.lastReadPoisoned := rfl
@[simp] theorem State.modSamp_streams (s : State) (b : Nat) (f : SampBlk → SampBlk) : (s.modSamp b f).streams = s.streams := rfl
@[simp] theorem State.modSamp_samples (s : State) (b : Nat) (f : SampBlk → SampBlk) : (s.modSamp b f).samples = s.samples := rfl
@[simp] theorem State.modSamp_sampleOrder (s : State) (b : Nat) (f : SampBlk → SampBlk) : (s.modSamp b f).sampleOrder = s.sampleOrder := rfl
@[simp] theorem State.modSamp_casts (s : State) (b : Nat) (f : SampBlk → SampBlk) : (s.modSamp b f).casts = s.casts := rfl
@[simp] theorem State.modSamp_scripts (s : State) (b : Nat) (f : SampBlk → SampBlk) : (s.modSamp b f).scripts = s.scripts := rfl
@[simp] theorem State.modSamp_wardrobe (s : State) (b : Nat) (f : SampBlk → SampBlk) : (s.modSamp b f).wardrobe = s.wardrobe := rfl
@[simp] theorem State.modSamp_house (s : State) (b : Nat) (f : SampBlk → SampBlk) : (s.modSamp b f).house = s.house := rfl
@[simp] theorem State.modSamp_dram (s : State) (b : Nat) (f : SampBlk → SampBlk) : (s.modSamp b f).dram = s.dram := rfl
@[simp] theorem State.modSamp_arrays (s : State) (b : Nat) (f : SampBlk → SampBlk) : (s.modSamp b f).arrays = s.arrays := rfl
@[simp] theorem State.modSamp_vecs (s : State) (b : Nat) (f : SampBlk → SampBlk) : (s.modSamp b f).vecs = s.vecs := rfl
@[simp] theorem State.modSamp_samps (s : State) (b : Nat) (f : SampBlk → SampBlk) : (s.modSamp b f).samps = modAt s.samps b f := rfl
@[simp] theorem State.modSamp_codecs (s : State) (b : Nat) (f : SampBlk → SampBlk) : (s.modSamp b f).codecs = s.codecs := rfl
@[simp] theorem State.modSamp_ingest (s : State) (b : Nat) (f : SampBlk → SampBlk) : (s.modSamp b f).ingest = s.ingest := rfl
@[simp] theorem State.modSamp_jpegs (s : State) (b : Nat) (f : SampBlk → SampBlk) : (s.modSamp b f).jpegs = s.jpegs := rfl
@[simp] theorem State.modSamp_scalers (s : State) (b : Nat) (f : SampBlk → SampBlk) : (s.modSamp b f).scalers = s.scalers := rfl
@[simp] theorem State.modSamp_scoreboard (s : State) (b : Nat) (f : SampBlk → SampBlk) : (s.modSamp b f).scoreboard = s.scoreboard := rfl
@[simp] theorem State.modSamp_contexts (s : State) (b : Nat) (f : SampBlk → SampBlk) : (s.modSamp b f).contexts = s.contexts := rfl
@[simp] theorem State.modSamp_ewl (s : State) (b : Nat) (f : SampBlk → SampBlk) : (s.modSamp b f).ewl = s.ewl := rfl
@[simp] theorem State.modSamp_sec (s : State) (b : Nat) (f : SampBlk → SampBlk) : (s.modSamp b f).sec = s.sec := rfl
@[simp] theorem State.modSamp_obs (s : State) (b : Nat) (f : SampBlk → SampBlk) : (s.modSamp b f).obs = s.obs := rfl
@[simp] theorem State.modSamp_pwr (s : State) (b : Nat) (f : SampBlk → SampBlk) : (s.modSamp b f).pwr = s.pwr := rfl
@[simp] theorem State.modSamp_mgmt (s : State) (b : Nat) (f : SampBlk → SampBlk) : (s.modSamp b f).mgmt = s.mgmt := rfl
@[simp] theorem State.modSamp_playbill (s : State) (b : Nat) (f : SampBlk → SampBlk) : (s.modSamp b f).playbill = s.playbill := rfl
@[simp] theorem State.modSamp_tap (s : State) (b : Nat) (f : SampBlk → SampBlk) : (s.modSamp b f).tap = s.tap := rfl
@[simp] theorem State.modSamp_cores (s : State) (b : Nat) (f : SampBlk → SampBlk) : (s.modSamp b f).cores = s.cores := rfl
@[simp] theorem State.modSamp_coreRefetches (s : State) (b : Nat) (f : SampBlk → SampBlk) : (s.modSamp b f).coreRefetches = s.coreRefetches := rfl
@[simp] theorem State.modSamp_freeCount (s : State) (b : Nat) (f : SampBlk → SampBlk) : (s.modSamp b f).freeCount = s.freeCount := rfl
@[simp] theorem State.modSamp_pending (s : State) (b : Nat) (f : SampBlk → SampBlk) : (s.modSamp b f).pending = s.pending := rfl

/-! ### modCodec: a codec cluster -/

@[simp] theorem State.modCodec_time (s : State) (c : Nat) (f : CodecBlk → CodecBlk) : (s.modCodec c f).time = s.time := rfl
@[simp] theorem State.modCodec_cue (s : State) (c : Nat) (f : CodecBlk → CodecBlk) : (s.modCodec c f).cue = s.cue := rfl
@[simp] theorem State.modCodec_host (s : State) (c : Nat) (f : CodecBlk → CodecBlk) : (s.modCodec c f).host = s.host := rfl
@[simp] theorem State.modCodec_rings (s : State) (c : Nat) (f : CodecBlk → CodecBlk) : (s.modCodec c f).rings = s.rings := rfl
@[simp] theorem State.modCodec_scanPos (s : State) (c : Nat) (f : CodecBlk → CodecBlk) : (s.modCodec c f).scanPos = s.scanPos := rfl
@[simp] theorem State.modCodec_inflight (s : State) (c : Nat) (f : CodecBlk → CodecBlk) : (s.modCodec c f).inflight = s.inflight := rfl
@[simp] theorem State.modCodec_nextId (s : State) (c : Nat) (f : CodecBlk → CodecBlk) : (s.modCodec c f).nextId = s.nextId := rfl
@[simp] theorem State.modCodec_groupFn (s : State) (c : Nat) (f : CodecBlk → CodecBlk) : (s.modCodec c f).groupFn = s.groupFn := rfl
@[simp] theorem State.modCodec_events (s : State) (c : Nat) (f : CodecBlk → CodecBlk) : (s.modCodec c f).events = s.events := rfl
@[simp] theorem State.modCodec_eventsLost (s : State) (c : Nat) (f : CodecBlk → CodecBlk) : (s.modCodec c f).eventsLost = s.eventsLost := rfl
@[simp] theorem State.modCodec_outputs (s : State) (c : Nat) (f : CodecBlk → CodecBlk) : (s.modCodec c f).outputs = s.outputs := rfl
@[simp] theorem State.modCodec_lastRead (s : State) (c : Nat) (f : CodecBlk → CodecBlk) : (s.modCodec c f).lastRead = s.lastRead := rfl
@[simp] theorem State.modCodec_lastReadBytes (s : State) (c : Nat) (f : CodecBlk → CodecBlk) : (s.modCodec c f).lastReadBytes = s.lastReadBytes := rfl
@[simp] theorem State.modCodec_lastReadPoisoned (s : State) (c : Nat) (f : CodecBlk → CodecBlk) : (s.modCodec c f).lastReadPoisoned = s.lastReadPoisoned := rfl
@[simp] theorem State.modCodec_streams (s : State) (c : Nat) (f : CodecBlk → CodecBlk) : (s.modCodec c f).streams = s.streams := rfl
@[simp] theorem State.modCodec_samples (s : State) (c : Nat) (f : CodecBlk → CodecBlk) : (s.modCodec c f).samples = s.samples := rfl
@[simp] theorem State.modCodec_sampleOrder (s : State) (c : Nat) (f : CodecBlk → CodecBlk) : (s.modCodec c f).sampleOrder = s.sampleOrder := rfl
@[simp] theorem State.modCodec_casts (s : State) (c : Nat) (f : CodecBlk → CodecBlk) : (s.modCodec c f).casts = s.casts := rfl
@[simp] theorem State.modCodec_scripts (s : State) (c : Nat) (f : CodecBlk → CodecBlk) : (s.modCodec c f).scripts = s.scripts := rfl
@[simp] theorem State.modCodec_wardrobe (s : State) (c : Nat) (f : CodecBlk → CodecBlk) : (s.modCodec c f).wardrobe = s.wardrobe := rfl
@[simp] theorem State.modCodec_house (s : State) (c : Nat) (f : CodecBlk → CodecBlk) : (s.modCodec c f).house = s.house := rfl
@[simp] theorem State.modCodec_dram (s : State) (c : Nat) (f : CodecBlk → CodecBlk) : (s.modCodec c f).dram = s.dram := rfl
@[simp] theorem State.modCodec_arrays (s : State) (c : Nat) (f : CodecBlk → CodecBlk) : (s.modCodec c f).arrays = s.arrays := rfl
@[simp] theorem State.modCodec_vecs (s : State) (c : Nat) (f : CodecBlk → CodecBlk) : (s.modCodec c f).vecs = s.vecs := rfl
@[simp] theorem State.modCodec_samps (s : State) (c : Nat) (f : CodecBlk → CodecBlk) : (s.modCodec c f).samps = s.samps := rfl
@[simp] theorem State.modCodec_codecs (s : State) (c : Nat) (f : CodecBlk → CodecBlk) : (s.modCodec c f).codecs = modAt s.codecs c f := rfl
@[simp] theorem State.modCodec_ingest (s : State) (c : Nat) (f : CodecBlk → CodecBlk) : (s.modCodec c f).ingest = s.ingest := rfl
@[simp] theorem State.modCodec_jpegs (s : State) (c : Nat) (f : CodecBlk → CodecBlk) : (s.modCodec c f).jpegs = s.jpegs := rfl
@[simp] theorem State.modCodec_scalers (s : State) (c : Nat) (f : CodecBlk → CodecBlk) : (s.modCodec c f).scalers = s.scalers := rfl
@[simp] theorem State.modCodec_scoreboard (s : State) (c : Nat) (f : CodecBlk → CodecBlk) : (s.modCodec c f).scoreboard = s.scoreboard := rfl
@[simp] theorem State.modCodec_contexts (s : State) (c : Nat) (f : CodecBlk → CodecBlk) : (s.modCodec c f).contexts = s.contexts := rfl
@[simp] theorem State.modCodec_ewl (s : State) (c : Nat) (f : CodecBlk → CodecBlk) : (s.modCodec c f).ewl = s.ewl := rfl
@[simp] theorem State.modCodec_sec (s : State) (c : Nat) (f : CodecBlk → CodecBlk) : (s.modCodec c f).sec = s.sec := rfl
@[simp] theorem State.modCodec_obs (s : State) (c : Nat) (f : CodecBlk → CodecBlk) : (s.modCodec c f).obs = s.obs := rfl
@[simp] theorem State.modCodec_pwr (s : State) (c : Nat) (f : CodecBlk → CodecBlk) : (s.modCodec c f).pwr = s.pwr := rfl
@[simp] theorem State.modCodec_mgmt (s : State) (c : Nat) (f : CodecBlk → CodecBlk) : (s.modCodec c f).mgmt = s.mgmt := rfl
@[simp] theorem State.modCodec_playbill (s : State) (c : Nat) (f : CodecBlk → CodecBlk) : (s.modCodec c f).playbill = s.playbill := rfl
@[simp] theorem State.modCodec_tap (s : State) (c : Nat) (f : CodecBlk → CodecBlk) : (s.modCodec c f).tap = s.tap := rfl
@[simp] theorem State.modCodec_cores (s : State) (c : Nat) (f : CodecBlk → CodecBlk) : (s.modCodec c f).cores = s.cores := rfl
@[simp] theorem State.modCodec_coreRefetches (s : State) (c : Nat) (f : CodecBlk → CodecBlk) : (s.modCodec c f).coreRefetches = s.coreRefetches := rfl
@[simp] theorem State.modCodec_freeCount (s : State) (c : Nat) (f : CodecBlk → CodecBlk) : (s.modCodec c f).freeCount = s.freeCount := rfl
@[simp] theorem State.modCodec_pending (s : State) (c : Nat) (f : CodecBlk → CodecBlk) : (s.modCodec c f).pending = s.pending := rfl

/-! ### modJpeg: a JPEG unit -/

@[simp] theorem State.modJpeg_time (s : State) (u : Nat) (f : JpegUnit → JpegUnit) : (s.modJpeg u f).time = s.time := rfl
@[simp] theorem State.modJpeg_cue (s : State) (u : Nat) (f : JpegUnit → JpegUnit) : (s.modJpeg u f).cue = s.cue := rfl
@[simp] theorem State.modJpeg_host (s : State) (u : Nat) (f : JpegUnit → JpegUnit) : (s.modJpeg u f).host = s.host := rfl
@[simp] theorem State.modJpeg_rings (s : State) (u : Nat) (f : JpegUnit → JpegUnit) : (s.modJpeg u f).rings = s.rings := rfl
@[simp] theorem State.modJpeg_scanPos (s : State) (u : Nat) (f : JpegUnit → JpegUnit) : (s.modJpeg u f).scanPos = s.scanPos := rfl
@[simp] theorem State.modJpeg_inflight (s : State) (u : Nat) (f : JpegUnit → JpegUnit) : (s.modJpeg u f).inflight = s.inflight := rfl
@[simp] theorem State.modJpeg_nextId (s : State) (u : Nat) (f : JpegUnit → JpegUnit) : (s.modJpeg u f).nextId = s.nextId := rfl
@[simp] theorem State.modJpeg_groupFn (s : State) (u : Nat) (f : JpegUnit → JpegUnit) : (s.modJpeg u f).groupFn = s.groupFn := rfl
@[simp] theorem State.modJpeg_events (s : State) (u : Nat) (f : JpegUnit → JpegUnit) : (s.modJpeg u f).events = s.events := rfl
@[simp] theorem State.modJpeg_eventsLost (s : State) (u : Nat) (f : JpegUnit → JpegUnit) : (s.modJpeg u f).eventsLost = s.eventsLost := rfl
@[simp] theorem State.modJpeg_outputs (s : State) (u : Nat) (f : JpegUnit → JpegUnit) : (s.modJpeg u f).outputs = s.outputs := rfl
@[simp] theorem State.modJpeg_lastRead (s : State) (u : Nat) (f : JpegUnit → JpegUnit) : (s.modJpeg u f).lastRead = s.lastRead := rfl
@[simp] theorem State.modJpeg_lastReadBytes (s : State) (u : Nat) (f : JpegUnit → JpegUnit) : (s.modJpeg u f).lastReadBytes = s.lastReadBytes := rfl
@[simp] theorem State.modJpeg_lastReadPoisoned (s : State) (u : Nat) (f : JpegUnit → JpegUnit) : (s.modJpeg u f).lastReadPoisoned = s.lastReadPoisoned := rfl
@[simp] theorem State.modJpeg_streams (s : State) (u : Nat) (f : JpegUnit → JpegUnit) : (s.modJpeg u f).streams = s.streams := rfl
@[simp] theorem State.modJpeg_samples (s : State) (u : Nat) (f : JpegUnit → JpegUnit) : (s.modJpeg u f).samples = s.samples := rfl
@[simp] theorem State.modJpeg_sampleOrder (s : State) (u : Nat) (f : JpegUnit → JpegUnit) : (s.modJpeg u f).sampleOrder = s.sampleOrder := rfl
@[simp] theorem State.modJpeg_casts (s : State) (u : Nat) (f : JpegUnit → JpegUnit) : (s.modJpeg u f).casts = s.casts := rfl
@[simp] theorem State.modJpeg_scripts (s : State) (u : Nat) (f : JpegUnit → JpegUnit) : (s.modJpeg u f).scripts = s.scripts := rfl
@[simp] theorem State.modJpeg_wardrobe (s : State) (u : Nat) (f : JpegUnit → JpegUnit) : (s.modJpeg u f).wardrobe = s.wardrobe := rfl
@[simp] theorem State.modJpeg_house (s : State) (u : Nat) (f : JpegUnit → JpegUnit) : (s.modJpeg u f).house = s.house := rfl
@[simp] theorem State.modJpeg_dram (s : State) (u : Nat) (f : JpegUnit → JpegUnit) : (s.modJpeg u f).dram = s.dram := rfl
@[simp] theorem State.modJpeg_arrays (s : State) (u : Nat) (f : JpegUnit → JpegUnit) : (s.modJpeg u f).arrays = s.arrays := rfl
@[simp] theorem State.modJpeg_vecs (s : State) (u : Nat) (f : JpegUnit → JpegUnit) : (s.modJpeg u f).vecs = s.vecs := rfl
@[simp] theorem State.modJpeg_samps (s : State) (u : Nat) (f : JpegUnit → JpegUnit) : (s.modJpeg u f).samps = s.samps := rfl
@[simp] theorem State.modJpeg_codecs (s : State) (u : Nat) (f : JpegUnit → JpegUnit) : (s.modJpeg u f).codecs = s.codecs := rfl
@[simp] theorem State.modJpeg_ingest (s : State) (u : Nat) (f : JpegUnit → JpegUnit) : (s.modJpeg u f).ingest = s.ingest := rfl
@[simp] theorem State.modJpeg_jpegs (s : State) (u : Nat) (f : JpegUnit → JpegUnit) : (s.modJpeg u f).jpegs = modAt s.jpegs u f := rfl
@[simp] theorem State.modJpeg_scalers (s : State) (u : Nat) (f : JpegUnit → JpegUnit) : (s.modJpeg u f).scalers = s.scalers := rfl
@[simp] theorem State.modJpeg_scoreboard (s : State) (u : Nat) (f : JpegUnit → JpegUnit) : (s.modJpeg u f).scoreboard = s.scoreboard := rfl
@[simp] theorem State.modJpeg_contexts (s : State) (u : Nat) (f : JpegUnit → JpegUnit) : (s.modJpeg u f).contexts = s.contexts := rfl
@[simp] theorem State.modJpeg_ewl (s : State) (u : Nat) (f : JpegUnit → JpegUnit) : (s.modJpeg u f).ewl = s.ewl := rfl
@[simp] theorem State.modJpeg_sec (s : State) (u : Nat) (f : JpegUnit → JpegUnit) : (s.modJpeg u f).sec = s.sec := rfl
@[simp] theorem State.modJpeg_obs (s : State) (u : Nat) (f : JpegUnit → JpegUnit) : (s.modJpeg u f).obs = s.obs := rfl
@[simp] theorem State.modJpeg_pwr (s : State) (u : Nat) (f : JpegUnit → JpegUnit) : (s.modJpeg u f).pwr = s.pwr := rfl
@[simp] theorem State.modJpeg_mgmt (s : State) (u : Nat) (f : JpegUnit → JpegUnit) : (s.modJpeg u f).mgmt = s.mgmt := rfl
@[simp] theorem State.modJpeg_playbill (s : State) (u : Nat) (f : JpegUnit → JpegUnit) : (s.modJpeg u f).playbill = s.playbill := rfl
@[simp] theorem State.modJpeg_tap (s : State) (u : Nat) (f : JpegUnit → JpegUnit) : (s.modJpeg u f).tap = s.tap := rfl
@[simp] theorem State.modJpeg_cores (s : State) (u : Nat) (f : JpegUnit → JpegUnit) : (s.modJpeg u f).cores = s.cores := rfl
@[simp] theorem State.modJpeg_coreRefetches (s : State) (u : Nat) (f : JpegUnit → JpegUnit) : (s.modJpeg u f).coreRefetches = s.coreRefetches := rfl
@[simp] theorem State.modJpeg_freeCount (s : State) (u : Nat) (f : JpegUnit → JpegUnit) : (s.modJpeg u f).freeCount = s.freeCount := rfl
@[simp] theorem State.modJpeg_pending (s : State) (u : Nat) (f : JpegUnit → JpegUnit) : (s.modJpeg u f).pending = s.pending := rfl

/-! ### modScaler: a scaler -/

@[simp] theorem State.modScaler_time (s : State) (c : Nat) (f : Scaler → Scaler) : (s.modScaler c f).time = s.time := rfl
@[simp] theorem State.modScaler_cue (s : State) (c : Nat) (f : Scaler → Scaler) : (s.modScaler c f).cue = s.cue := rfl
@[simp] theorem State.modScaler_host (s : State) (c : Nat) (f : Scaler → Scaler) : (s.modScaler c f).host = s.host := rfl
@[simp] theorem State.modScaler_rings (s : State) (c : Nat) (f : Scaler → Scaler) : (s.modScaler c f).rings = s.rings := rfl
@[simp] theorem State.modScaler_scanPos (s : State) (c : Nat) (f : Scaler → Scaler) : (s.modScaler c f).scanPos = s.scanPos := rfl
@[simp] theorem State.modScaler_inflight (s : State) (c : Nat) (f : Scaler → Scaler) : (s.modScaler c f).inflight = s.inflight := rfl
@[simp] theorem State.modScaler_nextId (s : State) (c : Nat) (f : Scaler → Scaler) : (s.modScaler c f).nextId = s.nextId := rfl
@[simp] theorem State.modScaler_groupFn (s : State) (c : Nat) (f : Scaler → Scaler) : (s.modScaler c f).groupFn = s.groupFn := rfl
@[simp] theorem State.modScaler_events (s : State) (c : Nat) (f : Scaler → Scaler) : (s.modScaler c f).events = s.events := rfl
@[simp] theorem State.modScaler_eventsLost (s : State) (c : Nat) (f : Scaler → Scaler) : (s.modScaler c f).eventsLost = s.eventsLost := rfl
@[simp] theorem State.modScaler_outputs (s : State) (c : Nat) (f : Scaler → Scaler) : (s.modScaler c f).outputs = s.outputs := rfl
@[simp] theorem State.modScaler_lastRead (s : State) (c : Nat) (f : Scaler → Scaler) : (s.modScaler c f).lastRead = s.lastRead := rfl
@[simp] theorem State.modScaler_lastReadBytes (s : State) (c : Nat) (f : Scaler → Scaler) : (s.modScaler c f).lastReadBytes = s.lastReadBytes := rfl
@[simp] theorem State.modScaler_lastReadPoisoned (s : State) (c : Nat) (f : Scaler → Scaler) : (s.modScaler c f).lastReadPoisoned = s.lastReadPoisoned := rfl
@[simp] theorem State.modScaler_streams (s : State) (c : Nat) (f : Scaler → Scaler) : (s.modScaler c f).streams = s.streams := rfl
@[simp] theorem State.modScaler_samples (s : State) (c : Nat) (f : Scaler → Scaler) : (s.modScaler c f).samples = s.samples := rfl
@[simp] theorem State.modScaler_sampleOrder (s : State) (c : Nat) (f : Scaler → Scaler) : (s.modScaler c f).sampleOrder = s.sampleOrder := rfl
@[simp] theorem State.modScaler_casts (s : State) (c : Nat) (f : Scaler → Scaler) : (s.modScaler c f).casts = s.casts := rfl
@[simp] theorem State.modScaler_scripts (s : State) (c : Nat) (f : Scaler → Scaler) : (s.modScaler c f).scripts = s.scripts := rfl
@[simp] theorem State.modScaler_wardrobe (s : State) (c : Nat) (f : Scaler → Scaler) : (s.modScaler c f).wardrobe = s.wardrobe := rfl
@[simp] theorem State.modScaler_house (s : State) (c : Nat) (f : Scaler → Scaler) : (s.modScaler c f).house = s.house := rfl
@[simp] theorem State.modScaler_dram (s : State) (c : Nat) (f : Scaler → Scaler) : (s.modScaler c f).dram = s.dram := rfl
@[simp] theorem State.modScaler_arrays (s : State) (c : Nat) (f : Scaler → Scaler) : (s.modScaler c f).arrays = s.arrays := rfl
@[simp] theorem State.modScaler_vecs (s : State) (c : Nat) (f : Scaler → Scaler) : (s.modScaler c f).vecs = s.vecs := rfl
@[simp] theorem State.modScaler_samps (s : State) (c : Nat) (f : Scaler → Scaler) : (s.modScaler c f).samps = s.samps := rfl
@[simp] theorem State.modScaler_codecs (s : State) (c : Nat) (f : Scaler → Scaler) : (s.modScaler c f).codecs = s.codecs := rfl
@[simp] theorem State.modScaler_ingest (s : State) (c : Nat) (f : Scaler → Scaler) : (s.modScaler c f).ingest = s.ingest := rfl
@[simp] theorem State.modScaler_jpegs (s : State) (c : Nat) (f : Scaler → Scaler) : (s.modScaler c f).jpegs = s.jpegs := rfl
@[simp] theorem State.modScaler_scalers (s : State) (c : Nat) (f : Scaler → Scaler) : (s.modScaler c f).scalers = modAt s.scalers c f := rfl
@[simp] theorem State.modScaler_scoreboard (s : State) (c : Nat) (f : Scaler → Scaler) : (s.modScaler c f).scoreboard = s.scoreboard := rfl
@[simp] theorem State.modScaler_contexts (s : State) (c : Nat) (f : Scaler → Scaler) : (s.modScaler c f).contexts = s.contexts := rfl
@[simp] theorem State.modScaler_ewl (s : State) (c : Nat) (f : Scaler → Scaler) : (s.modScaler c f).ewl = s.ewl := rfl
@[simp] theorem State.modScaler_sec (s : State) (c : Nat) (f : Scaler → Scaler) : (s.modScaler c f).sec = s.sec := rfl
@[simp] theorem State.modScaler_obs (s : State) (c : Nat) (f : Scaler → Scaler) : (s.modScaler c f).obs = s.obs := rfl
@[simp] theorem State.modScaler_pwr (s : State) (c : Nat) (f : Scaler → Scaler) : (s.modScaler c f).pwr = s.pwr := rfl
@[simp] theorem State.modScaler_mgmt (s : State) (c : Nat) (f : Scaler → Scaler) : (s.modScaler c f).mgmt = s.mgmt := rfl
@[simp] theorem State.modScaler_playbill (s : State) (c : Nat) (f : Scaler → Scaler) : (s.modScaler c f).playbill = s.playbill := rfl
@[simp] theorem State.modScaler_tap (s : State) (c : Nat) (f : Scaler → Scaler) : (s.modScaler c f).tap = s.tap := rfl
@[simp] theorem State.modScaler_cores (s : State) (c : Nat) (f : Scaler → Scaler) : (s.modScaler c f).cores = s.cores := rfl
@[simp] theorem State.modScaler_coreRefetches (s : State) (c : Nat) (f : Scaler → Scaler) : (s.modScaler c f).coreRefetches = s.coreRefetches := rfl
@[simp] theorem State.modScaler_freeCount (s : State) (c : Nat) (f : Scaler → Scaler) : (s.modScaler c f).freeCount = s.freeCount := rfl
@[simp] theorem State.modScaler_pending (s : State) (c : Nat) (f : Scaler → Scaler) : (s.modScaler c f).pending = s.pending := rfl

/-! ### modPort: a camera port -/

@[simp] theorem State.modPort_time (s : State) (p : Nat) (f : Csi2Port → Csi2Port) : (s.modPort p f).time = s.time := rfl
@[simp] theorem State.modPort_cue (s : State) (p : Nat) (f : Csi2Port → Csi2Port) : (s.modPort p f).cue = s.cue := rfl
@[simp] theorem State.modPort_host (s : State) (p : Nat) (f : Csi2Port → Csi2Port) : (s.modPort p f).host = s.host := rfl
@[simp] theorem State.modPort_rings (s : State) (p : Nat) (f : Csi2Port → Csi2Port) : (s.modPort p f).rings = s.rings := rfl
@[simp] theorem State.modPort_scanPos (s : State) (p : Nat) (f : Csi2Port → Csi2Port) : (s.modPort p f).scanPos = s.scanPos := rfl
@[simp] theorem State.modPort_inflight (s : State) (p : Nat) (f : Csi2Port → Csi2Port) : (s.modPort p f).inflight = s.inflight := rfl
@[simp] theorem State.modPort_nextId (s : State) (p : Nat) (f : Csi2Port → Csi2Port) : (s.modPort p f).nextId = s.nextId := rfl
@[simp] theorem State.modPort_groupFn (s : State) (p : Nat) (f : Csi2Port → Csi2Port) : (s.modPort p f).groupFn = s.groupFn := rfl
@[simp] theorem State.modPort_events (s : State) (p : Nat) (f : Csi2Port → Csi2Port) : (s.modPort p f).events = s.events := rfl
@[simp] theorem State.modPort_eventsLost (s : State) (p : Nat) (f : Csi2Port → Csi2Port) : (s.modPort p f).eventsLost = s.eventsLost := rfl
@[simp] theorem State.modPort_outputs (s : State) (p : Nat) (f : Csi2Port → Csi2Port) : (s.modPort p f).outputs = s.outputs := rfl
@[simp] theorem State.modPort_lastRead (s : State) (p : Nat) (f : Csi2Port → Csi2Port) : (s.modPort p f).lastRead = s.lastRead := rfl
@[simp] theorem State.modPort_lastReadBytes (s : State) (p : Nat) (f : Csi2Port → Csi2Port) : (s.modPort p f).lastReadBytes = s.lastReadBytes := rfl
@[simp] theorem State.modPort_lastReadPoisoned (s : State) (p : Nat) (f : Csi2Port → Csi2Port) : (s.modPort p f).lastReadPoisoned = s.lastReadPoisoned := rfl
@[simp] theorem State.modPort_streams (s : State) (p : Nat) (f : Csi2Port → Csi2Port) : (s.modPort p f).streams = s.streams := rfl
@[simp] theorem State.modPort_samples (s : State) (p : Nat) (f : Csi2Port → Csi2Port) : (s.modPort p f).samples = s.samples := rfl
@[simp] theorem State.modPort_sampleOrder (s : State) (p : Nat) (f : Csi2Port → Csi2Port) : (s.modPort p f).sampleOrder = s.sampleOrder := rfl
@[simp] theorem State.modPort_casts (s : State) (p : Nat) (f : Csi2Port → Csi2Port) : (s.modPort p f).casts = s.casts := rfl
@[simp] theorem State.modPort_scripts (s : State) (p : Nat) (f : Csi2Port → Csi2Port) : (s.modPort p f).scripts = s.scripts := rfl
@[simp] theorem State.modPort_wardrobe (s : State) (p : Nat) (f : Csi2Port → Csi2Port) : (s.modPort p f).wardrobe = s.wardrobe := rfl
@[simp] theorem State.modPort_house (s : State) (p : Nat) (f : Csi2Port → Csi2Port) : (s.modPort p f).house = s.house := rfl
@[simp] theorem State.modPort_dram (s : State) (p : Nat) (f : Csi2Port → Csi2Port) : (s.modPort p f).dram = s.dram := rfl
@[simp] theorem State.modPort_arrays (s : State) (p : Nat) (f : Csi2Port → Csi2Port) : (s.modPort p f).arrays = s.arrays := rfl
@[simp] theorem State.modPort_vecs (s : State) (p : Nat) (f : Csi2Port → Csi2Port) : (s.modPort p f).vecs = s.vecs := rfl
@[simp] theorem State.modPort_samps (s : State) (p : Nat) (f : Csi2Port → Csi2Port) : (s.modPort p f).samps = s.samps := rfl
@[simp] theorem State.modPort_codecs (s : State) (p : Nat) (f : Csi2Port → Csi2Port) : (s.modPort p f).codecs = s.codecs := rfl
@[simp] theorem State.modPort_ingest (s : State) (p : Nat) (f : Csi2Port → Csi2Port) : (s.modPort p f).ingest = { s.ingest with ports := modAt s.ingest.ports p f } := rfl
@[simp] theorem State.modPort_jpegs (s : State) (p : Nat) (f : Csi2Port → Csi2Port) : (s.modPort p f).jpegs = s.jpegs := rfl
@[simp] theorem State.modPort_scalers (s : State) (p : Nat) (f : Csi2Port → Csi2Port) : (s.modPort p f).scalers = s.scalers := rfl
@[simp] theorem State.modPort_scoreboard (s : State) (p : Nat) (f : Csi2Port → Csi2Port) : (s.modPort p f).scoreboard = s.scoreboard := rfl
@[simp] theorem State.modPort_contexts (s : State) (p : Nat) (f : Csi2Port → Csi2Port) : (s.modPort p f).contexts = s.contexts := rfl
@[simp] theorem State.modPort_ewl (s : State) (p : Nat) (f : Csi2Port → Csi2Port) : (s.modPort p f).ewl = s.ewl := rfl
@[simp] theorem State.modPort_sec (s : State) (p : Nat) (f : Csi2Port → Csi2Port) : (s.modPort p f).sec = s.sec := rfl
@[simp] theorem State.modPort_obs (s : State) (p : Nat) (f : Csi2Port → Csi2Port) : (s.modPort p f).obs = s.obs := rfl
@[simp] theorem State.modPort_pwr (s : State) (p : Nat) (f : Csi2Port → Csi2Port) : (s.modPort p f).pwr = s.pwr := rfl
@[simp] theorem State.modPort_mgmt (s : State) (p : Nat) (f : Csi2Port → Csi2Port) : (s.modPort p f).mgmt = s.mgmt := rfl
@[simp] theorem State.modPort_playbill (s : State) (p : Nat) (f : Csi2Port → Csi2Port) : (s.modPort p f).playbill = s.playbill := rfl
@[simp] theorem State.modPort_tap (s : State) (p : Nat) (f : Csi2Port → Csi2Port) : (s.modPort p f).tap = s.tap := rfl
@[simp] theorem State.modPort_cores (s : State) (p : Nat) (f : Csi2Port → Csi2Port) : (s.modPort p f).cores = s.cores := rfl
@[simp] theorem State.modPort_coreRefetches (s : State) (p : Nat) (f : Csi2Port → Csi2Port) : (s.modPort p f).coreRefetches = s.coreRefetches := rfl
@[simp] theorem State.modPort_freeCount (s : State) (p : Nat) (f : Csi2Port → Csi2Port) : (s.modPort p f).freeCount = s.freeCount := rfl
@[simp] theorem State.modPort_pending (s : State) (p : Nat) (f : Csi2Port → Csi2Port) : (s.modPort p f).pending = s.pending := rfl

/-! ### modStream: a stream -/

@[simp] theorem State.modStream_time (s : State) (n : Nat) (f : Stream → Stream) : (s.modStream n f).time = s.time := rfl
@[simp] theorem State.modStream_cue (s : State) (n : Nat) (f : Stream → Stream) : (s.modStream n f).cue = s.cue := rfl
@[simp] theorem State.modStream_host (s : State) (n : Nat) (f : Stream → Stream) : (s.modStream n f).host = s.host := rfl
@[simp] theorem State.modStream_rings (s : State) (n : Nat) (f : Stream → Stream) : (s.modStream n f).rings = s.rings := rfl
@[simp] theorem State.modStream_scanPos (s : State) (n : Nat) (f : Stream → Stream) : (s.modStream n f).scanPos = s.scanPos := rfl
@[simp] theorem State.modStream_inflight (s : State) (n : Nat) (f : Stream → Stream) : (s.modStream n f).inflight = s.inflight := rfl
@[simp] theorem State.modStream_nextId (s : State) (n : Nat) (f : Stream → Stream) : (s.modStream n f).nextId = s.nextId := rfl
@[simp] theorem State.modStream_groupFn (s : State) (n : Nat) (f : Stream → Stream) : (s.modStream n f).groupFn = s.groupFn := rfl
@[simp] theorem State.modStream_events (s : State) (n : Nat) (f : Stream → Stream) : (s.modStream n f).events = s.events := rfl
@[simp] theorem State.modStream_eventsLost (s : State) (n : Nat) (f : Stream → Stream) : (s.modStream n f).eventsLost = s.eventsLost := rfl
@[simp] theorem State.modStream_outputs (s : State) (n : Nat) (f : Stream → Stream) : (s.modStream n f).outputs = s.outputs := rfl
@[simp] theorem State.modStream_lastRead (s : State) (n : Nat) (f : Stream → Stream) : (s.modStream n f).lastRead = s.lastRead := rfl
@[simp] theorem State.modStream_lastReadBytes (s : State) (n : Nat) (f : Stream → Stream) : (s.modStream n f).lastReadBytes = s.lastReadBytes := rfl
@[simp] theorem State.modStream_lastReadPoisoned (s : State) (n : Nat) (f : Stream → Stream) : (s.modStream n f).lastReadPoisoned = s.lastReadPoisoned := rfl
@[simp] theorem State.modStream_streams (s : State) (n : Nat) (f : Stream → Stream) : (s.modStream n f).streams = amod s.streams n f := rfl
@[simp] theorem State.modStream_samples (s : State) (n : Nat) (f : Stream → Stream) : (s.modStream n f).samples = s.samples := rfl
@[simp] theorem State.modStream_sampleOrder (s : State) (n : Nat) (f : Stream → Stream) : (s.modStream n f).sampleOrder = s.sampleOrder := rfl
@[simp] theorem State.modStream_casts (s : State) (n : Nat) (f : Stream → Stream) : (s.modStream n f).casts = s.casts := rfl
@[simp] theorem State.modStream_scripts (s : State) (n : Nat) (f : Stream → Stream) : (s.modStream n f).scripts = s.scripts := rfl
@[simp] theorem State.modStream_wardrobe (s : State) (n : Nat) (f : Stream → Stream) : (s.modStream n f).wardrobe = s.wardrobe := rfl
@[simp] theorem State.modStream_house (s : State) (n : Nat) (f : Stream → Stream) : (s.modStream n f).house = s.house := rfl
@[simp] theorem State.modStream_dram (s : State) (n : Nat) (f : Stream → Stream) : (s.modStream n f).dram = s.dram := rfl
@[simp] theorem State.modStream_arrays (s : State) (n : Nat) (f : Stream → Stream) : (s.modStream n f).arrays = s.arrays := rfl
@[simp] theorem State.modStream_vecs (s : State) (n : Nat) (f : Stream → Stream) : (s.modStream n f).vecs = s.vecs := rfl
@[simp] theorem State.modStream_samps (s : State) (n : Nat) (f : Stream → Stream) : (s.modStream n f).samps = s.samps := rfl
@[simp] theorem State.modStream_codecs (s : State) (n : Nat) (f : Stream → Stream) : (s.modStream n f).codecs = s.codecs := rfl
@[simp] theorem State.modStream_ingest (s : State) (n : Nat) (f : Stream → Stream) : (s.modStream n f).ingest = s.ingest := rfl
@[simp] theorem State.modStream_jpegs (s : State) (n : Nat) (f : Stream → Stream) : (s.modStream n f).jpegs = s.jpegs := rfl
@[simp] theorem State.modStream_scalers (s : State) (n : Nat) (f : Stream → Stream) : (s.modStream n f).scalers = s.scalers := rfl
@[simp] theorem State.modStream_scoreboard (s : State) (n : Nat) (f : Stream → Stream) : (s.modStream n f).scoreboard = s.scoreboard := rfl
@[simp] theorem State.modStream_contexts (s : State) (n : Nat) (f : Stream → Stream) : (s.modStream n f).contexts = s.contexts := rfl
@[simp] theorem State.modStream_ewl (s : State) (n : Nat) (f : Stream → Stream) : (s.modStream n f).ewl = s.ewl := rfl
@[simp] theorem State.modStream_sec (s : State) (n : Nat) (f : Stream → Stream) : (s.modStream n f).sec = s.sec := rfl
@[simp] theorem State.modStream_obs (s : State) (n : Nat) (f : Stream → Stream) : (s.modStream n f).obs = s.obs := rfl
@[simp] theorem State.modStream_pwr (s : State) (n : Nat) (f : Stream → Stream) : (s.modStream n f).pwr = s.pwr := rfl
@[simp] theorem State.modStream_mgmt (s : State) (n : Nat) (f : Stream → Stream) : (s.modStream n f).mgmt = s.mgmt := rfl
@[simp] theorem State.modStream_playbill (s : State) (n : Nat) (f : Stream → Stream) : (s.modStream n f).playbill = s.playbill := rfl
@[simp] theorem State.modStream_tap (s : State) (n : Nat) (f : Stream → Stream) : (s.modStream n f).tap = s.tap := rfl
@[simp] theorem State.modStream_cores (s : State) (n : Nat) (f : Stream → Stream) : (s.modStream n f).cores = s.cores := rfl
@[simp] theorem State.modStream_coreRefetches (s : State) (n : Nat) (f : Stream → Stream) : (s.modStream n f).coreRefetches = s.coreRefetches := rfl
@[simp] theorem State.modStream_freeCount (s : State) (n : Nat) (f : Stream → Stream) : (s.modStream n f).freeCount = s.freeCount := rfl
@[simp] theorem State.modStream_pending (s : State) (n : Nat) (f : Stream → Stream) : (s.modStream n f).pending = s.pending := rfl

/-! ### modSample: a sample -/

@[simp] theorem State.modSample_time (s : State) (k : Nat) (f : Sample → Sample) : (s.modSample k f).time = s.time := rfl
@[simp] theorem State.modSample_cue (s : State) (k : Nat) (f : Sample → Sample) : (s.modSample k f).cue = s.cue := rfl
@[simp] theorem State.modSample_host (s : State) (k : Nat) (f : Sample → Sample) : (s.modSample k f).host = s.host := rfl
@[simp] theorem State.modSample_rings (s : State) (k : Nat) (f : Sample → Sample) : (s.modSample k f).rings = s.rings := rfl
@[simp] theorem State.modSample_scanPos (s : State) (k : Nat) (f : Sample → Sample) : (s.modSample k f).scanPos = s.scanPos := rfl
@[simp] theorem State.modSample_inflight (s : State) (k : Nat) (f : Sample → Sample) : (s.modSample k f).inflight = s.inflight := rfl
@[simp] theorem State.modSample_nextId (s : State) (k : Nat) (f : Sample → Sample) : (s.modSample k f).nextId = s.nextId := rfl
@[simp] theorem State.modSample_groupFn (s : State) (k : Nat) (f : Sample → Sample) : (s.modSample k f).groupFn = s.groupFn := rfl
@[simp] theorem State.modSample_events (s : State) (k : Nat) (f : Sample → Sample) : (s.modSample k f).events = s.events := rfl
@[simp] theorem State.modSample_eventsLost (s : State) (k : Nat) (f : Sample → Sample) : (s.modSample k f).eventsLost = s.eventsLost := rfl
@[simp] theorem State.modSample_outputs (s : State) (k : Nat) (f : Sample → Sample) : (s.modSample k f).outputs = s.outputs := rfl
@[simp] theorem State.modSample_lastRead (s : State) (k : Nat) (f : Sample → Sample) : (s.modSample k f).lastRead = s.lastRead := rfl
@[simp] theorem State.modSample_lastReadBytes (s : State) (k : Nat) (f : Sample → Sample) : (s.modSample k f).lastReadBytes = s.lastReadBytes := rfl
@[simp] theorem State.modSample_lastReadPoisoned (s : State) (k : Nat) (f : Sample → Sample) : (s.modSample k f).lastReadPoisoned = s.lastReadPoisoned := rfl
@[simp] theorem State.modSample_streams (s : State) (k : Nat) (f : Sample → Sample) : (s.modSample k f).streams = s.streams := rfl
@[simp] theorem State.modSample_samples (s : State) (k : Nat) (f : Sample → Sample) : (s.modSample k f).samples = amod s.samples k f := rfl
@[simp] theorem State.modSample_sampleOrder (s : State) (k : Nat) (f : Sample → Sample) : (s.modSample k f).sampleOrder = s.sampleOrder := rfl
@[simp] theorem State.modSample_casts (s : State) (k : Nat) (f : Sample → Sample) : (s.modSample k f).casts = s.casts := rfl
@[simp] theorem State.modSample_scripts (s : State) (k : Nat) (f : Sample → Sample) : (s.modSample k f).scripts = s.scripts := rfl
@[simp] theorem State.modSample_wardrobe (s : State) (k : Nat) (f : Sample → Sample) : (s.modSample k f).wardrobe = s.wardrobe := rfl
@[simp] theorem State.modSample_house (s : State) (k : Nat) (f : Sample → Sample) : (s.modSample k f).house = s.house := rfl
@[simp] theorem State.modSample_dram (s : State) (k : Nat) (f : Sample → Sample) : (s.modSample k f).dram = s.dram := rfl
@[simp] theorem State.modSample_arrays (s : State) (k : Nat) (f : Sample → Sample) : (s.modSample k f).arrays = s.arrays := rfl
@[simp] theorem State.modSample_vecs (s : State) (k : Nat) (f : Sample → Sample) : (s.modSample k f).vecs = s.vecs := rfl
@[simp] theorem State.modSample_samps (s : State) (k : Nat) (f : Sample → Sample) : (s.modSample k f).samps = s.samps := rfl
@[simp] theorem State.modSample_codecs (s : State) (k : Nat) (f : Sample → Sample) : (s.modSample k f).codecs = s.codecs := rfl
@[simp] theorem State.modSample_ingest (s : State) (k : Nat) (f : Sample → Sample) : (s.modSample k f).ingest = s.ingest := rfl
@[simp] theorem State.modSample_jpegs (s : State) (k : Nat) (f : Sample → Sample) : (s.modSample k f).jpegs = s.jpegs := rfl
@[simp] theorem State.modSample_scalers (s : State) (k : Nat) (f : Sample → Sample) : (s.modSample k f).scalers = s.scalers := rfl
@[simp] theorem State.modSample_scoreboard (s : State) (k : Nat) (f : Sample → Sample) : (s.modSample k f).scoreboard = s.scoreboard := rfl
@[simp] theorem State.modSample_contexts (s : State) (k : Nat) (f : Sample → Sample) : (s.modSample k f).contexts = s.contexts := rfl
@[simp] theorem State.modSample_ewl (s : State) (k : Nat) (f : Sample → Sample) : (s.modSample k f).ewl = s.ewl := rfl
@[simp] theorem State.modSample_sec (s : State) (k : Nat) (f : Sample → Sample) : (s.modSample k f).sec = s.sec := rfl
@[simp] theorem State.modSample_obs (s : State) (k : Nat) (f : Sample → Sample) : (s.modSample k f).obs = s.obs := rfl
@[simp] theorem State.modSample_pwr (s : State) (k : Nat) (f : Sample → Sample) : (s.modSample k f).pwr = s.pwr := rfl
@[simp] theorem State.modSample_mgmt (s : State) (k : Nat) (f : Sample → Sample) : (s.modSample k f).mgmt = s.mgmt := rfl
@[simp] theorem State.modSample_playbill (s : State) (k : Nat) (f : Sample → Sample) : (s.modSample k f).playbill = s.playbill := rfl
@[simp] theorem State.modSample_tap (s : State) (k : Nat) (f : Sample → Sample) : (s.modSample k f).tap = s.tap := rfl
@[simp] theorem State.modSample_cores (s : State) (k : Nat) (f : Sample → Sample) : (s.modSample k f).cores = s.cores := rfl
@[simp] theorem State.modSample_coreRefetches (s : State) (k : Nat) (f : Sample → Sample) : (s.modSample k f).coreRefetches = s.coreRefetches := rfl
@[simp] theorem State.modSample_freeCount (s : State) (k : Nat) (f : Sample → Sample) : (s.modSample k f).freeCount = s.freeCount := rfl
@[simp] theorem State.modSample_pending (s : State) (k : Nat) (f : Sample → Sample) : (s.modSample k f).pending = s.pending := rfl

/-! ### modPool: a pool -/

@[simp] theorem State.modPool_time (s : State) (p : Nat) (f : Pool → Pool) : (s.modPool p f).time = s.time := rfl
@[simp] theorem State.modPool_cue (s : State) (p : Nat) (f : Pool → Pool) : (s.modPool p f).cue = s.cue := rfl
@[simp] theorem State.modPool_host (s : State) (p : Nat) (f : Pool → Pool) : (s.modPool p f).host = s.host := rfl
@[simp] theorem State.modPool_rings (s : State) (p : Nat) (f : Pool → Pool) : (s.modPool p f).rings = s.rings := rfl
@[simp] theorem State.modPool_scanPos (s : State) (p : Nat) (f : Pool → Pool) : (s.modPool p f).scanPos = s.scanPos := rfl
@[simp] theorem State.modPool_inflight (s : State) (p : Nat) (f : Pool → Pool) : (s.modPool p f).inflight = s.inflight := rfl
@[simp] theorem State.modPool_nextId (s : State) (p : Nat) (f : Pool → Pool) : (s.modPool p f).nextId = s.nextId := rfl
@[simp] theorem State.modPool_groupFn (s : State) (p : Nat) (f : Pool → Pool) : (s.modPool p f).groupFn = s.groupFn := rfl
@[simp] theorem State.modPool_events (s : State) (p : Nat) (f : Pool → Pool) : (s.modPool p f).events = s.events := rfl
@[simp] theorem State.modPool_eventsLost (s : State) (p : Nat) (f : Pool → Pool) : (s.modPool p f).eventsLost = s.eventsLost := rfl
@[simp] theorem State.modPool_outputs (s : State) (p : Nat) (f : Pool → Pool) : (s.modPool p f).outputs = s.outputs := rfl
@[simp] theorem State.modPool_lastRead (s : State) (p : Nat) (f : Pool → Pool) : (s.modPool p f).lastRead = s.lastRead := rfl
@[simp] theorem State.modPool_lastReadBytes (s : State) (p : Nat) (f : Pool → Pool) : (s.modPool p f).lastReadBytes = s.lastReadBytes := rfl
@[simp] theorem State.modPool_lastReadPoisoned (s : State) (p : Nat) (f : Pool → Pool) : (s.modPool p f).lastReadPoisoned = s.lastReadPoisoned := rfl
@[simp] theorem State.modPool_streams (s : State) (p : Nat) (f : Pool → Pool) : (s.modPool p f).streams = s.streams := rfl
@[simp] theorem State.modPool_samples (s : State) (p : Nat) (f : Pool → Pool) : (s.modPool p f).samples = s.samples := rfl
@[simp] theorem State.modPool_sampleOrder (s : State) (p : Nat) (f : Pool → Pool) : (s.modPool p f).sampleOrder = s.sampleOrder := rfl
@[simp] theorem State.modPool_casts (s : State) (p : Nat) (f : Pool → Pool) : (s.modPool p f).casts = s.casts := rfl
@[simp] theorem State.modPool_scripts (s : State) (p : Nat) (f : Pool → Pool) : (s.modPool p f).scripts = s.scripts := rfl
@[simp] theorem State.modPool_wardrobe (s : State) (p : Nat) (f : Pool → Pool) : (s.modPool p f).wardrobe = { s.wardrobe with pools := amod s.wardrobe.pools p f } := rfl
@[simp] theorem State.modPool_house (s : State) (p : Nat) (f : Pool → Pool) : (s.modPool p f).house = s.house := rfl
@[simp] theorem State.modPool_dram (s : State) (p : Nat) (f : Pool → Pool) : (s.modPool p f).dram = s.dram := rfl
@[simp] theorem State.modPool_arrays (s : State) (p : Nat) (f : Pool → Pool) : (s.modPool p f).arrays = s.arrays := rfl
@[simp] theorem State.modPool_vecs (s : State) (p : Nat) (f : Pool → Pool) : (s.modPool p f).vecs = s.vecs := rfl
@[simp] theorem State.modPool_samps (s : State) (p : Nat) (f : Pool → Pool) : (s.modPool p f).samps = s.samps := rfl
@[simp] theorem State.modPool_codecs (s : State) (p : Nat) (f : Pool → Pool) : (s.modPool p f).codecs = s.codecs := rfl
@[simp] theorem State.modPool_ingest (s : State) (p : Nat) (f : Pool → Pool) : (s.modPool p f).ingest = s.ingest := rfl
@[simp] theorem State.modPool_jpegs (s : State) (p : Nat) (f : Pool → Pool) : (s.modPool p f).jpegs = s.jpegs := rfl
@[simp] theorem State.modPool_scalers (s : State) (p : Nat) (f : Pool → Pool) : (s.modPool p f).scalers = s.scalers := rfl
@[simp] theorem State.modPool_scoreboard (s : State) (p : Nat) (f : Pool → Pool) : (s.modPool p f).scoreboard = s.scoreboard := rfl
@[simp] theorem State.modPool_contexts (s : State) (p : Nat) (f : Pool → Pool) : (s.modPool p f).contexts = s.contexts := rfl
@[simp] theorem State.modPool_ewl (s : State) (p : Nat) (f : Pool → Pool) : (s.modPool p f).ewl = s.ewl := rfl
@[simp] theorem State.modPool_sec (s : State) (p : Nat) (f : Pool → Pool) : (s.modPool p f).sec = s.sec := rfl
@[simp] theorem State.modPool_obs (s : State) (p : Nat) (f : Pool → Pool) : (s.modPool p f).obs = s.obs := rfl
@[simp] theorem State.modPool_pwr (s : State) (p : Nat) (f : Pool → Pool) : (s.modPool p f).pwr = s.pwr := rfl
@[simp] theorem State.modPool_mgmt (s : State) (p : Nat) (f : Pool → Pool) : (s.modPool p f).mgmt = s.mgmt := rfl
@[simp] theorem State.modPool_playbill (s : State) (p : Nat) (f : Pool → Pool) : (s.modPool p f).playbill = s.playbill := rfl
@[simp] theorem State.modPool_tap (s : State) (p : Nat) (f : Pool → Pool) : (s.modPool p f).tap = s.tap := rfl
@[simp] theorem State.modPool_cores (s : State) (p : Nat) (f : Pool → Pool) : (s.modPool p f).cores = s.cores := rfl
@[simp] theorem State.modPool_coreRefetches (s : State) (p : Nat) (f : Pool → Pool) : (s.modPool p f).coreRefetches = s.coreRefetches := rfl
@[simp] theorem State.modPool_freeCount (s : State) (p : Nat) (f : Pool → Pool) : (s.modPool p f).freeCount = s.freeCount := rfl
@[simp] theorem State.modPool_pending (s : State) (p : Nat) (f : Pool → Pool) : (s.modPool p f).pending = s.pending := rfl

/-! ### draw: the counter of free values (log entry 1) -/

@[simp] theorem State.draw_time (s : State) : s.draw.2.time = s.time := rfl
@[simp] theorem State.draw_cue (s : State) : s.draw.2.cue = s.cue := rfl
@[simp] theorem State.draw_host (s : State) : s.draw.2.host = s.host := rfl
@[simp] theorem State.draw_rings (s : State) : s.draw.2.rings = s.rings := rfl
@[simp] theorem State.draw_scanPos (s : State) : s.draw.2.scanPos = s.scanPos := rfl
@[simp] theorem State.draw_inflight (s : State) : s.draw.2.inflight = s.inflight := rfl
@[simp] theorem State.draw_nextId (s : State) : s.draw.2.nextId = s.nextId := rfl
@[simp] theorem State.draw_groupFn (s : State) : s.draw.2.groupFn = s.groupFn := rfl
@[simp] theorem State.draw_events (s : State) : s.draw.2.events = s.events := rfl
@[simp] theorem State.draw_eventsLost (s : State) : s.draw.2.eventsLost = s.eventsLost := rfl
@[simp] theorem State.draw_outputs (s : State) : s.draw.2.outputs = s.outputs := rfl
@[simp] theorem State.draw_lastRead (s : State) : s.draw.2.lastRead = s.lastRead := rfl
@[simp] theorem State.draw_lastReadBytes (s : State) : s.draw.2.lastReadBytes = s.lastReadBytes := rfl
@[simp] theorem State.draw_lastReadPoisoned (s : State) : s.draw.2.lastReadPoisoned = s.lastReadPoisoned := rfl
@[simp] theorem State.draw_streams (s : State) : s.draw.2.streams = s.streams := rfl
@[simp] theorem State.draw_samples (s : State) : s.draw.2.samples = s.samples := rfl
@[simp] theorem State.draw_sampleOrder (s : State) : s.draw.2.sampleOrder = s.sampleOrder := rfl
@[simp] theorem State.draw_casts (s : State) : s.draw.2.casts = s.casts := rfl
@[simp] theorem State.draw_scripts (s : State) : s.draw.2.scripts = s.scripts := rfl
@[simp] theorem State.draw_wardrobe (s : State) : s.draw.2.wardrobe = s.wardrobe := rfl
@[simp] theorem State.draw_house (s : State) : s.draw.2.house = s.house := rfl
@[simp] theorem State.draw_dram (s : State) : s.draw.2.dram = s.dram := rfl
@[simp] theorem State.draw_arrays (s : State) : s.draw.2.arrays = s.arrays := rfl
@[simp] theorem State.draw_vecs (s : State) : s.draw.2.vecs = s.vecs := rfl
@[simp] theorem State.draw_samps (s : State) : s.draw.2.samps = s.samps := rfl
@[simp] theorem State.draw_codecs (s : State) : s.draw.2.codecs = s.codecs := rfl
@[simp] theorem State.draw_ingest (s : State) : s.draw.2.ingest = s.ingest := rfl
@[simp] theorem State.draw_jpegs (s : State) : s.draw.2.jpegs = s.jpegs := rfl
@[simp] theorem State.draw_scalers (s : State) : s.draw.2.scalers = s.scalers := rfl
@[simp] theorem State.draw_scoreboard (s : State) : s.draw.2.scoreboard = s.scoreboard := rfl
@[simp] theorem State.draw_contexts (s : State) : s.draw.2.contexts = s.contexts := rfl
@[simp] theorem State.draw_ewl (s : State) : s.draw.2.ewl = s.ewl := rfl
@[simp] theorem State.draw_sec (s : State) : s.draw.2.sec = s.sec := rfl
@[simp] theorem State.draw_obs (s : State) : s.draw.2.obs = s.obs := rfl
@[simp] theorem State.draw_pwr (s : State) : s.draw.2.pwr = s.pwr := rfl
@[simp] theorem State.draw_mgmt (s : State) : s.draw.2.mgmt = s.mgmt := rfl
@[simp] theorem State.draw_playbill (s : State) : s.draw.2.playbill = s.playbill := rfl
@[simp] theorem State.draw_tap (s : State) : s.draw.2.tap = s.tap := rfl
@[simp] theorem State.draw_cores (s : State) : s.draw.2.cores = s.cores := rfl
@[simp] theorem State.draw_coreRefetches (s : State) : s.draw.2.coreRefetches = s.coreRefetches := rfl
@[simp] theorem State.draw_freeCount (s : State) : s.draw.2.freeCount = s.freeCount + 1 := rfl
@[simp] theorem State.draw_pending (s : State) : s.draw.2.pending = s.pending := rfl
@[simp] theorem State.draw_value (s : State) : s.draw.1 = s.freeCount := rfl

end Sys2Proof.Machine
end

