-- ==== Sys2Proof/Laws/Steps.lean ====
section
/-! SUPPORT. What an operation can do to the queue, to the canonical form of memory and to the device state, as relations between the
state before and the state after, which compose. -/

namespace Sys2Proof.Machine

open Sys2Proof
/-- What almost every operation keeps: the queue, the canonical form of memory, and the device state unless it is FAULTED now. -/
structure Steps (wr : Bool) (s t : State) : Prop where
  queue : t.pending = s.pending
  wf : s.memWf = true → t.memWf = true
  state : t.host.state = s.host.state ∨ t.host.state = .faulted
  same : wr = false → t.house.mem = s.house.mem ∧ t.dram.mem = s.dram.mem
variable {wr : Bool}

theorem Steps.refl (s : State) : Steps wr s s := ⟨rfl, id, .inl rfl, fun _ => ⟨rfl, rfl⟩⟩

theorem Steps.trans {s t u : State} (h : Steps wr s t) (g : Steps wr t u) : Steps wr s u :=
  ⟨g.queue.trans h.queue, g.wf ∘ h.wf,
    g.state.elim (fun e => h.state.elim (fun e' => .inl (e.trans e')) (fun e' => .inr (e.trans e'))) .inr,
    fun e => ⟨(g.same e).1.trans (h.same e).1, (g.same e).2.trans (h.same e).2⟩⟩

theorem Steps.after {s t u : State} (g : Steps wr t u) (h : Steps wr s t) : Steps wr s u := h.trans g

theorem Steps.foldl {α : Type} (f : State → α → State) (l : List α) (s : State)
    (h : ∀ t x, Steps wr t (f t x)) : Steps wr s (l.foldl f s) := by
  induction l generalizing s with
  | nil => exact .refl _
  | cons x l ih => exact (h s x).trans (ih _)

theorem Steps.ite {c : Prop} [Decidable c] {s a b : State} (h : c → Steps wr s a) (g : ¬c → Steps wr s b) :
    Steps wr s (if c then a else b) := by
  split
  · exact h ‹_›
  · exact g ‹_›

theorem Steps.seq {s y t : State} (h : Steps wr s y) (g : Steps wr s y → Steps wr s t) : Steps wr s t := g h

/-- What a command can do beyond that: SERVICE can become DRAINING (DEVICE_STOP, R312). -/
structure Drains (wr : Bool) (s t : State) : Prop where
  queue : t.pending = s.pending
  wf : s.memWf = true → t.memWf = true
  state : t.host.state = s.host.state ∨ t.host.state = .faulted ∨ (s.host.state = .service ∧ t.host.state = .draining)
  same : wr = false → t.house.mem = s.house.mem ∧ t.dram.mem = s.dram.mem

theorem Steps.drains {s t : State} (h : Steps wr s t) : Drains wr s t :=
  ⟨h.queue, h.wf, h.state.elim .inl (fun e => .inr (.inl e)), h.same⟩

theorem Drains.refl (s : State) : Drains wr s s := (Steps.refl s).drains

theorem Drains.trans {s t u : State} (h : Drains wr s t) (g : Drains wr t u) : Drains wr s u := by
  refine ⟨g.queue.trans h.queue, g.wf ∘ h.wf, ?_, fun e => ⟨(g.same e).1.trans (h.same e).1, (g.same e).2.trans (h.same e).2⟩⟩
  rcases g.state with e | e | ⟨e, e'⟩
  · rw [e]; exact h.state
  · exact .inr (.inl e)
  · rcases h.state with k | k | ⟨_, k⟩
    · exact .inr (.inr ⟨k ▸ e, e'⟩)
    · rw [k] at e; cases e
    · rw [k] at e; cases e

theorem Drains.after {s t u : State} (g : Drains wr t u) (h : Drains wr s t) : Drains wr s u := h.trans g

theorem Drains.foldl {α : Type} (f : State → α → State) (l : List α) (s : State)
    (h : ∀ t x, Drains wr t (f t x)) : Drains wr s (l.foldl f s) := by
  induction l generalizing s with
  | nil => exact .refl _
  | cons x l ih => exact (h s x).trans (ih _)

theorem Drains.ite {c : Prop} [Decidable c] {s a b : State} (h : c → Drains wr s a) (g : ¬c → Drains wr s b) :
    Drains wr s (if c then a else b) := by
  split
  · exact h ‹_›
  · exact g ‹_›

theorem Drains.seq {s y t : State} (h : Drains wr s y) (g : Drains wr s y → Drains wr s t) : Drains wr s t := g h

/-- What an edge or a boot step can do: one transition of Table 13.6. -/
structure Moves (wr : Bool) (s t : State) : Prop where
  queue : t.pending = s.pending
  wf : s.memWf = true → t.memWf = true
  state : t.host.state = s.host.state ∨ t.host.state = .faulted ∨ (s.host.state, t.host.state) ∈ stateMoves
  same : wr = false → t.house.mem = s.house.mem ∧ t.dram.mem = s.dram.mem

theorem Drains.moves {s t : State} (h : Drains wr s t) : Moves wr s t := by
  refine ⟨h.queue, h.wf, ?_, h.same⟩
  rcases h.state with e | e | ⟨e, e'⟩
  · exact .inl e
  · exact .inr (.inl e)
  · rw [e, e']; exact .inr (.inr (by decide))

theorem Moves.before {s t u : State} (h : Steps wr s t) (g : Moves wr t u) : Moves wr s u := by
  refine ⟨g.queue.trans h.queue, g.wf ∘ h.wf, ?_, fun e => ⟨(g.same e).1.trans (h.same e).1, (g.same e).2.trans (h.same e).2⟩⟩
  rcases h.state with e | e
  · rw [← e]; exact g.state
  · rcases g.state with k | k | k
    · exact .inr (.inl (k.trans e))
    · exact .inr (.inl k)
    · rw [e] at k; simp [stateMoves] at k

theorem Moves.then {s t u : State} (h : Moves wr s t) (g : Steps wr t u) : Moves wr s u := by
  refine ⟨g.queue.trans h.queue, g.wf ∘ h.wf, ?_, fun e => ⟨(g.same e).1.trans (h.same e).1, (g.same e).2.trans (h.same e).2⟩⟩
  rcases g.state with e | e
  · rw [e]; exact h.state
  · exact .inr (.inl e)

/-- What a reset keeps: the queue and the canonical form of memory. -/
structure Keeps (s t : State) : Prop where
  queue : t.pending = s.pending
  wf : s.memWf = true → t.memWf = true

theorem Steps.keeps {s t : State} (h : Steps wr s t) : Keeps s t := ⟨h.queue, h.wf⟩

theorem Keeps.trans {s t u : State} (h : Keeps s t) (g : Keeps t u) : Keeps s u := ⟨g.queue.trans h.queue, g.wf ∘ h.wf⟩

/-- The state a verdict carries. -/
def Verdict.state : Verdict → State
  | .done _ _ s => s
  | .wait _ s => s

@[simp] theorem Verdict.state_done (o : Outcome) (r : Nat) (s : State) : (Verdict.done o r s).state = s := rfl

@[simp] theorem Verdict.state_wait (w : Work) (s : State) : (Verdict.wait w s).state = s := rfl
section Upd
variable {time : TimeBlk} {cue : CueBlk} {host : HostBlk} {rings : List (Nat × Ring)} {scanPos : Nat} {inflight : List (Nat × InFlight)}
    {nextId : Nat} {groupFn : List (Nat × Nat)} {events : List Event} {eventsLost : Nat} {outputs : List Output} {lastRead : Word64}
    {lastReadBytes : List Byte} {lastReadPoisoned : Bool} {streams : List (Nat × Stream)} {samples : List (Nat × Sample)}
    {sampleOrder : Nat} {casts : List (Nat × Cast)} {scripts : List (Nat × Script)} {wardrobe : Wardrobe} {house : House} {dram : Dram}
    {arrays : List ArrayBlk} {vecs : List VecBlk} {samps : List SampBlk} {codecs : List CodecBlk} {ingest : Ingest} {jpegs :
    List JpegUnit} {scalers : List Scaler} {scoreboard : List (Nat × Tile)} {contexts : List (Nat × SavedContext)} {ewl : Ewl} {sec :
    Sec} {obs : Obs} {pwr : Pwr} {mgmt : Mgmt} {playbill : Playbill} {tap : TapInstruction} {cores : List (Nat × List Nat)}
    {coreRefetches : Nat} {freeCount : Nat} {pending : List Instr}

theorem Steps.upd {s y : State} (h : Steps wr s y) (hp : pending = y.pending)
    (hh : house.mem = y.house.mem) (hd : dram.mem = y.dram.mem) (hs : host.state = y.host.state) :
    Steps wr s ⟨time, cue, host, rings, scanPos, inflight, nextId, groupFn, events, eventsLost, outputs, lastRead, lastReadBytes,
        lastReadPoisoned, streams, samples, sampleOrder, casts, scripts, wardrobe, house, dram, arrays, vecs, samps, codecs, ingest,
        jpegs, scalers, scoreboard, contexts, ewl, sec, obs, pwr, mgmt, playbill, tap, cores, coreRefetches, freeCount, pending⟩ := by
  refine h.trans ⟨hp, fun w => ?_, .inl hs, fun _ => ⟨hh, hd⟩⟩
  simpa only [State.memWf, hh, hd] using w

theorem Drains.upd {s y : State} (h : Drains wr s y) (hp : pending = y.pending)
    (hh : house.mem = y.house.mem) (hd : dram.mem = y.dram.mem) (hs : host.state = y.host.state) :
    Drains wr s ⟨time, cue, host, rings, scanPos, inflight, nextId, groupFn, events, eventsLost, outputs, lastRead, lastReadBytes,
        lastReadPoisoned, streams, samples, sampleOrder, casts, scripts, wardrobe, house, dram, arrays, vecs, samps, codecs, ingest,
        jpegs, scalers, scoreboard, contexts, ewl, sec, obs, pwr, mgmt, playbill, tap, cores, coreRefetches, freeCount,
        pending⟩ := h.trans (Steps.upd (.refl y) hp hh hd hs).drains
end Upd

end Sys2Proof.Machine
end

