-- ==== Sys2Proof/Laws/StepsOps.lean ====
section
/-! SUPPORT. What each operation of the shared operations, the acceptance of commands and the Wardrobe can do to the queue,
    to memory and to the
device state (`Steps` and its kin), said once for each; a proof about a step cites these and unfolds nothing. -/

set_option linter.all false

namespace Sys2Proof.Machine

open Sys2Proof

/-! ### Machine/Ops.lean -/

theorem State.writeMem_steps (s : State) (dram : Bool) (a : Nat) (bs : List Byte) : Steps true s (State.writeMem s dram a bs) := by
  refine ⟨by unfold writeMem; split <;> rfl, fun h => ?_, .inl (by unfold writeMem; split <;> rfl), nofun⟩
  simp only [State.memWf, Bool.and_eq_true] at h ⊢
  unfold writeMem
  split
  · exact ⟨h.1, Memory.writeBytes_wf _ _ h.2⟩
  · exact ⟨Memory.writeBytes_wf _ _ h.1, h.2⟩

theorem State.zeroMem_steps (s : State) (dram : Bool) (a n : Nat) : Steps true s (State.zeroMem s dram a n) := by
  refine ⟨by unfold zeroMem; split <;> rfl, fun h => ?_, .inl (by unfold zeroMem; split <;> rfl), nofun⟩
  simp only [State.memWf, Bool.and_eq_true] at h ⊢
  unfold zeroMem
  split
  · exact ⟨h.1, Memory.erase_wf _ _ h.2⟩
  · exact ⟨Memory.erase_wf _ _ h.1, h.2⟩

theorem State.draw_steps (s : State) : Steps wr s (State.draw s).2 := by
  unfold State.draw
  exact .upd (.refl _) rfl rfl rfl rfl

theorem State.modFn_steps (s : State) (fn : Nat) (f : Fn → Fn) : Steps wr s (State.modFn s fn f) := by
  unfold State.modFn
  exact .upd (.refl _) rfl rfl rfl rfl

theorem sendFrames_steps (n : Nat) (s : State) : Steps wr s (sendFrames n s) := by
  obtain ⟨o, l, e⟩ := sendFrames_only (n := n) (s := s)
  rw [e]
  exact .upd (.refl _) rfl rfl rfl rfl

theorem State.drainTrace_steps (s : State) (before : Nat) (after : Nat) : Steps wr s (State.drainTrace s before after) := by
  unfold State.drainTrace
  repeat' first
    | with_reducible exact .refl _
    | with_reducible assumption
    | (extract_lets -underBinder +onlyGivenNames y; clear_value (e : y = _)
       first | (refine Steps.seq (y := y) ?_ ?_; rotate_left; (intro hy; clear e); rotate_right; subst e) | subst e)
    | with_reducible apply Steps.after (sendFrames_steps ..)
    | fail_if_no_progress with_reducible refine Steps.upd ?_ rfl rfl rfl rfl

theorem State.advance_steps (s : State) (dt : Nat) : Steps wr s (State.advance s dt) := by
  unfold State.advance
  repeat' first
    | with_reducible exact .refl _
    | with_reducible assumption
    | (extract_lets -underBinder +onlyGivenNames y; clear_value (e : y = _)
       first | (refine Steps.seq (y := y) ?_ ?_; rotate_left; (intro hy; clear e); rotate_right; subst e) | subst e)
    | with_reducible apply Steps.after (State.drainTrace_steps ..)
    | (with_reducible apply Steps.ite <;> intro _)
    | fail_if_no_progress with_reducible refine Steps.upd ?_ rfl rfl rfl rfl

theorem State.trace_steps (s : State) (kind : Nat) (cls : Nat) (unit : Nat) (arg0 : Nat) (arg1 : Nat) :
    Steps wr s (State.trace s kind cls unit arg0 arg1) := by
  unfold State.trace
  repeat' first
    | with_reducible exact .refl _
    | with_reducible assumption
    | (extract_lets -underBinder +onlyGivenNames y; clear_value (e : y = _)
       first | (refine Steps.seq (y := y) ?_ ?_; rotate_left; (intro hy; clear e); rotate_right; subst e) | subst e)
    | (with_reducible apply Steps.ite <;> intro _)
    | fail_if_no_progress with_reducible refine Steps.upd ?_ rfl rfl rfl rfl

theorem State.wakeLink_steps (s : State) : Steps wr s (State.wakeLink s) := by
  unfold State.wakeLink
  exact .upd (.refl _) rfl rfl rfl rfl

theorem State.raiseVector_steps (s : State) (fn : Nat) (v : Nat) : Steps wr s (State.raiseVector s fn v) := by
  unfold State.raiseVector
  repeat' first
    | with_reducible exact .refl _
    | with_reducible assumption
    | (extract_lets -underBinder +onlyGivenNames y; clear_value (e : y = _)
       first | (refine Steps.seq (y := y) ?_ ?_; rotate_left; (intro hy; clear e); rotate_right; subst e) | subst e)
    | with_reducible apply Steps.after (State.modFn_steps ..)
    | (with_reducible apply Steps.ite <;> intro _)
    | fail_if_no_progress with_reducible refine Steps.upd ?_ rfl rfl rfl rfl

theorem State.modRing_steps (s : State) (q : Nat) (f : Ring → Ring) : Steps wr s (State.modRing s q f) := by
  unfold State.modRing
  exact .upd (.refl _) rfl rfl rfl rfl

theorem State.haltRing_steps (s : State) (q : Nat) (cause : Nat) : Steps wr s (State.haltRing s q cause) := by
  unfold State.haltRing
  repeat' first
    | with_reducible exact .refl _
    | with_reducible apply Steps.after (State.modRing_steps ..)
    | (with_reducible apply Steps.ite <;> intro _)
    | fail_if_no_progress with_reducible refine Steps.upd ?_ rfl rfl rfl rfl

theorem State.putCompletion_steps (s : State) (q : Nat) (c : Completion) (raise : Bool) : Steps wr s (State.putCompletion s q c raise) := by
  unfold State.putCompletion
  repeat' first
    | with_reducible exact .refl _
    | with_reducible assumption
    | (extract_lets -underBinder +onlyGivenNames y; clear_value (e : y = _)
       first | (refine Steps.seq (y := y) ?_ ?_; rotate_left; (intro hy; clear e); rotate_right; subst e) | subst e)
    | with_reducible apply Steps.after (State.raiseVector_steps ..)
    | with_reducible apply Steps.after (State.wakeLink_steps ..)
    | (with_reducible apply Steps.ite <;> intro _)
    | fail_if_no_progress with_reducible refine Steps.upd ?_ rfl rfl rfl rfl
    | split

theorem State.modEw_steps (s : State) (n : Nat) (f : EwPort → EwPort) : Steps wr s (State.modEw s n f) := by
  unfold State.modEw
  exact .upd (.refl _) rfl rfl rfl rfl

theorem State.putMessage_steps (s : State) (port : Nat) (m : Msg) (bytes : List Byte) : Steps wr s (State.putMessage s port m bytes) := by
  unfold State.putMessage
  repeat' first
    | with_reducible exact .refl _
    | with_reducible assumption
    | (extract_lets -underBinder +onlyGivenNames y; clear_value (e : y = _)
       first | (refine Steps.seq (y := y) ?_ ?_; rotate_left; (intro hy; clear e); rotate_right; subst e) | subst e)
    | with_reducible apply Steps.after (State.modEw_steps ..)
    | fail_if_no_progress with_reducible refine Steps.upd ?_ rfl rfl rfl rfl

theorem State.send_steps (s : State) (kind : Nat) (dst : Nat) (address : Nat) (chain : Nat) (block : Nat) (sealed : Bool) (bytes :
    List Byte) : Steps wr s (State.send s kind dst address chain block sealed bytes) := by
  unfold State.send
  repeat' first
    | with_reducible exact .refl _
    | with_reducible apply Steps.after (State.putMessage_steps ..)
    | fail_if_no_progress with_reducible refine Steps.upd ?_ rfl rfl rfl rfl
    | split

theorem State.flood_steps (s : State) (m : Msg) (bytes : List Byte) : Steps wr s (State.flood s m bytes) := by
  unfold State.flood
  repeat' first
    | with_reducible exact .refl _
    | with_reducible apply Steps.after (State.putMessage_steps ..)
    | (with_reducible apply Steps.after (Steps.foldl _ _ _ ?_); rotate_left; intro _ _)

theorem State.sendMirror_steps (s : State) (c : MirrorContent) (command : Option Nat) (write : Option (Completion × Bool)) :
    Steps wr s (State.sendMirror s c command write) := by
  unfold State.sendMirror
  repeat' first
    | with_reducible exact .refl _
    | with_reducible assumption
    | (extract_lets -underBinder +onlyGivenNames y; clear_value (e : y = _)
       first | (refine Steps.seq (y := y) ?_ ?_; rotate_left; (intro hy; clear e); rotate_right; subst e) | subst e)
    | with_reducible apply Steps.after (State.send_steps ..)
    | fail_if_no_progress with_reducible refine Steps.upd ?_ rfl rfl rfl rfl
    | split

theorem State.mirrorChanges_steps (s : State) : Steps wr s (State.mirrorChanges s) := by
  unfold State.mirrorChanges
  repeat' first
    | with_reducible exact .refl _
    | with_reducible assumption
    | (extract_lets -underBinder +onlyGivenNames y; clear_value (e : y = _)
       first | (refine Steps.seq (y := y) ?_ ?_; rotate_left; (intro hy; clear e); rotate_right; subst e) | subst e)
    | with_reducible apply Steps.after (State.sendMirror_steps ..)
    | (with_reducible apply Steps.after (Steps.foldl _ _ _ ?_); rotate_left; intro _ _)
    | (with_reducible apply Steps.ite <;> intro _)
    | fail_if_no_progress with_reducible refine Steps.upd ?_ rfl rfl rfl rfl

theorem State.tellAll_steps (s : State) (kind : Nat) (bytes : List Byte) : Steps wr s (State.tellAll s kind bytes) := by
  unfold State.tellAll
  repeat' first
    | with_reducible exact .refl _
    | with_reducible assumption
    | (extract_lets -underBinder +onlyGivenNames y; clear_value (e : y = _)
       first | (refine Steps.seq (y := y) ?_ ?_; rotate_left; (intro hy; clear e); rotate_right; subst e) | subst e)
    | with_reducible apply Steps.after (State.send_steps ..)
    | (with_reducible apply Steps.after (Steps.foldl _ _ _ ?_); rotate_left; intro _ _)
    | (with_reducible apply Steps.ite <;> intro _)
    | fail_if_no_progress with_reducible refine Steps.upd ?_ rfl rfl rfl rfl

theorem State.tellMembers_steps (s : State) (kind : Nat) (bytes : List Byte) : Steps wr s (State.tellMembers s kind bytes) := by
  unfold State.tellMembers
  repeat' first
    | with_reducible exact .refl _
    | with_reducible apply Steps.after (State.tellAll_steps ..)
    | (with_reducible apply Steps.ite <;> intro _)

theorem State.complete_steps (s : State) (f : InFlight) (o : Outcome) (result : Nat) : Steps wr s (State.complete s f o result) := by
  unfold State.complete
  repeat' first
    | with_reducible exact .refl _
    | with_reducible assumption
    | (extract_lets -underBinder +onlyGivenNames y; clear_value (e : y = _)
       first | (refine Steps.seq (y := y) ?_ ?_; rotate_left; (intro hy; clear e); rotate_right; subst e) | subst e)
    | with_reducible apply Steps.after (State.mirrorChanges_steps ..)
    | with_reducible apply Steps.after (State.putCompletion_steps ..)
    | with_reducible apply Steps.after (State.send_steps ..)
    | with_reducible apply Steps.after (State.sendMirror_steps ..)
    | with_reducible apply Steps.after (State.trace_steps ..)
    | (with_reducible apply Steps.ite <;> intro _)
    | fail_if_no_progress with_reducible refine Steps.upd ?_ rfl rfl rfl rfl
    | split

theorem State.settleSeals_steps (s : State) : Steps wr s (State.settleSeals s) := by
  unfold State.settleSeals
  repeat' first
    | with_reducible exact .refl _
    | with_reducible apply Steps.after (State.complete_steps ..)
    | (with_reducible apply Steps.after (Steps.foldl _ _ _ ?_); rotate_left; intro _ _)
    | fail_if_no_progress with_reducible refine Steps.upd ?_ rfl rfl rfl rfl

theorem State.putEvent_steps (s : State) (e : Event) : Steps wr s (State.putEvent s e) := by
  unfold State.putEvent
  repeat' first
    | with_reducible exact .refl _
    | with_reducible apply Steps.after (State.putCompletion_steps ..)

theorem writeHeld_steps (l : List Event) (s : State) : Steps wr s (writeHeld l s) := by
  induction l generalizing s with
  | nil => exact .upd (.refl _) rfl rfl rfl rfl
  | cons e l ih =>
    unfold writeHeld
    split
    · exact (State.putEvent_steps ..).trans (ih _)
    · exact .upd (.refl _) rfl rfl rfl rfl

theorem State.flushEvents_steps (s : State) : Steps wr s (State.flushEvents s) := by
  unfold State.flushEvents
  repeat' first
    | with_reducible exact .refl _
    | with_reducible assumption
    | (extract_lets -underBinder +onlyGivenNames y; clear_value (e : y = _)
       first | (refine Steps.seq (y := y) ?_ ?_; rotate_left; (intro hy; clear e); rotate_right; subst e) | subst e)
    | with_reducible apply Steps.after (State.putEvent_steps ..)
    | with_reducible apply Steps.after (writeHeld_steps ..)
    | (with_reducible apply Steps.ite <;> intro _)
    | fail_if_no_progress with_reducible refine Steps.upd ?_ rfl rfl rfl rfl

theorem State.settleAdminReset_steps (s : State) : Steps wr s (State.settleAdminReset s) := by
  unfold State.settleAdminReset
  repeat' first
    | with_reducible exact .refl _
    | with_reducible apply Steps.after (State.flushEvents_steps ..)
    | with_reducible apply Steps.after (State.modRing_steps ..)
    | (with_reducible apply Steps.ite <;> intro _)
    | fail_if_no_progress with_reducible refine Steps.upd ?_ rfl rfl rfl rfl

theorem State.finish_steps (s : State) (id : Nat) (o : Outcome) (result : Nat) : Steps wr s (State.finish s id o result) := by
  unfold State.finish
  repeat' first
    | with_reducible exact .refl _
    | with_reducible apply Steps.after (State.complete_steps ..)
    | with_reducible apply Steps.after (State.settleAdminReset_steps ..)
    | with_reducible apply Steps.after (State.settleSeals_steps ..)
    | fail_if_no_progress with_reducible refine Steps.upd ?_ rfl rfl rfl rfl
    | split

theorem State.setWork_steps (s : State) (id : Nat) (w : Work) : Steps wr s (State.setWork s id w) := by
  unfold State.setWork
  exact .upd (.refl _) rfl rfl rfl rfl

theorem State.postEvent_steps (s : State) (code : Nat) (status : Status) (detail : Nat) (result : Nat) :
    Steps wr s (State.postEvent s code status detail result) := by
  unfold State.postEvent
  repeat' first
    | with_reducible exact .refl _
    | with_reducible apply Steps.after (State.flushEvents_steps ..)
    | (with_reducible apply Steps.ite <;> intro _)
    | fail_if_no_progress with_reducible refine Steps.upd ?_ rfl rfl rfl rfl

theorem State.playbillBegins_steps (s : State) : Steps wr s (State.playbillBegins s) := by
  unfold State.playbillBegins
  exact .upd (.refl _) rfl rfl rfl rfl

theorem State.playbillDue_steps (s : State) : Steps wr s (State.playbillDue s) := by
  unfold State.playbillDue
  repeat' first
    | with_reducible exact .refl _
    | with_reducible apply Steps.after (State.playbillBegins_steps ..)
    | (with_reducible apply Steps.ite <;> intro _)
    | fail_if_no_progress with_reducible refine Steps.upd ?_ rfl rfl rfl rfl
    | split

theorem State.appendLog_steps (s : State) (kind : Nat) (fn : Nat) (ring : Nat) (arg : Nat) (data : Word256) :
    Steps wr s (State.appendLog s kind fn ring arg data) := by
  unfold State.appendLog
  repeat' first
    | with_reducible exact .refl _
    | with_reducible assumption
    | (extract_lets -underBinder +onlyGivenNames y; clear_value (e : y = _)
       first | (refine Steps.seq (y := y) ?_ ?_; rotate_left; (intro hy; clear e); rotate_right; subst e) | subst e)
    | (with_reducible apply Steps.ite <;> intro _)
    | fail_if_no_progress with_reducible refine Steps.upd ?_ rfl rfl rfl rfl

theorem State.stopUnits_steps (s : State) : Steps wr s (State.stopUnits s) := by
  unfold State.stopUnits
  repeat' first
    | with_reducible exact .refl _
    | (with_reducible apply Steps.ite <;> intro _)
    | fail_if_no_progress with_reducible refine Steps.upd ?_ rfl rfl rfl rfl

theorem State.writeHeldCompletions_steps (s : State) : Steps wr s (State.writeHeldCompletions s) := by
  unfold State.writeHeldCompletions
  repeat' first
    | with_reducible exact .refl _
    | with_reducible apply Steps.after (State.putCompletion_steps ..)
    | (with_reducible apply Steps.after (Steps.foldl _ _ _ ?_); rotate_left; intro _ _)
    | fail_if_no_progress with_reducible refine Steps.upd ?_ rfl rfl rfl rfl
    | split

theorem completeAll_steps (l : List (Nat × InFlight)) (n : Nat) (s : State) : Steps wr s (completeAll l n s) := by
  induction l generalizing s with
  | nil => exact .refl _
  | cons e l ih => exact (State.finish_steps ..).trans (ih _)

theorem State.lowerFault_steps (s : State) (cls : Nat) (unit : Nat) : Steps wr s (State.lowerFault s cls unit) := by
  unfold State.lowerFault
  repeat' first
    | with_reducible exact .refl _
    | with_reducible assumption
    | (extract_lets -underBinder +onlyGivenNames y; clear_value (e : y = _)
       first | (refine Steps.seq (y := y) ?_ ?_; rotate_left; (intro hy; clear e); rotate_right; subst e) | subst e)
    | (with_reducible apply Steps.ite <;> intro _)
    | fail_if_no_progress with_reducible refine Steps.upd ?_ rfl rfl rfl rfl

theorem State.enterFaulted_steps (s : State) (cls unit : Nat) : Steps wr s (State.enterFaulted s cls unit) := by
  unfold State.enterFaulted
  split
  · exact State.lowerFault_steps ..
  · extract_lets detail a e b c d at_
    have ha : Steps wr s a := (State.stopUnits_steps ..).trans (State.writeHeldCompletions_steps ..)
    have hb : Steps wr a b := Steps.after (completeAll_steps ..) (.upd (.refl a) rfl rfl rfl rfl)
    have hc : Steps wr b c := by
      show Steps wr b (if _ then _ else _)
      split
      · exact .refl _
      · exact State.postEvent_steps ..
    exact ((ha.trans hb).trans (hc.trans (State.trace_steps ..))).trans ⟨rfl, id, .inr rfl, fun _ => ⟨rfl, rfl⟩⟩

theorem State.modArray_steps (s : State) (a : Nat) (f : ArrayBlk → ArrayBlk) : Steps wr s (State.modArray s a f) := by
  unfold State.modArray
  exact .upd (.refl _) rfl rfl rfl rfl

theorem State.modVec_steps (s : State) (e : Nat) (f : VecBlk → VecBlk) : Steps wr s (State.modVec s e f) := by
  unfold State.modVec
  exact .upd (.refl _) rfl rfl rfl rfl

theorem State.modSamp_steps (s : State) (b : Nat) (f : SampBlk → SampBlk) : Steps wr s (State.modSamp s b f) := by
  unfold State.modSamp
  exact .upd (.refl _) rfl rfl rfl rfl

theorem State.modCodec_steps (s : State) (c : Nat) (f : CodecBlk → CodecBlk) : Steps wr s (State.modCodec s c f) := by
  unfold State.modCodec
  exact .upd (.refl _) rfl rfl rfl rfl

theorem State.modStream_steps (s : State) (n : Nat) (f : Stream → Stream) : Steps wr s (State.modStream s n f) := by
  unfold State.modStream
  exact .upd (.refl _) rfl rfl rfl rfl

theorem State.modSample_steps (s : State) (k : Nat) (f : Sample → Sample) : Steps wr s (State.modSample s k f) := by
  unfold State.modSample
  exact .upd (.refl _) rfl rfl rfl rfl

/-! ### Machine/Commands.lean -/

theorem Verdict.ok_steps (s : State) : Steps wr s (Verdict.ok s).state := by
  unfold Verdict.ok
  exact .upd (.refl _) rfl rfl rfl rfl

theorem Verdict.okResult_steps (r : Nat) (s : State) : Steps wr s (Verdict.okResult r s).state := by
  unfold Verdict.okResult
  exact .upd (.refl _) rfl rfl rfl rfl

theorem Verdict.refuse_steps (st : Status) (s : State) : Steps wr s (Verdict.refuse st s).state := by
  unfold Verdict.refuse
  exact .upd (.refl _) rfl rfl rfl rfl

theorem readHost_steps (p : Packet) (address : Nat) (n : Nat) (s : State) : Steps wr s (readHost p address n s).state := by
  unfold readHost
  exact .upd (.refl _) rfl rfl rfl rfl

theorem State.leaveRest_steps (s : State) : Steps wr s (State.leaveRest s) := by
  unfold State.leaveRest
  repeat' first
    | with_reducible exact .refl _
    | (with_reducible apply Steps.ite <;> intro _)
    | fail_if_no_progress with_reducible refine Steps.upd ?_ rfl rfl rfl rfl

theorem State.tellRemote_steps (s : State) (id opcode : Nat) (w : Work) : Steps wr s (State.tellRemote s id opcode w) := by
  unfold State.tellRemote
  repeat' first
    | with_reducible exact Steps.refl _
    | with_reducible assumption
    | (extract_lets -underBinder +onlyGivenNames y; clear_value (e : y = _)
       first | (refine Steps.seq (y := y) ?_ ?_; rotate_left; (intro hy; clear e); rotate_right; subst e) | subst e)
    | with_reducible apply Steps.after (State.send_steps ..)
    | (with_reducible apply Steps.after (Steps.foldl _ _ _ ?_); rotate_left; intro _ _)
    | (with_reducible apply Steps.ite <;> intro _)
    | fail_if_no_progress with_reducible refine Steps.upd ?_ rfl rfl rfl rfl
    | split
    | dsimp -zeta only [Verdict.state_done, Verdict.state_wait]
    | fail_if_no_progress refine Steps.upd ?_ rfl rfl rfl rfl

theorem settle_steps (opcode : Nat) (p : Packet) (v : Verdict) : Steps wr v.state (settle opcode p v) := by
  cases v with
  | done o r s => exact State.complete_steps ..
  | wait w s => exact Steps.trans (.upd (.refl _) rfl rfl rfl rfl) (State.tellRemote_steps ..)

theorem settleInFlight_steps (id : Nat) (v : Verdict) : Steps wr v.state (settleInFlight id v) := by
  cases v with
  | done o r s => exact State.finish_steps ..
  | wait w s => exact (State.setWork_steps ..).trans (State.tellRemote_steps ..)

theorem checked_drains (c : Cmd) (p : Packet) (run : State → Verdict) (s : State) (h : Drains wr s (run s).state) :
    Drains wr s (checked c p run s).state := by
  unfold checked
  split
  · exact .refl _
  · split
    · split
      · exact h
      · exact .refl _
    · exact h

structure Cmd.Good (wr : Bool) (c : Cmd) : Prop where
  body : ∀ s p, s.host.state ∈ c.states → Drains wr s (c.body s p).state
  data : ∀ s p id l, Drains true s (c.withData s p id l).state
theorem bodyChecks_states {c : Cmd} {p : Packet} {s : State} (h : bodyChecks c p s = none) : s.host.state ∈ c.states := by
  unfold bodyChecks at h
  split at h
  · cases h
  · split at h
    · cases h
    · split at h
      · cases h
      · split at h
        · cases h
        · rename_i hc
          simpa using hc
theorem startCommand_drains (c : Cmd) (p : Packet) (s : State) (h : c.Good wr) : Drains wr s (startCommand c p s).state := by
  unfold startCommand
  split
  · exact .refl _
  · split
    · exact (readHost_steps ..).drains
    · unfold checked
      split
      · exact .refl _
      · rename_i hb
        have := h.body s p (bodyChecks_states hb)
        split
        · split
          · exact this
          · exact .refl _
        · exact this

theorem State.accept_drains (s : State) (c : Cmd) (p : Packet) (h : c.Good wr) : Drains wr s (s.accept c p) := by
  unfold State.accept
  split
  · exact .refl _
  · extract_lets a b
    have hb : Steps wr s b := .upd ((State.leaveRest_steps s).trans (State.modRing_steps ..)) rfl rfl rfl rfl
    split
    · exact hb.drains.trans (Steps.trans (settle_steps c.opcode p (.wait (.mirrored p) b)) (State.sendMirror_steps ..)).drains
    · exact hb.drains.trans ((startCommand_drains c p b h).trans (settle_steps ..).drains)

/-! ### Machine/Wardrobe.lean -/

theorem State.modPool_steps (s : State) (p : Nat) (f : Pool → Pool) : Steps wr s (State.modPool s p f) := by
  unfold State.modPool
  exact .upd (.refl _) rfl rfl rfl rfl

theorem State.modBuf_steps (s : State) (p : Nat) (k : Nat) (f : Buf → Buf) : Steps wr s (State.modBuf s p k f) := by
  unfold State.modBuf
  repeat' first
    | with_reducible exact .refl _
    | with_reducible apply Steps.after (State.modPool_steps ..)
    | fail_if_no_progress with_reducible refine Steps.upd ?_ rfl rfl rfl rfl

theorem State.take_steps (s : State) (p : Nat) (pool : Pool) (g : Nat) (sealed : Bool) : Steps wr s (State.take s p pool g sealed).2 := by
  unfold State.take
  repeat' first
    | with_reducible exact .refl _
    | with_reducible assumption
    | (extract_lets -underBinder +onlyGivenNames y; clear_value (e : y = _)
       first | (refine Steps.seq (y := y) ?_ ?_; rotate_left; (intro hy; clear e); rotate_right; subst e) | subst e)
    | fail_if_no_progress with_reducible refine Steps.upd ?_ rfl rfl rfl rfl

theorem State.alloc_got_steps {s : State} {g : Nat} {dram : Bool} {size : Nat} {named : Option Nat} {sealed : Bool} {a : Nat} {fb :
    Bool} {t_ : State} (h_ : s.alloc g dram size named sealed = .got a fb t_) : Steps wr s t_ := by
  unfold State.alloc at h_
  dsimp only at h_
  split at h_
  · cases h_
  · split at h_
    · cases h_
    · split at h_
      · split at h_
        · cases h_
        · split at h_
          · cases h_
          · split at h_
            · cases h_
              exact State.take_steps ..
            · cases h_
      · split at h_
        · cases h_
        · injection h_ with _ _ e
          subst e
          split
          · exact .upd (State.take_steps ..) rfl rfl rfl rfl
          · exact State.take_steps ..
theorem State.alloc_none_steps {s : State} {g : Nat} {dram : Bool} {size : Nat} {named : Option Nat} {sealed : Bool} {st : Status}
    {t_ : State} (h_ : s.alloc g dram size named sealed = .none_ st t_) : Steps wr s t_ := by
  have hf : Steps wr s { s with wardrobe := { s.wardrobe with noResource := s.wardrobe.noResource.inc } } := .upd (.refl s) rfl rfl rfl rfl
  unfold State.alloc at h_
  dsimp only at h_
  repeat' first
    | (injection h_ with _ e; subst e; first | exact .refl _ | exact hf)
    | (cases h_; done)
    | split at h_

theorem State.freeBuf_steps (s : State) (p : Nat) (k : Nat) : Steps wr s (State.freeBuf s p k) := by
  unfold State.freeBuf
  repeat' first
    | with_reducible exact .refl _
    | with_reducible apply Steps.after (State.modBuf_steps ..)
    | with_reducible apply Steps.after (State.modPool_steps ..)
    | (with_reducible apply Steps.ite <;> intro _)
    | fail_if_no_progress with_reducible refine Steps.upd ?_ rfl rfl rfl rfl
    | split

theorem State.freeName_steps (s : State) (w : Nat) : Steps wr s (State.freeName s w) := by
  unfold State.freeName
  repeat' first
    | with_reducible exact .refl _
    | with_reducible apply Steps.after (State.freeBuf_steps ..)
    | fail_if_no_progress with_reducible refine Steps.upd ?_ rfl rfl rfl rfl
    | split

theorem State.freeFrames_steps (s : State) (n : Nat) : Steps wr s (State.freeFrames s n) := by
  unfold State.freeFrames
  repeat' first
    | with_reducible exact .refl _
    | with_reducible assumption
    | (extract_lets -underBinder +onlyGivenNames y; clear_value (e : y = _)
       first | (refine Steps.seq (y := y) ?_ ?_; rotate_left; (intro hy; clear e); rotate_right; subst e) | subst e)
    | with_reducible apply Steps.after (State.freeName_steps ..)
    | with_reducible apply Steps.after (State.modStream_steps ..)
    | (with_reducible apply Steps.after (Steps.foldl _ _ _ ?_); rotate_left; intro _ _)
    | fail_if_no_progress with_reducible refine Steps.upd ?_ rfl rfl rfl rfl
    | split

theorem State.dropStrip_steps (s : State) (name : Nat) : Steps wr s (State.dropStrip s name) := by
  unfold State.dropStrip
  repeat' first
    | with_reducible exact .refl _
    | with_reducible apply Steps.after (State.freeFrames_steps ..)
    | with_reducible apply Steps.after (State.modStream_steps ..)
    | (with_reducible apply Steps.after (Steps.foldl _ _ _ ?_); rotate_left; intro _ _)
    | (with_reducible apply Steps.ite <;> intro _)
    | fail_if_no_progress with_reducible refine Steps.upd ?_ rfl rfl rfl rfl

theorem State.release_steps (s : State) (p : Nat) (k : Nat) : Steps wr s (State.release s p k) := by
  unfold State.release
  repeat' first
    | with_reducible exact .refl _
    | with_reducible apply Steps.after (State.dropStrip_steps ..)
    | with_reducible apply Steps.after (State.freeBuf_steps ..)
    | fail_if_no_progress with_reducible refine Steps.upd ?_ rfl rfl rfl rfl
    | split

theorem State.releaseName_steps (s : State) (w : Nat) : Steps wr s (State.releaseName s w) := by
  unfold State.releaseName
  repeat' first
    | with_reducible exact .refl _
    | with_reducible apply Steps.after (State.release_steps ..)
    | fail_if_no_progress with_reducible refine Steps.upd ?_ rfl rfl rfl rfl
    | split

theorem State.doubleFree_steps (s : State) (p : Nat) (k : Nat) : Steps wr s (State.doubleFree s p k) := by
  unfold State.doubleFree
  exact .upd (.refl _) rfl rfl rfl rfl

theorem State.addReader_steps (s : State) (w : Nat) (reader : Nat) : Steps wr s (State.addReader s w reader) := by
  unfold State.addReader
  repeat' first
    | with_reducible exact .refl _
    | with_reducible apply Steps.after (State.modBuf_steps ..)
    | fail_if_no_progress with_reducible refine Steps.upd ?_ rfl rfl rfl rfl
    | split

theorem State.setWriter_steps (s : State) (w : Nat) (writer : Nat) : Steps wr s (State.setWriter s w writer) := by
  unfold State.setWriter
  repeat' first
    | with_reducible exact .refl _
    | with_reducible apply Steps.after (State.modBuf_steps ..)
    | fail_if_no_progress with_reducible refine Steps.upd ?_ rfl rfl rfl rfl
    | split

theorem State.unregister_steps (s : State) (who : Nat) : Steps wr s (State.unregister s who) := by
  unfold State.unregister
  repeat' first
    | with_reducible exact .refl _
    | (with_reducible apply Steps.ite <;> intro _)
    | fail_if_no_progress with_reducible refine Steps.upd ?_ rfl rfl rfl rfl

theorem poolCreateCmd_good  : (poolCreateCmd ).Good wr := by
  refine ⟨fun s p hs => ?_, fun s p id l => ?_⟩
  all_goals unfold poolCreateCmd
  repeat' first
    | with_reducible exact Drains.refl _
    | with_reducible assumption
    | (extract_lets -underBinder +onlyGivenNames y; clear_value (e : y = _)
       first | (refine Drains.seq (y := y) ?_ ?_; rotate_left; (intro hy; clear e); rotate_right; subst e) | subst e)
    | with_reducible apply Drains.after (Verdict.ok_steps ..).drains
    | with_reducible apply Drains.after (State.playbillDue_steps ..).drains
    | (with_reducible apply Drains.after (Drains.foldl _ _ _ ?_); rotate_left; intro _ _)
    | (with_reducible apply Drains.ite <;> intro _)
    | fail_if_no_progress with_reducible refine Drains.upd ?_ rfl rfl rfl rfl
    | split
    | dsimp -zeta only [Verdict.state_done, Verdict.state_wait]
    | fail_if_no_progress refine Drains.upd ?_ rfl rfl rfl rfl

theorem poolDestroyCmd_good  : (poolDestroyCmd ).Good wr := by
  refine ⟨fun s p hs => ?_, fun s p id l => ?_⟩
  all_goals unfold poolDestroyCmd
  repeat' first
    | with_reducible exact Drains.refl _
    | with_reducible assumption
    | (extract_lets -underBinder +onlyGivenNames y; clear_value (e : y = _)
       first | (refine Drains.seq (y := y) ?_ ?_; rotate_left; (intro hy; clear e); rotate_right; subst e) | subst e)
    | with_reducible apply Drains.after (Verdict.ok_steps ..).drains
    | with_reducible apply Drains.after (State.playbillDue_steps ..).drains
    | (with_reducible apply Drains.after (Drains.foldl _ _ _ ?_); rotate_left; intro _ _)
    | (with_reducible apply Drains.ite <;> intro _)
    | fail_if_no_progress with_reducible refine Drains.upd ?_ rfl rfl rfl rfl
    | split
    | dsimp -zeta only [Verdict.state_done, Verdict.state_wait]
    | fail_if_no_progress refine Drains.upd ?_ rfl rfl rfl rfl

theorem poolReserveCmd_good  : (poolReserveCmd ).Good wr := by
  refine ⟨fun s p hs => ?_, fun s p id l => ?_⟩
  all_goals unfold poolReserveCmd
  repeat' first
    | with_reducible exact Drains.refl _
    | with_reducible assumption
    | (extract_lets -underBinder +onlyGivenNames y; clear_value (e : y = _)
       first | (refine Drains.seq (y := y) ?_ ?_; rotate_left; (intro hy; clear e); rotate_right; subst e) | subst e)
    | with_reducible apply Drains.after (Verdict.ok_steps ..).drains
    | with_reducible apply Drains.after (Verdict.refuse_steps ..).drains
    | (with_reducible apply Drains.after (Drains.foldl _ _ _ ?_); rotate_left; intro _ _)
    | (with_reducible apply Drains.ite <;> intro _)
    | fail_if_no_progress with_reducible refine Drains.upd ?_ rfl rfl rfl rfl
    | split
    | dsimp -zeta only [Verdict.state_done, Verdict.state_wait]
    | fail_if_no_progress refine Drains.upd ?_ rfl rfl rfl rfl

theorem bufferAllocCmd_good  : (bufferAllocCmd ).Good wr := by
  refine ⟨fun s p hs => ?_, fun s p id l => ?_⟩
  all_goals unfold bufferAllocCmd
  repeat' first
    | with_reducible exact Drains.refl _
    | with_reducible assumption
    | (extract_lets -underBinder +onlyGivenNames y; clear_value (e : y = _)
       first | (refine Drains.seq (y := y) ?_ ?_; rotate_left; (intro hy; clear e); rotate_right; subst e) | subst e)
    | with_reducible refine Drains.after (State.alloc_got_steps ‹_›).drains ?_
    | with_reducible refine Drains.after (State.alloc_none_steps ‹_›).drains ?_
    | (with_reducible apply Drains.after (Drains.foldl _ _ _ ?_); rotate_left; intro _ _)
    | (with_reducible apply Drains.ite <;> intro _)
    | fail_if_no_progress with_reducible refine Drains.upd ?_ rfl rfl rfl rfl
    | split
    | dsimp -zeta only [Verdict.state_done, Verdict.state_wait]
    | fail_if_no_progress refine Drains.upd ?_ rfl rfl rfl rfl

theorem bufferFreeCmd_good  : (bufferFreeCmd ).Good wr := by
  refine ⟨fun s p hs => ?_, fun s p id l => ?_⟩
  all_goals unfold bufferFreeCmd
  repeat' first
    | with_reducible exact Drains.refl _
    | with_reducible assumption
    | (extract_lets -underBinder +onlyGivenNames y; clear_value (e : y = _)
       first | (refine Drains.seq (y := y) ?_ ?_; rotate_left; (intro hy; clear e); rotate_right; subst e) | subst e)
    | with_reducible apply Drains.after (State.doubleFree_steps ..).drains
    | with_reducible apply Drains.after (Verdict.ok_steps ..).drains
    | with_reducible apply Drains.after (Verdict.refuse_steps ..).drains
    | with_reducible apply Drains.after (State.release_steps ..).drains
    | (with_reducible apply Drains.after (Drains.foldl _ _ _ ?_); rotate_left; intro _ _)
    | (with_reducible apply Drains.ite <;> intro _)
    | fail_if_no_progress with_reducible refine Drains.upd ?_ rfl rfl rfl rfl
    | split
    | dsimp -zeta only [Verdict.state_done, Verdict.state_wait]
    | fail_if_no_progress refine Drains.upd ?_ rfl rfl rfl rfl

theorem memoryCopyCmd_good  : (memoryCopyCmd ).Good wr := by
  refine ⟨fun s p hs => ?_, fun s p id l => ?_⟩
  all_goals unfold memoryCopyCmd
  repeat' first
    | with_reducible exact Drains.refl _
    | with_reducible assumption
    | (extract_lets -underBinder +onlyGivenNames y; clear_value (e : y = _)
       first | (refine Drains.seq (y := y) ?_ ?_; rotate_left; (intro hy; clear e); rotate_right; subst e) | subst e)
    | with_reducible apply Drains.after (State.addReader_steps ..).drains
    | with_reducible apply Drains.after (State.setWriter_steps ..).drains
    | (with_reducible apply Drains.after (Drains.foldl _ _ _ ?_); rotate_left; intro _ _)
    | (with_reducible apply Drains.ite <;> intro _)
    | fail_if_no_progress with_reducible refine Drains.upd ?_ rfl rfl rfl rfl
    | split
    | dsimp -zeta only [Verdict.state_done, Verdict.state_wait]
    | fail_if_no_progress refine Drains.upd ?_ rfl rfl rfl rfl

theorem State.copyDone_steps (s : State) (id : Nat) (data : List Byte) : Steps true s (State.copyDone s id data) := by
  unfold State.copyDone
  repeat' first
    | with_reducible exact .refl _
    | with_reducible assumption
    | (extract_lets -underBinder +onlyGivenNames y; clear_value (e : y = _)
       first | (refine Steps.seq (y := y) ?_ ?_; rotate_left; (intro hy; clear e); rotate_right; subst e) | subst e)
    | with_reducible apply Steps.after (State.finish_steps ..)
    | with_reducible apply Steps.after (State.modBuf_steps ..)
    | with_reducible apply Steps.after (State.unregister_steps ..)
    | with_reducible apply Steps.after (State.writeMem_steps ..)
    | (with_reducible apply Steps.ite <;> intro _)
    | fail_if_no_progress with_reducible refine Steps.upd ?_ rfl rfl rfl rfl
    | split

theorem State.signalReader_steps (s : State) (w : Nat) (reader : Nat) : Steps wr s (State.signalReader s w reader) := by
  unfold State.signalReader
  repeat' first
    | with_reducible exact .refl _
    | with_reducible assumption
    | (extract_lets -underBinder +onlyGivenNames y; clear_value (e : y = _)
       first | (refine Steps.seq (y := y) ?_ ?_; rotate_left; (intro hy; clear e); rotate_right; subst e) | subst e)
    | with_reducible apply Steps.after (State.doubleFree_steps ..)
    | with_reducible apply Steps.after (State.modBuf_steps ..)
    | with_reducible apply Steps.after (State.release_steps ..)
    | with_reducible apply Steps.after (State.trace_steps ..)
    | (with_reducible apply Steps.ite <;> intro _)
    | fail_if_no_progress with_reducible refine Steps.upd ?_ rfl rfl rfl rfl
    | split

theorem State.scrubbed_steps (s : State) (p : Nat) (k : Nat) : Steps true s (State.scrubbed s p k) := by
  unfold State.scrubbed
  repeat' first
    | with_reducible exact .refl _
    | with_reducible apply Steps.after (State.modPool_steps ..)
    | with_reducible apply Steps.after (State.zeroMem_steps ..)
    | (with_reducible apply Steps.ite <;> intro _)
    | fail_if_no_progress with_reducible refine Steps.upd ?_ rfl rfl rfl rfl
    | split

end Sys2Proof.Machine
end

