-- ==== Sys2Proof/Laws/StepsSamples.lean ====
section
/-! SUPPORT. What each operation of samples and admission can do to the queue, to memory and to the
device state (`Steps` and its kin), said once for each; a proof about a step cites these and unfolds nothing. -/

set_option linter.all false

namespace Sys2Proof.Machine

open Sys2Proof

/-! ### Machine/Samples.lean -/

theorem State.countStream_steps (s : State) (n : Nat) (f : StreamCounts → StreamCounts) : Steps wr s (State.countStream s n f) := by
  unfold State.countStream
  repeat' first
    | with_reducible exact .refl _
    | with_reducible apply Steps.after (State.modStream_steps ..)
    | fail_if_no_progress with_reducible refine Steps.upd ?_ rfl rfl rfl rfl

theorem State.repeatUnit_steps (s : State) (owner : Owner) (unit : Nat) (cost : Nat) (cls : Nat) (index : Nat) :
    Steps wr s (State.repeatUnit s owner unit cost cls index) := by
  unfold State.repeatUnit
  repeat' first
    | with_reducible exact .refl _
    | with_reducible assumption
    | (extract_lets -underBinder +onlyGivenNames y; clear_value (e : y = _)
       first | (refine Steps.seq (y := y) ?_ ?_; rotate_left; (intro hy; clear e); rotate_right; subst e) | subst e)
    | with_reducible apply Steps.after (State.modSample_steps ..)
    | with_reducible apply Steps.after (State.trace_steps ..)
    | fail_if_no_progress with_reducible refine Steps.upd ?_ rfl rfl rfl rfl
    | split

theorem State.countSubstitutions_steps (s : State) (st : Stream) : Steps wr s (State.countSubstitutions s st) := by
  unfold State.countSubstitutions
  repeat' first
    | with_reducible exact .refl _
    | (with_reducible apply Steps.after (Steps.foldl _ _ _ ?_); rotate_left; intro _ _)
    | fail_if_no_progress with_reducible refine Steps.upd ?_ rfl rfl rfl rfl

theorem State.substitute_steps (s : State) (k : Nat) : Steps wr s (State.substitute s k) := by
  unfold State.substitute
  repeat' first
    | with_reducible exact .refl _
    | with_reducible assumption
    | (extract_lets -underBinder +onlyGivenNames y; clear_value (e : y = _)
       first | (refine Steps.seq (y := y) ?_ ?_; rotate_left; (intro hy; clear e); rotate_right; subst e) | subst e)
    | with_reducible apply Steps.after (State.countStream_steps ..)
    | with_reducible apply Steps.after (State.countSubstitutions_steps ..)
    | with_reducible apply Steps.after (State.modSample_steps ..)
    | (with_reducible apply Steps.ite <;> intro _)
    | fail_if_no_progress with_reducible refine Steps.upd ?_ rfl rfl rfl rfl
    | split

theorem State.dropJobs_steps (s : State) (o : Owner) : Steps wr s (State.dropJobs s o) := by
  unfold State.dropJobs
  exact .upd (.refl _) rfl rfl rfl rfl

theorem State.dropPasses_steps (s : State) (k : Nat) : Steps wr s (State.dropPasses s k) := by
  unfold State.dropPasses
  exact .upd (.refl _) rfl rfl rfl rfl

theorem State.restartOnSubstitute_steps (s : State) (k : Nat) : Steps wr s (State.restartOnSubstitute s k) := by
  unfold State.restartOnSubstitute
  repeat' first
    | with_reducible exact .refl _
    | with_reducible assumption
    | (extract_lets -underBinder +onlyGivenNames y; clear_value (e : y = _)
       first | (refine Steps.seq (y := y) ?_ ?_; rotate_left; (intro hy; clear e); rotate_right; subst e) | subst e)
    | with_reducible apply Steps.after (State.draw_steps ..)
    | with_reducible apply Steps.after (State.dropJobs_steps ..)
    | with_reducible apply Steps.after (State.dropPasses_steps ..)
    | with_reducible apply Steps.after (State.repeatUnit_steps ..)
    | with_reducible apply Steps.after (State.substitute_steps ..)
    | fail_if_no_progress with_reducible refine Steps.upd ?_ rfl rfl rfl rfl
    | split

theorem State.markCorrupt_steps (s : State) (k : Nat) (cause : Nat) (check : Nat) : Steps wr s (State.markCorrupt s k cause check) := by
  unfold State.markCorrupt
  repeat' first
    | with_reducible exact .refl _
    | with_reducible assumption
    | (extract_lets -underBinder +onlyGivenNames y; clear_value (e : y = _)
       first | (refine Steps.seq (y := y) ?_ ?_; rotate_left; (intro hy; clear e); rotate_right; subst e) | subst e)
    | with_reducible apply Steps.after (State.countStream_steps ..)
    | with_reducible apply Steps.after (State.modSample_steps ..)
    | with_reducible apply Steps.after (State.restartOnSubstitute_steps ..)
    | (with_reducible apply Steps.ite <;> intro _)
    | fail_if_no_progress with_reducible refine Steps.upd ?_ rfl rfl rfl rfl
    | split

theorem State.addSample_steps (s : State) (n : Nat) (capture : Nat) (length : Nat) (buffer : Option Nat) (buffers : List Nat) :
    Steps wr s (State.addSample s n capture length buffer buffers) := by
  unfold State.addSample
  repeat' first
    | with_reducible exact .refl _
    | with_reducible assumption
    | (extract_lets -underBinder +onlyGivenNames y; clear_value (e : y = _)
       first | (refine Steps.seq (y := y) ?_ ?_; rotate_left; (intro hy; clear e); rotate_right; subst e) | subst e)
    | with_reducible apply Steps.after (State.modStream_steps ..)
    | fail_if_no_progress with_reducible refine Steps.upd ?_ rfl rfl rfl rfl
    | split

theorem State.planSample_steps (s : State) (k : Nat) : Steps wr s (State.planSample s k) := by
  unfold State.planSample
  repeat' first
    | with_reducible exact .refl _
    | with_reducible assumption
    | (extract_lets -underBinder +onlyGivenNames y; clear_value (e : y = _)
       first | (refine Steps.seq (y := y) ?_ ?_; rotate_left; (intro hy; clear e); rotate_right; subst e) | subst e)
    | with_reducible apply Steps.after (State.countStream_steps ..)
    | with_reducible apply Steps.after (State.modSample_steps ..)
    | with_reducible apply Steps.after (State.substitute_steps ..)
    | fail_if_no_progress with_reducible refine Steps.upd ?_ rfl rfl rfl rfl
    | split

theorem State.excess_steps (s : State) (k : Nat) (n : Nat) : Steps wr s (State.excess s k n) := by
  unfold State.excess
  repeat' first
    | with_reducible exact .refl _
    | with_reducible assumption
    | (extract_lets -underBinder +onlyGivenNames y; clear_value (e : y = _)
       first | (refine Steps.seq (y := y) ?_ ?_; rotate_left; (intro hy; clear e); rotate_right; subst e) | subst e)
    | with_reducible apply Steps.after (State.countStream_steps ..)
    | with_reducible apply Steps.after (State.modSample_steps ..)
    | fail_if_no_progress with_reducible refine Steps.upd ?_ rfl rfl rfl rfl

theorem State.examineOne_steps (s : State) (edge : Nat) (k : Nat) (id : Nat) : Steps wr s (State.examineOne s edge k id) := by
  unfold State.examineOne
  repeat' first
    | with_reducible exact .refl _
    | with_reducible assumption
    | (extract_lets -underBinder +onlyGivenNames y; clear_value (e : y = _)
       first | (refine Steps.seq (y := y) ?_ ?_; rotate_left; (intro hy; clear e); rotate_right; subst e) | subst e)
    | with_reducible apply Steps.after (State.countStream_steps ..)
    | with_reducible apply Steps.after (State.excess_steps ..)
    | with_reducible apply Steps.after (State.modSample_steps ..)
    | with_reducible apply Steps.after (State.planSample_steps ..)
    | (with_reducible apply Steps.ite <;> intro _)
    | fail_if_no_progress with_reducible refine Steps.upd ?_ rfl rfl rfl rfl
    | split

theorem State.reassign_steps (s : State) (prev edge k : Nat) : Steps wr s (State.reassign s prev edge k) := by
  unfold State.reassign
  split
  · exact .refl _
  · exact Steps.upd (.refl _) rfl rfl rfl rfl

theorem State.examine_steps (s : State) (edge : Nat) (k : Nat) : Steps wr s (State.examine s edge k) := by
  unfold State.examine
  repeat' first
    | with_reducible exact .refl _
    | with_reducible apply Steps.after (State.examineOne_steps ..)
    | (with_reducible apply Steps.after (Steps.foldl _ _ _ ?_); rotate_left; intro _ _)

theorem State.freeFormer_steps (s : State) (n : Nat) : Steps wr s (State.freeFormer s n) := by
  unfold State.freeFormer
  repeat' first
    | with_reducible exact .refl _
    | with_reducible assumption
    | (extract_lets -underBinder +onlyGivenNames y; clear_value (e : y = _)
       first | (refine Steps.seq (y := y) ?_ ?_; rotate_left; (intro hy; clear e); rotate_right; subst e) | subst e)
    | with_reducible apply Steps.after (State.modStream_steps ..)
    | with_reducible apply Steps.after (State.releaseName_steps ..)
    | (with_reducible apply Steps.after (Steps.foldl _ _ _ ?_); rotate_left; intro _ _)
    | fail_if_no_progress with_reducible refine Steps.upd ?_ rfl rfl rfl rfl
    | split

theorem State.releaseSample_steps (s : State) (k : Nat) : Steps wr s (State.releaseSample s k) := by
  unfold State.releaseSample
  repeat' first
    | with_reducible exact .refl _
    | with_reducible assumption
    | (extract_lets -underBinder +onlyGivenNames y; clear_value (e : y = _)
       first | (refine Steps.seq (y := y) ?_ ?_; rotate_left; (intro hy; clear e); rotate_right; subst e) | subst e)
    | with_reducible apply Steps.after (State.freeFormer_steps ..)
    | with_reducible apply Steps.after (State.modSample_steps ..)
    | with_reducible apply Steps.after (State.releaseName_steps ..)
    | with_reducible apply Steps.after (State.unregister_steps ..)
    | (with_reducible apply Steps.after (Steps.foldl _ _ _ ?_); rotate_left; intro _ _)
    | fail_if_no_progress with_reducible refine Steps.upd ?_ rfl rfl rfl rfl
    | split

theorem State.dropChain_steps (s : State) (k : Nat) : Steps wr s (State.dropChain s k) := by
  unfold State.dropChain
  repeat' first
    | with_reducible exact .refl _
    | with_reducible assumption
    | (extract_lets -underBinder +onlyGivenNames y; clear_value (e : y = _)
       first | (refine Steps.seq (y := y) ?_ ?_; rotate_left; (intro hy; clear e); rotate_right; subst e) | subst e)
    | with_reducible apply Steps.after (State.dropJobs_steps ..)
    | with_reducible apply Steps.after (State.dropPasses_steps ..)
    | with_reducible apply Steps.after (State.dropStrip_steps ..)
    | fail_if_no_progress with_reducible refine Steps.upd ?_ rfl rfl rfl rfl

theorem State.unreserve_steps (s : State) (n : Nat) : Steps wr s (State.unreserve s n) := by
  unfold State.unreserve
  repeat' first
    | with_reducible exact .refl _
    | with_reducible assumption
    | (extract_lets -underBinder +onlyGivenNames y; clear_value (e : y = _)
       first | (refine Steps.seq (y := y) ?_ ?_; rotate_left; (intro hy; clear e); rotate_right; subst e) | subst e)
    | with_reducible apply Steps.after (State.modStream_steps ..)
    | (with_reducible apply Steps.after (Steps.foldl _ _ _ ?_); rotate_left; intro _ _)
    | (with_reducible apply Steps.ite <;> intro _)
    | fail_if_no_progress with_reducible refine Steps.upd ?_ rfl rfl rfl rfl
    | split

theorem State.closeIfDone_steps (s : State) (n : Nat) : Steps wr s (State.closeIfDone s n) := by
  unfold State.closeIfDone
  repeat' first
    | with_reducible exact .refl _
    | with_reducible assumption
    | (extract_lets -underBinder +onlyGivenNames y; clear_value (e : y = _)
       first | (refine Steps.seq (y := y) ?_ ?_; rotate_left; (intro hy; clear e); rotate_right; subst e) | subst e)
    | with_reducible apply Steps.after (State.finish_steps ..)
    | with_reducible apply Steps.after (State.releaseName_steps ..)
    | with_reducible apply Steps.after (State.substitute_steps ..)
    | with_reducible apply Steps.after (State.unreserve_steps ..)
    | (with_reducible apply Steps.after (Steps.foldl _ _ _ ?_); rotate_left; intro _ _)
    | (with_reducible apply Steps.ite <;> intro _)
    | fail_if_no_progress with_reducible refine Steps.upd ?_ rfl rfl rfl rfl
    | split

theorem State.endSample_steps (s : State) (k : Nat) : Steps wr s (State.endSample s k) := by
  unfold State.endSample
  repeat' first
    | with_reducible exact .refl _
    | with_reducible assumption
    | (extract_lets -underBinder +onlyGivenNames y; clear_value (e : y = _)
       first | (refine Steps.seq (y := y) ?_ ?_; rotate_left; (intro hy; clear e); rotate_right; subst e) | subst e)
    | with_reducible apply Steps.after (State.closeIfDone_steps ..)
    | with_reducible apply Steps.after (State.countStream_steps ..)
    | with_reducible apply Steps.after (State.dropChain_steps ..)
    | with_reducible apply Steps.after (State.releaseSample_steps ..)
    | with_reducible apply Steps.after (State.trace_steps ..)
    | fail_if_no_progress with_reducible refine Steps.upd ?_ rfl rfl rfl rfl
    | split

theorem State.putRecord_steps (s : State) (q : Nat) (r : Record) : Steps wr s (State.putRecord s q r) := by
  unfold State.putRecord
  repeat' first
    | with_reducible exact .refl _
    | with_reducible assumption
    | (extract_lets -underBinder +onlyGivenNames y; clear_value (e : y = _)
       first | (refine Steps.seq (y := y) ?_ ?_; rotate_left; (intro hy; clear e); rotate_right; subst e) | subst e)
    | with_reducible apply Steps.after (State.raiseVector_steps ..)
    | with_reducible apply Steps.after (State.wakeLink_steps ..)
    | (with_reducible apply Steps.ite <;> intro _)
    | fail_if_no_progress with_reducible refine Steps.upd ?_ rfl rfl rfl rfl
    | split

theorem State.writeRecord_steps (s : State) (k : Nat) : Steps wr s (State.writeRecord s k) := by
  unfold State.writeRecord
  repeat' first
    | with_reducible exact .refl _
    | with_reducible assumption
    | (extract_lets -underBinder +onlyGivenNames y; clear_value (e : y = _)
       first | (refine Steps.seq (y := y) ?_ ?_; rotate_left; (intro hy; clear e); rotate_right; subst e) | subst e)
    | with_reducible apply Steps.after (State.countStream_steps ..)
    | with_reducible apply Steps.after (State.endSample_steps ..)
    | with_reducible apply Steps.after (State.modSample_steps ..)
    | with_reducible apply Steps.after (State.putRecord_steps ..)
    | (with_reducible apply Steps.ite <;> intro _)
    | fail_if_no_progress with_reducible refine Steps.upd ?_ rfl rfl rfl rfl
    | split

theorem State.missSample_steps (s : State) (k : Nat) (cause : Nat) : Steps wr s (State.missSample s k cause) := by
  unfold State.missSample
  repeat' first
    | with_reducible exact .refl _
    | with_reducible assumption
    | (extract_lets -underBinder +onlyGivenNames y; clear_value (e : y = _)
       first | (refine Steps.seq (y := y) ?_ ?_; rotate_left; (intro hy; clear e); rotate_right; subst e) | subst e)
    | with_reducible apply Steps.after (State.countStream_steps ..)
    | with_reducible apply Steps.after (State.dropChain_steps ..)
    | with_reducible apply Steps.after (State.endSample_steps ..)
    | with_reducible apply Steps.after (State.modSample_steps ..)
    | with_reducible apply Steps.after (State.releaseSample_steps ..)
    | (with_reducible apply Steps.ite <;> intro _)
    | fail_if_no_progress with_reducible refine Steps.upd ?_ rfl rfl rfl rfl
    | split

theorem State.missDeadlines_steps (s : State) (k : Nat) : Steps wr s (State.missDeadlines s k) := by
  unfold State.missDeadlines
  repeat' first
    | with_reducible exact .refl _
    | with_reducible apply Steps.after (State.missSample_steps ..)
    | (with_reducible apply Steps.after (Steps.foldl _ _ _ ?_); rotate_left; intro _ _)
    | (with_reducible apply Steps.ite <;> intro _)
    | fail_if_no_progress with_reducible refine Steps.upd ?_ rfl rfl rfl rfl
    | split

theorem State.pauseStream_steps (s : State) (n : Nat) (cause : PauseCause) : Steps wr s (State.pauseStream s n cause) := by
  unfold State.pauseStream
  repeat' first
    | with_reducible exact .refl _
    | with_reducible apply Steps.after (State.modStream_steps ..)
    | with_reducible apply Steps.after (State.postEvent_steps ..)
    | fail_if_no_progress with_reducible refine Steps.upd ?_ rfl rfl rfl rfl

theorem State.resumeStream_steps (s : State) (n : Nat) : Steps wr s (State.resumeStream s n) := by
  unfold State.resumeStream
  repeat' first
    | with_reducible exact .refl _
    | with_reducible apply Steps.after (State.modStream_steps ..)
    | with_reducible apply Steps.after (State.postEvent_steps ..)
    | fail_if_no_progress with_reducible refine Steps.upd ?_ rfl rfl rfl rfl
    | split

theorem State.pauseRunning_steps (s : State) (cause : PauseCause) : Steps wr s (State.pauseRunning s cause) := by
  unfold State.pauseRunning
  repeat' first
    | with_reducible exact .refl _
    | with_reducible apply Steps.after (State.pauseStream_steps ..)
    | (with_reducible apply Steps.after (Steps.foldl _ _ _ ?_); rotate_left; intro _ _)
    | (with_reducible apply Steps.ite <;> intro _)

/-! ### Machine/Admission.lean -/

theorem State.reserve_steps {s : State} {n : Nat} {st : Stream} {t_ : State} (h_ : s.reserve n st = some t_) : Steps wr s t_ := by
  unfold State.reserve at h_
  extract_lets expert first named a b at h_
  simp only [Option.map_eq_some_iff] at h_
  obtain ⟨w, _, rfl⟩ := h_
  exact Steps.after (State.modStream_steps ..) (.upd (.refl s) rfl rfl rfl rfl)

theorem State.packs_steps (s : State) : Steps wr s (State.packs s).2 := by
  unfold State.packs
  repeat' first
    | with_reducible exact .refl _
    | with_reducible assumption
    | (extract_lets -underBinder +onlyGivenNames y; clear_value (e : y = _)
       first | (refine Steps.seq (y := y) ?_ ?_; rotate_left; (intro hy; clear e); rotate_right; subst e) | subst e)
    | with_reducible apply Steps.after (State.draw_steps ..)
    | fail_if_no_progress with_reducible refine Steps.upd ?_ rfl rfl rfl rfl

theorem State.choosePhase_steps (s : State) (st : Stream) (fits : Nat → Bool) : Steps wr s (State.choosePhase s st fits).2 := by
  unfold State.choosePhase
  repeat' first
    | with_reducible exact .refl _
    | with_reducible assumption
    | (extract_lets -underBinder +onlyGivenNames y; clear_value (e : y = _)
       first | (refine Steps.seq (y := y) ?_ ?_; rotate_left; (intro hy; clear e); rotate_right; subst e) | subst e)
    | with_reducible apply Steps.after (State.draw_steps ..)
    | (with_reducible apply Steps.ite <;> intro _)
    | fail_if_no_progress with_reducible refine Steps.upd ?_ rfl rfl rfl rfl
    | split

theorem State.admitStream_steps {s : State} {n : Nat} {t_ : State} (h_ : s.admitStream n = some t_) : Steps wr s t_ := by
  unfold State.admitStream at h_
  split at h_
  · cases h_
  · extract_lets d others r at h_
    split at h_
    · cases h_
    · split at h_
      · cases h_
      · split at h_
        · cases h_
        · rename_i hr
          cases h_
          exact (((State.choosePhase_steps ..).trans (State.packs_steps ..)).trans (State.reserve_steps hr)).trans
              (State.modStream_steps ..)

theorem Steps.foldlSnd {α β : Type} (f : β × State → α → β × State) (l : List α) (s : State) (b : β)
    (h : ∀ t x, Steps wr t.2 (f t x).2) : Steps wr s (l.foldl f (b, s)).2 := by
  suffices ∀ p : β × State, Steps wr p.2 (l.foldl f p).2 from this (b, s)
  induction l with
  | nil => intro p; exact .refl _
  | cons x l ih => intro p; exact (h p x).trans (ih _)
theorem State.shed_steps (s : State) : Steps wr s s.shed := by
  unfold State.shed
  refine Steps.foldlSnd _ _ _ _ fun t x => ?_
  split
  · exact .refl _
  · split
    · exact .refl _
    · dsimp only
      split
      · exact .refl _
      · exact (State.unreserve_steps ..).trans (State.pauseStream_steps ..)

theorem State.resumeShed_steps (s : State) : Steps wr s (State.resumeShed s) := by
  unfold State.resumeShed
  repeat' first
    | with_reducible exact .refl _
    | with_reducible refine Steps.after (State.admitStream_steps ‹_›) ?_
    | with_reducible apply Steps.after (State.modStream_steps ..)
    | with_reducible apply Steps.after (State.resumeStream_steps ..)
    | (with_reducible apply Steps.after (Steps.foldl _ _ _ ?_); rotate_left; intro _ _)
    | (with_reducible apply Steps.ite <;> intro _)
    | fail_if_no_progress with_reducible refine Steps.upd ?_ rfl rfl rfl rfl
    | split

end Sys2Proof.Machine
end

