-- ==== Sys2Proof/Laws/StepsUnits.lean ====
section
/-! SUPPORT. What each operation of the compute units, the array blocks and the vector engines can do to the queue, to memory and to the
device state (`Steps` and its kin), said once for each; a proof about a step cites these and unfolds nothing. -/

set_option linter.all false

namespace Sys2Proof.Machine

open Sys2Proof

/-! ### Machine/Units.lean -/

theorem State.sealLine_steps (s : State) (line : Nat) : Steps wr s (State.sealLine s line) := by
  unfold State.sealLine
  repeat' first
    | with_reducible exact .refl _
    | with_reducible apply Steps.after (State.modBuf_steps ..)
    | fail_if_no_progress with_reducible refine Steps.upd ?_ rfl rfl rfl rfl
    | split

theorem State.readerOf_steps (s : State) (o : Owner) (line : Nat) : Steps wr s (State.readerOf s o line) := by
  unfold State.readerOf
  repeat' first
    | with_reducible exact .refl _
    | with_reducible apply Steps.after (State.modBuf_steps ..)
    | (with_reducible apply Steps.ite <;> intro _)
    | fail_if_no_progress with_reducible refine Steps.upd ?_ rfl rfl rfl rfl
    | split

theorem State.writerOf_steps (s : State) (o : Owner) (line : Nat) : Steps wr s (State.writerOf s o line) := by
  unfold State.writerOf
  repeat' first
    | with_reducible exact .refl _
    | with_reducible apply Steps.after (State.setWriter_steps ..)

theorem State.addTile_steps (s : State) (t : Tile) : Steps wr s (State.addTile s t).2 := by
  unfold State.addTile
  exact .upd (.refl _) rfl rfl rfl rfl

theorem State.signalTile_steps (s : State) (t : Option Nat) : Steps wr s (State.signalTile s t) := by
  unfold State.signalTile
  repeat' first
    | with_reducible exact .refl _
    | fail_if_no_progress with_reducible refine Steps.upd ?_ rfl rfl rfl rfl
    | split

theorem State.signalRange_steps (s : State) (a : Nat) (n : Nat) : Steps wr s (State.signalRange s a n) := by
  unfold State.signalRange
  repeat' first
    | with_reducible exact .refl _
    | with_reducible apply Steps.after (State.signalTile_steps ..)
    | (with_reducible apply Steps.after (Steps.foldl _ _ _ ?_); rotate_left; intro _ _)

theorem State.widen_steps (s : State) (k : Nat) (slot : Nat) (top : Bool) (flush : Bool) :
    Steps wr s (State.widen s k slot top flush).2 := by
  unfold State.widen
  repeat' first
    | with_reducible exact .refl _
    | with_reducible assumption
    | (extract_lets -underBinder +onlyGivenNames y; clear_value (e : y = _)
       first | (refine Steps.seq (y := y) ?_ ?_; rotate_left; (intro hy; clear e); rotate_right; subst e) | subst e)
    | with_reducible apply Steps.after (State.modSample_steps ..)
    | with_reducible apply Steps.after (State.trace_steps ..)
    | (with_reducible apply Steps.ite <;> intro _)
    | fail_if_no_progress with_reducible refine Steps.upd ?_ rfl rfl rfl rfl
    | split

theorem State.releaseLayer_steps (s : State) (k : Nat) (slot : Nat) : Steps wr s (State.releaseLayer s k slot) := by
  unfold State.releaseLayer
  repeat' first
    | with_reducible exact .refl _
    | (with_reducible apply Steps.ite <;> intro _)
    | fail_if_no_progress with_reducible refine Steps.upd ?_ rfl rfl rfl rfl

theorem State.clearSlot_steps (s : State) (slot : Nat) : Steps wr s (State.clearSlot s slot) := by
  unfold State.clearSlot
  exact .upd (.refl _) rfl rfl rfl rfl

theorem State.endChain_steps (s : State) (k : Nat) (o : Outcome) : Steps wr s (State.endChain s k o) := by
  unfold State.endChain
  repeat' first
    | with_reducible exact .refl _
    | with_reducible apply Steps.after (State.dropChain_steps ..)
    | with_reducible apply Steps.after (State.modSample_steps ..)
    | with_reducible apply Steps.after (State.releaseSample_steps ..)

theorem State.drawReserve_steps (s : State) (o : Owner) (cost : Nat) : Steps wr s (State.drawReserve s o cost) := by
  unfold State.drawReserve
  repeat' first
    | with_reducible exact .refl _
    | with_reducible apply Steps.after (State.modSample_steps ..)
    | fail_if_no_progress with_reducible refine Steps.upd ?_ rfl rfl rfl rfl
    | split

theorem State.registerRows_steps (s : State) (o : Owner) (reads : List (Nat × Nat × Nat × Nat)) (writes : List (Nat × Nat × Nat × Nat)) :
    Steps wr s (State.registerRows s o reads writes) := by
  unfold State.registerRows
  repeat' first
    | with_reducible exact .refl _
    | with_reducible assumption
    | (extract_lets -underBinder +onlyGivenNames y; clear_value (e : y = _)
       first | (refine Steps.seq (y := y) ?_ ?_; rotate_left; (intro hy; clear e); rotate_right; subst e) | subst e)
    | with_reducible apply Steps.after (State.readerOf_steps ..)
    | with_reducible apply Steps.after (State.writerOf_steps ..)
    | (with_reducible apply Steps.after (Steps.foldl _ _ _ ?_); rotate_left; intro _ _)
    | fail_if_no_progress with_reducible refine Steps.upd ?_ rfl rfl rfl rfl

theorem State.tileFor_steps (s : State) (o : Owner) (slot : Nat) (unit : Nat) (index : Nat) (withheld : Bool) (w : List
    (Nat × Nat × Nat × Nat)) : Steps wr s (State.tileFor s o slot unit index withheld w).2 := by
  unfold State.tileFor
  repeat' first
    | with_reducible exact .refl _
    | with_reducible assumption
    | (extract_lets -underBinder +onlyGivenNames y; clear_value (e : y = _)
       first | (refine Steps.seq (y := y) ?_ ?_; rotate_left; (intro hy; clear e); rotate_right; subst e) | subst e)
    | with_reducible apply Steps.after (State.addTile_steps ..)
    | fail_if_no_progress with_reducible refine Steps.upd ?_ rfl rfl rfl rfl
    | split

theorem State.queueArray_steps (s : State) (a : Nat) (o : Owner) (word : Word256) : Steps wr s (State.queueArray s a o word) := by
  unfold State.queueArray
  repeat' first
    | with_reducible exact .refl _
    | with_reducible assumption
    | (extract_lets -underBinder +onlyGivenNames y; clear_value (e : y = _)
       first | (refine Steps.seq (y := y) ?_ ?_; rotate_left; (intro hy; clear e); rotate_right; subst e) | subst e)
    | with_reducible apply Steps.after (State.modArray_steps ..)
    | with_reducible apply Steps.after (State.registerRows_steps ..)
    | with_reducible apply Steps.after (State.tileFor_steps ..)
    | fail_if_no_progress with_reducible refine Steps.upd ?_ rfl rfl rfl rfl

theorem State.queueVec_steps (s : State) (e : Nat) (p : Nat) (o : Owner) (descriptor : Bool) (vl : Nat) (word : BitVec 128) :
    Steps wr s (State.queueVec s e p o descriptor vl word) := by
  unfold State.queueVec
  repeat' first
    | with_reducible exact .refl _
    | with_reducible assumption
    | (extract_lets -underBinder +onlyGivenNames y; clear_value (e : y = _)
       first | (refine Steps.seq (y := y) ?_ ?_; rotate_left; (intro hy; clear e); rotate_right; subst e) | subst e)
    | with_reducible apply Steps.after (State.modVec_steps ..)
    | with_reducible apply Steps.after (State.registerRows_steps ..)
    | with_reducible apply Steps.after (State.tileFor_steps ..)
    | (with_reducible apply Steps.ite <;> intro _)
    | fail_if_no_progress with_reducible refine Steps.upd ?_ rfl rfl rfl rfl

theorem State.queueSamp_steps (s : State) (b : Nat) (o : Owner) (word : Word256) : Steps wr s (State.queueSamp s b o word) := by
  unfold State.queueSamp
  repeat' first
    | with_reducible exact .refl _
    | with_reducible assumption
    | (extract_lets -underBinder +onlyGivenNames y; clear_value (e : y = _)
       first | (refine Steps.seq (y := y) ?_ ?_; rotate_left; (intro hy; clear e); rotate_right; subst e) | subst e)
    | with_reducible apply Steps.after (State.modSamp_steps ..)
    | with_reducible apply Steps.after (State.registerRows_steps ..)
    | with_reducible apply Steps.after (State.tileFor_steps ..)
    | (with_reducible apply Steps.ite <;> intro _)
    | fail_if_no_progress with_reducible refine Steps.upd ?_ rfl rfl rfl rfl

theorem State.loadDeck_steps (s : State) (b : Nat) (j : Nat) (o : Owner) : Steps wr s (State.loadDeck s b j o) := by
  unfold State.loadDeck
  repeat' first
    | with_reducible exact .refl _
    | with_reducible apply Steps.after (State.modSamp_steps ..)
    | fail_if_no_progress with_reducible refine Steps.upd ?_ rfl rfl rfl rfl

theorem State.feedRun_steps (s : State) (id : Nat) (f : InFlight) : Steps wr s (State.feedRun s id f) := by
  unfold State.feedRun
  repeat' first
    | with_reducible exact .refl _
    | with_reducible assumption
    | (extract_lets -underBinder +onlyGivenNames y; clear_value (e : y = _)
       first | (refine Steps.seq (y := y) ?_ ?_; rotate_left; (intro hy; clear e); rotate_right; subst e) | subst e)
    | with_reducible apply Steps.after (State.loadDeck_steps ..)
    | with_reducible apply Steps.after (State.modVec_steps ..)
    | with_reducible apply Steps.after (State.queueArray_steps ..)
    | with_reducible apply Steps.after (State.queueSamp_steps ..)
    | with_reducible apply Steps.after (State.queueVec_steps ..)
    | with_reducible apply Steps.after (State.setWork_steps ..)
    | (with_reducible apply Steps.after (Steps.foldl _ _ _ ?_); rotate_left; intro _ _)
    | (with_reducible apply Steps.ite <;> intro _)
    | fail_if_no_progress with_reducible refine Steps.upd ?_ rfl rfl rfl rfl
    | split

theorem State.feedRuns_steps (s : State) : Steps wr s (State.feedRuns s) := by
  unfold State.feedRuns
  repeat' first
    | with_reducible exact .refl _
    | with_reducible apply Steps.after (State.feedRun_steps ..)
    | (with_reducible apply Steps.after (Steps.foldl _ _ _ ?_); rotate_left; intro _ _)
    | fail_if_no_progress with_reducible refine Steps.upd ?_ rfl rfl rfl rfl
    | split

theorem State.endRun_steps (s : State) (id : Nat) (ring : Nat) (r : RunWork) (o : Outcome) : Steps wr s (State.endRun s id ring r o) := by
  unfold State.endRun
  repeat' first
    | with_reducible exact .refl _
    | with_reducible assumption
    | (extract_lets -underBinder +onlyGivenNames y; clear_value (e : y = _)
       first | (refine Steps.seq (y := y) ?_ ?_; rotate_left; (intro hy; clear e); rotate_right; subst e) | subst e)
    | with_reducible apply Steps.after (State.dropJobs_steps ..)
    | with_reducible apply Steps.after (State.finish_steps ..)
    | with_reducible apply Steps.after (State.modRing_steps ..)
    | with_reducible apply Steps.after (State.modVec_steps ..)
    | with_reducible apply Steps.after (State.unregister_steps ..)
    | (with_reducible apply Steps.ite <;> intro _)
    | fail_if_no_progress with_reducible refine Steps.upd ?_ rfl rfl rfl rfl

theorem State.wordDone_steps (s : State) (o : Owner) (st : Status) (flags : Nat) : Steps wr s (State.wordDone s o st flags) := by
  unfold State.wordDone
  repeat' first
    | with_reducible exact .refl _
    | with_reducible assumption
    | (extract_lets -underBinder +onlyGivenNames y; clear_value (e : y = _)
       first | (refine Steps.seq (y := y) ?_ ?_; rotate_left; (intro hy; clear e); rotate_right; subst e) | subst e)
    | with_reducible apply Steps.after (State.endChain_steps ..)
    | with_reducible apply Steps.after (State.endRun_steps ..)
    | with_reducible apply Steps.after (State.setWork_steps ..)
    | (with_reducible apply Steps.ite <;> intro _)
    | fail_if_no_progress with_reducible refine Steps.upd ?_ rfl rfl rfl rfl
    | split

theorem State.testDone_steps (s : State) (id : Nat) (kind : TestKind) (ns : Nat) (wrong : Bool) (after : Nat → State → State)
    (h : ∀ n t, Steps wr t (after n t)) : Steps wr s (s.testDone id kind ns wrong after) := by
  unfold State.testDone
  split
  · split
    · split
      · exact .refl _
      · split
        · exact State.enterFaulted_steps ..
        · exact (h _ s).trans (State.finish_steps ..)
    · exact .refl _
  · exact .refl _

/-! ### Machine/Arrays.lean -/

theorem State.modArrayPart_steps (s : State) (a : Nat) (p : Nat) (f : ArrayPart → ArrayPart) : Steps wr s (State.modArrayPart s a p f) := by
  unfold State.modArrayPart
  repeat' first
    | with_reducible exact .refl _
    | with_reducible apply Steps.after (State.modArray_steps ..)
    | fail_if_no_progress with_reducible refine Steps.upd ?_ rfl rfl rfl rfl

theorem State.modArrayJob_steps (s : State) (a : Nat) (p : Nat) (i : Nat) (f : ArrayJob → ArrayJob) :
    Steps wr s (State.modArrayJob s a p i f) := by
  unfold State.modArrayJob
  repeat' first
    | with_reducible exact .refl _
    | with_reducible apply Steps.after (State.modArrayPart_steps ..)
    | fail_if_no_progress with_reducible refine Steps.upd ?_ rfl rfl rfl rfl

theorem State.shadowLoad_steps (s : State) (a : Nat) (p : Nat) : Steps wr s (State.shadowLoad s a p) := by
  unfold State.shadowLoad
  repeat' first
    | with_reducible exact .refl _
    | with_reducible assumption
    | (extract_lets -underBinder +onlyGivenNames y; clear_value (e : y = _)
       first | (refine Steps.seq (y := y) ?_ ?_; rotate_left; (intro hy; clear e); rotate_right; subst e) | subst e)
    | with_reducible apply Steps.after (State.modArrayJob_steps ..)
    | with_reducible apply Steps.after (State.modArrayPart_steps ..)
    | with_reducible apply Steps.after (State.take_steps ..)
    | (with_reducible apply Steps.ite <;> intro _)
    | fail_if_no_progress with_reducible refine Steps.upd ?_ rfl rfl rfl rfl
    | split

theorem State.finishArray_steps (s : State) (a : Nat) (p : Nat) (i : Nat) (j : ArrayJob) (st : Status) :
    Steps wr s (State.finishArray s a p i j st) := by
  unfold State.finishArray
  repeat' first
    | with_reducible exact .refl _
    | with_reducible assumption
    | (extract_lets -underBinder +onlyGivenNames y; clear_value (e : y = _)
       first | (refine Steps.seq (y := y) ?_ ?_; rotate_left; (intro hy; clear e); rotate_right; subst e) | subst e)
    | with_reducible apply Steps.after (State.feedRuns_steps ..)
    | with_reducible apply Steps.after (State.modArray_steps ..)
    | with_reducible apply Steps.after (State.modArrayPart_steps ..)
    | with_reducible apply Steps.after (settle_steps ..)
    | with_reducible apply Steps.after (State.wordDone_steps ..)
    | fail_if_no_progress with_reducible refine Steps.upd ?_ rfl rfl rfl rfl

theorem State.clipTrigger_steps (s : State) (o : Owner) (slot : Nat) (aFmt : Nat) : Steps wr s (State.clipTrigger s o slot aFmt) := by
  unfold State.clipTrigger
  repeat' first
    | with_reducible exact .refl _
    | with_reducible assumption
    | (extract_lets -underBinder +onlyGivenNames y; clear_value (e : y = _)
       first | (refine Steps.seq (y := y) ?_ ?_; rotate_left; (intro hy; clear e); rotate_right; subst e) | subst e)
    | with_reducible apply Steps.after (State.clearSlot_steps ..)
    | with_reducible apply Steps.after (State.releaseLayer_steps ..)
    | with_reducible apply Steps.after (State.widen_steps ..)
    | (with_reducible apply Steps.ite <;> intro _)
    | fail_if_no_progress with_reducible refine Steps.upd ?_ rfl rfl rfl rfl
    | split

theorem State.writeResultRows_steps (s : State) (line : Nat) (pitch : Nat) (rows : List (List Word32)) :
    Steps true s (State.writeResultRows s line pitch rows) := by
  unfold State.writeResultRows
  repeat' first
    | with_reducible exact .refl _
    | with_reducible apply Steps.after (State.writeMem_steps ..)
    | (with_reducible apply Steps.after (Steps.foldl _ _ _ ?_); rotate_left; intro _ _)

theorem State.arrayEffect_steps (s : State) (a : Nat) (p : Nat) (j : ArrayJob) : Steps true s (State.arrayEffect s a p j) := by
  unfold State.arrayEffect
  repeat' first
    | with_reducible exact .refl _
    | with_reducible assumption
    | (extract_lets -underBinder +onlyGivenNames y; clear_value (e : y = _)
       first | (refine Steps.seq (y := y) ?_ ?_; rotate_left; (intro hy; clear e); rotate_right; subst e) | subst e)
    | with_reducible apply Steps.after (State.modArray_steps ..)
    | with_reducible apply Steps.after (State.modVec_steps ..)
    | with_reducible apply Steps.after (State.sealLine_steps ..)
    | with_reducible apply Steps.after (State.writeResultRows_steps ..)
    | (with_reducible apply Steps.ite <;> intro _)
    | fail_if_no_progress with_reducible refine Steps.upd ?_ rfl rfl rfl rfl

theorem State.arrayComplete_steps (s : State) (a : Nat) (p : Nat) : Steps true s (State.arrayComplete s a p) := by
  unfold State.arrayComplete
  repeat' first
    | with_reducible exact .refl _
    | with_reducible assumption
    | (extract_lets -underBinder +onlyGivenNames y; clear_value (e : y = _)
       first | (refine Steps.seq (y := y) ?_ ?_; rotate_left; (intro hy; clear e); rotate_right; subst e) | subst e)
    | with_reducible apply Steps.after (State.arrayEffect_steps ..)
    | with_reducible apply Steps.after (State.clipTrigger_steps ..)
    | with_reducible apply Steps.after (State.finishArray_steps ..)
    | with_reducible apply Steps.after (State.modArray_steps ..)
    | with_reducible apply Steps.after (State.signalTile_steps ..)
    | (with_reducible apply Steps.ite <;> intro _)
    | fail_if_no_progress with_reducible refine Steps.upd ?_ rfl rfl rfl rfl
    | split

theorem State.enterRow0_steps (s : State) (a : Nat) (p : Nat) (i : Nat) (j : ArrayJob) (ready : Nat) :
    Steps wr s (State.enterRow0 s a p i j ready) := by
  unfold State.enterRow0
  repeat' first
    | with_reducible exact .refl _
    | with_reducible assumption
    | (extract_lets -underBinder +onlyGivenNames y; clear_value (e : y = _)
       first | (refine Steps.seq (y := y) ?_ ?_; rotate_left; (intro hy; clear e); rotate_right; subst e) | subst e)
    | with_reducible apply Steps.after (State.modArray_steps ..)
    | with_reducible apply Steps.after (State.modArrayJob_steps ..)
    | with_reducible apply Steps.after (State.modArrayPart_steps ..)
    | (with_reducible apply Steps.ite <;> intro _)
    | fail_if_no_progress with_reducible refine Steps.upd ?_ rfl rfl rfl rfl

theorem State.row0Entry_steps (s : State) (a : Nat) (p : Nat) : Steps wr s (State.row0Entry s a p) := by
  unfold State.row0Entry
  repeat' first
    | with_reducible exact .refl _
    | with_reducible assumption
    | (extract_lets -underBinder +onlyGivenNames y; clear_value (e : y = _)
       first | (refine Steps.seq (y := y) ?_ ?_; rotate_left; (intro hy; clear e); rotate_right; subst e) | subst e)
    | with_reducible apply Steps.after (State.enterRow0_steps ..)
    | with_reducible apply Steps.after (State.finishArray_steps ..)
    | with_reducible apply Steps.after (State.signalTile_steps ..)
    | with_reducible apply Steps.after (State.take_steps ..)
    | (with_reducible apply Steps.ite <;> intro _)
    | fail_if_no_progress with_reducible refine Steps.upd ?_ rfl rfl rfl rfl
    | split

theorem State.repeatArray_steps (s : State) (a : Nat) (p : Nat) : Steps wr s (State.repeatArray s a p) := by
  unfold State.repeatArray
  repeat' first
    | with_reducible exact .refl _
    | with_reducible assumption
    | (extract_lets -underBinder +onlyGivenNames y; clear_value (e : y = _)
       first | (refine Steps.seq (y := y) ?_ ?_; rotate_left; (intro hy; clear e); rotate_right; subst e) | subst e)
    | with_reducible apply Steps.after (State.modArrayPart_steps ..)
    | (with_reducible apply Steps.ite <;> intro _)
    | fail_if_no_progress with_reducible refine Steps.upd ?_ rfl rfl rfl rfl
    | split

theorem State.residueFailure_steps (s : State) (a : Nat) (p : Nat) (column : Nat) (row : Nat) :
    Steps wr s (State.residueFailure s a p column row) := by
  unfold State.residueFailure
  repeat' first
    | with_reducible exact .refl _
    | with_reducible assumption
    | (extract_lets -underBinder +onlyGivenNames y; clear_value (e : y = _)
       first | (refine Steps.seq (y := y) ?_ ?_; rotate_left; (intro hy; clear e); rotate_right; subst e) | subst e)
    | with_reducible apply Steps.after (State.enterFaulted_steps ..)
    | with_reducible apply Steps.after (State.modArray_steps ..)
    | with_reducible apply Steps.after (State.modArrayPart_steps ..)
    | with_reducible apply Steps.after (State.repeatArray_steps ..)
    | with_reducible apply Steps.after (State.repeatUnit_steps ..)
    | (with_reducible apply Steps.ite <;> intro _)
    | fail_if_no_progress with_reducible refine Steps.upd ?_ rfl rfl rfl rfl
    | split

theorem State.arrayScaleMismatch_steps (s : State) (a : Nat) (p : Nat) : Steps wr s (State.arrayScaleMismatch s a p) := by
  unfold State.arrayScaleMismatch
  repeat' first
    | with_reducible exact .refl _
    | with_reducible assumption
    | (extract_lets -underBinder +onlyGivenNames y; clear_value (e : y = _)
       first | (refine Steps.seq (y := y) ?_ ?_; rotate_left; (intro hy; clear e); rotate_right; subst e) | subst e)
    | with_reducible apply Steps.after (State.drawReserve_steps ..)
    | with_reducible apply Steps.after (State.finishArray_steps ..)
    | with_reducible apply Steps.after (State.modArray_steps ..)
    | with_reducible apply Steps.after (State.modArrayJob_steps ..)
    | with_reducible apply Steps.after (State.modArrayPart_steps ..)
    | with_reducible apply Steps.after (State.trace_steps ..)
    | (with_reducible apply Steps.ite <;> intro _)
    | fail_if_no_progress with_reducible refine Steps.upd ?_ rfl rfl rfl rfl
    | split

theorem State.arraySplitChange_steps (s : State) (a : Nat) (mode : Nat) : Steps wr s (State.arraySplitChange s a mode) := by
  unfold State.arraySplitChange
  repeat' first
    | with_reducible exact .refl _
    | with_reducible assumption
    | (extract_lets -underBinder +onlyGivenNames y; clear_value (e : y = _)
       first | (refine Steps.seq (y := y) ?_ ?_; rotate_left; (intro hy; clear e); rotate_right; subst e) | subst e)
    | with_reducible apply Steps.after (State.modArray_steps ..)
    | (with_reducible apply Steps.ite <;> intro _)
    | fail_if_no_progress with_reducible refine Steps.upd ?_ rfl rfl rfl rfl
    | split

theorem State.gateArray_steps (s : State) (a : Nat) : Steps wr s (State.gateArray s a) := by
  unfold State.gateArray
  repeat' first
    | with_reducible exact .refl _
    | with_reducible assumption
    | (extract_lets -underBinder +onlyGivenNames y; clear_value (e : y = _)
       first | (refine Steps.seq (y := y) ?_ ?_; rotate_left; (intro hy; clear e); rotate_right; subst e) | subst e)
    | with_reducible apply Steps.after (State.modArray_steps ..)
    | (with_reducible apply Steps.ite <;> intro _)
    | fail_if_no_progress with_reducible refine Steps.upd ?_ rfl rfl rfl rfl

theorem State.planUsesOther_steps (s : State) (unit : Nat) : Steps wr s (State.planUsesOther s unit).2 := by
  unfold State.planUsesOther
  repeat' first
    | with_reducible exact Steps.refl _
    | with_reducible assumption
    | (extract_lets -underBinder +onlyGivenNames y; clear_value (e : y = _)
       first | (refine Steps.seq (y := y) ?_ ?_; rotate_left; (intro hy; clear e); rotate_right; subst e) | subst e)
    | with_reducible apply Steps.after (State.draw_steps ..)
    | (with_reducible apply Steps.after (Steps.foldl _ _ _ ?_); rotate_left; intro _ _)
    | (with_reducible apply Steps.ite <;> intro _)
    | fail_if_no_progress with_reducible refine Steps.upd ?_ rfl rfl rfl rfl
    | split
    | dsimp -zeta only [Verdict.state_done, Verdict.state_wait]
    | fail_if_no_progress refine Steps.upd ?_ rfl rfl rfl rfl

theorem arraySplitCmd_good  : (arraySplitCmd ).Good wr := by
  refine ⟨fun s p hs => ?_, fun s p id l => ?_⟩
  all_goals unfold arraySplitCmd
  repeat' first
    | with_reducible exact Drains.refl _
    | with_reducible assumption
    | (extract_lets -underBinder +onlyGivenNames y; clear_value (e : y = _)
       first | (refine Drains.seq (y := y) ?_ ?_; rotate_left; (intro hy; clear e); rotate_right; subst e) | subst e)
    | with_reducible apply Drains.after (State.modArray_steps ..).drains
    | with_reducible apply Drains.after (Verdict.ok_steps ..).drains
    | with_reducible apply Drains.after (State.planUsesOther_steps ..).drains
    | with_reducible apply Drains.after (Verdict.refuse_steps ..).drains
    | (with_reducible apply Drains.after (Drains.foldl _ _ _ ?_); rotate_left; intro _ _)
    | (with_reducible apply Drains.ite <;> intro _)
    | fail_if_no_progress with_reducible refine Drains.upd ?_ rfl rfl rfl rfl
    | split
    | dsimp -zeta only [Verdict.state_done, Verdict.state_wait]
    | fail_if_no_progress refine Drains.upd ?_ rfl rfl rfl rfl

theorem arrayRunCmd_good  : (arrayRunCmd ).Good wr := by
  refine ⟨fun s p hs => ?_, fun s p id l => ?_⟩
  all_goals unfold arrayRunCmd
  repeat' first
    | with_reducible exact Drains.refl _
    | with_reducible assumption
    | (extract_lets -underBinder +onlyGivenNames y; clear_value (e : y = _)
       first | (refine Drains.seq (y := y) ?_ ?_; rotate_left; (intro hy; clear e); rotate_right; subst e) | subst e)
    | with_reducible apply Drains.after (State.addReader_steps ..).drains
    | with_reducible apply Drains.after (Verdict.refuse_steps ..).drains
    | (with_reducible apply Drains.after (Drains.foldl _ _ _ ?_); rotate_left; intro _ _)
    | (with_reducible apply Drains.ite <;> intro _)
    | fail_if_no_progress with_reducible refine Drains.upd ?_ rfl rfl rfl rfl
    | split
    | dsimp -zeta only [Verdict.state_done, Verdict.state_wait]
    | fail_if_no_progress refine Drains.upd ?_ rfl rfl rfl rfl

theorem arrayTestCmd_good  : (arrayTestCmd ).Good wr := by
  refine ⟨fun s p hs => ?_, fun s p id l => ?_⟩
  all_goals unfold arrayTestCmd
  repeat' first
    | with_reducible exact Drains.refl _
    | with_reducible assumption
    | (extract_lets -underBinder +onlyGivenNames y; clear_value (e : y = _)
       first | (refine Drains.seq (y := y) ?_ ?_; rotate_left; (intro hy; clear e); rotate_right; subst e) | subst e)
    | (with_reducible apply Drains.after (Drains.foldl _ _ _ ?_); rotate_left; intro _ _)
    | (with_reducible apply Drains.ite <;> intro _)
    | fail_if_no_progress with_reducible refine Drains.upd ?_ rfl rfl rfl rfl
    | split
    | dsimp -zeta only [Verdict.state_done, Verdict.state_wait]
    | fail_if_no_progress refine Drains.upd ?_ rfl rfl rfl rfl

/-! ### Machine/Vector.lean -/

theorem State.modVecPart_steps (s : State) (e : Nat) (p : Nat) (f : VecPart → VecPart) : Steps wr s (State.modVecPart s e p f) := by
  unfold State.modVecPart
  repeat' first
    | with_reducible exact .refl _
    | with_reducible apply Steps.after (State.modVec_steps ..)
    | fail_if_no_progress with_reducible refine Steps.upd ?_ rfl rfl rfl rfl

theorem State.modVecHead_steps (s : State) (e : Nat) (p : Nat) (f : VecJob → VecJob) : Steps wr s (State.modVecHead s e p f) := by
  unfold State.modVecHead
  repeat' first
    | with_reducible exact .refl _
    | with_reducible apply Steps.after (State.modVecPart_steps ..)
    | fail_if_no_progress with_reducible refine Steps.upd ?_ rfl rfl rfl rfl
    | split

theorem State.finishVec_steps (s : State) (e : Nat) (p : Nat) (j : VecJob) (st : Status) (flags : Nat) :
    Steps wr s (State.finishVec s e p j st flags) := by
  unfold State.finishVec
  repeat' first
    | with_reducible exact .refl _
    | with_reducible assumption
    | (extract_lets -underBinder +onlyGivenNames y; clear_value (e : y = _)
       first | (refine Steps.seq (y := y) ?_ ?_; rotate_left; (intro hy; clear e); rotate_right; subst e) | subst e)
    | with_reducible apply Steps.after (State.feedRuns_steps ..)
    | with_reducible apply Steps.after (State.modVec_steps ..)
    | with_reducible apply Steps.after (State.modVecPart_steps ..)
    | with_reducible apply Steps.after (State.wordDone_steps ..)
    | fail_if_no_progress with_reducible refine Steps.upd ?_ rfl rfl rfl rfl
    | split

theorem State.vecIssue_steps (s : State) (e : Nat) (p : Nat) : Steps wr s (State.vecIssue s e p) := by
  unfold State.vecIssue
  repeat' first
    | with_reducible exact .refl _
    | with_reducible assumption
    | (extract_lets -underBinder +onlyGivenNames y; clear_value (e : y = _)
       first | (refine Steps.seq (y := y) ?_ ?_; rotate_left; (intro hy; clear e); rotate_right; subst e) | subst e)
    | with_reducible apply Steps.after (State.finishVec_steps ..)
    | with_reducible apply Steps.after (State.modVec_steps ..)
    | with_reducible apply Steps.after (State.modVecHead_steps ..)
    | with_reducible apply Steps.after (State.modVecPart_steps ..)
    | with_reducible apply Steps.after (State.signalTile_steps ..)
    | (with_reducible apply Steps.ite <;> intro _)
    | fail_if_no_progress with_reducible refine Steps.upd ?_ rfl rfl rfl rfl
    | split

theorem State.flushTrigger_steps (s : State) (o : Owner) (slot : Nat) (blocks : Nat) : Steps wr s (State.flushTrigger s o slot blocks) := by
  unfold State.flushTrigger
  repeat' first
    | with_reducible exact .refl _
    | with_reducible apply Steps.after (State.modSample_steps ..)
    | (with_reducible apply Steps.ite <;> intro _)
    | fail_if_no_progress with_reducible refine Steps.upd ?_ rfl rfl rfl rfl
    | split

theorem State.withholdFed_steps (s : State) (j : VecJob) (layer : Option Nat) : Steps wr s (State.withholdFed s j layer) := by
  unfold State.withholdFed
  repeat' first
    | with_reducible exact .refl _
    | (with_reducible apply Steps.ite <;> intro _)
    | fail_if_no_progress with_reducible refine Steps.upd ?_ rfl rfl rfl rfl
    | split

theorem State.storeAll_steps (s : State) (l : List (Nat × List Byte)) : Steps true s (State.storeAll s l) := by
  unfold State.storeAll
  repeat' first
    | with_reducible exact .refl _
    | with_reducible apply Steps.after (State.writeMem_steps ..)
    | (with_reducible apply Steps.after (Steps.foldl _ _ _ ?_); rotate_left; intro _ _)

theorem State.sealOutputs_steps (s : State) (sealed : Bool) (l : List (Nat × Nat)) : Steps wr s (State.sealOutputs s sealed l) := by
  unfold State.sealOutputs
  repeat' first
    | with_reducible exact .refl _
    | with_reducible apply Steps.after (State.sealLine_steps ..)
    | (with_reducible apply Steps.after (Steps.foldl _ _ _ ?_); rotate_left; intro _ _)
    | (with_reducible apply Steps.ite <;> intro _)

theorem State.vecComplete_steps (s : State) (e : Nat) (p : Nat) : Steps true s (State.vecComplete s e p) := by
  unfold State.vecComplete
  repeat' first
    | with_reducible exact .refl _
    | with_reducible assumption
    | (extract_lets -underBinder +onlyGivenNames y; clear_value (e : y = _)
       first | (refine Steps.seq (y := y) ?_ ?_; rotate_left; (intro hy; clear e); rotate_right; subst e) | subst e)
    | with_reducible apply Steps.after (State.finishVec_steps ..)
    | with_reducible apply Steps.after (State.flushTrigger_steps ..)
    | with_reducible apply Steps.after (State.modSamp_steps ..)
    | with_reducible apply Steps.after (State.modVec_steps ..)
    | with_reducible apply Steps.after (State.modVecPart_steps ..)
    | with_reducible apply Steps.after (State.sealOutputs_steps ..)
    | with_reducible apply Steps.after (State.signalTile_steps ..)
    | with_reducible apply Steps.after (State.storeAll_steps ..)
    | with_reducible apply Steps.after (State.withholdFed_steps ..)
    | (with_reducible apply Steps.ite <;> intro _)
    | fail_if_no_progress with_reducible refine Steps.upd ?_ rfl rfl rfl rfl
    | split

theorem State.vecParity_steps (s : State) (e : Nat) (p : Nat) (lane : Nat) (deckSlot compare : Bool) :
    Steps wr s (State.vecParity s e p lane deckSlot compare) := by
  unfold State.vecParity
  repeat' first
    | with_reducible exact .refl _
    | with_reducible assumption
    | (extract_lets -underBinder +onlyGivenNames y; clear_value (e : y = _)
       first | (refine Steps.seq (y := y) ?_ ?_; rotate_left; (intro hy; clear e); rotate_right; subst e) | subst e)
    | with_reducible apply Steps.after (State.enterFaulted_steps ..)
    | with_reducible apply Steps.after (State.loadDeck_steps ..)
    | with_reducible apply Steps.after (State.modSamp_steps ..)
    | with_reducible apply Steps.after (State.modVec_steps ..)
    | with_reducible apply Steps.after (State.modVecPart_steps ..)
    | with_reducible apply Steps.after (State.repeatUnit_steps ..)
    | with_reducible apply Steps.after (State.take_steps ..)
    | (with_reducible apply Steps.ite <;> intro _)
    | fail_if_no_progress with_reducible refine Steps.upd ?_ rfl rfl rfl rfl
    | split

theorem State.vecScaleMismatch_steps (s : State) (e : Nat) (p : Nat) : Steps wr s (State.vecScaleMismatch s e p) := by
  unfold State.vecScaleMismatch
  repeat' first
    | with_reducible exact .refl _
    | with_reducible assumption
    | (extract_lets -underBinder +onlyGivenNames y; clear_value (e : y = _)
       first | (refine Steps.seq (y := y) ?_ ?_; rotate_left; (intro hy; clear e); rotate_right; subst e) | subst e)
    | with_reducible apply Steps.after (State.drawReserve_steps ..)
    | with_reducible apply Steps.after (State.finishVec_steps ..)
    | with_reducible apply Steps.after (State.modVec_steps ..)
    | with_reducible apply Steps.after (State.modVecHead_steps ..)
    | with_reducible apply Steps.after (State.modVecPart_steps ..)
    | with_reducible apply Steps.after (State.trace_steps ..)
    | (with_reducible apply Steps.ite <;> intro _)
    | fail_if_no_progress with_reducible refine Steps.upd ?_ rfl rfl rfl rfl
    | split

theorem State.contextSave_steps (s : State) (e : Nat) (p : Nat) (line : Nat) (position : Nat) :
    Steps true s (State.contextSave s e p line position) := by
  unfold State.contextSave
  repeat' first
    | with_reducible exact .refl _
    | with_reducible assumption
    | (extract_lets -underBinder +onlyGivenNames y; clear_value (e : y = _)
       first | (refine Steps.seq (y := y) ?_ ?_; rotate_left; (intro hy; clear e); rotate_right; subst e) | subst e)
    | with_reducible apply Steps.after (State.modVecPart_steps ..)
    | with_reducible apply Steps.after (State.writeMem_steps ..)
    | (with_reducible apply Steps.ite <;> intro _)
    | fail_if_no_progress with_reducible refine Steps.upd ?_ rfl rfl rfl rfl
    | split

theorem State.contextRestore_steps (s : State) (e p line : Nat) : Steps wr s (s.contextRestore e p line) := by
  unfold State.contextRestore
  extract_lets q
  split
  · exact .refl _
  · split
    · exact .refl _
    · dsimp only
      split
      · exact .refl _
      · split
        · exact Steps.after (State.loadDeck_steps ..) (Steps.after (State.modVecPart_steps ..) (.upd (.refl s) rfl rfl rfl rfl))
        · exact Steps.after (State.repeatUnit_steps ..)
            (Steps.after (State.loadDeck_steps ..) (Steps.after (State.modVecPart_steps ..) (.upd (.refl s) rfl rfl rfl rfl)))

theorem State.vecSplitChange_steps (s : State) (e : Nat) (mode : Nat) : Steps wr s (State.vecSplitChange s e mode) := by
  unfold State.vecSplitChange
  repeat' first
    | with_reducible exact .refl _
    | with_reducible assumption
    | (extract_lets -underBinder +onlyGivenNames y; clear_value (e : y = _)
       first | (refine Steps.seq (y := y) ?_ ?_; rotate_left; (intro hy; clear e); rotate_right; subst e) | subst e)
    | with_reducible apply Steps.after (State.modVec_steps ..)
    | (with_reducible apply Steps.ite <;> intro _)
    | fail_if_no_progress with_reducible refine Steps.upd ?_ rfl rfl rfl rfl
    | split

theorem vecSplitCmd_good  : (vecSplitCmd ).Good wr := by
  refine ⟨fun s p hs => ?_, fun s p id l => ?_⟩
  all_goals unfold vecSplitCmd
  repeat' first
    | with_reducible exact Drains.refl _
    | with_reducible assumption
    | (extract_lets -underBinder +onlyGivenNames y; clear_value (e : y = _)
       first | (refine Drains.seq (y := y) ?_ ?_; rotate_left; (intro hy; clear e); rotate_right; subst e) | subst e)
    | with_reducible apply Drains.after (State.modVec_steps ..).drains
    | with_reducible apply Drains.after (Verdict.ok_steps ..).drains
    | with_reducible apply Drains.after (State.planUsesOther_steps ..).drains
    | with_reducible apply Drains.after (Verdict.refuse_steps ..).drains
    | (with_reducible apply Drains.after (Drains.foldl _ _ _ ?_); rotate_left; intro _ _)
    | (with_reducible apply Drains.ite <;> intro _)
    | fail_if_no_progress with_reducible refine Drains.upd ?_ rfl rfl rfl rfl
    | split
    | dsimp -zeta only [Verdict.state_done, Verdict.state_wait]
    | fail_if_no_progress refine Drains.upd ?_ rfl rfl rfl rfl

theorem vecScalarsCmd_good  : (vecScalarsCmd ).Good wr := by
  refine ⟨fun s p hs => ?_, fun s p id l => ?_⟩
  all_goals unfold vecScalarsCmd
  repeat' first
    | with_reducible exact Drains.refl _
    | with_reducible assumption
    | (extract_lets -underBinder +onlyGivenNames y; clear_value (e : y = _)
       first | (refine Drains.seq (y := y) ?_ ?_; rotate_left; (intro hy; clear e); rotate_right; subst e) | subst e)
    | with_reducible apply Drains.after (State.modRing_steps ..).drains
    | with_reducible apply Drains.after (Verdict.ok_steps ..).drains
    | with_reducible apply Drains.after (readHost_steps ..).drains
    | (with_reducible apply Drains.after (Drains.foldl _ _ _ ?_); rotate_left; intro _ _)
    | (with_reducible apply Drains.ite <;> intro _)
    | fail_if_no_progress with_reducible refine Drains.upd ?_ rfl rfl rfl rfl
    | split
    | dsimp -zeta only [Verdict.state_done, Verdict.state_wait]
    | fail_if_no_progress refine Drains.upd ?_ rfl rfl rfl rfl

theorem vecRunCmd_good  : (vecRunCmd ).Good wr := by
  refine ⟨fun s p hs => ?_, fun s p id l => ?_⟩
  all_goals unfold vecRunCmd
  repeat' first
    | with_reducible exact Drains.refl _
    | with_reducible assumption
    | (extract_lets -underBinder +onlyGivenNames y; clear_value (e : y = _)
       first | (refine Drains.seq (y := y) ?_ ?_; rotate_left; (intro hy; clear e); rotate_right; subst e) | subst e)
    | with_reducible apply Drains.after (State.addReader_steps ..).drains
    | with_reducible apply Drains.after (Verdict.refuse_steps ..).drains
    | (with_reducible apply Drains.after (Drains.foldl _ _ _ ?_); rotate_left; intro _ _)
    | (with_reducible apply Drains.ite <;> intro _)
    | fail_if_no_progress with_reducible refine Drains.upd ?_ rfl rfl rfl rfl
    | split
    | dsimp -zeta only [Verdict.state_done, Verdict.state_wait]
    | fail_if_no_progress refine Drains.upd ?_ rfl rfl rfl rfl

theorem vecTestCmd_good  : (vecTestCmd ).Good wr := by
  refine ⟨fun s p hs => ?_, fun s p id l => ?_⟩
  all_goals unfold vecTestCmd
  repeat' first
    | with_reducible exact Drains.refl _
    | with_reducible assumption
    | (extract_lets -underBinder +onlyGivenNames y; clear_value (e : y = _)
       first | (refine Drains.seq (y := y) ?_ ?_; rotate_left; (intro hy; clear e); rotate_right; subst e) | subst e)
    | (with_reducible apply Drains.after (Drains.foldl _ _ _ ?_); rotate_left; intro _ _)
    | (with_reducible apply Drains.ite <;> intro _)
    | fail_if_no_progress with_reducible refine Drains.upd ?_ rfl rfl rfl rfl
    | split
    | dsimp -zeta only [Verdict.state_done, Verdict.state_wait]
    | fail_if_no_progress refine Drains.upd ?_ rfl rfl rfl rfl

end Sys2Proof.Machine
end

