-- ==== Sys2Proof/Laws/StepsCue.lean ====
section
/-! SUPPORT. What each operation of the device commands, the samplers, the registers, cues and time can do to the queue,
    to memory and to the
device state (`Steps` and its kin), said once for each; a proof about a step cites these and unfolds nothing. -/

set_option linter.all false

namespace Sys2Proof.Machine

open Sys2Proof

/-! ### Machine/Device.lean -/

theorem State.enterState_moves (s : State) (d : DevState) (h : (s.host.state, d) ∈ stateMoves) : Moves wr s (s.enterState d) := by
  unfold State.enterState
  have hp := State.postEvent_steps (wr := wr) { s with host := { s.host with state := d } } 0x0007 .done d.code 0
  refine ⟨hp.queue, hp.wf, ?_, hp.same⟩
  rcases hp.state with e | e
  · rw [e]; exact .inr (.inr h)
  · exact .inr (.inl e)

theorem nopCmd_good  : (nopCmd ).Good wr := by
  refine ⟨fun s p hs => ?_, fun s p id l => ?_⟩
  all_goals unfold nopCmd
  repeat' first
    | with_reducible exact Drains.refl _
    | with_reducible assumption
    | (extract_lets -underBinder +onlyGivenNames y; clear_value (e : y = _)
       first | (refine Drains.seq (y := y) ?_ ?_; rotate_left; (intro hy; clear e); rotate_right; subst e) | subst e)
    | (with_reducible apply Drains.after (Drains.foldl _ _ _ ?_); rotate_left; intro _ _)
    | (with_reducible apply Drains.ite <;> intro _)
    | fail_if_no_progress with_reducible refine Drains.upd ?_ rfl rfl rfl rfl
    | split
    | dsimp -zeta only [Verdict.state_done, Verdict.state_wait]
    | fail_if_no_progress refine Drains.upd ?_ rfl rfl rfl rfl

theorem deviceStartCmd_good  : (deviceStartCmd ).Good wr := by
  refine ⟨fun s p hs => ?_, fun s p id l => ?_⟩
  all_goals unfold deviceStartCmd
  repeat' first
    | with_reducible exact Drains.refl _
    | with_reducible assumption
    | (extract_lets -underBinder +onlyGivenNames y; clear_value (e : y = _)
       first | (refine Drains.seq (y := y) ?_ ?_; rotate_left; (intro hy; clear e); rotate_right; subst e) | subst e)
    | with_reducible apply Drains.after (State.tellMembers_steps ..).drains
    | (with_reducible apply Drains.after (Drains.foldl _ _ _ ?_); rotate_left; intro _ _)
    | (with_reducible apply Drains.ite <;> intro _)
    | fail_if_no_progress with_reducible refine Drains.upd ?_ rfl rfl rfl rfl
    | split
    | dsimp -zeta only [Verdict.state_done, Verdict.state_wait]
    | fail_if_no_progress refine Drains.upd ?_ rfl rfl rfl rfl

theorem State.startDraining_drains (s : State) (h : s.host.state = .service) : Drains wr s s.startDraining := by
  have hm := (State.enterState_moves (wr := wr) s .draining (by rw [h]; decide)).then (State.pauseRunning_steps _ .stop)
  refine ⟨hm.queue, hm.wf, ?_, hm.same⟩
  rcases hm.state with e | e | e
  · exact .inl e
  · exact .inr (.inl e)
  · rw [h] at e
    exact .inr (.inr ⟨h, by unfold State.startDraining; simpa [stateMoves] using e⟩)

theorem State.send_state (s : State) (kind dst address chain block : Nat) (sealed : Bool) (bytes : List Byte) :
    (s.send kind dst address chain block sealed bytes).host.state = s.host.state := by
  unfold State.send
  split <;> rfl
theorem State.tellAll_state (s : State) (kind : Nat) (bytes : List Byte) : (s.tellAll kind bytes).host.state = s.host.state := by
  unfold State.tellAll
  generalize s.otherMembers = l
  induction l generalizing s with
  | nil => rfl
  | cons m l ih =>
    rw [List.foldl_cons]
    refine (ih _).trans ?_
    dsimp only
    split <;> exact State.send_state ..
theorem State.tellMembers_state (s : State) (kind : Nat) (bytes : List Byte) : (s.tellMembers kind bytes).host.state = s.host.state := by
  unfold State.tellMembers
  split
  · exact State.tellAll_state ..
  · rfl
theorem deviceStopCmd_good : deviceStopCmd.Good wr := by
  refine ⟨fun s p hs => ?_, fun s p id l => .refl _⟩
  have h : s.host.state = .service := by simpa [deviceStopCmd] using hs
  have ht := State.tellMembers_steps (wr := wr) s 0x06 [4]
  show Drains wr s ((s.tellMembers 0x06 [4]).startDraining)
  exact ht.drains.trans (State.startDraining_drains _ ((State.tellMembers_state ..).trans h))

theorem State.freeDeck_steps (s : State) (q : Nat) : Steps wr s (State.freeDeck s q) := by
  unfold State.freeDeck
  repeat' first
    | with_reducible exact .refl _
    | with_reducible apply Steps.after (State.modRing_steps ..)
    | with_reducible apply Steps.after (State.releaseName_steps ..)
    | fail_if_no_progress with_reducible refine Steps.upd ?_ rfl rfl rfl rfl
    | split

theorem ringCreateCmd_good  : (ringCreateCmd ).Good wr := by
  refine ⟨fun s p hs => ?_, fun s p id l => ?_⟩
  all_goals unfold ringCreateCmd
  repeat' first
    | with_reducible exact Drains.refl _
    | with_reducible assumption
    | (extract_lets -underBinder +onlyGivenNames y; clear_value (e : y = _)
       first | (refine Drains.seq (y := y) ?_ ?_; rotate_left; (intro hy; clear e); rotate_right; subst e) | subst e)
    | with_reducible apply Drains.after (State.freeDeck_steps ..).drains
    | with_reducible apply Drains.after (Verdict.ok_steps ..).drains
    | (with_reducible apply Drains.after (Drains.foldl _ _ _ ?_); rotate_left; intro _ _)
    | (with_reducible apply Drains.ite <;> intro _)
    | fail_if_no_progress with_reducible refine Drains.upd ?_ rfl rfl rfl rfl
    | split
    | dsimp -zeta only [Verdict.state_done, Verdict.state_wait]
    | fail_if_no_progress refine Drains.upd ?_ rfl rfl rfl rfl

theorem ringDestroyCmd_good  : (ringDestroyCmd ).Good wr := by
  refine ⟨fun s p hs => ?_, fun s p id l => ?_⟩
  all_goals unfold ringDestroyCmd
  repeat' first
    | with_reducible exact Drains.refl _
    | with_reducible assumption
    | (extract_lets -underBinder +onlyGivenNames y; clear_value (e : y = _)
       first | (refine Drains.seq (y := y) ?_ ?_; rotate_left; (intro hy; clear e); rotate_right; subst e) | subst e)
    | with_reducible apply Drains.after (State.modRing_steps ..).drains
    | with_reducible apply Drains.after (Verdict.ok_steps ..).drains
    | (with_reducible apply Drains.after (Drains.foldl _ _ _ ?_); rotate_left; intro _ _)
    | (with_reducible apply Drains.ite <;> intro _)
    | fail_if_no_progress with_reducible refine Drains.upd ?_ rfl rfl rfl rfl
    | split
    | dsimp -zeta only [Verdict.state_done, Verdict.state_wait]
    | fail_if_no_progress refine Drains.upd ?_ rfl rfl rfl rfl

theorem ringResetCmd_good  : (ringResetCmd ).Good wr := by
  refine ⟨fun s p hs => ?_, fun s p id l => ?_⟩
  all_goals unfold ringResetCmd
  repeat' first
    | with_reducible exact Drains.refl _
    | with_reducible assumption
    | (extract_lets -underBinder +onlyGivenNames y; clear_value (e : y = _)
       first | (refine Drains.seq (y := y) ?_ ?_; rotate_left; (intro hy; clear e); rotate_right; subst e) | subst e)
    | (with_reducible apply Drains.after (Drains.foldl _ _ _ ?_); rotate_left; intro _ _)
    | (with_reducible apply Drains.ite <;> intro _)
    | fail_if_no_progress with_reducible refine Drains.upd ?_ rfl rfl rfl rfl
    | split
    | dsimp -zeta only [Verdict.state_done, Verdict.state_wait]
    | fail_if_no_progress refine Drains.upd ?_ rfl rfl rfl rfl

theorem State.ringResetDone_steps (s : State) (id : Nat) : Steps wr s (State.ringResetDone s id) := by
  unfold State.ringResetDone
  repeat' first
    | with_reducible exact .refl _
    | with_reducible apply Steps.after (State.finish_steps ..)
    | with_reducible apply Steps.after (State.modRing_steps ..)
    | (with_reducible apply Steps.ite <;> intro _)
    | fail_if_no_progress with_reducible refine Steps.upd ?_ rfl rfl rfl rfl
    | split

/-! ### Machine/Sampler.lean -/

theorem State.finishSamp_steps (s : State) (b : Nat) (j : SampJob) (st : Status) : Steps wr s (State.finishSamp s b j st) := by
  unfold State.finishSamp
  repeat' first
    | with_reducible exact .refl _
    | with_reducible assumption
    | (extract_lets -underBinder +onlyGivenNames y; clear_value (e : y = _)
       first | (refine Steps.seq (y := y) ?_ ?_; rotate_left; (intro hy; clear e); rotate_right; subst e) | subst e)
    | with_reducible apply Steps.after (State.feedRuns_steps ..)
    | with_reducible apply Steps.after (State.modSamp_steps ..)
    | with_reducible apply Steps.after (State.wordDone_steps ..)
    | fail_if_no_progress with_reducible refine Steps.upd ?_ rfl rfl rfl rfl

theorem State.sampIssue_steps (s : State) (b : Nat) : Steps wr s (State.sampIssue s b) := by
  unfold State.sampIssue
  repeat' first
    | with_reducible exact .refl _
    | with_reducible assumption
    | (extract_lets -underBinder +onlyGivenNames y; clear_value (e : y = _)
       first | (refine Steps.seq (y := y) ?_ ?_; rotate_left; (intro hy; clear e); rotate_right; subst e) | subst e)
    | with_reducible apply Steps.after (State.finishSamp_steps ..)
    | with_reducible apply Steps.after (State.modSamp_steps ..)
    | with_reducible apply Steps.after (State.signalTile_steps ..)
    | (with_reducible apply Steps.ite <;> intro _)
    | fail_if_no_progress with_reducible refine Steps.upd ?_ rfl rfl rfl rfl
    | split

theorem State.sampWrite_steps (s : State) (b : Nat) : Steps true s (State.sampWrite s b) := by
  unfold State.sampWrite
  repeat' first
    | with_reducible exact .refl _
    | with_reducible assumption
    | (extract_lets -underBinder +onlyGivenNames y; clear_value (e : y = _)
       first | (refine Steps.seq (y := y) ?_ ?_; rotate_left; (intro hy; clear e); rotate_right; subst e) | subst e)
    | with_reducible apply Steps.after (State.finishSamp_steps ..)
    | with_reducible apply Steps.after (State.modSamp_steps ..)
    | with_reducible apply Steps.after (State.modSample_steps ..)
    | with_reducible apply Steps.after (State.sealLine_steps ..)
    | with_reducible apply Steps.after (State.signalTile_steps ..)
    | with_reducible apply Steps.after (State.writeMem_steps ..)
    | (with_reducible apply Steps.ite <;> intro _)
    | fail_if_no_progress with_reducible refine Steps.upd ?_ rfl rfl rfl rfl
    | split

theorem State.sampParity_steps (s : State) (b : Nat) (compare : Bool) (deckSlot : Bool) :
    Steps wr s (State.sampParity s b compare deckSlot) := by
  unfold State.sampParity
  repeat' first
    | with_reducible exact .refl _
    | with_reducible assumption
    | (extract_lets -underBinder +onlyGivenNames y; clear_value (e : y = _)
       first | (refine Steps.seq (y := y) ?_ ?_; rotate_left; (intro hy; clear e); rotate_right; subst e) | subst e)
    | with_reducible apply Steps.after (State.enterFaulted_steps ..)
    | with_reducible apply Steps.after (State.loadDeck_steps ..)
    | with_reducible apply Steps.after (State.modSamp_steps ..)
    | with_reducible apply Steps.after (State.repeatUnit_steps ..)
    | (with_reducible apply Steps.ite <;> intro _)
    | fail_if_no_progress with_reducible refine Steps.upd ?_ rfl rfl rfl rfl
    | split

theorem State.seedRing_steps (s : State) (q : Nat) (number : Nat) (seed : Word256) :
    Steps true s (State.seedRing s q number seed).state := by
  unfold State.seedRing
  repeat' first
    | with_reducible exact .refl _
    | with_reducible assumption
    | (extract_lets -underBinder +onlyGivenNames y; clear_value (e : y = _)
       first | (refine Steps.seq (y := y) ?_ ?_; rotate_left; (intro hy; clear e); rotate_right; subst e) | subst e)
    | with_reducible refine Steps.after (State.alloc_got_steps ‹_›) ?_
    | with_reducible refine Steps.after (State.alloc_none_steps ‹_›) ?_
    | with_reducible apply Steps.after (State.freeDeck_steps ..)
    | with_reducible apply Steps.after (State.modRing_steps ..)
    | with_reducible apply Steps.after (Verdict.ok_steps ..)
    | with_reducible apply Steps.after (Verdict.refuse_steps ..)
    | with_reducible apply Steps.after (State.writeMem_steps ..)
    | fail_if_no_progress with_reducible refine Steps.upd ?_ rfl rfl rfl rfl
    | split

theorem randomSeedCmd_good  : (randomSeedCmd ).Good true := by
  refine ⟨fun s p hs => ?_, fun s p id l => ?_⟩
  all_goals unfold randomSeedCmd
  repeat' first
    | with_reducible exact Drains.refl _
    | with_reducible assumption
    | (extract_lets -underBinder +onlyGivenNames y; clear_value (e : y = _)
       first | (refine Drains.seq (y := y) ?_ ?_; rotate_left; (intro hy; clear e); rotate_right; subst e) | subst e)
    | with_reducible apply Drains.after (State.seedRing_steps ..).drains
    | (with_reducible apply Drains.after (Drains.foldl _ _ _ ?_); rotate_left; intro _ _)
    | (with_reducible apply Drains.ite <;> intro _)
    | fail_if_no_progress with_reducible refine Drains.upd ?_ rfl rfl rfl rfl
    | split
    | dsimp -zeta only [Verdict.state_done, Verdict.state_wait]
    | fail_if_no_progress refine Drains.upd ?_ rfl rfl rfl rfl

theorem sampleRunCmd_good  : (sampleRunCmd ).Good wr := by
  refine ⟨fun s p hs => ?_, fun s p id l => ?_⟩
  all_goals unfold sampleRunCmd
  repeat' first
    | with_reducible exact Drains.refl _
    | with_reducible assumption
    | (extract_lets -underBinder +onlyGivenNames y; clear_value (e : y = _)
       first | (refine Drains.seq (y := y) ?_ ?_; rotate_left; (intro hy; clear e); rotate_right; subst e) | subst e)
    | with_reducible apply Drains.after (State.addReader_steps ..).drains
    | with_reducible apply Drains.after (Verdict.refuse_steps ..).drains
    | (with_reducible apply Drains.after (Drains.foldl _ _ _ ?_); rotate_left; intro _ _)
    | (with_reducible apply Drains.ite <;> intro _)
    | fail_if_no_progress with_reducible refine Drains.upd ?_ rfl rfl rfl rfl
    | split
    | dsimp -zeta only [Verdict.state_done, Verdict.state_wait]
    | fail_if_no_progress refine Drains.upd ?_ rfl rfl rfl rfl

theorem randomTestCmd_good  : (randomTestCmd ).Good wr := by
  refine ⟨fun s p hs => ?_, fun s p id l => ?_⟩
  all_goals unfold randomTestCmd
  repeat' first
    | with_reducible exact Drains.refl _
    | with_reducible assumption
    | (extract_lets -underBinder +onlyGivenNames y; clear_value (e : y = _)
       first | (refine Drains.seq (y := y) ?_ ?_; rotate_left; (intro hy; clear e); rotate_right; subst e) | subst e)
    | with_reducible apply Drains.after (Verdict.okResult_steps ..).drains
    | (with_reducible apply Drains.after (Drains.foldl _ _ _ ?_); rotate_left; intro _ _)
    | (with_reducible apply Drains.ite <;> intro _)
    | fail_if_no_progress with_reducible refine Drains.upd ?_ rfl rfl rfl rfl
    | split
    | dsimp -zeta only [Verdict.state_done, Verdict.state_wait]
    | fail_if_no_progress refine Drains.upd ?_ rfl rfl rfl rfl

/-! ### Machine/Registers.lean -/

theorem lensClear_same {α β : Type} (g : α → β) (l : List (CounterLens α)) (h : ∀ e ∈ l, ∀ f x, g (e.2.2 f x) = g x) (o : Nat) (a : α) :
    g (lensClear l o a) = g a := by
  unfold lensClear
  split
  · next e he => exact h e (List.mem_of_find?_eq_some he) _ _
  · rfl
theorem clearWord_steps (s : State) (b : Block19) (o : Nat) : Steps wr s (clearWord s b o) := by
  unfold clearWord
  split
  · exact .upd (.refl s) rfl rfl rfl (lensClear_same (fun x : HostBlk => x.state) hostCounters (by simp [hostCounters]) _ _)
  · exact .upd (.refl s) rfl rfl rfl rfl
  · split
    · exact .upd (.refl s) rfl rfl rfl rfl
    · exact .upd (.refl s) rfl (lensClear_same (fun x : House => x.mem) houseCounters (by simp [houseCounters]) _ _) rfl rfl
  · split
    · exact State.modPool_steps ..
    · exact .upd (.refl s) rfl rfl rfl rfl
  · exact State.modArray_steps ..
  · exact State.modVec_steps ..
  · exact State.modSamp_steps ..
  · exact State.modCodec_steps ..
  · split <;> exact .upd (.refl s) rfl rfl rfl rfl
  · exact .upd (.refl s) rfl rfl rfl rfl
  · exact .upd (.refl s) rfl rfl rfl rfl
  · extract_lets +onlyGivenNames d
    split
    · split <;> first | exact .upd (.refl s) rfl rfl rfl rfl | exact .refl _
    · split
      · exact .upd (.refl s) rfl rfl rfl rfl
      · exact .upd (.refl s) rfl rfl (lensClear_same (fun x : Dram => x.mem) dramCounters (by simp [dramCounters]) _ _) rfl
  · split <;> exact .upd (.refl s) rfl rfl rfl rfl
  · exact .upd (.refl s) rfl rfl rfl rfl
  · exact .upd (.refl s) rfl rfl rfl rfl
  · exact .upd (.refl s) rfl rfl rfl rfl
  · split
    · exact .upd (.refl s) rfl rfl rfl rfl
    · exact .refl _
  · exact .refl _

theorem latchWord_steps (s : State) (b : Block19) (o : Nat) : Steps wr s (latchWord s b o) := by
  unfold latchWord
  repeat' first
    | with_reducible exact .refl _
    | (with_reducible apply Steps.ite <;> intro _)
    | fail_if_no_progress with_reducible refine Steps.upd ?_ rfl rfl rfl rfl
    | split

theorem State.readWord_steps (s : State) (b : Block19) (o : Nat) : Steps wr s (State.readWord s b o).2 := by
  unfold State.readWord
  repeat' first
    | with_reducible exact .refl _
    | with_reducible assumption
    | (extract_lets -underBinder +onlyGivenNames y; clear_value (e : y = _)
       first | (refine Steps.seq (y := y) ?_ ?_; rotate_left; (intro hy; clear e); rotate_right; subst e) | subst e)
    | with_reducible apply Steps.after (clearWord_steps ..)
    | with_reducible apply Steps.after (latchWord_steps ..)
    | fail_if_no_progress with_reducible refine Steps.upd ?_ rfl rfl rfl rfl

/-! ### Machine/Cue.lean -/

theorem State.rereserve_steps {s t_ : State} (h_ : s.rereserve = some t_) : Steps wr s t_ := by
  unfold State.rereserve at h_
  generalize s.streams = l at h_
  suffices ∀ (l : List (Nat × Stream)) (o : Option State), (∀ t, o = some t → Steps wr s t) →
      ∀ t, l.foldl (fun (o : Option State) e => o.bind fun (t : State) =>
        if e.2.inPlan && e.2.minInterval ≠ 0 then
          match aget (t.unreserve e.1).streams e.1 with
          | some st => (t.unreserve e.1).reserve e.1 st
          | none => some t
        else some t) o = some t → Steps wr s t from
    this l (some s) (fun t e => by cases e; exact .refl _) _ h_
  intro l
  induction l with
  | nil => intro o ho t h; exact ho t h
  | cons e l ih =>
    intro o ho t h
    refine ih _ (fun u hu => ?_) t h
    cases o with
    | none => cases hu
    | some v =>
      have hv := ho v rfl
      simp only [Option.bind_some] at hu
      split at hu
      · split at hu
        · exact hv.trans ((State.unreserve_steps ..).trans (State.reserve_steps hu))
        · cases hu; exact hv
      · cases hu; exact hv

theorem cueSetPeriodCmd_good  : (cueSetPeriodCmd ).Good wr := by
  refine ⟨fun s p hs => ?_, fun s p id l => ?_⟩
  all_goals unfold cueSetPeriodCmd
  repeat' first
    | with_reducible exact Drains.refl _
    | with_reducible assumption
    | (extract_lets -underBinder +onlyGivenNames y; clear_value (e : y = _)
       first | (refine Drains.seq (y := y) ?_ ?_; rotate_left; (intro hy; clear e); rotate_right; subst e) | subst e)
    | with_reducible apply Drains.after (Verdict.ok_steps ..).drains
    | with_reducible apply Drains.after (State.packs_steps ..).drains
    | with_reducible apply Drains.after (Verdict.refuse_steps ..).drains
    | with_reducible apply Drains.after (State.tellMembers_steps ..).drains
    | (with_reducible apply Drains.after (Drains.foldl _ _ _ ?_); rotate_left; intro _ _)
    | (with_reducible apply Drains.ite <;> intro _)
    | fail_if_no_progress with_reducible refine Drains.upd ?_ rfl rfl rfl rfl
    | split
    | dsimp -zeta only [Verdict.state_done, Verdict.state_wait]
    | fail_if_no_progress refine Drains.upd ?_ rfl rfl rfl rfl

theorem cueSetEpochCmd_good  : (cueSetEpochCmd ).Good wr := by
  refine ⟨fun s p hs => ?_, fun s p id l => ?_⟩
  all_goals unfold cueSetEpochCmd
  repeat' first
    | with_reducible exact Drains.refl _
    | with_reducible assumption
    | (extract_lets -underBinder +onlyGivenNames y; clear_value (e : y = _)
       first | (refine Drains.seq (y := y) ?_ ?_; rotate_left; (intro hy; clear e); rotate_right; subst e) | subst e)
    | with_reducible apply Drains.after (Verdict.ok_steps ..).drains
    | (with_reducible apply Drains.after (Drains.foldl _ _ _ ?_); rotate_left; intro _ _)
    | (with_reducible apply Drains.ite <;> intro _)
    | fail_if_no_progress with_reducible refine Drains.upd ?_ rfl rfl rfl rfl
    | split
    | dsimp -zeta only [Verdict.state_done, Verdict.state_wait]
    | fail_if_no_progress refine Drains.upd ?_ rfl rfl rfl rfl

theorem cueSetSourceCmd_good  : (cueSetSourceCmd ).Good wr := by
  refine ⟨fun s p hs => ?_, fun s p id l => ?_⟩
  all_goals unfold cueSetSourceCmd
  repeat' first
    | with_reducible exact Drains.refl _
    | with_reducible assumption
    | (extract_lets -underBinder +onlyGivenNames y; clear_value (e : y = _)
       first | (refine Drains.seq (y := y) ?_ ?_; rotate_left; (intro hy; clear e); rotate_right; subst e) | subst e)
    | with_reducible apply Drains.after (Verdict.ok_steps ..).drains
    | (with_reducible apply Drains.after (Drains.foldl _ _ _ ?_); rotate_left; intro _ _)
    | (with_reducible apply Drains.ite <;> intro _)
    | fail_if_no_progress with_reducible refine Drains.upd ?_ rfl rfl rfl rfl
    | split
    | dsimp -zeta only [Verdict.state_done, Verdict.state_wait]
    | fail_if_no_progress refine Drains.upd ?_ rfl rfl rfl rfl

theorem timeSteerCmd_good  : (timeSteerCmd ).Good wr := by
  refine ⟨fun s p hs => ?_, fun s p id l => ?_⟩
  all_goals unfold timeSteerCmd
  repeat' first
    | with_reducible exact Drains.refl _
    | with_reducible assumption
    | (extract_lets -underBinder +onlyGivenNames y; clear_value (e : y = _)
       first | (refine Drains.seq (y := y) ?_ ?_; rotate_left; (intro hy; clear e); rotate_right; subst e) | subst e)
    | with_reducible apply Drains.after (Verdict.ok_steps ..).drains
    | (with_reducible apply Drains.after (Drains.foldl _ _ _ ?_); rotate_left; intro _ _)
    | (with_reducible apply Drains.ite <;> intro _)
    | fail_if_no_progress with_reducible refine Drains.upd ?_ rfl rfl rfl rfl
    | split
    | dsimp -zeta only [Verdict.state_done, Verdict.state_wait]
    | fail_if_no_progress refine Drains.upd ?_ rfl rfl rfl rfl

theorem State.stepTime_steps (s : State) (goal : Nat) : Steps wr s (State.stepTime s goal) := by
  unfold State.stepTime
  repeat' first
    | with_reducible exact .refl _
    | with_reducible assumption
    | (extract_lets -underBinder +onlyGivenNames y; clear_value (e : y = _)
       first | (refine Steps.seq (y := y) ?_ ?_; rotate_left; (intro hy; clear e); rotate_right; subst e) | subst e)
    | (with_reducible apply Steps.ite <;> intro _)
    | fail_if_no_progress with_reducible refine Steps.upd ?_ rfl rfl rfl rfl

theorem timeStepCmd_good  : (timeStepCmd ).Good wr := by
  refine ⟨fun s p hs => ?_, fun s p id l => ?_⟩
  all_goals unfold timeStepCmd
  repeat' first
    | with_reducible exact Drains.refl _
    | with_reducible assumption
    | (extract_lets -underBinder +onlyGivenNames y; clear_value (e : y = _)
       first | (refine Drains.seq (y := y) ?_ ?_; rotate_left; (intro hy; clear e); rotate_right; subst e) | subst e)
    | with_reducible apply Drains.after (Verdict.ok_steps ..).drains
    | with_reducible apply Drains.after (State.stepTime_steps ..).drains
    | (with_reducible apply Drains.after (Drains.foldl _ _ _ ?_); rotate_left; intro _ _)
    | (with_reducible apply Drains.ite <;> intro _)
    | fail_if_no_progress with_reducible refine Drains.upd ?_ rfl rfl rfl rfl
    | split
    | dsimp -zeta only [Verdict.state_done, Verdict.state_wait]
    | fail_if_no_progress refine Drains.upd ?_ rfl rfl rfl rfl

theorem timePpsCmd_good  : (timePpsCmd ).Good wr := by
  refine ⟨fun s p hs => ?_, fun s p id l => ?_⟩
  all_goals unfold timePpsCmd
  repeat' first
    | with_reducible exact Drains.refl _
    | with_reducible assumption
    | (extract_lets -underBinder +onlyGivenNames y; clear_value (e : y = _)
       first | (refine Drains.seq (y := y) ?_ ?_; rotate_left; (intro hy; clear e); rotate_right; subst e) | subst e)
    | with_reducible apply Drains.after (Verdict.ok_steps ..).drains
    | (with_reducible apply Drains.after (Drains.foldl _ _ _ ?_); rotate_left; intro _ _)
    | (with_reducible apply Drains.ite <;> intro _)
    | fail_if_no_progress with_reducible refine Drains.upd ?_ rfl rfl rfl rfl
    | split
    | dsimp -zeta only [Verdict.state_done, Verdict.state_wait]
    | fail_if_no_progress refine Drains.upd ?_ rfl rfl rfl rfl

theorem State.ppsEdge_steps (s : State) : Steps wr s (State.ppsEdge s) := by
  unfold State.ppsEdge
  repeat' first
    | with_reducible exact .refl _
    | with_reducible assumption
    | (extract_lets -underBinder +onlyGivenNames y; clear_value (e : y = _)
       first | (refine Steps.seq (y := y) ?_ ?_; rotate_left; (intro hy; clear e); rotate_right; subst e) | subst e)
    | with_reducible apply Steps.after (State.postEvent_steps ..)
    | (with_reducible apply Steps.ite <;> intro _)
    | fail_if_no_progress with_reducible refine Steps.upd ?_ rfl rfl rfl rfl
    | split

theorem State.ppsLose_steps (s : State) : Steps wr s (State.ppsLose s) := by
  unfold State.ppsLose
  repeat' first
    | with_reducible exact .refl _
    | with_reducible assumption
    | (extract_lets -underBinder +onlyGivenNames y; clear_value (e : y = _)
       first | (refine Steps.seq (y := y) ?_ ?_; rotate_left; (intro hy; clear e); rotate_right; subst e) | subst e)
    | with_reducible apply Steps.after (State.postEvent_steps ..)
    | (with_reducible apply Steps.ite <;> intro _)
    | fail_if_no_progress with_reducible refine Steps.upd ?_ rfl rfl rfl rfl

theorem State.takePeriod_steps (s : State) (k at_ : Nat) : Steps wr s (s.takePeriod k at_) := by
  unfold State.takePeriod
  split
  · extract_lets +onlyGivenNames src c pb t
    have ht : Steps wr s t := .upd (.refl s) rfl rfl rfl rfl
    refine (ht.trans ?_).trans (State.playbillDue_steps ..)
    cases hr : t.rereserve with
    | none => exact .refl _
    | some u => exact State.rereserve_steps hr
  · exact .refl _

theorem State.applySteps_steps (s : State) (k : Nat) (periodChanged : Bool) : Steps wr s (State.applySteps s k periodChanged) := by
  unfold State.applySteps
  repeat' first
    | with_reducible exact .refl _
    | with_reducible assumption
    | (extract_lets -underBinder +onlyGivenNames y; clear_value (e : y = _)
       first | (refine Steps.seq (y := y) ?_ ?_; rotate_left; (intro hy; clear e); rotate_right; subst e) | subst e)
    | with_reducible apply Steps.after (State.resumeShed_steps ..)
    | with_reducible apply Steps.after (State.shed_steps ..)
    | (with_reducible apply Steps.ite <;> intro _)
    | fail_if_no_progress with_reducible refine Steps.upd ?_ rfl rfl rfl rfl
    | split

theorem State.showShares_steps (s : State) : Steps wr s (State.showShares s) := by
  unfold State.showShares
  repeat' first
    | with_reducible exact .refl _
    | with_reducible assumption
    | (extract_lets -underBinder +onlyGivenNames y; clear_value (e : y = _)
       first | (refine Steps.seq (y := y) ?_ ?_; rotate_left; (intro hy; clear e); rotate_right; subst e) | subst e)
    | with_reducible apply Steps.after (State.playbillDue_steps ..)
    | (with_reducible apply Steps.ite <;> intro _)
    | fail_if_no_progress with_reducible refine Steps.upd ?_ rfl rfl rfl rfl

theorem State.finishAll_steps (s : State) (w : Work) : Steps wr s (State.finishAll s w) := by
  unfold State.finishAll
  repeat' first
    | with_reducible exact .refl _
    | with_reducible apply Steps.after (State.finish_steps ..)
    | (with_reducible apply Steps.after (Steps.foldl _ _ _ ?_); rotate_left; intro _ _)

theorem State.edgeTransitions_moves (s : State) : Moves wr s s.edgeTransitions := by
  have stay : Moves wr s s := (Drains.refl s).moves
  unfold State.edgeTransitions
  split
  · next h =>
    split
    · refine Moves.then (Moves.before (t := { s with ewl := { s.ewl with startDue := false } }) (.upd (.refl s) rfl rfl rfl rfl)
        (State.enterState_moves _ .service ?_)) (State.finishAll_steps ..)
      show (s.host.state, _) ∈ stateMoves
      rw [h]; decide
    · exact stay
  · next h =>
    split
    · exact stay
    · exact (State.enterState_moves s .standby (by rw [h]; decide)).then (State.finishAll_steps ..)
  · exact stay

theorem State.edgeUnits_steps (s : State) : Steps wr s (State.edgeUnits s) := by
  unfold State.edgeUnits
  repeat' first
    | with_reducible exact .refl _
    | with_reducible assumption
    | (extract_lets -underBinder +onlyGivenNames y; clear_value (e : y = _)
       first | (refine Steps.seq (y := y) ?_ ?_; rotate_left; (intro hy; clear e); rotate_right; subst e) | subst e)
    | with_reducible apply Steps.after (State.feedRuns_steps ..)
    | fail_if_no_progress with_reducible refine Steps.upd ?_ rfl rfl rfl rfl
    | split

theorem State.edgeWidth_steps (s : State) : Steps wr s (State.edgeWidth s) := by
  unfold State.edgeWidth
  repeat' first
    | with_reducible exact .refl _
    | with_reducible assumption
    | (extract_lets -underBinder +onlyGivenNames y; clear_value (e : y = _)
       first | (refine Steps.seq (y := y) ?_ ?_; rotate_left; (intro hy; clear e); rotate_right; subst e) | subst e)
    | (with_reducible apply Steps.ite <;> intro _)
    | fail_if_no_progress with_reducible refine Steps.upd ?_ rfl rfl rfl rfl

theorem State.freeRetained_steps (s : State) (k : Nat) : Steps wr s (State.freeRetained s k) := by
  unfold State.freeRetained
  repeat' first
    | with_reducible exact .refl _
    | with_reducible assumption
    | (extract_lets -underBinder +onlyGivenNames y; clear_value (e : y = _)
       first | (refine Steps.seq (y := y) ?_ ?_; rotate_left; (intro hy; clear e); rotate_right; subst e) | subst e)
    | with_reducible apply Steps.after (State.releaseName_steps ..)
    | (with_reducible apply Steps.after (Steps.foldl _ _ _ ?_); rotate_left; intro _ _)
    | fail_if_no_progress with_reducible refine Steps.upd ?_ rfl rfl rfl rfl

theorem State.releaseTrip_steps (s : State) : Steps wr s (State.releaseTrip s) := by
  unfold State.releaseTrip
  repeat' first
    | with_reducible exact .refl _
    | with_reducible assumption
    | (extract_lets -underBinder +onlyGivenNames y; clear_value (e : y = _)
       first | (refine Steps.seq (y := y) ?_ ?_; rotate_left; (intro hy; clear e); rotate_right; subst e) | subst e)
    | (with_reducible apply Steps.ite <;> intro _)
    | fail_if_no_progress with_reducible refine Steps.upd ?_ rfl rfl rfl rfl
    | split

theorem State.noteDecrease_steps (s : State) (k : Nat) : Steps wr s (State.noteDecrease s k) := by
  unfold State.noteDecrease
  repeat' first
    | with_reducible exact .refl _
    | (with_reducible apply Steps.ite <;> intro _)
    | fail_if_no_progress with_reducible refine Steps.upd ?_ rfl rfl rfl rfl

theorem State.takeSnapshot_steps (s : State) (commands : List Nat) : Steps wr s (State.takeSnapshot s commands) := by
  unfold State.takeSnapshot
  repeat' first
    | with_reducible exact .refl _
    | with_reducible assumption
    | (extract_lets -underBinder +onlyGivenNames y; clear_value (e : y = _)
       first | (refine Steps.seq (y := y) ?_ ?_; rotate_left; (intro hy; clear e); rotate_right; subst e) | subst e)
    | (with_reducible apply Steps.ite <;> intro _)
    | fail_if_no_progress with_reducible refine Steps.upd ?_ rfl rfl rfl rfl

theorem State.makeEdge_moves (s : State) (at_ : Nat) : Moves wr s (s.makeEdge at_) := by
  unfold State.makeEdge
  extract_lets k before changed src1 c a1 src2 a2 a3 a4 a5 a6 a7 a8 a9 d slack b1 out src3 b2
  have h1 : Steps wr s a1 := Steps.after (State.takePeriod_steps ..) (.upd (.refl s) rfl rfl rfl rfl)
  have h2 : Steps wr a1 a2 := .upd (.refl a1) rfl rfl rfl rfl
  have h3 : Steps wr a2 a3 := State.takeSnapshot_steps ..
  have h4 : Steps wr a3 a4 := State.missDeadlines_steps ..
  have h5 : Steps wr a4 a5 := (State.applySteps_steps ..).trans ((State.noteDecrease_steps ..).trans (State.showShares_steps ..))
  have h6 : Steps wr a5 a6 := (State.reassign_steps ..).trans (State.examine_steps ..)
  have h7 : Moves wr a6 a7 := State.edgeTransitions_moves ..
  have h8 : Steps wr a7 a8 := State.releaseTrip_steps ..
  have h9 : Steps wr a8 a9 := (State.edgeUnits_steps ..).trans ((State.edgeWidth_steps ..).trans (State.freeRetained_steps ..))
  have g1 : Steps wr a9 b1 := State.draw_steps ..
  have g2 : Steps wr b1 b2 := .upd (.refl b1) rfl rfl rfl rfl
  exact (((h1.trans h2).trans (h3.trans h4)).trans (h5.trans h6) |> Moves.before <| h7).then
    ((h8.trans h9).trans (g1.trans (g2.trans ((State.trace_steps ..).trans (State.mirrorChanges_steps ..)))))

theorem State.cueEdge_moves (s : State) : Moves wr s s.cueEdge := by
  unfold State.cueEdge
  split
  · exact State.makeEdge_moves ..
  · exact (Drains.refl s).moves

theorem State.pinEdge_moves (s : State) (at_ : Nat) : Moves wr s (s.pinEdge at_) := by
  unfold State.pinEdge
  split
  · exact (Steps.after (State.tellMembers_steps ..) (.upd (.refl s) rfl rfl rfl rfl)).drains.moves
  · exact State.makeEdge_moves ..

theorem State.cueInEdge_moves (s : State) : Moves wr s s.cueInEdge := by
  unfold State.cueInEdge
  split
  · exact (Drains.refl s).moves
  · split
    · exact Steps.drains (.upd (.refl s) rfl rfl rfl rfl) |>.moves
    · exact Moves.before (.upd (.refl s) rfl rfl rfl rfl) (State.pinEdge_moves ..)

theorem State.cueInMissing_moves (s : State) : Moves wr s s.cueInMissing := by
  unfold State.cueInMissing
  extract_lets +onlyGivenNames late
  split
  · exact (Drains.refl s).moves
  · extract_lets +onlyGivenNames run c0 a b
    have hb : Moves wr s b := Moves.before (.upd (.refl s) rfl rfl rfl rfl) (State.pinEdge_moves ..)
    split
    · exact hb
    · exact hb.then (Steps.after (State.tellMembers_steps ..) (Steps.after (State.postEvent_steps ..) (.upd (.refl _) rfl rfl rfl rfl)))

end Sys2Proof.Machine
end

