-- ==== Sys2Proof/Laws/StepsPower.lean ====
section
/-! SUPPORT. What each operation of DRAM, power, the host link and the Playbill can do to the queue, to memory and to the
device state (`Steps` and its kin), said once for each; a proof about a step cites these and unfolds nothing. -/

set_option linter.all false

namespace Sys2Proof.Machine

open Sys2Proof

/-! ### Machine/Dram.lean -/

theorem dramInterleaveCmd_good  : (dramInterleaveCmd ).Good wr := by
  refine ⟨fun s p hs => ?_, fun s p id l => ?_⟩
  all_goals unfold dramInterleaveCmd
  repeat' first
    | with_reducible exact Drains.refl _
    | with_reducible assumption
    | (extract_lets -underBinder +onlyGivenNames y; clear_value (e : y = _)
       first | (refine Drains.seq (y := y) ?_ ?_; rotate_left; (intro hy; clear e); rotate_right; subst e) | subst e)
    | (with_reducible apply Drains.after (Drains.foldl _ _ _ ?_); rotate_left; intro _ _)
    | (with_reducible apply Drains.ite <;> intro _)
    | fail_if_no_progress with_reducible refine Drains.upd ?_ rfl rfl rfl rfl
    | split
    | dsimp -zeta only [Verdict.state_done, Verdict.state_wait]
    | fail_if_no_progress refine Drains.upd ?_ rfl rfl rfl rfl

theorem State.interleaved_steps (s : State) (id : Nat) : Steps true s (State.interleaved s id) := by
  unfold State.interleaved
  repeat' first
    | with_reducible exact .refl _
    | with_reducible assumption
    | (extract_lets -underBinder +onlyGivenNames y; clear_value (e : y = _)
       first | (refine Steps.seq (y := y) ?_ ?_; rotate_left; (intro hy; clear e); rotate_right; subst e) | subst e)
    | with_reducible apply Steps.after (State.finish_steps ..)
    | with_reducible apply Steps.after (State.zeroMem_steps ..)
    | fail_if_no_progress with_reducible refine Steps.upd ?_ rfl rfl rfl rfl
    | split

theorem dramTestCmd_good  : (dramTestCmd ).Good wr := by
  refine ⟨fun s p hs => ?_, fun s p id l => ?_⟩
  all_goals unfold dramTestCmd
  repeat' first
    | with_reducible exact Drains.refl _
    | with_reducible assumption
    | (extract_lets -underBinder +onlyGivenNames y; clear_value (e : y = _)
       first | (refine Drains.seq (y := y) ?_ ?_; rotate_left; (intro hy; clear e); rotate_right; subst e) | subst e)
    | (with_reducible apply Drains.after (Drains.foldl _ _ _ ?_); rotate_left; intro _ _)
    | (with_reducible apply Drains.ite <;> intro _)
    | fail_if_no_progress with_reducible refine Drains.upd ?_ rfl rfl rfl rfl
    | split
    | dsimp -zeta only [Verdict.state_done, Verdict.state_wait]
    | fail_if_no_progress refine Drains.upd ?_ rfl rfl rfl rfl

theorem State.dramTested_steps (s : State) (id : Nat) (wrong : Bool) (refetched : Nat) (lost : Nat) :
    Steps wr s (State.dramTested s id wrong refetched lost) := by
  unfold State.dramTested
  repeat' first
    | with_reducible exact .refl _
    | with_reducible apply Steps.after (State.enterFaulted_steps ..)
    | with_reducible apply Steps.after (State.finish_steps ..)
    | (with_reducible apply Steps.ite <;> intro _)
    | fail_if_no_progress with_reducible refine Steps.upd ?_ rfl rfl rfl rfl
    | split

theorem State.refreshSlice_steps (s : State) (die : Nat) : Steps wr s (State.refreshSlice s die) := by
  unfold State.refreshSlice
  repeat' first
    | with_reducible exact .refl _
    | (with_reducible apply Steps.ite <;> intro _)
    | fail_if_no_progress with_reducible refine Steps.upd ?_ rfl rfl rfl rfl

theorem State.recalibrate_steps (s : State) (channel : Nat) (margin : Nat) : Steps wr s (State.recalibrate s channel margin) := by
  unfold State.recalibrate
  repeat' first
    | with_reducible exact .refl _
    | with_reducible assumption
    | (extract_lets -underBinder +onlyGivenNames y; clear_value (e : y = _)
       first | (refine Steps.seq (y := y) ?_ ?_; rotate_left; (intro hy; clear e); rotate_right; subst e) | subst e)
    | (with_reducible apply Steps.ite <;> intro _)
    | fail_if_no_progress with_reducible refine Steps.upd ?_ rfl rfl rfl rfl
    | split

theorem State.exitSelfRefresh_steps (s : State) : Steps wr s (State.exitSelfRefresh s) := by
  unfold State.exitSelfRefresh
  repeat' first
    | with_reducible exact .refl _
    | with_reducible assumption
    | (extract_lets -underBinder +onlyGivenNames y; clear_value (e : y = _)
       first | (refine Steps.seq (y := y) ?_ ?_; rotate_left; (intro hy; clear e); rotate_right; subst e) | subst e)
    | with_reducible apply Steps.after (State.leaveRest_steps ..)
    | (with_reducible apply Steps.ite <;> intro _)
    | fail_if_no_progress with_reducible refine Steps.upd ?_ rfl rfl rfl rfl

/-! ### Machine/Power.lean -/

theorem State.crossing_steps (s : State) (sensor : Nat) (reading : Nat) : Steps wr s (State.crossing s sensor reading) := by
  unfold State.crossing
  repeat' first
    | with_reducible exact .refl _
    | with_reducible apply Steps.after (State.trace_steps ..)
    | fail_if_no_progress with_reducible refine Steps.upd ?_ rfl rfl rfl rfl

theorem State.readSensor_steps (s : State) (sensor : Nat) (c : Nat) : Steps wr s (State.readSensor s sensor c) := by
  unfold State.readSensor
  repeat' first
    | with_reducible exact .refl _
    | with_reducible assumption
    | (extract_lets -underBinder +onlyGivenNames y; clear_value (e : y = _)
       first | (refine Steps.seq (y := y) ?_ ?_; rotate_left; (intro hy; clear e); rotate_right; subst e) | subst e)
    | with_reducible apply Steps.after (State.crossing_steps ..)
    | (with_reducible apply Steps.after (Steps.foldl _ _ _ ?_); rotate_left; intro _ _)
    | fail_if_no_progress with_reducible refine Steps.upd ?_ rfl rfl rfl rfl

theorem State.reportStep_steps (s : State) (level : Nat) : Steps wr s (State.reportStep s level) := by
  unfold State.reportStep
  split
  · exact State.send_steps ..
  · exact .refl _

theorem State.decideStep_steps (s : State) (level : Nat) : Steps wr s (State.decideStep s level) := by
  unfold State.decideStep
  repeat' first
    | with_reducible exact .refl _
    | with_reducible assumption
    | (extract_lets -underBinder +onlyGivenNames y; clear_value (e : y = _)
       first | (refine Steps.seq (y := y) ?_ ?_; rotate_left; (intro hy; clear e); rotate_right; subst e) | subst e)
    | with_reducible apply Steps.after (State.leaveRest_steps ..)
    | with_reducible apply Steps.after (State.reportStep_steps ..)
    | with_reducible apply Steps.after (State.playbillDue_steps ..)
    | with_reducible apply Steps.after (State.trace_steps ..)
    | (with_reducible apply Steps.ite <;> intro _)
    | fail_if_no_progress with_reducible refine Steps.upd ?_ rfl rfl rfl rfl

theorem State.evaluate_steps (s : State) : Steps wr s (State.evaluate s) := by
  unfold State.evaluate
  repeat' first
    | with_reducible exact .refl _
    | with_reducible apply Steps.after (State.decideStep_steps ..)
    | (with_reducible apply Steps.ite <;> intro _)

theorem State.declareTrip_steps (s : State) (cause : Nat) : Steps wr s (State.declareTrip s cause) := by
  unfold State.declareTrip
  repeat' first
    | with_reducible exact .refl _
    | with_reducible assumption
    | (extract_lets -underBinder +onlyGivenNames y; clear_value (e : y = _)
       first | (refine Steps.seq (y := y) ?_ ?_; rotate_left; (intro hy; clear e); rotate_right; subst e) | subst e)
    | with_reducible apply Steps.after (State.decideStep_steps ..)
    | (with_reducible apply Steps.ite <;> intro _)
    | fail_if_no_progress with_reducible refine Steps.upd ?_ rfl rfl rfl rfl

theorem State.thermalFault_steps (s : State) (sensor : Nat) : Steps wr s (State.thermalFault s sensor) := by
  unfold State.thermalFault
  repeat' first
    | with_reducible exact .refl _
    | with_reducible assumption
    | (extract_lets -underBinder +onlyGivenNames y; clear_value (e : y = _)
       first | (refine Steps.seq (y := y) ?_ ?_; rotate_left; (intro hy; clear e); rotate_right; subst e) | subst e)
    | with_reducible apply Steps.after (State.enterFaulted_steps ..)
    | fail_if_no_progress with_reducible refine Steps.upd ?_ rfl rfl rfl rfl

theorem State.watchPower_steps (s : State) : Steps wr s (State.watchPower s) := by
  unfold State.watchPower
  repeat' first
    | with_reducible exact .refl _
    | with_reducible assumption
    | (extract_lets -underBinder +onlyGivenNames y; clear_value (e : y = _)
       first | (refine Steps.seq (y := y) ?_ ?_; rotate_left; (intro hy; clear e); rotate_right; subst e) | subst e)
    | with_reducible apply Steps.after (State.declareTrip_steps ..)
    | with_reducible apply Steps.after (State.thermalFault_steps ..)
    | (with_reducible apply Steps.ite <;> intro _)
    | fail_if_no_progress with_reducible refine Steps.upd ?_ rfl rfl rfl rfl
    | split

theorem State.railSample_steps (s : State) (milliwatts : Nat) (milliamps : Nat) : Steps wr s (State.railSample s milliwatts milliamps) := by
  unfold State.railSample
  repeat' first
    | with_reducible exact .refl _
    | with_reducible assumption
    | (extract_lets -underBinder +onlyGivenNames y; clear_value (e : y = _)
       first | (refine Steps.seq (y := y) ?_ ?_; rotate_left; (intro hy; clear e); rotate_right; subst e) | subst e)
    | with_reducible apply Steps.after (State.crossing_steps ..)
    | with_reducible apply Steps.after (State.draw_steps ..)
    | with_reducible apply Steps.after (State.excess_steps ..)
    | with_reducible apply Steps.after (State.watchPower_steps ..)
    | (with_reducible apply Steps.after (Steps.foldl _ _ _ ?_); rotate_left; intro _ _)
    | (with_reducible apply Steps.ite <;> intro _)
    | fail_if_no_progress with_reducible refine Steps.upd ?_ rfl rfl rfl rfl
    | split

theorem State.readSensors_steps (s : State) (n : Nat) (temps : List Nat) : Steps wr s (State.readSensors s n temps) := by
  unfold State.readSensors
  repeat' first
    | with_reducible exact .refl _
    | with_reducible apply Steps.after (State.readSensor_steps ..)
    | (with_reducible apply Steps.after (Steps.foldl _ _ _ ?_); rotate_left; intro _ _)

theorem Dram.rate_mem (d : Dram) (now die hot : Nat) : (d.rate now die hot).mem = d.mem := by
  unfold Dram.rate
  dsimp only
  repeat' first | rfl | split
theorem State.dramSensors_steps (s : State) (die : Nat) (temps : List Nat) : Steps wr s (s.dramSensors die temps) := by
  unfold State.dramSensors
  extract_lets hot d e
  refine Steps.after (State.watchPower_steps ..) (Steps.after (State.readSensors_steps ..) ?_)
  exact .upd (.refl s) rfl rfl (Dram.rate_mem ..) rfl

theorem State.tripHeld_steps (s : State) : Steps wr s (State.tripHeld s) := by
  unfold State.tripHeld
  repeat' first
    | with_reducible exact .refl _
    | with_reducible apply Steps.after (State.thermalFault_steps ..)
    | (with_reducible apply Steps.ite <;> intro _)
    | fail_if_no_progress with_reducible refine Steps.upd ?_ rfl rfl rfl rfl
    | split

theorem State.enterRest_steps (s : State) : Steps wr s (State.enterRest s) := by
  unfold State.enterRest
  repeat' first
    | with_reducible exact .refl _
    | (with_reducible apply Steps.ite <;> intro _)
    | fail_if_no_progress with_reducible refine Steps.upd ?_ rfl rfl rfl rfl

theorem State.lostLock_steps (s : State) (domain : Nat) : Steps wr s (State.lostLock s domain) := by
  unfold State.lostLock
  repeat' first
    | with_reducible exact .refl _
    | with_reducible assumption
    | (extract_lets -underBinder +onlyGivenNames y; clear_value (e : y = _)
       first | (refine Steps.seq (y := y) ?_ ?_; rotate_left; (intro hy; clear e); rotate_right; subst e) | subst e)
    | with_reducible apply Steps.after (State.draw_steps ..)
    | with_reducible apply Steps.after (State.enterFaulted_steps ..)
    | (with_reducible apply Steps.ite <;> intro _)
    | fail_if_no_progress with_reducible refine Steps.upd ?_ rfl rfl rfl rfl

theorem State.refetchLine_steps (s : State) (core : Nat) : Steps wr s (State.refetchLine s core) := by
  unfold State.refetchLine
  repeat' first
    | with_reducible exact .refl _
    | with_reducible assumption
    | (extract_lets -underBinder +onlyGivenNames y; clear_value (e : y = _)
       first | (refine Steps.seq (y := y) ?_ ?_; rotate_left; (intro hy; clear e); rotate_right; subst e) | subst e)
    | with_reducible apply Steps.after (State.enterFaulted_steps ..)
    | with_reducible apply Steps.after (State.trace_steps ..)
    | (with_reducible apply Steps.ite <;> intro _)
    | fail_if_no_progress with_reducible refine Steps.upd ?_ rfl rfl rfl rfl

/-! ### Machine/HostLink.lean -/

theorem State.traceHostPort_steps (s : State) (code : Nat) : Steps wr s (State.traceHostPort s code) := by
  unfold State.traceHostPort
  repeat' first
    | with_reducible exact .refl _
    | with_reducible apply Steps.after (State.trace_steps ..)

theorem State.retrain_steps (s : State) (speed : Nat) (width : Nat) (flit : Bool) : Steps wr s (State.retrain s speed width flit) := by
  unfold State.retrain
  repeat' first
    | with_reducible exact .refl _
    | with_reducible assumption
    | (extract_lets -underBinder +onlyGivenNames y; clear_value (e : y = _)
       first | (refine Steps.seq (y := y) ?_ ?_; rotate_left; (intro hy; clear e); rotate_right; subst e) | subst e)
    | with_reducible apply Steps.after (State.playbillDue_steps ..)
    | with_reducible apply Steps.after (State.traceHostPort_steps ..)
    | (with_reducible apply Steps.ite <;> intro _)
    | fail_if_no_progress with_reducible refine Steps.upd ?_ rfl rfl rfl rfl

theorem State.linkFalls_steps (s : State) : Steps wr s (State.linkFalls s) := by
  unfold State.linkFalls
  repeat' first
    | with_reducible exact .refl _
    | with_reducible apply Steps.after (State.traceHostPort_steps ..)
    | (with_reducible apply Steps.ite <;> intro _)
    | fail_if_no_progress with_reducible refine Steps.upd ?_ rfl rfl rfl rfl

theorem State.linkSleeps_steps (s : State) (goal : LinkPower) : Steps wr s (State.linkSleeps s goal) := by
  unfold State.linkSleeps
  repeat' first
    | with_reducible exact .refl _
    | with_reducible assumption
    | (extract_lets -underBinder +onlyGivenNames y; clear_value (e : y = _)
       first | (refine Steps.seq (y := y) ?_ ?_; rotate_left; (intro hy; clear e); rotate_right; subst e) | subst e)
    | (with_reducible apply Steps.ite <;> intro _)
    | fail_if_no_progress with_reducible refine Steps.upd ?_ rfl rfl rfl rfl

theorem State.pcieLost_steps (s : State) : Steps wr s (State.pcieLost s) := by
  unfold State.pcieLost
  repeat' first
    | with_reducible exact .refl _
    | with_reducible apply Steps.after (State.linkFalls_steps ..)
    | fail_if_no_progress with_reducible refine Steps.upd ?_ rfl rfl rfl rfl

/-! ### Machine/Playbill.lean -/

theorem State.publish_steps (s : State) : Steps wr s (State.publish s) := by
  unfold State.publish
  repeat' first
    | with_reducible exact .refl _
    | with_reducible assumption
    | (extract_lets -underBinder +onlyGivenNames y; clear_value (e : y = _)
       first | (refine Steps.seq (y := y) ?_ ?_; rotate_left; (intro hy; clear e); rotate_right; subst e) | subst e)
    | with_reducible apply Steps.after (State.draw_steps ..)
    | fail_if_no_progress with_reducible refine Steps.upd ?_ rfl rfl rfl rfl

theorem State.firstPlaybill_steps (s : State) : Steps wr s (State.firstPlaybill s) := by
  unfold State.firstPlaybill
  repeat' first
    | with_reducible exact .refl _
    | with_reducible apply Steps.after (State.playbillBegins_steps ..)
    | with_reducible apply Steps.after (State.publish_steps ..)

theorem State.endRemap_steps (s : State) (lost : Nat) : Steps wr s (State.endRemap s lost) := by
  unfold State.endRemap
  repeat' first
    | with_reducible exact .refl _
    | with_reducible assumption
    | (extract_lets -underBinder +onlyGivenNames y; clear_value (e : y = _)
       first | (refine Steps.seq (y := y) ?_ ?_; rotate_left; (intro hy; clear e); rotate_right; subst e) | subst e)
    | with_reducible apply Steps.after (State.missSample_steps ..)
    | with_reducible apply Steps.after (State.modSample_steps ..)
    | (with_reducible apply Steps.after (Steps.foldl _ _ _ ?_); rotate_left; intro _ _)
    | fail_if_no_progress with_reducible refine Steps.upd ?_ rfl rfl rfl rfl

theorem State.playbillEvent_steps (s : State) (remap : Option Nat) : Steps wr s (State.playbillEvent s remap) := by
  unfold State.playbillEvent
  repeat' first
    | with_reducible exact .refl _
    | with_reducible assumption
    | (extract_lets -underBinder +onlyGivenNames y; clear_value (e : y = _)
       first | (refine Steps.seq (y := y) ?_ ?_; rotate_left; (intro hy; clear e); rotate_right; subst e) | subst e)
    | with_reducible apply Steps.after (State.endRemap_steps ..)
    | with_reducible apply Steps.after (State.postEvent_steps ..)
    | (with_reducible apply Steps.ite <;> intro _)
    | fail_if_no_progress with_reducible refine Steps.upd ?_ rfl rfl rfl rfl
    | split

theorem State.playbillDone_steps (s : State) : Steps wr s (State.playbillDone s) := by
  unfold State.playbillDone
  repeat' first
    | with_reducible exact .refl _
    | with_reducible assumption
    | (extract_lets -underBinder +onlyGivenNames y; clear_value (e : y = _)
       first | (refine Steps.seq (y := y) ?_ ?_; rotate_left; (intro hy; clear e); rotate_right; subst e) | subst e)
    | with_reducible apply Steps.after (State.playbillBegins_steps ..)
    | with_reducible apply Steps.after (State.playbillEvent_steps ..)
    | with_reducible apply Steps.after (State.publish_steps ..)
    | with_reducible apply Steps.after (State.trace_steps ..)
    | (with_reducible apply Steps.ite <;> intro _)
    | fail_if_no_progress with_reducible refine Steps.upd ?_ rfl rfl rfl rfl

end Sys2Proof.Machine
end

