-- ==== Sys2Proof/Laws/StepsStreams.lean ====
section
/-! SUPPORT. What each operation of streams, security and the Euwald links can do to the queue, to memory and to the
device state (`Steps` and its kin), said once for each; a proof about a step cites these and unfolds nothing. -/

set_option linter.all false

namespace Sys2Proof.Machine

open Sys2Proof

/-! ### Machine/Streams.lean -/

theorem declareStream_steps (s : State) (p : Packet) (seed : Word256) : Steps wr s (declareStream s p seed).state := by
  unfold declareStream
  repeat' first
    | with_reducible exact Steps.refl _
    | with_reducible assumption
    | (extract_lets -underBinder +onlyGivenNames y; clear_value (e : y = _)
       first | (refine Steps.seq (y := y) ?_ ?_; rotate_left; (intro hy; clear e); rotate_right; subst e) | subst e)
    | with_reducible apply Steps.after (Verdict.okResult_steps ..)
    | with_reducible apply Steps.after (Verdict.refuse_steps ..)
    | (with_reducible apply Steps.after (Steps.foldl _ _ _ ?_); rotate_left; intro _ _)
    | (with_reducible apply Steps.ite <;> intro _)
    | fail_if_no_progress with_reducible refine Steps.upd ?_ rfl rfl rfl rfl
    | split
    | dsimp -zeta only [Verdict.state_done, Verdict.state_wait]
    | fail_if_no_progress refine Steps.upd ?_ rfl rfl rfl rfl

theorem streamDeclareCmd_good  : (streamDeclareCmd ).Good wr := by
  refine ⟨fun s p hs => ?_, fun s p id l => ?_⟩
  all_goals unfold streamDeclareCmd
  repeat' first
    | with_reducible exact Drains.refl _
    | with_reducible assumption
    | (extract_lets -underBinder +onlyGivenNames y; clear_value (e : y = _)
       first | (refine Drains.seq (y := y) ?_ ?_; rotate_left; (intro hy; clear e); rotate_right; subst e) | subst e)
    | with_reducible apply Drains.after (declareStream_steps ..).drains
    | with_reducible apply Drains.after (readHost_steps ..).drains
    | (with_reducible apply Drains.after (Drains.foldl _ _ _ ?_); rotate_left; intro _ _)
    | (with_reducible apply Drains.ite <;> intro _)
    | fail_if_no_progress with_reducible refine Drains.upd ?_ rfl rfl rfl rfl
    | split
    | dsimp -zeta only [Verdict.state_done, Verdict.state_wait]
    | fail_if_no_progress refine Drains.upd ?_ rfl rfl rfl rfl

theorem State.greyOutput_steps (s : State) (n : Nat) (st : Stream) (o : OutputCfg) : Steps true s (State.greyOutput s n st o).2 := by
  unfold State.greyOutput
  repeat' first
    | with_reducible exact .refl _
    | with_reducible assumption
    | (extract_lets -underBinder +onlyGivenNames y; clear_value (e : y = _)
       first | (refine Steps.seq (y := y) ?_ ?_; rotate_left; (intro hy; clear e); rotate_right; subst e) | subst e)
    | with_reducible apply Steps.after (State.addReader_steps ..)
    | with_reducible refine Steps.after (State.alloc_got_steps ‹_›) ?_
    | with_reducible refine Steps.after (State.alloc_none_steps ‹_›) ?_
    | with_reducible apply Steps.after (State.writeMem_steps ..)
    | (with_reducible apply Steps.after (Steps.foldl _ _ _ ?_); rotate_left; intro _ _)
    | fail_if_no_progress with_reducible refine Steps.upd ?_ rfl rfl rfl rfl
    | split

theorem State.greySet_steps (s : State) (n : Nat) : Steps true s (s.greySet n) := by
  unfold State.greySet
  split
  · exact .refl _
  · split
    · exact .refl _
    · exact Steps.after (State.modStream_steps ..) (Steps.foldlSnd _ _ _ _ fun t x => State.greyOutput_steps ..)

theorem streamAdmitCmd_good  : (streamAdmitCmd ).Good true := by
  refine ⟨fun s p hs => ?_, fun s p id l => ?_⟩
  all_goals unfold streamAdmitCmd
  repeat' first
    | with_reducible exact Drains.refl _
    | with_reducible assumption
    | (extract_lets -underBinder +onlyGivenNames y; clear_value (e : y = _)
       first | (refine Drains.seq (y := y) ?_ ?_; rotate_left; (intro hy; clear e); rotate_right; subst e) | subst e)
    | with_reducible refine Drains.after (State.admitStream_steps ‹_›).drains ?_
    | with_reducible apply Drains.after (State.greySet_steps ..).drains
    | with_reducible apply Drains.after (State.modStream_steps ..).drains
    | with_reducible apply Drains.after (Verdict.okResult_steps ..).drains
    | with_reducible apply Drains.after (Verdict.refuse_steps ..).drains
    | (with_reducible apply Drains.after (Drains.foldl _ _ _ ?_); rotate_left; intro _ _)
    | (with_reducible apply Drains.ite <;> intro _)
    | fail_if_no_progress with_reducible refine Drains.upd ?_ rfl rfl rfl rfl
    | split
    | dsimp -zeta only [Verdict.state_done, Verdict.state_wait]
    | fail_if_no_progress refine Drains.upd ?_ rfl rfl rfl rfl

theorem streamStartCmd_good  : (streamStartCmd ).Good wr := by
  refine ⟨fun s p hs => ?_, fun s p id l => ?_⟩
  all_goals unfold streamStartCmd
  repeat' first
    | with_reducible exact Drains.refl _
    | with_reducible assumption
    | (extract_lets -underBinder +onlyGivenNames y; clear_value (e : y = _)
       first | (refine Drains.seq (y := y) ?_ ?_; rotate_left; (intro hy; clear e); rotate_right; subst e) | subst e)
    | with_reducible apply Drains.after (State.modStream_steps ..).drains
    | with_reducible apply Drains.after (Verdict.ok_steps ..).drains
    | (with_reducible apply Drains.after (Drains.foldl _ _ _ ?_); rotate_left; intro _ _)
    | (with_reducible apply Drains.ite <;> intro _)
    | fail_if_no_progress with_reducible refine Drains.upd ?_ rfl rfl rfl rfl
    | split
    | dsimp -zeta only [Verdict.state_done, Verdict.state_wait]
    | fail_if_no_progress refine Drains.upd ?_ rfl rfl rfl rfl

theorem streamPauseCmd_good  : (streamPauseCmd ).Good wr := by
  refine ⟨fun s p hs => ?_, fun s p id l => ?_⟩
  all_goals unfold streamPauseCmd
  repeat' first
    | with_reducible exact Drains.refl _
    | with_reducible assumption
    | (extract_lets -underBinder +onlyGivenNames y; clear_value (e : y = _)
       first | (refine Drains.seq (y := y) ?_ ?_; rotate_left; (intro hy; clear e); rotate_right; subst e) | subst e)
    | with_reducible apply Drains.after (Verdict.ok_steps ..).drains
    | with_reducible apply Drains.after (State.pauseStream_steps ..).drains
    | (with_reducible apply Drains.after (Drains.foldl _ _ _ ?_); rotate_left; intro _ _)
    | (with_reducible apply Drains.ite <;> intro _)
    | fail_if_no_progress with_reducible refine Drains.upd ?_ rfl rfl rfl rfl
    | split
    | dsimp -zeta only [Verdict.state_done, Verdict.state_wait]
    | fail_if_no_progress refine Drains.upd ?_ rfl rfl rfl rfl

theorem streamResumeCmd_good  : (streamResumeCmd ).Good wr := by
  refine ⟨fun s p hs => ?_, fun s p id l => ?_⟩
  all_goals unfold streamResumeCmd
  repeat' first
    | with_reducible exact Drains.refl _
    | with_reducible assumption
    | (extract_lets -underBinder +onlyGivenNames y; clear_value (e : y = _)
       first | (refine Drains.seq (y := y) ?_ ?_; rotate_left; (intro hy; clear e); rotate_right; subst e) | subst e)
    | with_reducible refine Drains.after (State.admitStream_steps ‹_›).drains ?_
    | with_reducible apply Drains.after (State.modStream_steps ..).drains
    | with_reducible apply Drains.after (Verdict.ok_steps ..).drains
    | with_reducible apply Drains.after (Verdict.refuse_steps ..).drains
    | with_reducible apply Drains.after (State.resumeStream_steps ..).drains
    | (with_reducible apply Drains.after (Drains.foldl _ _ _ ?_); rotate_left; intro _ _)
    | (with_reducible apply Drains.ite <;> intro _)
    | fail_if_no_progress with_reducible refine Drains.upd ?_ rfl rfl rfl rfl
    | split
    | dsimp -zeta only [Verdict.state_done, Verdict.state_wait]
    | fail_if_no_progress refine Drains.upd ?_ rfl rfl rfl rfl

theorem State.dropOpenFrames_steps (s : State) (st : Stream) : Steps wr s (State.dropOpenFrames s st) := by
  unfold State.dropOpenFrames
  repeat' first
    | with_reducible exact .refl _
    | with_reducible assumption
    | (extract_lets -underBinder +onlyGivenNames y; clear_value (e : y = _)
       first | (refine Steps.seq (y := y) ?_ ?_; rotate_left; (intro hy; clear e); rotate_right; subst e) | subst e)
    | with_reducible apply Steps.after (State.releaseName_steps ..)
    | (with_reducible apply Steps.after (Steps.foldl _ _ _ ?_); rotate_left; intro _ _)
    | (with_reducible apply Steps.ite <;> intro _)
    | fail_if_no_progress with_reducible refine Steps.upd ?_ rfl rfl rfl rfl
    | split

theorem streamCloseCmd_good  : (streamCloseCmd ).Good wr := by
  refine ⟨fun s p hs => ?_, fun s p id l => ?_⟩
  all_goals unfold streamCloseCmd
  repeat' first
    | with_reducible exact Drains.refl _
    | with_reducible assumption
    | (extract_lets -underBinder +onlyGivenNames y; clear_value (e : y = _)
       first | (refine Drains.seq (y := y) ?_ ?_; rotate_left; (intro hy; clear e); rotate_right; subst e) | subst e)
    | with_reducible apply Drains.after (State.closeIfDone_steps ..).drains
    | with_reducible apply Drains.after (State.dropOpenFrames_steps ..).drains
    | with_reducible apply Drains.after (State.modStream_steps ..).drains
    | with_reducible apply Drains.after (Verdict.ok_steps ..).drains
    | (with_reducible apply Drains.after (Drains.foldl _ _ _ ?_); rotate_left; intro _ _)
    | (with_reducible apply Drains.ite <;> intro _)
    | fail_if_no_progress with_reducible refine Drains.upd ?_ rfl rfl rfl rfl
    | split
    | dsimp -zeta only [Verdict.state_done, Verdict.state_wait]
    | fail_if_no_progress refine Drains.upd ?_ rfl rfl rfl rfl

theorem streamQueryCmd_good  : (streamQueryCmd ).Good wr := by
  refine ⟨fun s p hs => ?_, fun s p id l => ?_⟩
  all_goals unfold streamQueryCmd
  repeat' first
    | with_reducible exact Drains.refl _
    | with_reducible assumption
    | (extract_lets -underBinder +onlyGivenNames y; clear_value (e : y = _)
       first | (refine Drains.seq (y := y) ?_ ?_; rotate_left; (intro hy; clear e); rotate_right; subst e) | subst e)
    | with_reducible apply Drains.after (Verdict.ok_steps ..).drains
    | with_reducible apply Drains.after (Verdict.refuse_steps ..).drains
    | (with_reducible apply Drains.after (Drains.foldl _ _ _ ?_); rotate_left; intro _ _)
    | (with_reducible apply Drains.ite <;> intro _)
    | fail_if_no_progress with_reducible refine Drains.upd ?_ rfl rfl rfl rfl
    | split
    | dsimp -zeta only [Verdict.state_done, Verdict.state_wait]
    | fail_if_no_progress refine Drains.upd ?_ rfl rfl rfl rfl

/-! ### Machine/Security.lean -/

theorem attestReportCmd_good  : (attestReportCmd ).Good wr := by
  refine ⟨fun s p hs => ?_, fun s p id l => ?_⟩
  all_goals unfold attestReportCmd
  repeat' first
    | with_reducible exact Drains.refl _
    | with_reducible assumption
    | (extract_lets -underBinder +onlyGivenNames y; clear_value (e : y = _)
       first | (refine Drains.seq (y := y) ?_ ?_; rotate_left; (intro hy; clear e); rotate_right; subst e) | subst e)
    | with_reducible apply Drains.after (Verdict.refuse_steps ..).drains
    | (with_reducible apply Drains.after (Drains.foldl _ _ _ ?_); rotate_left; intro _ _)
    | (with_reducible apply Drains.ite <;> intro _)
    | fail_if_no_progress with_reducible refine Drains.upd ?_ rfl rfl rfl rfl
    | split
    | dsimp -zeta only [Verdict.state_done, Verdict.state_wait]
    | fail_if_no_progress refine Drains.upd ?_ rfl rfl rfl rfl

theorem State.reportWritten_steps (s : State) (id : Nat) (refused : Bool) : Steps wr s (State.reportWritten s id refused) := by
  unfold State.reportWritten
  repeat' first
    | with_reducible exact .refl _
    | with_reducible assumption
    | (extract_lets -underBinder +onlyGivenNames y; clear_value (e : y = _)
       first | (refine Steps.seq (y := y) ?_ ?_; rotate_left; (intro hy; clear e); rotate_right; subst e) | subst e)
    | with_reducible apply Steps.after (State.draw_steps ..)
    | with_reducible apply Steps.after (State.finish_steps ..)
    | with_reducible apply Steps.after (State.take_steps ..)
    | with_reducible apply Steps.after (State.wakeLink_steps ..)
    | (with_reducible apply Steps.ite <;> intro _)
    | fail_if_no_progress with_reducible refine Steps.upd ?_ rfl rfl rfl rfl
    | split

theorem State.unsealPixels_steps (s : State) (fn : Nat) (ring : Nat) : Steps wr s (State.unsealPixels s fn ring) := by
  unfold State.unsealPixels
  repeat' first
    | with_reducible exact .refl _
    | with_reducible assumption
    | (extract_lets -underBinder +onlyGivenNames y; clear_value (e : y = _)
       first | (refine Steps.seq (y := y) ?_ ?_; rotate_left; (intro hy; clear e); rotate_right; subst e) | subst e)
    | with_reducible apply Steps.after (State.appendLog_steps ..)
    | fail_if_no_progress with_reducible refine Steps.upd ?_ rfl rfl rfl rfl

theorem State.sealPixels_steps (s : State) (fn : Nat) (ring : Nat) (arg : Nat) : Steps wr s (State.sealPixels s fn ring arg) := by
  unfold State.sealPixels
  repeat' first
    | with_reducible exact .refl _
    | with_reducible assumption
    | (extract_lets -underBinder +onlyGivenNames y; clear_value (e : y = _)
       first | (refine Steps.seq (y := y) ?_ ?_; rotate_left; (intro hy; clear e); rotate_right; subst e) | subst e)
    | with_reducible apply Steps.after (State.appendLog_steps ..)
    | fail_if_no_progress with_reducible refine Steps.upd ?_ rfl rfl rfl rfl

theorem State.setEncoded_steps (s : State) (on : Bool) (fn : Nat) (ring : Nat) (arg : Nat) :
    Steps wr s (State.setEncoded s on fn ring arg) := by
  unfold State.setEncoded
  repeat' first
    | with_reducible exact .refl _
    | with_reducible assumption
    | (extract_lets -underBinder +onlyGivenNames y; clear_value (e : y = _)
       first | (refine Steps.seq (y := y) ?_ ?_; rotate_left; (intro hy; clear e); rotate_right; subst e) | subst e)
    | with_reducible apply Steps.after (State.appendLog_steps ..)
    | with_reducible apply Steps.after (State.pauseStream_steps ..)
    | (with_reducible apply Steps.after (Steps.foldl _ _ _ ?_); rotate_left; intro _ _)
    | (with_reducible apply Steps.ite <;> intro _)
    | fail_if_no_progress with_reducible refine Steps.upd ?_ rfl rfl rfl rfl

theorem pixelsUnsealCmd_good  : (pixelsUnsealCmd ).Good wr := by
  refine ⟨fun s p hs => ?_, fun s p id l => ?_⟩
  all_goals unfold pixelsUnsealCmd
  repeat' first
    | with_reducible exact Drains.refl _
    | with_reducible assumption
    | (extract_lets -underBinder +onlyGivenNames y; clear_value (e : y = _)
       first | (refine Drains.seq (y := y) ?_ ?_; rotate_left; (intro hy; clear e); rotate_right; subst e) | subst e)
    | with_reducible apply Drains.after (Verdict.ok_steps ..).drains
    | with_reducible apply Drains.after (State.tellMembers_steps ..).drains
    | with_reducible apply Drains.after (State.unsealPixels_steps ..).drains
    | (with_reducible apply Drains.after (Drains.foldl _ _ _ ?_); rotate_left; intro _ _)
    | (with_reducible apply Drains.ite <;> intro _)
    | fail_if_no_progress with_reducible refine Drains.upd ?_ rfl rfl rfl rfl
    | split
    | dsimp -zeta only [Verdict.state_done, Verdict.state_wait]
    | fail_if_no_progress refine Drains.upd ?_ rfl rfl rfl rfl

theorem pixelsSealCmd_good  : (pixelsSealCmd ).Good wr := by
  refine ⟨fun s p hs => ?_, fun s p id l => ?_⟩
  all_goals unfold pixelsSealCmd
  repeat' first
    | with_reducible exact Drains.refl _
    | with_reducible assumption
    | (extract_lets -underBinder +onlyGivenNames y; clear_value (e : y = _)
       first | (refine Drains.seq (y := y) ?_ ?_; rotate_left; (intro hy; clear e); rotate_right; subst e) | subst e)
    | with_reducible apply Drains.after (Verdict.ok_steps ..).drains
    | with_reducible apply Drains.after (State.sealPixels_steps ..).drains
    | with_reducible apply Drains.after (State.tellMembers_steps ..).drains
    | (with_reducible apply Drains.after (Drains.foldl _ _ _ ?_); rotate_left; intro _ _)
    | (with_reducible apply Drains.ite <;> intro _)
    | fail_if_no_progress with_reducible refine Drains.upd ?_ rfl rfl rfl rfl
    | split
    | dsimp -zeta only [Verdict.state_done, Verdict.state_wait]
    | fail_if_no_progress refine Drains.upd ?_ rfl rfl rfl rfl

theorem encodedOutputCmd_good  : (encodedOutputCmd ).Good wr := by
  refine ⟨fun s p hs => ?_, fun s p id l => ?_⟩
  all_goals unfold encodedOutputCmd
  repeat' first
    | with_reducible exact Drains.refl _
    | with_reducible assumption
    | (extract_lets -underBinder +onlyGivenNames y; clear_value (e : y = _)
       first | (refine Drains.seq (y := y) ?_ ?_; rotate_left; (intro hy; clear e); rotate_right; subst e) | subst e)
    | with_reducible apply Drains.after (Verdict.ok_steps ..).drains
    | with_reducible apply Drains.after (State.setEncoded_steps ..).drains
    | with_reducible apply Drains.after (State.tellMembers_steps ..).drains
    | (with_reducible apply Drains.after (Drains.foldl _ _ _ ?_); rotate_left; intro _ _)
    | (with_reducible apply Drains.ite <;> intro _)
    | fail_if_no_progress with_reducible refine Drains.upd ?_ rfl rfl rfl rfl
    | split
    | dsimp -zeta only [Verdict.state_done, Verdict.state_wait]
    | fail_if_no_progress refine Drains.upd ?_ rfl rfl rfl rfl

theorem firmwareStageCmd_good  : (firmwareStageCmd ).Good wr := by
  refine ⟨fun s p hs => ?_, fun s p id l => ?_⟩
  all_goals unfold firmwareStageCmd
  repeat' first
    | with_reducible exact Drains.refl _
    | with_reducible assumption
    | (extract_lets -underBinder +onlyGivenNames y; clear_value (e : y = _)
       first | (refine Drains.seq (y := y) ?_ ?_; rotate_left; (intro hy; clear e); rotate_right; subst e) | subst e)
    | with_reducible apply Drains.after (readHost_steps ..).drains
    | (with_reducible apply Drains.after (Drains.foldl _ _ _ ?_); rotate_left; intro _ _)
    | (with_reducible apply Drains.ite <;> intro _)
    | fail_if_no_progress with_reducible refine Drains.upd ?_ rfl rfl rfl rfl
    | split
    | dsimp -zeta only [Verdict.state_done, Verdict.state_wait]
    | fail_if_no_progress refine Drains.upd ?_ rfl rfl rfl rfl

theorem State.staged_steps (s : State) (id : Nat) (ok : Bool) : Steps wr s (State.staged s id ok) := by
  unfold State.staged
  repeat' first
    | with_reducible exact .refl _
    | with_reducible assumption
    | (extract_lets -underBinder +onlyGivenNames y; clear_value (e : y = _)
       first | (refine Steps.seq (y := y) ?_ ?_; rotate_left; (intro hy; clear e); rotate_right; subst e) | subst e)
    | with_reducible apply Steps.after (State.appendLog_steps ..)
    | with_reducible apply Steps.after (State.finish_steps ..)
    | with_reducible apply Steps.after (Verdict.ok_steps ..)
    | (with_reducible apply Steps.ite <;> intro _)
    | fail_if_no_progress with_reducible refine Steps.upd ?_ rfl rfl rfl rfl
    | split

/-! ### Machine/Links.lean -/

theorem State.portMoves_steps (s : State) (n : Nat) (goal : PortState) : Steps wr s (State.portMoves s n goal) := by
  unfold State.portMoves
  repeat' first
    | with_reducible exact .refl _
    | with_reducible apply Steps.after (State.modEw_steps ..)
    | with_reducible apply Steps.after (State.trace_steps ..)
    | (with_reducible apply Steps.ite <;> intro _)
    | fail_if_no_progress with_reducible refine Steps.upd ?_ rfl rfl rfl rfl

theorem State.portDown_steps (s : State) (n : Nat) : Steps wr s (State.portDown s n) := by
  unfold State.portDown
  repeat' first
    | with_reducible exact .refl _
    | with_reducible apply Steps.after (State.modEw_steps ..)
    | with_reducible apply Steps.after (State.portMoves_steps ..)
    | fail_if_no_progress with_reducible refine Steps.upd ?_ rfl rfl rfl rfl

theorem State.portRetrains_steps (s : State) (n : Nat) : Steps wr s (State.portRetrains s n) := by
  unfold State.portRetrains
  repeat' first
    | with_reducible exact .refl _
    | with_reducible apply Steps.after (State.modEw_steps ..)
    | with_reducible apply Steps.after (State.portMoves_steps ..)
    | fail_if_no_progress with_reducible refine Steps.upd ?_ rfl rfl rfl rfl

theorem State.replay_steps (s : State) (n : Nat) : Steps wr s (State.replay s n) := by
  unfold State.replay
  repeat' first
    | with_reducible exact .refl _
    | with_reducible assumption
    | (extract_lets -underBinder +onlyGivenNames y; clear_value (e : y = _)
       first | (refine Steps.seq (y := y) ?_ ?_; rotate_left; (intro hy; clear e); rotate_right; subst e) | subst e)
    | with_reducible apply Steps.after (State.modEw_steps ..)
    | with_reducible apply Steps.after (State.portRetrains_steps ..)
    | with_reducible apply Steps.after (State.trace_steps ..)
    | (with_reducible apply Steps.ite <;> intro _)
    | fail_if_no_progress with_reducible refine Steps.upd ?_ rfl rfl rfl rfl

theorem State.flitReceived_steps (s : State) (n : Nat) (f : Flit) : Steps wr s (State.flitReceived s n f) := by
  unfold State.flitReceived
  repeat' first
    | with_reducible exact .refl _
    | with_reducible assumption
    | (extract_lets -underBinder +onlyGivenNames y; clear_value (e : y = _)
       first | (refine Steps.seq (y := y) ?_ ?_; rotate_left; (intro hy; clear e); rotate_right; subst e) | subst e)
    | with_reducible apply Steps.after (State.modEw_steps ..)
    | with_reducible apply Steps.after (State.replay_steps ..)
    | with_reducible apply Steps.after (State.take_steps ..)
    | (with_reducible apply Steps.ite <;> intro _)
    | fail_if_no_progress with_reducible refine Steps.upd ?_ rfl rfl rfl rfl

theorem State.replayTimeout_steps (s : State) (n : Nat) : Steps wr s (State.replayTimeout s n) := by
  unfold State.replayTimeout
  repeat' first
    | with_reducible exact .refl _
    | with_reducible assumption
    | (extract_lets -underBinder +onlyGivenNames y; clear_value (e : y = _)
       first | (refine Steps.seq (y := y) ?_ ?_; rotate_left; (intro hy; clear e); rotate_right; subst e) | subst e)
    | with_reducible apply Steps.after (State.replay_steps ..)
    | (with_reducible apply Steps.ite <;> intro _)
    | fail_if_no_progress with_reducible refine Steps.upd ?_ rfl rfl rfl rfl
    | split

theorem State.flitSilence_steps (s : State) (n : Nat) : Steps wr s (State.flitSilence s n) := by
  unfold State.flitSilence
  repeat' first
    | with_reducible exact .refl _
    | with_reducible apply Steps.after (State.portRetrains_steps ..)
    | (with_reducible apply Steps.ite <;> intro _)

theorem State.laneLost_steps (s : State) (n : Nat) : Steps wr s (State.laneLost s n) := by
  unfold State.laneLost
  repeat' first
    | with_reducible exact .refl _
    | with_reducible apply Steps.after (State.portRetrains_steps ..)
    | (with_reducible apply Steps.ite <;> intro _)

theorem State.retrained_steps (s : State) (n : Nat) (ok : Bool) : Steps wr s (State.retrained s n ok) := by
  unfold State.retrained
  repeat' first
    | with_reducible exact .refl _
    | with_reducible assumption
    | (extract_lets -underBinder +onlyGivenNames y; clear_value (e : y = _)
       first | (refine Steps.seq (y := y) ?_ ?_; rotate_left; (intro hy; clear e); rotate_right; subst e) | subst e)
    | with_reducible apply Steps.after (State.modEw_steps ..)
    | with_reducible apply Steps.after (Verdict.ok_steps ..)
    | with_reducible apply Steps.after (State.portDown_steps ..)
    | with_reducible apply Steps.after (State.portMoves_steps ..)
    | with_reducible apply Steps.after (State.replay_steps ..)
    | (with_reducible apply Steps.ite <;> intro _)
    | fail_if_no_progress with_reducible refine Steps.upd ?_ rfl rfl rfl rfl

theorem State.trainingRetry_steps (s : State) (n : Nat) : Steps wr s (State.trainingRetry s n) := by
  unfold State.trainingRetry
  repeat' first
    | with_reducible exact .refl _
    | with_reducible assumption
    | (extract_lets -underBinder +onlyGivenNames y; clear_value (e : y = _)
       first | (refine Steps.seq (y := y) ?_ ?_; rotate_left; (intro hy; clear e); rotate_right; subst e) | subst e)
    | with_reducible apply Steps.after (State.portMoves_steps ..)
    | (with_reducible apply Steps.ite <;> intro _)
    | fail_if_no_progress with_reducible refine Steps.upd ?_ rfl rfl rfl rfl

theorem State.enablePort_steps (s : State) (n : Nat) : Steps wr s (State.enablePort s n) := by
  unfold State.enablePort
  repeat' first
    | with_reducible exact .refl _
    | with_reducible apply Steps.after (State.portMoves_steps ..)
    | (with_reducible apply Steps.ite <;> intro _)

theorem State.enablePorts_steps (s : State) (mask : Nat) : Steps wr s (State.enablePorts s mask) := by
  unfold State.enablePorts
  repeat' first
    | with_reducible exact .refl _
    | with_reducible apply Steps.after (State.enablePort_steps ..)
    | (with_reducible apply Steps.after (Steps.foldl _ _ _ ?_); rotate_left; intro _ _)

theorem State.ewLost_steps (s : State) : Steps wr s (State.ewLost s) := by
  unfold State.ewLost
  repeat' first
    | with_reducible exact .refl _
    | with_reducible assumption
    | (extract_lets -underBinder +onlyGivenNames y; clear_value (e : y = _)
       first | (refine Steps.seq (y := y) ?_ ?_; rotate_left; (intro hy; clear e); rotate_right; subst e) | subst e)
    | with_reducible apply Steps.after (State.portDown_steps ..)
    | (with_reducible apply Steps.after (Steps.foldl _ _ _ ?_); rotate_left; intro _ _)
    | fail_if_no_progress with_reducible refine Steps.upd ?_ rfl rfl rfl rfl

theorem State.sendRetained_steps (s : State) (r : Retained) (port : Option Nat) (dst : Nat) (address : Nat) :
    Steps wr s (State.sendRetained s r port dst address) := by
  unfold State.sendRetained
  repeat' first
    | with_reducible exact .refl _
    | with_reducible assumption
    | (extract_lets -underBinder +onlyGivenNames y; clear_value (e : y = _)
       first | (refine Steps.seq (y := y) ?_ ?_; rotate_left; (intro hy; clear e); rotate_right; subst e) | subst e)
    | with_reducible apply Steps.after (State.putMessage_steps ..)
    | fail_if_no_progress with_reducible refine Steps.upd ?_ rfl rfl rfl rfl
    | split

theorem State.handOff_steps (s : State) (k : Nat) (dst : Nat) (chain : Nat) (index : Nat) (line : Nat) (bytes : Nat) (address : Nat) :
    Steps true s (State.handOff s k dst chain index line bytes address) := by
  unfold State.handOff
  repeat' first
    | with_reducible exact .refl _
    | with_reducible assumption
    | (extract_lets -underBinder +onlyGivenNames y; clear_value (e : y = _)
       first | (refine Steps.seq (y := y) ?_ ?_; rotate_left; (intro hy; clear e); rotate_right; subst e) | subst e)
    | with_reducible refine Steps.after (State.alloc_got_steps ‹_›) ?_
    | with_reducible refine Steps.after (State.alloc_none_steps ‹_›) ?_
    | with_reducible apply Steps.after (State.sendRetained_steps ..)
    | with_reducible apply Steps.after (State.writeMem_steps ..)
    | fail_if_no_progress with_reducible refine Steps.upd ?_ rfl rfl rfl rfl
    | split

theorem State.slotHandoff_steps (s : State) (k : Nat) (dst : Nat) (chain : Nat) (first : Nat) (line : Nat) (bytes : Nat) (address : Nat) :
    Steps true s (State.slotHandoff s k dst chain first line bytes address) := by
  unfold State.slotHandoff
  repeat' first
    | with_reducible exact .refl _
    | with_reducible apply Steps.after (State.handOff_steps ..)
    | (with_reducible apply Steps.after (Steps.foldl _ _ _ ?_); rotate_left; intro _ _)
    | (with_reducible apply Steps.ite <;> intro _)

end Sys2Proof.Machine
end

