-- ==== Sys2Proof/Laws/StepsBoot.lean ====
section
/-! SUPPORT. What each operation of resets and boot, observation, formation, casts and plans can do to the queue, to memory and to the
device state (`Steps` and its kin), said once for each; a proof about a step cites these and unfolds nothing. -/

set_option linter.all false

namespace Sys2Proof.Machine

open Sys2Proof

/-! ### Machine/Boot.lean -/

theorem State.deviceReset_keeps (s : State) (kind : Nat) : Keeps s (s.deviceReset kind) ∧ (s.deviceReset kind).host.state = .boot :=
  ⟨⟨rfl, fun _ => rfl⟩, rfl⟩

theorem State.releaseReset_steps (s : State) (mismatches : Nat) : Steps wr s (State.releaseReset s mismatches) := by
  unfold State.releaseReset
  repeat' first
    | with_reducible exact .refl _
    | with_reducible assumption
    | (extract_lets -underBinder +onlyGivenNames y; clear_value (e : y = _)
       first | (refine Steps.seq (y := y) ?_ ?_; rotate_left; (intro hy; clear e); rotate_right; subst e) | subst e)
    | with_reducible apply Steps.after (State.enterFaulted_steps ..)
    | (with_reducible apply Steps.ite <;> intro _)
    | fail_if_no_progress with_reducible refine Steps.upd ?_ rfl rfl rfl rfl
    | split

theorem State.bootTo_steps (s : State) (step : Nat) : Steps wr s (State.bootTo s step) := by
  unfold State.bootTo
  exact .upd (.refl _) rfl rfl rfl rfl

theorem State.startLoad_steps (s : State) (slotB : Bool) : Steps wr s (State.startLoad s slotB) := by
  unfold State.startLoad
  repeat' first
    | with_reducible exact .refl _
    | with_reducible apply Steps.after (State.bootTo_steps ..)
    | fail_if_no_progress with_reducible refine Steps.upd ?_ rfl rfl rfl rfl

theorem State.loadFailed_steps (s : State) (slotB : Bool) : Steps wr s (State.loadFailed s slotB) := by
  unfold State.loadFailed
  repeat' first
    | with_reducible exact .refl _
    | with_reducible apply Steps.after (State.bootTo_steps ..)
    | with_reducible apply Steps.after (State.startLoad_steps ..)
    | (with_reducible apply Steps.ite <;> intro _)
    | fail_if_no_progress with_reducible refine Steps.upd ?_ rfl rfl rfl rfl

theorem State.flashTimeout_steps (s : State) (slotB : Bool) : Steps wr s (State.flashTimeout s slotB) := by
  unfold State.flashTimeout
  repeat' first
    | with_reducible exact .refl _
    | with_reducible assumption
    | (extract_lets -underBinder +onlyGivenNames y; clear_value (e : y = _)
       first | (refine Steps.seq (y := y) ?_ ?_; rotate_left; (intro hy; clear e); rotate_right; subst e) | subst e)
    | with_reducible apply Steps.after (State.loadFailed_steps ..)
    | (with_reducible apply Steps.ite <;> intro _)
    | fail_if_no_progress with_reducible refine Steps.upd ?_ rfl rfl rfl rfl

theorem State.selectSlot_steps (s : State) : Steps wr s (State.selectSlot s) := by
  unfold State.selectSlot
  repeat' first
    | with_reducible exact .refl _
    | with_reducible assumption
    | (extract_lets -underBinder +onlyGivenNames y; clear_value (e : y = _)
       first | (refine Steps.seq (y := y) ?_ ?_; rotate_left; (intro hy; clear e); rotate_right; subst e) | subst e)
    | with_reducible apply Steps.after (State.bootTo_steps ..)
    | with_reducible apply Steps.after (State.startLoad_steps ..)
    | (with_reducible apply Steps.ite <;> intro _)
    | fail_if_no_progress with_reducible refine Steps.upd ?_ rfl rfl rfl rfl
    | split

theorem State.startFirmware_steps (s : State) (source : Nat) (header : List Byte) : Steps wr s (State.startFirmware s source header) := by
  unfold State.startFirmware
  repeat' first
    | with_reducible exact .refl _
    | with_reducible assumption
    | (extract_lets -underBinder +onlyGivenNames y; clear_value (e : y = _)
       first | (refine Steps.seq (y := y) ?_ ?_; rotate_left; (intro hy; clear e); rotate_right; subst e) | subst e)
    | with_reducible apply Steps.after (State.bootTo_steps ..)
    | with_reducible apply Steps.after (State.take_steps ..)
    | fail_if_no_progress with_reducible refine Steps.upd ?_ rfl rfl rfl rfl

theorem State.loadDone_steps (s : State) : Steps true s (State.loadDone s) := by
  unfold State.loadDone
  repeat' first
    | with_reducible exact .refl _
    | with_reducible assumption
    | (extract_lets -underBinder +onlyGivenNames y; clear_value (e : y = _)
       first | (refine Steps.seq (y := y) ?_ ?_; rotate_left; (intro hy; clear e); rotate_right; subst e) | subst e)
    | with_reducible apply Steps.after (State.loadFailed_steps ..)
    | with_reducible apply Steps.after (State.startFirmware_steps ..)
    | with_reducible apply Steps.after (State.writeMem_steps ..)
    | (with_reducible apply Steps.ite <;> intro _)
    | fail_if_no_progress with_reducible refine Steps.upd ?_ rfl rfl rfl rfl
    | split

theorem State.pushChecked_steps (s : State) : Steps wr s (State.pushChecked s) := by
  unfold State.pushChecked
  repeat' first
    | with_reducible exact .refl _
    | with_reducible assumption
    | (extract_lets -underBinder +onlyGivenNames y; clear_value (e : y = _)
       first | (refine Steps.seq (y := y) ?_ ?_; rotate_left; (intro hy; clear e); rotate_right; subst e) | subst e)
    | with_reducible apply Steps.after (State.startFirmware_steps ..)
    | with_reducible apply Steps.after (State.take_steps ..)
    | (with_reducible apply Steps.ite <;> intro _)
    | fail_if_no_progress with_reducible refine Steps.upd ?_ rfl rfl rfl rfl
    | split

theorem State.trained_steps (s : State) (margins : List Nat) : Steps wr s (State.trained s margins) := by
  unfold State.trained
  repeat' first
    | with_reducible exact .refl _
    | with_reducible assumption
    | (extract_lets -underBinder +onlyGivenNames y; clear_value (e : y = _)
       first | (refine Steps.seq (y := y) ?_ ?_; rotate_left; (intro hy; clear e); rotate_right; subst e) | subst e)
    | with_reducible apply Steps.after (State.bootTo_steps ..)
    | with_reducible apply Steps.after (State.enterFaulted_steps ..)
    | (with_reducible apply Steps.ite <;> intro _)
    | fail_if_no_progress with_reducible refine Steps.upd ?_ rfl rfl rfl rfl
    | split

theorem State.filled_steps (s : State) : Steps true s s.filled := by
  unfold State.filled
  split
  · exact .refl _
  · exact ⟨rfl, fun _ => rfl, .inl rfl, nofun⟩

theorem State.standbyRegisters_steps (s : State) : Steps wr s (State.standbyRegisters s) := by
  unfold State.standbyRegisters
  repeat' first
    | with_reducible exact .refl _
    | with_reducible assumption
    | (extract_lets -underBinder +onlyGivenNames y; clear_value (e : y = _)
       first | (refine Steps.seq (y := y) ?_ ?_; rotate_left; (intro hy; clear e); rotate_right; subst e) | subst e)
    | with_reducible apply Steps.after (State.trained_steps ..)
    | fail_if_no_progress with_reducible refine Steps.upd ?_ rfl rfl rfl rfl

theorem State.enterStandby_moves (s : State) (h : s.host.state = .boot) : Moves wr s s.enterStandby := by
  unfold State.enterStandby
  extract_lets a src1 src2 b c d e src3 f
  have ha : Steps wr s a := State.standbyRegisters_steps ..
  have hb : Steps wr a b := .upd (.refl a) rfl rfl rfl rfl
  have hc : Steps wr b c := State.firstPlaybill_steps ..
  have hd : Steps wr c d := State.appendLog_steps ..
  have hs : (d.bootTo 10).host.state = .boot := (show _ = s.host.state from rfl).trans h
  have he : Moves wr d e := .before (State.bootTo_steps ..) (State.enterState_moves _ .standby (by rw [hs]; decide))
  have hf : Steps wr e f := by
    show Steps wr e (if _ then _ else _)
    split
    · exact .refl _
    · exact Steps.after (State.enablePorts_steps ..) (.upd (.refl e) rfl rfl rfl rfl)
  have hg := (Moves.before ((ha.trans hb).trans (hc.trans hd)) he).then hf
  split
  · exact hg.then (State.decideStep_steps ..)
  · exact hg

theorem State.rehearsed_moves (s : State) (wrong : Option Nat) : Moves wr s (s.rehearsed wrong) := by
  unfold State.rehearsed
  split
  · exact (Drains.refl s).moves
  · next h =>
    split
    · exact (State.enterFaulted_steps ..).drains.moves
    · exact State.enterStandby_moves _ (by simp [State.booting] at h; exact h.1)

theorem State.burned_steps (s : State) : Steps wr s (State.burned s) := by
  unfold State.burned
  repeat' first
    | with_reducible exact .refl _
    | with_reducible assumption
    | (extract_lets -underBinder +onlyGivenNames y; clear_value (e : y = _)
       first | (refine Steps.seq (y := y) ?_ ?_; rotate_left; (intro hy; clear e); rotate_right; subst e) | subst e)
    | with_reducible apply Steps.after (State.appendLog_steps ..)
    | (with_reducible apply Steps.ite <;> intro _)
    | fail_if_no_progress with_reducible refine Steps.upd ?_ rfl rfl rfl rfl

/-! ### Machine/Observe.lean -/

theorem traceSetCmd_good  : (traceSetCmd ).Good wr := by
  refine ⟨fun s p hs => ?_, fun s p id l => ?_⟩
  all_goals unfold traceSetCmd
  repeat' first
    | with_reducible exact Drains.refl _
    | with_reducible assumption
    | (extract_lets -underBinder +onlyGivenNames y; clear_value (e : y = _)
       first | (refine Drains.seq (y := y) ?_ ?_; rotate_left; (intro hy; clear e); rotate_right; subst e) | subst e)
    | with_reducible apply Drains.after (Verdict.ok_steps ..).drains
    | (with_reducible apply Drains.after (Drains.foldl _ _ _ ?_); rotate_left; intro _ _)
    | (with_reducible apply Drains.ite <;> intro _)
    | fail_if_no_progress with_reducible refine Drains.upd ?_ rfl rfl rfl rfl
    | split
    | dsimp -zeta only [Verdict.state_done, Verdict.state_wait]
    | fail_if_no_progress refine Drains.upd ?_ rfl rfl rfl rfl

theorem countersSnapshotCmd_good  : (countersSnapshotCmd ).Good wr := by
  refine ⟨fun s p hs => ?_, fun s p id l => ?_⟩
  all_goals unfold countersSnapshotCmd
  repeat' first
    | with_reducible exact Drains.refl _
    | with_reducible assumption
    | (extract_lets -underBinder +onlyGivenNames y; clear_value (e : y = _)
       first | (refine Drains.seq (y := y) ?_ ?_; rotate_left; (intro hy; clear e); rotate_right; subst e) | subst e)
    | with_reducible apply Drains.after (State.takeSnapshot_steps ..).drains
    | (with_reducible apply Drains.after (Drains.foldl _ _ _ ?_); rotate_left; intro _ _)
    | (with_reducible apply Drains.ite <;> intro _)
    | fail_if_no_progress with_reducible refine Drains.upd ?_ rfl rfl rfl rfl
    | split
    | dsimp -zeta only [Verdict.state_done, Verdict.state_wait]
    | fail_if_no_progress refine Drains.upd ?_ rfl rfl rfl rfl

theorem State.snapshotPublished_steps (s : State) : Steps wr s (State.snapshotPublished s) := by
  unfold State.snapshotPublished
  repeat' first
    | with_reducible exact .refl _
    | with_reducible assumption
    | (extract_lets -underBinder +onlyGivenNames y; clear_value (e : y = _)
       first | (refine Steps.seq (y := y) ?_ ?_; rotate_left; (intro hy; clear e); rotate_right; subst e) | subst e)
    | with_reducible apply Steps.after (State.finish_steps ..)
    | (with_reducible apply Steps.after (Steps.foldl _ _ _ ?_); rotate_left; intro _ _)
    | (with_reducible apply Steps.ite <;> intro _)
    | fail_if_no_progress with_reducible refine Steps.upd ?_ rfl rfl rfl rfl
    | split

theorem State.mgmtClear_steps (s : State) (a : Nat) : Steps wr s (State.mgmtClear s a) := by
  unfold State.mgmtClear
  repeat' first
    | with_reducible exact .refl _
    | (with_reducible apply Steps.ite <;> intro _)
    | fail_if_no_progress with_reducible refine Steps.upd ?_ rfl rfl rfl rfl

theorem State.mgmtReads_steps (s : State) (count : Nat) : Steps wr s (State.mgmtReads s count) := by
  unfold State.mgmtReads
  repeat' first
    | with_reducible exact .refl _
    | with_reducible assumption
    | (extract_lets -underBinder +onlyGivenNames y; clear_value (e : y = _)
       first | (refine Steps.seq (y := y) ?_ ?_; rotate_left; (intro hy; clear e); rotate_right; subst e) | subst e)
    | with_reducible apply Steps.after (State.mgmtClear_steps ..)
    | (with_reducible apply Steps.after (Steps.foldl _ _ _ ?_); rotate_left; intro _ _)
    | (with_reducible apply Steps.ite <;> intro _)
    | fail_if_no_progress with_reducible refine Steps.upd ?_ rfl rfl rfl rfl

theorem State.mgmtPoints_steps (s : State) (pointer : Nat) (pecOk : Bool) : Steps wr s (State.mgmtPoints s pointer pecOk) := by
  unfold State.mgmtPoints
  repeat' first
    | with_reducible exact .refl _
    | (with_reducible apply Steps.ite <;> intro _)
    | fail_if_no_progress with_reducible refine Steps.upd ?_ rfl rfl rfl rfl

theorem State.assignAddress_steps (s : State) (address : Nat) : Steps wr s (State.assignAddress s address) := by
  unfold State.assignAddress
  exact .upd (.refl _) rfl rfl rfl rfl

theorem State.tapLoads_steps (s : State) (i : TapInstruction) : Steps wr s (State.tapLoads s i) := by
  unfold State.tapLoads
  repeat' first
    | with_reducible exact .refl _
    | (with_reducible apply Steps.ite <;> intro _)
    | fail_if_no_progress with_reducible refine Steps.upd ?_ rfl rfl rfl rfl

theorem State.dmaDone_steps (s : State) (src : Nat) (dst : Nat) (n : Nat) : Steps true s (State.dmaDone s src dst n) := by
  unfold State.dmaDone
  repeat' first
    | with_reducible exact .refl _
    | with_reducible assumption
    | (extract_lets -underBinder +onlyGivenNames y; clear_value (e : y = _)
       first | (refine Steps.seq (y := y) ?_ ?_; rotate_left; (intro hy; clear e); rotate_right; subst e) | subst e)
    | with_reducible apply Steps.after (State.modBuf_steps ..)
    | with_reducible apply Steps.after (State.signalRange_steps ..)
    | with_reducible apply Steps.after (State.writeMem_steps ..)
    | (with_reducible apply Steps.ite <;> intro _)
    | fail_if_no_progress with_reducible refine Steps.upd ?_ rfl rfl rfl rfl
    | split

/-! ### Machine/Forming.lean -/

theorem State.becomeLone_steps (s : State) : Steps wr s (State.becomeLone s) := by
  unfold State.becomeLone
  repeat' first
    | with_reducible exact .refl _
    | with_reducible assumption
    | (extract_lets -underBinder +onlyGivenNames y; clear_value (e : y = _)
       first | (refine Steps.seq (y := y) ?_ ?_; rotate_left; (intro hy; clear e); rotate_right; subst e) | subst e)
    | with_reducible apply Steps.after (State.playbillDue_steps ..)
    | with_reducible apply Steps.after (State.releaseName_steps ..)
    | (with_reducible apply Steps.after (Steps.foldl _ _ _ ?_); rotate_left; intro _ _)
    | (with_reducible apply Steps.ite <;> intro _)
    | fail_if_no_progress with_reducible refine Steps.upd ?_ rfl rfl rfl rfl

theorem State.formFails_steps (s : State) (st : Status) : Steps wr s (State.formFails s st) := by
  unfold State.formFails
  repeat' first
    | with_reducible exact .refl _
    | with_reducible apply Steps.after (State.becomeLone_steps ..)
    | with_reducible apply Steps.after (State.finish_steps ..)
    | (with_reducible apply Steps.after (Steps.foldl _ _ _ ?_); rotate_left; intro _ _)

theorem State.greet_steps (s : State) (port : Nat) : Steps wr s (State.greet s port) := by
  unfold State.greet
  repeat' first
    | with_reducible exact .refl _
    | with_reducible apply Steps.after (State.putMessage_steps ..)
    | (with_reducible apply Steps.after (Steps.foldl _ _ _ ?_); rotate_left; intro _ _)

theorem State.assignMembers_steps (s : State) : Steps wr s (State.assignMembers s) := by
  unfold State.assignMembers
  repeat' first
    | with_reducible exact .refl _
    | with_reducible assumption
    | (extract_lets -underBinder +onlyGivenNames y; clear_value (e : y = _)
       first | (refine Steps.seq (y := y) ?_ ?_; rotate_left; (intro hy; clear e); rotate_right; subst e) | subst e)
    | with_reducible apply Steps.after (State.flood_steps ..)
    | (with_reducible apply Steps.after (Steps.foldl _ _ _ ?_); rotate_left; intro _ _)
    | fail_if_no_progress with_reducible refine Steps.upd ?_ rfl rfl rfl rfl

theorem State.meet_steps (s : State) (e : Nat × Nat × Bool) : Steps wr s (State.meet s e) := by
  unfold State.meet
  repeat' first
    | with_reducible exact .refl _
    | with_reducible assumption
    | (extract_lets -underBinder +onlyGivenNames y; clear_value (e : y = _)
       first | (refine Steps.seq (y := y) ?_ ?_; rotate_left; (intro hy; clear e); rotate_right; subst e) | subst e)
    | with_reducible apply Steps.after (State.assignMembers_steps ..)
    | with_reducible apply Steps.after (State.formFails_steps ..)
    | (with_reducible apply Steps.ite <;> intro _)
    | fail_if_no_progress with_reducible refine Steps.upd ?_ rfl rfl rfl rfl
    | split

theorem State.beginForming_steps (s : State) (members : Nat) (issued : Bool) : Steps wr s (State.beginForming s members issued) := by
  unfold State.beginForming
  repeat' first
    | with_reducible exact .refl _
    | with_reducible assumption
    | (extract_lets -underBinder +onlyGivenNames y; clear_value (e : y = _)
       first | (refine Steps.seq (y := y) ?_ ?_; rotate_left; (intro hy; clear e); rotate_right; subst e) | subst e)
    | with_reducible apply Steps.after (State.flood_steps ..)
    | with_reducible apply Steps.after (State.meet_steps ..)
    | fail_if_no_progress with_reducible refine Steps.upd ?_ rfl rfl rfl rfl

theorem cascadeFormCmd_good  : (cascadeFormCmd ).Good wr := by
  refine ⟨fun s p hs => ?_, fun s p id l => ?_⟩
  all_goals unfold cascadeFormCmd
  repeat' first
    | with_reducible exact Drains.refl _
    | with_reducible assumption
    | (extract_lets -underBinder +onlyGivenNames y; clear_value (e : y = _)
       first | (refine Drains.seq (y := y) ?_ ?_; rotate_left; (intro hy; clear e); rotate_right; subst e) | subst e)
    | with_reducible apply Drains.after (State.beginForming_steps ..).drains
    | with_reducible apply Drains.after (State.enablePorts_steps ..).drains
    | (with_reducible apply Drains.after (Drains.foldl _ _ _ ?_); rotate_left; intro _ _)
    | (with_reducible apply Drains.ite <;> intro _)
    | fail_if_no_progress with_reducible refine Drains.upd ?_ rfl rfl rfl rfl
    | split
    | dsimp -zeta only [Verdict.state_done, Verdict.state_wait]
    | fail_if_no_progress refine Drains.upd ?_ rfl rfl rfl rfl

theorem State.helloReceived_steps (s : State) (m : Msg) (identity : Nat) (members : Nat) (issued : Bool) :
    Steps wr s (State.helloReceived s m identity members issued) := by
  unfold State.helloReceived
  repeat' first
    | with_reducible exact .refl _
    | with_reducible assumption
    | (extract_lets -underBinder +onlyGivenNames y; clear_value (e : y = _)
       first | (refine Steps.seq (y := y) ?_ ?_; rotate_left; (intro hy; clear e); rotate_right; subst e) | subst e)
    | with_reducible apply Steps.after (State.beginForming_steps ..)
    | with_reducible apply Steps.after (State.flood_steps ..)
    | with_reducible apply Steps.after (State.greet_steps ..)
    | with_reducible apply Steps.after (State.meet_steps ..)
    | (with_reducible apply Steps.after (Steps.foldl _ _ _ ?_); rotate_left; intro _ _)
    | (with_reducible apply Steps.ite <;> intro _)
    | fail_if_no_progress with_reducible refine Steps.upd ?_ rfl rfl rfl rfl

theorem State.enterPlaying_steps (s : State) (resilient : Bool) : Steps wr s (State.enterPlaying s resilient) := by
  unfold State.enterPlaying
  repeat' first
    | with_reducible exact .refl _
    | with_reducible assumption
    | (extract_lets -underBinder +onlyGivenNames y; clear_value (e : y = _)
       first | (refine Steps.seq (y := y) ?_ ?_; rotate_left; (intro hy; clear e); rotate_right; subst e) | subst e)
    | with_reducible apply Steps.after (State.appendLog_steps ..)
    | with_reducible apply Steps.after (State.finish_steps ..)
    | with_reducible apply Steps.after (State.playbillDue_steps ..)
    | (with_reducible apply Steps.after (Steps.foldl _ _ _ ?_); rotate_left; intro _ _)
    | (with_reducible apply Steps.ite <;> intro _)
    | fail_if_no_progress with_reducible refine Steps.upd ?_ rfl rfl rfl rfl

theorem State.formComplete_steps (s : State) : Steps wr s (State.formComplete s) := by
  unfold State.formComplete
  repeat' first
    | with_reducible exact .refl _
    | with_reducible assumption
    | (extract_lets -underBinder +onlyGivenNames y; clear_value (e : y = _)
       first | (refine Steps.seq (y := y) ?_ ?_; rotate_left; (intro hy; clear e); rotate_right; subst e) | subst e)
    | with_reducible apply Steps.after (State.draw_steps ..)
    | with_reducible apply Steps.after (State.enterPlaying_steps ..)
    | with_reducible apply Steps.after (State.tellMembers_steps ..)
    | (with_reducible apply Steps.ite <;> intro _)
    | fail_if_no_progress with_reducible refine Steps.upd ?_ rfl rfl rfl rfl

theorem State.formTimeout_steps (s : State) : Steps wr s (State.formTimeout s) := by
  unfold State.formTimeout
  repeat' first
    | with_reducible exact .refl _
    | with_reducible apply Steps.after (State.formFails_steps ..)
    | (with_reducible apply Steps.ite <;> intro _)

theorem cascadeDissolveCmd_good  : (cascadeDissolveCmd ).Good wr := by
  refine ⟨fun s p hs => ?_, fun s p id l => ?_⟩
  all_goals unfold cascadeDissolveCmd
  repeat' first
    | with_reducible exact Drains.refl _
    | with_reducible assumption
    | (extract_lets -underBinder +onlyGivenNames y; clear_value (e : y = _)
       first | (refine Drains.seq (y := y) ?_ ?_; rotate_left; (intro hy; clear e); rotate_right; subst e) | subst e)
    | with_reducible apply Drains.after (State.becomeLone_steps ..).drains
    | with_reducible apply Drains.after (Verdict.ok_steps ..).drains
    | with_reducible apply Drains.after (State.tellAll_steps ..).drains
    | (with_reducible apply Drains.after (Drains.foldl _ _ _ ?_); rotate_left; intro _ _)
    | (with_reducible apply Drains.ite <;> intro _)
    | fail_if_no_progress with_reducible refine Drains.upd ?_ rfl rfl rfl rfl
    | split
    | dsimp -zeta only [Verdict.state_done, Verdict.state_wait]
    | fail_if_no_progress refine Drains.upd ?_ rfl rfl rfl rfl

theorem State.portTrained_steps (s : State) (n : Nat) (lanesOk : Bool) (peerMember : Nat) (peerPort : Nat) :
    Steps wr s (State.portTrained s n lanesOk peerMember peerPort) := by
  unfold State.portTrained
  repeat' first
    | with_reducible exact .refl _
    | with_reducible assumption
    | (extract_lets -underBinder +onlyGivenNames y; clear_value (e : y = _)
       first | (refine Steps.seq (y := y) ?_ ?_; rotate_left; (intro hy; clear e); rotate_right; subst e) | subst e)
    | with_reducible apply Steps.after (State.greet_steps ..)
    | with_reducible apply Steps.after (State.modEw_steps ..)
    | with_reducible apply Steps.after (State.portDown_steps ..)
    | with_reducible apply Steps.after (State.portMoves_steps ..)
    | (with_reducible apply Steps.ite <;> intro _)
    | fail_if_no_progress with_reducible refine Steps.upd ?_ rfl rfl rfl rfl

theorem State.steer_steps (s : State) (offset : Int) : Steps wr s (State.steer s offset) := by
  unfold State.steer
  repeat' first
    | with_reducible exact .refl _
    | with_reducible assumption
    | (extract_lets -underBinder +onlyGivenNames y; clear_value (e : y = _)
       first | (refine Steps.seq (y := y) ?_ ?_; rotate_left; (intro hy; clear e); rotate_right; subst e) | subst e)
    | with_reducible apply Steps.after (State.draw_steps ..)
    | (with_reducible apply Steps.ite <;> intro _)
    | fail_if_no_progress with_reducible refine Steps.upd ?_ rfl rfl rfl rfl

theorem State.followParent_steps (s : State) (offset : Int) : Steps wr s (State.followParent s offset) := by
  unfold State.followParent
  repeat' first
    | with_reducible exact .refl _
    | with_reducible assumption
    | (extract_lets -underBinder +onlyGivenNames y; clear_value (e : y = _)
       first | (refine Steps.seq (y := y) ?_ ?_; rotate_left; (intro hy; clear e); rotate_right; subst e) | subst e)
    | with_reducible apply Steps.after (State.send_steps ..)
    | with_reducible apply Steps.after (State.steer_steps ..)
    | (with_reducible apply Steps.ite <;> intro _)
    | fail_if_no_progress with_reducible refine Steps.upd ?_ rfl rfl rfl rfl

theorem State.linkFlit_steps (s : State) (n : Nat) (t1 : Nat) (echo : Nat) (t4 : Nat) (member : Nat) (peerPort : Nat) :
    Steps wr s (State.linkFlit s n t1 echo t4 member peerPort) := by
  unfold State.linkFlit
  repeat' first
    | with_reducible exact .refl _
    | with_reducible assumption
    | (extract_lets -underBinder +onlyGivenNames y; clear_value (e : y = _)
       first | (refine Steps.seq (y := y) ?_ ?_; rotate_left; (intro hy; clear e); rotate_right; subst e) | subst e)
    | with_reducible apply Steps.after (State.followParent_steps ..)
    | with_reducible apply Steps.after (State.formComplete_steps ..)
    | with_reducible apply Steps.after (State.modEw_steps ..)
    | (with_reducible apply Steps.ite <;> intro _)
    | fail_if_no_progress with_reducible refine Steps.upd ?_ rfl rfl rfl rfl

theorem linkTestCmd_good  : (linkTestCmd ).Good wr := by
  refine ⟨fun s p hs => ?_, fun s p id l => ?_⟩
  all_goals unfold linkTestCmd
  repeat' first
    | with_reducible exact Drains.refl _
    | with_reducible assumption
    | (extract_lets -underBinder +onlyGivenNames y; clear_value (e : y = _)
       first | (refine Drains.seq (y := y) ?_ ?_; rotate_left; (intro hy; clear e); rotate_right; subst e) | subst e)
    | (with_reducible apply Drains.after (Drains.foldl _ _ _ ?_); rotate_left; intro _ _)
    | (with_reducible apply Drains.ite <;> intro _)
    | fail_if_no_progress with_reducible refine Drains.upd ?_ rfl rfl rfl rfl
    | split
    | dsimp -zeta only [Verdict.state_done, Verdict.state_wait]
    | fail_if_no_progress refine Drains.upd ?_ rfl rfl rfl rfl

theorem State.linkTested_steps (s : State) (id : Nat) (corrected : Nat) (uncorrectable : Nat) :
    Steps wr s (State.linkTested s id corrected uncorrectable) := by
  unfold State.linkTested
  repeat' first
    | with_reducible exact .refl _
    | with_reducible apply Steps.after (State.finish_steps ..)
    | (with_reducible apply Steps.ite <;> intro _)
    | fail_if_no_progress with_reducible refine Steps.upd ?_ rfl rfl rfl rfl
    | split

/-! ### Machine/Tiling.lean -/

/-! ### Machine/Casts.lean -/

theorem State.allocPieces_steps {s : State} {g writer : Nat} {l : List Nat} {a_ : List Nat} {t_ : State} (h_ :
    s.allocPieces g writer l = some (a_, t_)) : Steps wr s t_ := by
  induction l generalizing s a_ t_ with
  | nil => cases h_; exact .refl _
  | cons n l ih =>
    unfold State.allocPieces at h_
    split at h_
    · cases h_
    · split at h_
      · cases h_
      · rename_i ha _ r hr
        cases h_
        exact ((State.alloc_got_steps ha).trans (State.setWriter_steps ..)).trans (ih hr)

theorem State.fillPieces_steps (s : State) (l : List Nat) (bs : List Byte) : Steps true s (s.fillPieces l bs) := by
  induction l generalizing s bs with
  | nil => exact .refl _
  | cons r l ih => exact (State.writeMem_steps ..).trans (ih _ _)

theorem State.castArrived_steps (s : State) (p : Packet) (buffers : List Nat) (bs : List Byte) :
    Steps true s (State.castArrived s p buffers bs).state := by
  unfold State.castArrived
  repeat' first
    | with_reducible exact Steps.refl _
    | with_reducible assumption
    | (extract_lets -underBinder +onlyGivenNames y; clear_value (e : y = _)
       first | (refine Steps.seq (y := y) ?_ ?_; rotate_left; (intro hy; clear e); rotate_right; subst e) | subst e)
    | with_reducible apply Steps.after (State.appendLog_steps ..)
    | with_reducible apply Steps.after (State.fillPieces_steps ..)
    | with_reducible apply Steps.after (State.modBuf_steps ..)
    | with_reducible apply Steps.after (Verdict.ok_steps ..)
    | with_reducible apply Steps.after (Verdict.okResult_steps ..)
    | with_reducible apply Steps.after (State.releaseName_steps ..)
    | with_reducible apply Steps.after (State.take_steps ..)
    | with_reducible apply Steps.after (State.tellMembers_steps ..)
    | (with_reducible apply Steps.after (Steps.foldl _ _ _ ?_); rotate_left; intro _ _)
    | (with_reducible apply Steps.ite <;> intro _)
    | fail_if_no_progress with_reducible refine Steps.upd ?_ rfl rfl rfl rfl
    | split
    | dsimp -zeta only [Verdict.state_done, Verdict.state_wait]
    | fail_if_no_progress refine Steps.upd ?_ rfl rfl rfl rfl

theorem castLoadCmd_good  : (castLoadCmd ).Good wr := by
  refine ⟨fun s p hs => ?_, fun s p id l => ?_⟩
  all_goals unfold castLoadCmd
  repeat' first
    | with_reducible exact Drains.refl _
    | with_reducible assumption
    | (extract_lets -underBinder +onlyGivenNames y; clear_value (e : y = _)
       first | (refine Drains.seq (y := y) ?_ ?_; rotate_left; (intro hy; clear e); rotate_right; subst e) | subst e)
    | with_reducible refine Drains.after (State.allocPieces_steps ‹_›).drains ?_
    | with_reducible apply Drains.after (State.castArrived_steps ..).drains
    | with_reducible apply Drains.after (Verdict.ok_steps ..).drains
    | with_reducible apply Drains.after (Verdict.refuse_steps ..).drains
    | (with_reducible apply Drains.after (Drains.foldl _ _ _ ?_); rotate_left; intro _ _)
    | (with_reducible apply Drains.ite <;> intro _)
    | fail_if_no_progress with_reducible refine Drains.upd ?_ rfl rfl rfl rfl
    | split
    | dsimp -zeta only [Verdict.state_done, Verdict.state_wait]
    | fail_if_no_progress refine Drains.upd ?_ rfl rfl rfl rfl

theorem castUnloadCmd_good  : (castUnloadCmd ).Good wr := by
  refine ⟨fun s p hs => ?_, fun s p id l => ?_⟩
  all_goals unfold castUnloadCmd
  repeat' first
    | with_reducible exact Drains.refl _
    | with_reducible assumption
    | (extract_lets -underBinder +onlyGivenNames y; clear_value (e : y = _)
       first | (refine Drains.seq (y := y) ?_ ?_; rotate_left; (intro hy; clear e); rotate_right; subst e) | subst e)
    | with_reducible apply Drains.after (Verdict.ok_steps ..).drains
    | with_reducible apply Drains.after (Verdict.refuse_steps ..).drains
    | with_reducible apply Drains.after (State.releaseName_steps ..).drains
    | (with_reducible apply Drains.after (Drains.foldl _ _ _ ?_); rotate_left; intro _ _)
    | (with_reducible apply Drains.ite <;> intro _)
    | fail_if_no_progress with_reducible refine Drains.upd ?_ rfl rfl rfl rfl
    | split
    | dsimp -zeta only [Verdict.state_done, Verdict.state_wait]
    | fail_if_no_progress refine Drains.upd ?_ rfl rfl rfl rfl

theorem scriptLoadCmd_good  : (scriptLoadCmd ).Good wr := by
  refine ⟨fun s p hs => ?_, fun s p id l => ?_⟩
  all_goals unfold scriptLoadCmd
  repeat' first
    | with_reducible exact Drains.refl _
    | with_reducible assumption
    | (extract_lets -underBinder +onlyGivenNames y; clear_value (e : y = _)
       first | (refine Drains.seq (y := y) ?_ ?_; rotate_left; (intro hy; clear e); rotate_right; subst e) | subst e)
    | with_reducible apply Drains.after (Verdict.okResult_steps ..).drains
    | with_reducible apply Drains.after (readHost_steps ..).drains
    | with_reducible apply Drains.after (Verdict.refuse_steps ..).drains
    | (with_reducible apply Drains.after (Drains.foldl _ _ _ ?_); rotate_left; intro _ _)
    | (with_reducible apply Drains.ite <;> intro _)
    | fail_if_no_progress with_reducible refine Drains.upd ?_ rfl rfl rfl rfl
    | split
    | dsimp -zeta only [Verdict.state_done, Verdict.state_wait]
    | fail_if_no_progress refine Drains.upd ?_ rfl rfl rfl rfl

theorem scriptUnloadCmd_good  : (scriptUnloadCmd ).Good wr := by
  refine ⟨fun s p hs => ?_, fun s p id l => ?_⟩
  all_goals unfold scriptUnloadCmd
  repeat' first
    | with_reducible exact Drains.refl _
    | with_reducible assumption
    | (extract_lets -underBinder +onlyGivenNames y; clear_value (e : y = _)
       first | (refine Drains.seq (y := y) ?_ ?_; rotate_left; (intro hy; clear e); rotate_right; subst e) | subst e)
    | with_reducible apply Drains.after (Verdict.ok_steps ..).drains
    | (with_reducible apply Drains.after (Drains.foldl _ _ _ ?_); rotate_left; intro _ _)
    | (with_reducible apply Drains.ite <;> intro _)
    | fail_if_no_progress with_reducible refine Drains.upd ?_ rfl rfl rfl rfl
    | split
    | dsimp -zeta only [Verdict.state_done, Verdict.state_wait]
    | fail_if_no_progress refine Drains.upd ?_ rfl rfl rfl rfl

/-! ### Machine/Plan.lean -/

theorem State.prepareSlots_steps (s : State) (k : Nat) (slots : List Nat) : Steps wr s (State.prepareSlots s k slots) := by
  unfold State.prepareSlots
  repeat' first
    | with_reducible exact .refl _
    | with_reducible apply Steps.after (State.clearSlot_steps ..)
    | (with_reducible apply Steps.after (Steps.foldl _ _ _ ?_); rotate_left; intro _ _)
    | (with_reducible apply Steps.ite <;> intro _)

theorem State.flushAnswer_steps (s : State) (k : Nat) (ws : List ArrayWord) : Steps wr s (State.flushAnswer s k ws).2 := by
  unfold State.flushAnswer
  repeat' first
    | with_reducible exact .refl _
    | with_reducible assumption
    | (extract_lets -underBinder +onlyGivenNames y; clear_value (e : y = _)
       first | (refine Steps.seq (y := y) ?_ ?_; rotate_left; (intro hy; clear e); rotate_right; subst e) | subst e)
    | with_reducible apply Steps.after (State.modSample_steps ..)
    | with_reducible apply Steps.after (State.widen_steps ..)
    | (with_reducible apply Steps.ite <;> intro _)
    | fail_if_no_progress with_reducible refine Steps.upd ?_ rfl rfl rfl rfl
    | split

theorem State.slotArrays_steps (s : State) (k : Nat) (a : Nat) (part : Nat) (words : List Word256) :
    Steps wr s (State.slotArrays s k a part words) := by
  unfold State.slotArrays
  repeat' first
    | with_reducible exact .refl _
    | with_reducible assumption
    | (extract_lets -underBinder +onlyGivenNames y; clear_value (e : y = _)
       first | (refine Steps.seq (y := y) ?_ ?_; rotate_left; (intro hy; clear e); rotate_right; subst e) | subst e)
    | with_reducible apply Steps.after (State.flushAnswer_steps ..)
    | with_reducible apply Steps.after (State.prepareSlots_steps ..)
    | with_reducible apply Steps.after (State.queueArray_steps ..)
    | (with_reducible apply Steps.after (Steps.foldl _ _ _ ?_); rotate_left; intro _ _)
    | (with_reducible apply Steps.ite <;> intro _)
    | fail_if_no_progress with_reducible refine Steps.upd ?_ rfl rfl rfl rfl

theorem State.slotVectors_steps (s : State) (k : Nat) (e : Nat) (part : Nat) (descriptor : Bool) (vl : Nat) (words : List (BitVec 128)) :
    Steps wr s (State.slotVectors s k e part descriptor vl words) := by
  unfold State.slotVectors
  repeat' first
    | with_reducible exact .refl _
    | with_reducible apply Steps.after (State.loadDeck_steps ..)
    | with_reducible apply Steps.after (State.queueVec_steps ..)
    | (with_reducible apply Steps.after (Steps.foldl _ _ _ ?_); rotate_left; intro _ _)
    | (with_reducible apply Steps.ite <;> intro _)

theorem State.slotSamplers_steps (s : State) (k : Nat) (b : Nat) (words : List Word256) : Steps wr s (State.slotSamplers s k b words) := by
  unfold State.slotSamplers
  repeat' first
    | with_reducible exact .refl _
    | with_reducible apply Steps.after (State.loadDeck_steps ..)
    | with_reducible apply Steps.after (State.queueSamp_steps ..)
    | (with_reducible apply Steps.after (Steps.foldl _ _ _ ?_); rotate_left; intro _ _)
    | (with_reducible apply Steps.ite <;> intro _)

theorem State.slotRecords_steps (s : State) (k : Nat) (sources : List RecordSource) : Steps wr s (State.slotRecords s k sources) := by
  unfold State.slotRecords
  repeat' first
    | with_reducible exact .refl _
    | with_reducible apply Steps.after (State.modSample_steps ..)
    | (with_reducible apply Steps.ite <;> intro _)
    | fail_if_no_progress with_reducible refine Steps.upd ?_ rfl rfl rfl rfl

theorem State.planSlot_steps (s : State) (k : Nat) (shapes : List LayerShape) (needs : List (Nat × Nat × Nat)) (work : SlotWork) :
    Steps true s (State.planSlot s k shapes needs work) := by
  unfold State.planSlot
  repeat' first
    | with_reducible exact .refl _
    | with_reducible apply Steps.after (State.endChain_steps ..)
    | with_reducible apply Steps.after (State.slotArrays_steps ..)
    | with_reducible apply Steps.after (State.slotHandoff_steps ..)
    | with_reducible apply Steps.after (State.slotRecords_steps ..)
    | with_reducible apply Steps.after (State.slotSamplers_steps ..)
    | with_reducible apply Steps.after (State.slotVectors_steps ..)
    | (with_reducible apply Steps.ite <;> intro _)
    | fail_if_no_progress with_reducible refine Steps.upd ?_ rfl rfl rfl rfl
    | split

end Sys2Proof.Machine
end

