-- ==== Sys2Proof/Laws/StepsCodec.lean ====
section
/-! SUPPORT. What each operation of the codec cores, ingest and preprocessing can do to the queue, to memory and to the
device state (`Steps` and its kin), said once for each; a proof about a step cites these and unfolds nothing. -/

set_option linter.all false

namespace Sys2Proof.Machine

open Sys2Proof

/-! ### Machine/Codec.lean -/

theorem decodeConfigureCmd_good  : (decodeConfigureCmd ).Good wr := by
  refine ⟨fun s p hs => ?_, fun s p id l => ?_⟩
  all_goals unfold decodeConfigureCmd
  repeat' first
    | with_reducible exact Drains.refl _
    | with_reducible assumption
    | (extract_lets -underBinder +onlyGivenNames y; clear_value (e : y = _)
       first | (refine Drains.seq (y := y) ?_ ?_; rotate_left; (intro hy; clear e); rotate_right; subst e) | subst e)
    | with_reducible apply Drains.after (State.modStream_steps ..).drains
    | with_reducible apply Drains.after (Verdict.ok_steps ..).drains
    | (with_reducible apply Drains.after (Drains.foldl _ _ _ ?_); rotate_left; intro _ _)
    | (with_reducible apply Drains.ite <;> intro _)
    | fail_if_no_progress with_reducible refine Drains.upd ?_ rfl rfl rfl rfl
    | split
    | dsimp -zeta only [Verdict.state_done, Verdict.state_wait]
    | fail_if_no_progress refine Drains.upd ?_ rfl rfl rfl rfl

theorem decodeRefreshCmd_good  : (decodeRefreshCmd ).Good wr := by
  refine ⟨fun s p hs => ?_, fun s p id l => ?_⟩
  all_goals unfold decodeRefreshCmd
  repeat' first
    | with_reducible exact Drains.refl _
    | with_reducible assumption
    | (extract_lets -underBinder +onlyGivenNames y; clear_value (e : y = _)
       first | (refine Drains.seq (y := y) ?_ ?_; rotate_left; (intro hy; clear e); rotate_right; subst e) | subst e)
    | with_reducible apply Drains.after (State.freeFrames_steps ..).drains
    | with_reducible apply Drains.after (State.modStream_steps ..).drains
    | with_reducible apply Drains.after (Verdict.ok_steps ..).drains
    | (with_reducible apply Drains.after (Drains.foldl _ _ _ ?_); rotate_left; intro _ _)
    | (with_reducible apply Drains.ite <;> intro _)
    | fail_if_no_progress with_reducible refine Drains.upd ?_ rfl rfl rfl rfl
    | split
    | dsimp -zeta only [Verdict.state_done, Verdict.state_wait]
    | fail_if_no_progress refine Drains.upd ?_ rfl rfl rfl rfl

theorem codecTestCmd_good  : (codecTestCmd ).Good wr := by
  refine ⟨fun s p hs => ?_, fun s p id l => ?_⟩
  all_goals unfold codecTestCmd
  repeat' first
    | with_reducible exact Drains.refl _
    | with_reducible assumption
    | (extract_lets -underBinder +onlyGivenNames y; clear_value (e : y = _)
       first | (refine Drains.seq (y := y) ?_ ?_; rotate_left; (intro hy; clear e); rotate_right; subst e) | subst e)
    | (with_reducible apply Drains.after (Drains.foldl _ _ _ ?_); rotate_left; intro _ _)
    | (with_reducible apply Drains.ite <;> intro _)
    | fail_if_no_progress with_reducible refine Drains.upd ?_ rfl rfl rfl rfl
    | split
    | dsimp -zeta only [Verdict.state_done, Verdict.state_wait]
    | fail_if_no_progress refine Drains.upd ?_ rfl rfl rfl rfl

theorem State.codecError_steps (s : State) (c : Nat) (stream : Nat) (cause : Nat) : Steps wr s (State.codecError s c stream cause) := by
  unfold State.codecError
  repeat' first
    | with_reducible exact .refl _
    | with_reducible apply Steps.after (State.modCodec_steps ..)
    | fail_if_no_progress with_reducible refine Steps.upd ?_ rfl rfl rfl rfl

theorem State.allocFrame_steps {s : State} {g : Nat} {pool : Option Nat} {l : List Nat} {a_ : List Nat} {t_ : State} (h_ :
    s.allocFrame g pool l = some (a_, t_)) : Steps wr s t_ := by
  induction l generalizing s a_ t_ with
  | nil => cases h_; exact .refl _
  | cons n l ih =>
    unfold State.allocFrame at h_
    split at h_
    · cases h_
    · rename_i ha
      simp only [Option.map_eq_some_iff] at h_
      obtain ⟨r, hr, e⟩ := h_
      cases e
      exact (State.alloc_got_steps ha).trans (ih hr)

theorem State.keepFrames_steps {s : State} {g : Nat} {cfg : DecodeCfg} {sizes : List Nat} {room : Nat} {l : List KeptFrame} {a_ :
    List FrameBuf} {b_ : Option Nat} {c_ : Nat} {t_ : State} (h_ : s.keepFrames g cfg sizes room l = some (a_, b_, c_, t_)) :
    Steps wr s t_ := by
  induction l generalizing s room a_ b_ c_ t_ with
  | nil => cases h_; exact .refl _
  | cons f l ih =>
    unfold State.keepFrames at h_
    split at h_
    · exact ih h_
    · split at h_
      · simp only [Option.map_eq_some_iff] at h_
        obtain ⟨r, hr, e⟩ := h_
        cases e
        exact ih hr
      · split at h_
        · cases h_
        · rename_i ha
          simp only [Option.map_eq_some_iff] at h_
          obtain ⟨r, hr, e⟩ := h_
          cases e
          exact (State.allocFrame_steps ha).trans (ih hr)

theorem State.checkpointsFor_steps {s : State} {n : Nat} {st : Stream} {t_ : State} (h_ : s.checkpointsFor n st = some t_) :
    Steps wr s t_ := by
  unfold State.checkpointsFor at h_
  split at h_
  · cases h_; exact .refl _
  · simp only [Option.map_eq_some_iff] at h_
    obtain ⟨r, hr, rfl⟩ := h_
    exact (State.allocFrame_steps hr).trans (State.modStream_steps ..)

theorem State.addShown_steps (s : State) (n : Nat) (m : Sample) (j : Nat) : Steps wr s (s.addShown n m j).2 := by
  induction j generalizing s with
  | zero => exact .refl _
  | succ j ih =>
    unfold State.addShown
    extract_lets id a b planned most r
    have hb : Steps wr s b := (State.addSample_steps ..).trans (State.modSample_steps ..)
    split
    · exact hb.trans ((State.planSample_steps ..).trans (ih _))
    · exact hb.trans ((State.excess_steps ..).trans (ih _))

theorem State.openAu_steps {s : State} {c k n : Nat} {m : Sample} {st : Stream} {f : AuFacts} {t_ : State} (h_ :
    s.openAu c k n m st f = some t_) : Steps wr s t_ := by
  unfold State.openAu at h_
  extract_lets sizes refs marked held at h_
  simp only [Option.bind_eq_some_iff, Option.map_eq_some_iff] at h_
  obtain ⟨t, ht, r, hr, rfl⟩ := h_
  exact (State.checkpointsFor_steps ht).trans <| (State.keepFrames_steps hr).trans <| (State.modStream_steps ..).trans <|
    (State.freeFrames_steps ..).trans <| (State.modSample_steps ..).trans <| (State.addShown_steps ..).trans (State.modCodec_steps ..)

theorem State.decodeStart_steps (s : State) (c k : Nat) (f : AuFacts) : Steps wr s (s.decodeStart c k f) := by
  unfold State.decodeStart
  split
  · exact .refl _
  · split
    · exact .refl _
    · extract_lets +onlyGivenNames cluster
      split
      · exact .refl _
      · extract_lets -underBinder +onlyGivenNames take
        have ht : Steps wr s take := State.modSample_steps ..
        split
        · exact ht.trans ((State.modCodec_steps ..).trans ((State.codecError_steps ..).trans (State.markCorrupt_steps ..)))
        · exact ht.trans ((State.modCodec_steps ..).trans ((State.codecError_steps ..).trans (State.markCorrupt_steps ..)))
        · exact ht.trans (State.markCorrupt_steps ..)
        · rename_i m _ _ st _ _ _ _
          cases ho : s.openAu c k m.stream m st f with
          | none => exact .refl _
          | some t => exact State.openAu_steps ho

theorem State.putRows_steps (s : State) (base width : Nat) (l : List (List Byte)) : Steps true s (s.putRows base width l) := by
  induction l generalizing s base with
  | nil => exact .refl _
  | cons r l ih => exact (State.writeMem_steps ..).trans (ih _ _)

theorem State.putStrip_steps (s : State) (name : Nat) (w : Nat) (h : Nat) (b : Nat) (h0 : Nat) (j : Nat) (frame : Option (List Nat)) :
    Steps true s (State.putStrip s name w h b h0 j frame) := by
  unfold State.putStrip
  repeat' first
    | with_reducible exact .refl _
    | with_reducible assumption
    | (extract_lets -underBinder +onlyGivenNames y; clear_value (e : y = _)
       first | (refine Steps.seq (y := y) ?_ ?_; rotate_left; (intro hy; clear e); rotate_right; subst e) | subst e)
    | with_reducible apply Steps.after (State.draw_steps ..)
    | with_reducible apply Steps.after (State.putRows_steps ..)
    | with_reducible apply Steps.after (State.take_steps ..)
    | with_reducible apply Steps.after (State.writeMem_steps ..)
    | (with_reducible apply Steps.ite <;> intro _)
    | fail_if_no_progress with_reducible refine Steps.upd ?_ rfl rfl rfl rfl
    | split

theorem State.putCheckpoint_steps (s : State) (st : Stream) (w : Nat) (b : Nat) (j : Nat) :
    Steps true s (State.putCheckpoint s st w b j) := by
  unfold State.putCheckpoint
  repeat' first
    | with_reducible exact .refl _
    | with_reducible assumption
    | (extract_lets -underBinder +onlyGivenNames y; clear_value (e : y = _)
       first | (refine Steps.seq (y := y) ?_ ?_; rotate_left; (intro hy; clear e); rotate_right; subst e) | subst e)
    | with_reducible apply Steps.after (State.draw_steps ..)
    | with_reducible apply Steps.after (State.writeMem_steps ..)
    | fail_if_no_progress with_reducible refine Steps.upd ?_ rfl rfl rfl rfl
    | split

theorem State.signalStrip_steps (s : State) (k : Nat) (name : Nat) (rows : Nat) : Steps wr s (State.signalStrip s k name rows) := by
  unfold State.signalStrip
  repeat' first
    | with_reducible exact .refl _
    | with_reducible assumption
    | (extract_lets -underBinder +onlyGivenNames y; clear_value (e : y = _)
       first | (refine Steps.seq (y := y) ?_ ?_; rotate_left; (intro hy; clear e); rotate_right; subst e) | subst e)
    | with_reducible apply Steps.after (State.modBuf_steps ..)
    | with_reducible apply Steps.after (State.modSample_steps ..)
    | fail_if_no_progress with_reducible refine Steps.upd ?_ rfl rfl rfl rfl
    | split

theorem State.frameDone_steps (s : State) (c : Nat) (st : Stream) (n : Nat) (j : DecodeJob) : Steps wr s (State.frameDone s c st n j) := by
  unfold State.frameDone
  repeat' first
    | with_reducible exact .refl _
    | with_reducible assumption
    | (extract_lets -underBinder +onlyGivenNames y; clear_value (e : y = _)
       first | (refine Steps.seq (y := y) ?_ ?_; rotate_left; (intro hy; clear e); rotate_right; subst e) | subst e)
    | with_reducible apply Steps.after (State.markCorrupt_steps ..)
    | with_reducible apply Steps.after (State.modCodec_steps ..)
    | with_reducible apply Steps.after (State.modSample_steps ..)
    | with_reducible apply Steps.after (State.modStream_steps ..)
    | (with_reducible apply Steps.ite <;> intro _)
    | fail_if_no_progress with_reducible refine Steps.upd ?_ rfl rfl rfl rfl
    | split

theorem State.stripDone_steps (s : State) (c : Nat) (concealed : Nat) (cause : ConcealCause) (name : Nat) :
    Steps true s (State.stripDone s c concealed cause name) := by
  unfold State.stripDone
  repeat' first
    | with_reducible exact .refl _
    | with_reducible assumption
    | (extract_lets -underBinder +onlyGivenNames y; clear_value (e : y = _)
       first | (refine Steps.seq (y := y) ?_ ?_; rotate_left; (intro hy; clear e); rotate_right; subst e) | subst e)
    | with_reducible apply Steps.after (State.codecError_steps ..)
    | with_reducible apply Steps.after (State.dropStrip_steps ..)
    | with_reducible apply Steps.after (State.frameDone_steps ..)
    | with_reducible apply Steps.after (State.modCodec_steps ..)
    | with_reducible apply Steps.after (State.modStream_steps ..)
    | with_reducible apply Steps.after (State.putCheckpoint_steps ..)
    | with_reducible apply Steps.after (State.putStrip_steps ..)
    | with_reducible apply Steps.after (State.signalStrip_steps ..)
    | (with_reducible apply Steps.ite <;> intro _)
    | fail_if_no_progress with_reducible refine Steps.upd ?_ rfl rfl rfl rfl
    | split

theorem State.stripRebuild_steps (s : State) (c : Nat) (strip : Nat) : Steps wr s (State.stripRebuild s c strip) := by
  unfold State.stripRebuild
  repeat' first
    | with_reducible exact .refl _
    | with_reducible assumption
    | (extract_lets -underBinder +onlyGivenNames y; clear_value (e : y = _)
       first | (refine Steps.seq (y := y) ?_ ?_; rotate_left; (intro hy; clear e); rotate_right; subst e) | subst e)
    | with_reducible apply Steps.after (State.enterFaulted_steps ..)
    | with_reducible apply Steps.after (State.modCodec_steps ..)
    | with_reducible apply Steps.after (State.repeatUnit_steps ..)
    | (with_reducible apply Steps.ite <;> intro _)
    | fail_if_no_progress with_reducible refine Steps.upd ?_ rfl rfl rfl rfl
    | split

theorem encodeConfigured_steps (s : State) (bs : List Byte) : Steps wr s (encodeConfigured s bs).state := by
  unfold encodeConfigured
  repeat' first
    | with_reducible exact .refl _
    | with_reducible assumption
    | (extract_lets -underBinder +onlyGivenNames y; clear_value (e : y = _)
       first | (refine Steps.seq (y := y) ?_ ?_; rotate_left; (intro hy; clear e); rotate_right; subst e) | subst e)
    | with_reducible apply Steps.after (State.draw_steps ..)
    | with_reducible apply Steps.after (State.modStream_steps ..)
    | with_reducible apply Steps.after (Verdict.ok_steps ..)
    | with_reducible apply Steps.after (Verdict.refuse_steps ..)
    | (with_reducible apply Steps.ite <;> intro _)
    | fail_if_no_progress with_reducible refine Steps.upd ?_ rfl rfl rfl rfl
    | split

theorem encodeConfigureCmd_good  : (encodeConfigureCmd ).Good wr := by
  refine ⟨fun s p hs => ?_, fun s p id l => ?_⟩
  all_goals unfold encodeConfigureCmd
  repeat' first
    | with_reducible exact Drains.refl _
    | with_reducible assumption
    | (extract_lets -underBinder +onlyGivenNames y; clear_value (e : y = _)
       first | (refine Drains.seq (y := y) ?_ ?_; rotate_left; (intro hy; clear e); rotate_right; subst e) | subst e)
    | (with_reducible apply Drains.after (Drains.foldl _ _ _ ?_); rotate_left; intro _ _)
    | (with_reducible apply Drains.ite <;> intro _)
    | fail_if_no_progress with_reducible refine Drains.upd ?_ rfl rfl rfl rfl
    | split
    | dsimp -zeta only [Verdict.state_done, Verdict.state_wait]
    | fail_if_no_progress refine Drains.upd ?_ rfl rfl rfl rfl

theorem encodeBlockCmd_good (bs : List Byte) : (encodeBlockCmd bs).Good wr := by
  refine ⟨fun s p hs => ?_, fun s p id l => ?_⟩
  all_goals unfold encodeBlockCmd
  repeat' first
    | with_reducible exact Drains.refl _
    | with_reducible assumption
    | (extract_lets -underBinder +onlyGivenNames y; clear_value (e : y = _)
       first | (refine Drains.seq (y := y) ?_ ?_; rotate_left; (intro hy; clear e); rotate_right; subst e) | subst e)
    | with_reducible apply Drains.after (encodeConfigured_steps ..).drains
    | (with_reducible apply Drains.after (Drains.foldl _ _ _ ?_); rotate_left; intro _ _)
    | (with_reducible apply Drains.ite <;> intro _)
    | fail_if_no_progress with_reducible refine Drains.upd ?_ rfl rfl rfl rfl
    | split
    | dsimp -zeta only [Verdict.state_done, Verdict.state_wait]
    | fail_if_no_progress refine Drains.upd ?_ rfl rfl rfl rfl

theorem encodeSetRateCmd_good  : (encodeSetRateCmd ).Good wr := by
  refine ⟨fun s p hs => ?_, fun s p id l => ?_⟩
  all_goals unfold encodeSetRateCmd
  repeat' first
    | with_reducible exact Drains.refl _
    | with_reducible assumption
    | (extract_lets -underBinder +onlyGivenNames y; clear_value (e : y = _)
       first | (refine Drains.seq (y := y) ?_ ?_; rotate_left; (intro hy; clear e); rotate_right; subst e) | subst e)
    | with_reducible apply Drains.after (State.modStream_steps ..).drains
    | with_reducible apply Drains.after (Verdict.ok_steps ..).drains
    | (with_reducible apply Drains.after (Drains.foldl _ _ _ ?_); rotate_left; intro _ _)
    | (with_reducible apply Drains.ite <;> intro _)
    | fail_if_no_progress with_reducible refine Drains.upd ?_ rfl rfl rfl rfl
    | split
    | dsimp -zeta only [Verdict.state_done, Verdict.state_wait]
    | fail_if_no_progress refine Drains.upd ?_ rfl rfl rfl rfl

theorem encodeForceIntraCmd_good  : (encodeForceIntraCmd ).Good wr := by
  refine ⟨fun s p hs => ?_, fun s p id l => ?_⟩
  all_goals unfold encodeForceIntraCmd
  repeat' first
    | with_reducible exact Drains.refl _
    | with_reducible assumption
    | (extract_lets -underBinder +onlyGivenNames y; clear_value (e : y = _)
       first | (refine Drains.seq (y := y) ?_ ?_; rotate_left; (intro hy; clear e); rotate_right; subst e) | subst e)
    | with_reducible apply Drains.after (State.modStream_steps ..).drains
    | with_reducible apply Drains.after (Verdict.ok_steps ..).drains
    | (with_reducible apply Drains.after (Drains.foldl _ _ _ ?_); rotate_left; intro _ _)
    | (with_reducible apply Drains.ite <;> intro _)
    | fail_if_no_progress with_reducible refine Drains.upd ?_ rfl rfl rfl rfl
    | split
    | dsimp -zeta only [Verdict.state_done, Verdict.state_wait]
    | fail_if_no_progress refine Drains.upd ?_ rfl rfl rfl rfl

theorem State.log6_steps (s : State) (a : Int) (b : Int) : Steps wr s (State.log6 s a b).2 := by
  unfold State.log6
  repeat' first
    | with_reducible exact Steps.refl _
    | with_reducible assumption
    | (extract_lets -underBinder +onlyGivenNames y; clear_value (e : y = _)
       first | (refine Steps.seq (y := y) ?_ ?_; rotate_left; (intro hy; clear e); rotate_right; subst e) | subst e)
    | with_reducible apply Steps.after (State.draw_steps ..)
    | (with_reducible apply Steps.after (Steps.foldl _ _ _ ?_); rotate_left; intro _ _)
    | (with_reducible apply Steps.ite <;> intro _)
    | fail_if_no_progress with_reducible refine Steps.upd ?_ rfl rfl rfl rfl
    | split
    | dsimp -zeta only [Verdict.state_done, Verdict.state_wait]
    | fail_if_no_progress refine Steps.upd ?_ rfl rfl rfl rfl

theorem State.pictureJob_steps (s : State) (st : Stream) (n : Nat) (k : Nat) (source : Nat) (crop : List Nat) (intra : Bool)
    (recovery : Bool) : Steps wr s (State.pictureJob s st n k source crop intra recovery).2 := by
  unfold State.pictureJob
  repeat' first
    | with_reducible exact .refl _
    | with_reducible assumption
    | (extract_lets -underBinder +onlyGivenNames y; clear_value (e : y = _)
       first | (refine Steps.seq (y := y) ?_ ?_; rotate_left; (intro hy; clear e); rotate_right; subst e) | subst e)
    | with_reducible apply Steps.after (State.log6_steps ..)
    | (with_reducible apply Steps.ite <;> intro _)
    | fail_if_no_progress with_reducible refine Steps.upd ?_ rfl rfl rfl rfl
    | split

theorem State.encodeStart_steps (s : State) (c : Nat) (n : Nat) (k : Nat) : Steps wr s (State.encodeStart s c n k) := by
  unfold State.encodeStart
  repeat' first
    | with_reducible exact .refl _
    | with_reducible assumption
    | (extract_lets -underBinder +onlyGivenNames y; clear_value (e : y = _)
       first | (refine Steps.seq (y := y) ?_ ?_; rotate_left; (intro hy; clear e); rotate_right; subst e) | subst e)
    | with_reducible apply Steps.after (State.addReader_steps ..)
    | with_reducible apply Steps.after (State.addSample_steps ..)
    | with_reducible refine Steps.after (State.allocFrame_steps ‹_›) ?_
    | with_reducible apply Steps.after (State.countStream_steps ..)
    | with_reducible apply Steps.after (State.modCodec_steps ..)
    | with_reducible apply Steps.after (State.modSample_steps ..)
    | with_reducible apply Steps.after (State.modStream_steps ..)
    | with_reducible apply Steps.after (State.pictureJob_steps ..)
    | (with_reducible apply Steps.after (Steps.foldl _ _ _ ?_); rotate_left; intro _ _)
    | (with_reducible apply Steps.ite <;> intro _)
    | fail_if_no_progress with_reducible refine Steps.upd ?_ rfl rfl rfl rfl
    | split

theorem State.rowQp_steps (s : State) (e : EncodeCfg) (j : EncodeJob) : Steps wr s (State.rowQp s e j).2 := by
  unfold State.rowQp
  repeat' first
    | with_reducible exact .refl _
    | with_reducible assumption
    | (extract_lets -underBinder +onlyGivenNames y; clear_value (e : y = _)
       first | (refine Steps.seq (y := y) ?_ ?_; rotate_left; (intro hy; clear e); rotate_right; subst e) | subst e)
    | with_reducible apply Steps.after (State.log6_steps ..)
    | with_reducible apply Steps.after (State.take_steps ..)
    | (with_reducible apply Steps.ite <;> intro _)
    | fail_if_no_progress with_reducible refine Steps.upd ?_ rfl rfl rfl rfl

theorem State.encodeRow_steps (s : State) (c : Nat) (bits : Nat) (bytes : Nat) (bound : Nat) :
    Steps wr s (State.encodeRow s c bits bytes bound) := by
  unfold State.encodeRow
  repeat' first
    | with_reducible exact .refl _
    | with_reducible assumption
    | (extract_lets -underBinder +onlyGivenNames y; clear_value (e : y = _)
       first | (refine Steps.seq (y := y) ?_ ?_; rotate_left; (intro hy; clear e); rotate_right; subst e) | subst e)
    | with_reducible apply Steps.after (State.modCodec_steps ..)
    | with_reducible apply Steps.after (State.rowQp_steps ..)
    | (with_reducible apply Steps.ite <;> intro _)
    | fail_if_no_progress with_reducible refine Steps.upd ?_ rfl rfl rfl rfl
    | split

theorem State.keepRecon_steps (s : State) (n : Nat) (k : Nat) (references : Nat) : Steps true s (State.keepRecon s n k references) := by
  unfold State.keepRecon
  repeat' first
    | with_reducible exact .refl _
    | with_reducible assumption
    | (extract_lets -underBinder +onlyGivenNames y; clear_value (e : y = _)
       first | (refine Steps.seq (y := y) ?_ ?_; rotate_left; (intro hy; clear e); rotate_right; subst e) | subst e)
    | with_reducible apply Steps.after (State.draw_steps ..)
    | with_reducible apply Steps.after (State.freeName_steps ..)
    | with_reducible apply Steps.after (State.modSample_steps ..)
    | with_reducible apply Steps.after (State.modStream_steps ..)
    | with_reducible apply Steps.after (State.take_steps ..)
    | with_reducible apply Steps.after (State.writeMem_steps ..)
    | (with_reducible apply Steps.after (Steps.foldl _ _ _ ?_); rotate_left; intro _ _)
    | fail_if_no_progress with_reducible refine Steps.upd ?_ rfl rfl rfl rfl
    | split

theorem State.encodeEnd_steps (s : State) (c : Nat) : Steps true s (State.encodeEnd s c) := by
  unfold State.encodeEnd
  repeat' first
    | with_reducible exact .refl _
    | with_reducible assumption
    | (extract_lets -underBinder +onlyGivenNames y; clear_value (e : y = _)
       first | (refine Steps.seq (y := y) ?_ ?_; rotate_left; (intro hy; clear e); rotate_right; subst e) | subst e)
    | with_reducible apply Steps.after (State.draw_steps ..)
    | with_reducible apply Steps.after (State.excess_steps ..)
    | with_reducible apply Steps.after (State.finish_steps ..)
    | with_reducible apply Steps.after (State.keepRecon_steps ..)
    | with_reducible apply Steps.after (State.modCodec_steps ..)
    | with_reducible apply Steps.after (State.modSample_steps ..)
    | with_reducible apply Steps.after (State.modStream_steps ..)
    | with_reducible apply Steps.after (State.pauseStream_steps ..)
    | with_reducible apply Steps.after (State.wakeLink_steps ..)
    | (with_reducible apply Steps.ite <;> intro _)
    | fail_if_no_progress with_reducible refine Steps.upd ?_ rfl rfl rfl rfl
    | split

theorem State.reencode_steps (s : State) (c : Nat) (referenceLost : Bool) : Steps wr s (State.reencode s c referenceLost) := by
  unfold State.reencode
  repeat' first
    | with_reducible exact .refl _
    | with_reducible assumption
    | (extract_lets -underBinder +onlyGivenNames y; clear_value (e : y = _)
       first | (refine Steps.seq (y := y) ?_ ?_; rotate_left; (intro hy; clear e); rotate_right; subst e) | subst e)
    | with_reducible apply Steps.after (State.enterFaulted_steps ..)
    | with_reducible apply Steps.after (State.modCodec_steps ..)
    | with_reducible apply Steps.after (State.pictureJob_steps ..)
    | with_reducible apply Steps.after (State.repeatUnit_steps ..)
    | (with_reducible apply Steps.ite <;> intro _)
    | fail_if_no_progress with_reducible refine Steps.upd ?_ rfl rfl rfl rfl
    | split

/-! ### Machine/Ingest.lean -/

theorem State.modPort_steps (s : State) (p : Nat) (f : Csi2Port → Csi2Port) : Steps wr s (State.modPort s p f) := by
  unfold State.modPort
  exact .upd (.refl _) rfl rfl rfl rfl

theorem csi2PortSetCmd_good  : (csi2PortSetCmd ).Good wr := by
  refine ⟨fun s p hs => ?_, fun s p id l => ?_⟩
  all_goals unfold csi2PortSetCmd
  repeat' first
    | with_reducible exact Drains.refl _
    | with_reducible assumption
    | (extract_lets -underBinder +onlyGivenNames y; clear_value (e : y = _)
       first | (refine Drains.seq (y := y) ?_ ?_; rotate_left; (intro hy; clear e); rotate_right; subst e) | subst e)
    | with_reducible apply Drains.after (State.modPort_steps ..).drains
    | with_reducible apply Drains.after (Verdict.ok_steps ..).drains
    | (with_reducible apply Drains.after (Drains.foldl _ _ _ ?_); rotate_left; intro _ _)
    | (with_reducible apply Drains.ite <;> intro _)
    | fail_if_no_progress with_reducible refine Drains.upd ?_ rfl rfl rfl rfl
    | split
    | dsimp -zeta only [Verdict.state_done, Verdict.state_wait]
    | fail_if_no_progress refine Drains.upd ?_ rfl rfl rfl rfl

theorem ingestConfigured_steps (s : State) (bs : List Byte) : Steps wr s (ingestConfigured s bs).state := by
  unfold ingestConfigured
  repeat' first
    | with_reducible exact .refl _
    | with_reducible assumption
    | (extract_lets -underBinder +onlyGivenNames y; clear_value (e : y = _)
       first | (refine Steps.seq (y := y) ?_ ?_; rotate_left; (intro hy; clear e); rotate_right; subst e) | subst e)
    | with_reducible apply Steps.after (State.draw_steps ..)
    | with_reducible apply Steps.after (State.modStream_steps ..)
    | with_reducible apply Steps.after (Verdict.ok_steps ..)
    | (with_reducible apply Steps.ite <;> intro _)
    | fail_if_no_progress with_reducible refine Steps.upd ?_ rfl rfl rfl rfl
    | split

theorem ingestConfigureCmd_good  : (ingestConfigureCmd ).Good wr := by
  refine ⟨fun s p hs => ?_, fun s p id l => ?_⟩
  all_goals unfold ingestConfigureCmd
  repeat' first
    | with_reducible exact Drains.refl _
    | with_reducible assumption
    | (extract_lets -underBinder +onlyGivenNames y; clear_value (e : y = _)
       first | (refine Drains.seq (y := y) ?_ ?_; rotate_left; (intro hy; clear e); rotate_right; subst e) | subst e)
    | (with_reducible apply Drains.after (Drains.foldl _ _ _ ?_); rotate_left; intro _ _)
    | (with_reducible apply Drains.ite <;> intro _)
    | fail_if_no_progress with_reducible refine Drains.upd ?_ rfl rfl rfl rfl
    | split
    | dsimp -zeta only [Verdict.state_done, Verdict.state_wait]
    | fail_if_no_progress refine Drains.upd ?_ rfl rfl rfl rfl

theorem ingestBlockCmd_good (bs : List Byte) : (ingestBlockCmd bs).Good wr := by
  refine ⟨fun s p hs => ?_, fun s p id l => ?_⟩
  all_goals unfold ingestBlockCmd
  repeat' first
    | with_reducible exact Drains.refl _
    | with_reducible assumption
    | (extract_lets -underBinder +onlyGivenNames y; clear_value (e : y = _)
       first | (refine Drains.seq (y := y) ?_ ?_; rotate_left; (intro hy; clear e); rotate_right; subst e) | subst e)
    | with_reducible apply Drains.after (ingestConfigured_steps ..).drains
    | (with_reducible apply Drains.after (Drains.foldl _ _ _ ?_); rotate_left; intro _ _)
    | (with_reducible apply Drains.ite <;> intro _)
    | fail_if_no_progress with_reducible refine Drains.upd ?_ rfl rfl rfl rfl
    | split
    | dsimp -zeta only [Verdict.state_done, Verdict.state_wait]
    | fail_if_no_progress refine Drains.upd ?_ rfl rfl rfl rfl

theorem State.feedBad_steps (s : State) (n : Nat) (capture : Nat) (length : Nat) : Steps wr s (State.feedBad s n capture length) := by
  unfold State.feedBad
  repeat' first
    | with_reducible exact .refl _
    | with_reducible assumption
    | (extract_lets -underBinder +onlyGivenNames y; clear_value (e : y = _)
       first | (refine Steps.seq (y := y) ?_ ?_; rotate_left; (intro hy; clear e); rotate_right; subst e) | subst e)
    | with_reducible apply Steps.after (State.addSample_steps ..)
    | with_reducible apply Steps.after (State.markCorrupt_steps ..)
    | fail_if_no_progress with_reducible refine Steps.upd ?_ rfl rfl rfl rfl

theorem feedCmd_good  : (feedCmd ).Good wr := by
  refine ⟨fun s p hs => ?_, fun s p id l => ?_⟩
  all_goals unfold feedCmd
  repeat' first
    | with_reducible exact Drains.refl _
    | with_reducible assumption
    | (extract_lets -underBinder +onlyGivenNames y; clear_value (e : y = _)
       first | (refine Drains.seq (y := y) ?_ ?_; rotate_left; (intro hy; clear e); rotate_right; subst e) | subst e)
    | with_reducible refine Drains.after (State.alloc_got_steps ‹_›).drains ?_
    | with_reducible refine Drains.after (State.alloc_none_steps ‹_›).drains ?_
    | with_reducible apply Drains.after (State.feedBad_steps ..).drains
    | with_reducible apply Drains.after (Verdict.refuse_steps ..).drains
    | (with_reducible apply Drains.after (Drains.foldl _ _ _ ?_); rotate_left; intro _ _)
    | (with_reducible apply Drains.ite <;> intro _)
    | fail_if_no_progress with_reducible refine Drains.upd ?_ rfl rfl rfl rfl
    | split
    | dsimp -zeta only [Verdict.state_done, Verdict.state_wait]
    | fail_if_no_progress refine Drains.upd ?_ rfl rfl rfl rfl

theorem State.feedDone_steps (s : State) (id : Nat) (data : List Byte) : Steps true s (State.feedDone s id data) := by
  unfold State.feedDone
  repeat' first
    | with_reducible exact .refl _
    | with_reducible assumption
    | (extract_lets -underBinder +onlyGivenNames y; clear_value (e : y = _)
       first | (refine Steps.seq (y := y) ?_ ?_; rotate_left; (intro hy; clear e); rotate_right; subst e) | subst e)
    | with_reducible apply Steps.after (State.addSample_steps ..)
    | with_reducible apply Steps.after (State.finish_steps ..)
    | with_reducible apply Steps.after (State.writeMem_steps ..)
    | (with_reducible apply Steps.ite <;> intro _)
    | fail_if_no_progress with_reducible refine Steps.upd ?_ rfl rfl rfl rfl
    | split

theorem State.feedFails_steps (s : State) (id : Nat) : Steps wr s (State.feedFails s id) := by
  unfold State.feedFails
  repeat' first
    | with_reducible exact .refl _
    | with_reducible assumption
    | (extract_lets -underBinder +onlyGivenNames y; clear_value (e : y = _)
       first | (refine Steps.seq (y := y) ?_ ?_; rotate_left; (intro hy; clear e); rotate_right; subst e) | subst e)
    | with_reducible apply Steps.after (State.closeIfDone_steps ..)
    | with_reducible apply Steps.after (State.finish_steps ..)
    | with_reducible apply Steps.after (State.releaseName_steps ..)
    | fail_if_no_progress with_reducible refine Steps.upd ?_ rfl rfl rfl rfl
    | split

theorem State.feedLate_steps (s : State) (id : Nat) : Steps wr s (State.feedLate s id) := by
  unfold State.feedLate
  repeat' first
    | with_reducible exact .refl _
    | with_reducible apply Steps.after (State.feedFails_steps ..)
    | (with_reducible apply Steps.ite <;> intro _)
    | fail_if_no_progress with_reducible refine Steps.upd ?_ rfl rfl rfl rfl
    | split

theorem ingestTestCmd_good  : (ingestTestCmd ).Good wr := by
  refine ⟨fun s p hs => ?_, fun s p id l => ?_⟩
  all_goals unfold ingestTestCmd
  repeat' first
    | with_reducible exact Drains.refl _
    | with_reducible assumption
    | (extract_lets -underBinder +onlyGivenNames y; clear_value (e : y = _)
       first | (refine Drains.seq (y := y) ?_ ?_; rotate_left; (intro hy; clear e); rotate_right; subst e) | subst e)
    | (with_reducible apply Drains.after (Drains.foldl _ _ _ ?_); rotate_left; intro _ _)
    | (with_reducible apply Drains.ite <;> intro _)
    | fail_if_no_progress with_reducible refine Drains.upd ?_ rfl rfl rfl rfl
    | split
    | dsimp -zeta only [Verdict.state_done, Verdict.state_wait]
    | fail_if_no_progress refine Drains.upd ?_ rfl rfl rfl rfl

theorem State.discard_steps (s : State) (port : Nat) : Steps wr s (State.discard s port) := by
  unfold State.discard
  repeat' first
    | with_reducible exact .refl _
    | with_reducible apply Steps.after (State.modPort_steps ..)
    | fail_if_no_progress with_reducible refine Steps.upd ?_ rfl rfl rfl rfl

theorem State.frameCorrupt_steps (s : State) (port : Nat) (vc : Nat) (cause : Nat) : Steps wr s (State.frameCorrupt s port vc cause) := by
  unfold State.frameCorrupt
  repeat' first
    | with_reducible exact .refl _
    | with_reducible apply Steps.after (State.modPort_steps ..)
    | fail_if_no_progress with_reducible refine Steps.upd ?_ rfl rfl rfl rfl

theorem State.closeFrame_steps (s : State) (port : Nat) (vc : Nat) : Steps wr s (State.closeFrame s port vc) := by
  unfold State.closeFrame
  repeat' first
    | with_reducible exact .refl _
    | with_reducible assumption
    | (extract_lets -underBinder +onlyGivenNames y; clear_value (e : y = _)
       first | (refine Steps.seq (y := y) ?_ ?_; rotate_left; (intro hy; clear e); rotate_right; subst e) | subst e)
    | with_reducible apply Steps.after (State.addSample_steps ..)
    | with_reducible apply Steps.after (State.markCorrupt_steps ..)
    | with_reducible apply Steps.after (State.modPort_steps ..)
    | with_reducible apply Steps.after (State.modSample_steps ..)
    | with_reducible apply Steps.after (State.releaseName_steps ..)
    | (with_reducible apply Steps.after (Steps.foldl _ _ _ ?_); rotate_left; intro _ _)
    | (with_reducible apply Steps.ite <;> intro _)
    | fail_if_no_progress with_reducible refine Steps.upd ?_ rfl rfl rfl rfl
    | split

theorem State.allocStrips_steps {s : State} {g size : Nat} {n : Nat} {a_ : List Nat} {t_ : State} (h_ : s.allocStrips g size n = some
    (a_, t_)) : Steps wr s t_ := by
  induction n generalizing s a_ t_ with
  | zero => cases h_; exact .refl _
  | succ n ih =>
    unfold State.allocStrips at h_
    split at h_
    · cases h_
    · rename_i ha
      simp only [Option.map_eq_some_iff] at h_
      obtain ⟨r, hr, e⟩ := h_
      cases e
      exact (State.alloc_got_steps ha).trans (ih hr)

theorem State.frameStart_steps (s : State) (port : Nat) (vc : Nat) (number : Nat) : Steps wr s (State.frameStart s port vc number) := by
  unfold State.frameStart
  repeat' first
    | with_reducible exact .refl _
    | with_reducible assumption
    | (extract_lets -underBinder +onlyGivenNames y; clear_value (e : y = _)
       first | (refine Steps.seq (y := y) ?_ ?_; rotate_left; (intro hy; clear e); rotate_right; subst e) | subst e)
    | with_reducible apply Steps.after (State.addSample_steps ..)
    | with_reducible refine Steps.after (State.allocStrips_steps ‹_›) ?_
    | with_reducible apply Steps.after (State.closeFrame_steps ..)
    | with_reducible apply Steps.after (State.discard_steps ..)
    | with_reducible apply Steps.after (State.frameCorrupt_steps ..)
    | with_reducible apply Steps.after (State.modPort_steps ..)
    | with_reducible apply Steps.after (State.modSample_steps ..)
    | (with_reducible apply Steps.ite <;> intro _)
    | fail_if_no_progress with_reducible refine Steps.upd ?_ rfl rfl rfl rfl
    | split

theorem State.linePacket_steps (s : State) (port : Nat) (vc : Nat) (dt : Nat) (payload : List Byte) (crcOk : Bool) (eccCorrected : Bool) :
    Steps true s (State.linePacket s port vc dt payload crcOk eccCorrected) := by
  unfold State.linePacket
  repeat' first
    | with_reducible exact .refl _
    | with_reducible assumption
    | (extract_lets -underBinder +onlyGivenNames y; clear_value (e : y = _)
       first | (refine Steps.seq (y := y) ?_ ?_; rotate_left; (intro hy; clear e); rotate_right; subst e) | subst e)
    | with_reducible apply Steps.after (State.discard_steps ..)
    | with_reducible apply Steps.after (State.frameCorrupt_steps ..)
    | with_reducible apply Steps.after (State.modPort_steps ..)
    | with_reducible apply Steps.after (State.take_steps ..)
    | with_reducible apply Steps.after (State.writeMem_steps ..)
    | (with_reducible apply Steps.ite <;> intro _)
    | fail_if_no_progress with_reducible refine Steps.upd ?_ rfl rfl rfl rfl
    | split

theorem State.frameEnd_steps (s : State) (port : Nat) (vc : Nat) (number : Nat) : Steps wr s (State.frameEnd s port vc number) := by
  unfold State.frameEnd
  repeat' first
    | with_reducible exact .refl _
    | with_reducible assumption
    | (extract_lets -underBinder +onlyGivenNames y; clear_value (e : y = _)
       first | (refine Steps.seq (y := y) ?_ ?_; rotate_left; (intro hy; clear e); rotate_right; subst e) | subst e)
    | with_reducible apply Steps.after (State.closeFrame_steps ..)
    | with_reducible apply Steps.after (State.discard_steps ..)
    | with_reducible apply Steps.after (State.frameCorrupt_steps ..)
    | (with_reducible apply Steps.ite <;> intro _)
    | fail_if_no_progress with_reducible refine Steps.upd ?_ rfl rfl rfl rfl
    | split

theorem State.headerError_steps (s : State) (port : Nat) : Steps wr s (State.headerError s port) := by
  unfold State.headerError
  repeat' first
    | with_reducible exact .refl _
    | with_reducible assumption
    | (extract_lets -underBinder +onlyGivenNames y; clear_value (e : y = _)
       first | (refine Steps.seq (y := y) ?_ ?_; rotate_left; (intro hy; clear e); rotate_right; subst e) | subst e)
    | with_reducible apply Steps.after (State.frameCorrupt_steps ..)
    | with_reducible apply Steps.after (State.modPort_steps ..)
    | (with_reducible apply Steps.after (Steps.foldl _ _ _ ?_); rotate_left; intro _ _)
    | (with_reducible apply Steps.ite <;> intro _)
    | fail_if_no_progress with_reducible refine Steps.upd ?_ rfl rfl rfl rfl

theorem State.sotError_steps (s : State) (port : Nat) (vc : Nat) : Steps wr s (State.sotError s port vc) := by
  unfold State.sotError
  repeat' first
    | with_reducible exact .refl _
    | with_reducible apply Steps.after (State.frameCorrupt_steps ..)
    | with_reducible apply Steps.after (State.modPort_steps ..)
    | (with_reducible apply Steps.ite <;> intro _)
    | fail_if_no_progress with_reducible refine Steps.upd ?_ rfl rfl rfl rfl

theorem State.frameTimeout_steps (s : State) (port : Nat) (vc : Nat) : Steps wr s (State.frameTimeout s port vc) := by
  unfold State.frameTimeout
  repeat' first
    | with_reducible exact .refl _
    | with_reducible assumption
    | (extract_lets -underBinder +onlyGivenNames y; clear_value (e : y = _)
       first | (refine Steps.seq (y := y) ?_ ?_; rotate_left; (intro hy; clear e); rotate_right; subst e) | subst e)
    | with_reducible apply Steps.after (State.closeFrame_steps ..)
    | with_reducible apply Steps.after (State.frameCorrupt_steps ..)
    | (with_reducible apply Steps.ite <;> intro _)
    | fail_if_no_progress with_reducible refine Steps.upd ?_ rfl rfl rfl rfl
    | split

/-! ### Machine/Preprocess.lean -/

theorem State.modJpeg_steps (s : State) (u : Nat) (f : JpegUnit → JpegUnit) : Steps wr s (State.modJpeg s u f) := by
  unfold State.modJpeg
  exact .upd (.refl _) rfl rfl rfl rfl

theorem State.jpegStart_steps (s : State) (u : Nat) (k : Nat) (f : JpegFacts) : Steps wr s (State.jpegStart s u k f) := by
  unfold State.jpegStart
  repeat' first
    | with_reducible exact .refl _
    | with_reducible assumption
    | (extract_lets -underBinder +onlyGivenNames y; clear_value (e : y = _)
       first | (refine Steps.seq (y := y) ?_ ?_; rotate_left; (intro hy; clear e); rotate_right; subst e) | subst e)
    | with_reducible apply Steps.after (State.markCorrupt_steps ..)
    | with_reducible apply Steps.after (State.modJpeg_steps ..)
    | with_reducible apply Steps.after (State.modSample_steps ..)
    | (with_reducible apply Steps.ite <;> intro _)
    | fail_if_no_progress with_reducible refine Steps.upd ?_ rfl rfl rfl rfl
    | split

theorem State.jpegStrip_steps (s : State) (u : Nat) (entropyError : Bool) (name : Nat) :
    Steps true s (State.jpegStrip s u entropyError name) := by
  unfold State.jpegStrip
  repeat' first
    | with_reducible exact .refl _
    | with_reducible assumption
    | (extract_lets -underBinder +onlyGivenNames y; clear_value (e : y = _)
       first | (refine Steps.seq (y := y) ?_ ?_; rotate_left; (intro hy; clear e); rotate_right; subst e) | subst e)
    | with_reducible apply Steps.after (State.draw_steps ..)
    | with_reducible apply Steps.after (State.markCorrupt_steps ..)
    | with_reducible apply Steps.after (State.modJpeg_steps ..)
    | with_reducible apply Steps.after (State.signalStrip_steps ..)
    | with_reducible apply Steps.after (State.writeMem_steps ..)
    | (with_reducible apply Steps.ite <;> intro _)
    | fail_if_no_progress with_reducible refine Steps.upd ?_ rfl rfl rfl rfl
    | split

theorem State.jpegRebuild_steps (s : State) (u : Nat) (k : Nat) (m : Sample) : Steps wr s (State.jpegRebuild s u k m) := by
  unfold State.jpegRebuild
  repeat' first
    | with_reducible exact .refl _
    | with_reducible assumption
    | (extract_lets -underBinder +onlyGivenNames y; clear_value (e : y = _)
       first | (refine Steps.seq (y := y) ?_ ?_; rotate_left; (intro hy; clear e); rotate_right; subst e) | subst e)
    | with_reducible apply Steps.after (State.enterFaulted_steps ..)
    | with_reducible apply Steps.after (State.modJpeg_steps ..)
    | with_reducible apply Steps.after (State.repeatUnit_steps ..)
    | (with_reducible apply Steps.ite <;> intro _)
    | fail_if_no_progress with_reducible refine Steps.upd ?_ rfl rfl rfl rfl
    | split

theorem State.modScaler_steps (s : State) (c : Nat) (f : Scaler → Scaler) : Steps wr s (State.modScaler s c f) := by
  unfold State.modScaler
  exact .upd (.refl _) rfl rfl rfl rfl

theorem State.passStart_steps (s : State) (c : Nat) (k : Nat) (i : Nat) (line : Nat) : Steps wr s (State.passStart s c k i line) := by
  unfold State.passStart
  repeat' first
    | with_reducible exact .refl _
    | with_reducible assumption
    | (extract_lets -underBinder +onlyGivenNames y; clear_value (e : y = _)
       first | (refine Steps.seq (y := y) ?_ ?_; rotate_left; (intro hy; clear e); rotate_right; subst e) | subst e)
    | with_reducible apply Steps.after (State.addTile_steps ..)
    | with_reducible refine Steps.after (State.alloc_got_steps ‹_›) ?_
    | with_reducible refine Steps.after (State.alloc_none_steps ‹_›) ?_
    | with_reducible apply Steps.after (State.modSample_steps ..)
    | with_reducible apply Steps.after (State.modScaler_steps ..)
    | with_reducible apply Steps.after (State.modStream_steps ..)
    | (with_reducible apply Steps.ite <;> intro _)
    | fail_if_no_progress with_reducible refine Steps.upd ?_ rfl rfl rfl rfl
    | split

theorem State.goodOutputs_steps (s : State) (k : Nat) : Steps wr s (State.goodOutputs s k) := by
  unfold State.goodOutputs
  repeat' first
    | with_reducible exact .refl _
    | with_reducible assumption
    | (extract_lets -underBinder +onlyGivenNames y; clear_value (e : y = _)
       first | (refine Steps.seq (y := y) ?_ ?_; rotate_left; (intro hy; clear e); rotate_right; subst e) | subst e)
    | with_reducible apply Steps.after (State.addReader_steps ..)
    | with_reducible apply Steps.after (State.freeFormer_steps ..)
    | with_reducible apply Steps.after (State.modBuf_steps ..)
    | with_reducible apply Steps.after (State.modSample_steps ..)
    | with_reducible apply Steps.after (State.modStream_steps ..)
    | with_reducible apply Steps.after (State.substitute_steps ..)
    | (with_reducible apply Steps.after (Steps.foldl _ _ _ ?_); rotate_left; intro _ _)
    | (with_reducible apply Steps.ite <;> intro _)
    | fail_if_no_progress with_reducible refine Steps.upd ?_ rfl rfl rfl rfl
    | split

theorem State.bandDone_steps (s : State) (c : Nat) (rows : Nat) : Steps true s (State.bandDone s c rows) := by
  unfold State.bandDone
  repeat' first
    | with_reducible exact .refl _
    | with_reducible assumption
    | (extract_lets -underBinder +onlyGivenNames y; clear_value (e : y = _)
       first | (refine Steps.seq (y := y) ?_ ?_; rotate_left; (intro hy; clear e); rotate_right; subst e) | subst e)
    | with_reducible apply Steps.after (State.goodOutputs_steps ..)
    | with_reducible apply Steps.after (State.modSample_steps ..)
    | with_reducible apply Steps.after (State.modScaler_steps ..)
    | with_reducible apply Steps.after (State.writeMem_steps ..)
    | (with_reducible apply Steps.after (Steps.foldl _ _ _ ?_); rotate_left; intro _ _)
    | (with_reducible apply Steps.ite <;> intro _)
    | fail_if_no_progress with_reducible refine Steps.upd ?_ rfl rfl rfl rfl
    | split

theorem State.bandRepeat_steps (s : State) (c : Nat) (parity : Bool) : Steps wr s (State.bandRepeat s c parity) := by
  unfold State.bandRepeat
  repeat' first
    | with_reducible exact .refl _
    | with_reducible assumption
    | (extract_lets -underBinder +onlyGivenNames y; clear_value (e : y = _)
       first | (refine Steps.seq (y := y) ?_ ?_; rotate_left; (intro hy; clear e); rotate_right; subst e) | subst e)
    | with_reducible apply Steps.after (State.enterFaulted_steps ..)
    | with_reducible apply Steps.after (State.modScaler_steps ..)
    | with_reducible apply Steps.after (State.repeatUnit_steps ..)
    | (with_reducible apply Steps.ite <;> intro _)
    | fail_if_no_progress with_reducible refine Steps.upd ?_ rfl rfl rfl rfl
    | split

theorem State.appendRing_steps (s : State) (base hist at_ row : Nat) (l : List (List Byte)) :
    Steps true s (s.appendRing base hist at_ row l) := by
  induction l generalizing s at_ with
  | nil => exact .refl _
  | cons r l ih => exact (State.writeMem_steps ..).trans (ih _ _)

theorem State.appendHistory_steps (s : State) (n : Nat) (st : Stream) (frames : Nat) (bytes : List Byte) :
    Steps true s (s.appendHistory n st frames bytes) := by
  unfold State.appendHistory
  extract_lets +onlyGivenNames a
  split
  · exact .refl _
  · extract_lets +onlyGivenNames row r
    have hr : Steps true s r.2 := by
      show Steps true s (match st.history with
        | some w => (some w, s)
        | none => match s.alloc st.group true (a.history * a.channels * row) none true with
          | .got x _ t => (some (bufName true x), t)
          | .none_ _ _ => (none, s)).2
      split
      · exact .refl _
      · split
        · exact State.alloc_got_steps ‹_›
        · exact .refl _
    split
    · exact .refl _
    · extract_lets t
      refine Steps.trans ?_ (State.modStream_steps ..)
      exact hr.trans (Steps.foldl _ _ _ fun u c => State.appendRing_steps ..)

theorem State.audioPass_steps (s : State) (k : Nat) : Steps true s (State.audioPass s k) := by
  unfold State.audioPass
  repeat' first
    | with_reducible exact .refl _
    | with_reducible assumption
    | (extract_lets -underBinder +onlyGivenNames y; clear_value (e : y = _)
       first | (refine Steps.seq (y := y) ?_ ?_; rotate_left; (intro hy; clear e); rotate_right; subst e) | subst e)
    | with_reducible apply Steps.after (State.addTile_steps ..)
    | with_reducible refine Steps.after (State.alloc_got_steps ‹_›) ?_
    | with_reducible refine Steps.after (State.alloc_none_steps ‹_›) ?_
    | with_reducible apply Steps.after (State.appendHistory_steps ..)
    | with_reducible apply Steps.after (State.enterFaulted_steps ..)
    | with_reducible apply Steps.after (State.markCorrupt_steps ..)
    | with_reducible apply Steps.after (State.modSample_steps ..)
    | with_reducible apply Steps.after (State.modStream_steps ..)
    | with_reducible apply Steps.after (State.repeatUnit_steps ..)
    | with_reducible apply Steps.after (State.writeMem_steps ..)
    | (with_reducible apply Steps.ite <;> intro _)
    | fail_if_no_progress with_reducible refine Steps.upd ?_ rfl rfl rfl rfl
    | split

end Sys2Proof.Machine
end

