-- ==== Sys2Proof/Laws/StepsCascade.lean ====
section
/-! SUPPORT. What each operation of fetching and the cascade can do to the queue, to memory and to the
device state (`Steps` and its kin), said once for each; a proof about a step cites these and unfolds nothing. -/

set_option linter.all false

namespace Sys2Proof.Machine

open Sys2Proof

/-! ### Machine/Fetch.lean -/

theorem commandOf_good {o : Nat} {c : Cmd} (h : commandOf o = some c) : c.Good true := by
  have hm := List.mem_of_find?_eq_some h
  simp only [allCommands, List.mem_append, List.mem_cons, List.not_mem_nil, or_false] at hm
  rcases hm with (hm | hm) | hm
  · rcases hm with rfl | rfl | rfl | rfl | rfl | rfl | rfl | rfl | rfl | rfl | rfl | rfl | rfl | rfl | rfl | rfl | rfl | rfl | rfl |
      rfl | rfl | rfl | rfl
    exacts [nopCmd_good, deviceStartCmd_good, deviceStopCmd_good, ringCreateCmd_good, ringDestroyCmd_good, ringResetCmd_good,
        streamDeclareCmd_good, streamAdmitCmd_good, streamStartCmd_good, streamPauseCmd_good, streamResumeCmd_good,
        streamCloseCmd_good, streamQueryCmd_good, castLoadCmd_good, castUnloadCmd_good, scriptLoadCmd_good, scriptUnloadCmd_good,
        cueSetPeriodCmd_good, cueSetEpochCmd_good, cueSetSourceCmd_good, timeSteerCmd_good, timeStepCmd_good, timePpsCmd_good]
  · rcases hm with rfl | rfl | rfl | rfl | rfl | rfl | rfl | rfl | rfl | rfl | rfl | rfl | rfl | rfl | rfl | rfl | rfl | rfl | rfl |
      rfl | rfl | rfl
    exacts [poolCreateCmd_good, poolDestroyCmd_good, poolReserveCmd_good, bufferAllocCmd_good, bufferFreeCmd_good, memoryCopyCmd_good,
        arraySplitCmd_good, arrayRunCmd_good, arrayTestCmd_good, vecSplitCmd_good, vecScalarsCmd_good, vecRunCmd_good, vecTestCmd_good,
        randomSeedCmd_good, sampleRunCmd_good, randomTestCmd_good, decodeConfigureCmd_good, encodeConfigureCmd_good,
        encodeSetRateCmd_good, encodeForceIntraCmd_good, decodeRefreshCmd_good, codecTestCmd_good]
  · rcases hm with rfl | rfl | rfl | rfl | rfl | rfl | rfl | rfl | rfl | rfl | rfl | rfl | rfl | rfl | rfl | rfl
    exacts [csi2PortSetCmd_good, ingestConfigureCmd_good, feedCmd_good, ingestTestCmd_good, cascadeFormCmd_good,
        cascadeDissolveCmd_good, linkTestCmd_good, attestReportCmd_good, pixelsUnsealCmd_good, pixelsSealCmd_good,
        encodedOutputCmd_good, firmwareStageCmd_good, traceSetCmd_good, countersSnapshotCmd_good, dramInterleaveCmd_good, dramTestCmd_good]

theorem State.refuseEntry_steps (s : State) (q : Nat) (opcode : Nat) (p : Packet) (matched : Bool) (o : Outcome) :
    Steps wr s (State.refuseEntry s q opcode p matched o) := by
  unfold State.refuseEntry
  repeat' first
    | with_reducible exact .refl _
    | with_reducible assumption
    | (extract_lets -underBinder +onlyGivenNames y; clear_value (e : y = _)
       first | (refine Steps.seq (y := y) ?_ ?_; rotate_left; (intro hy; clear e); rotate_right; subst e) | subst e)
    | with_reducible apply Steps.after (State.complete_steps ..)
    | with_reducible apply Steps.after (State.leaveRest_steps ..)
    | with_reducible apply Steps.after (State.modRing_steps ..)
    | (with_reducible apply Steps.ite <;> intro _)
    | fail_if_no_progress with_reducible refine Steps.upd ?_ rfl rfl rfl rfl
    | split

theorem State.fetchEntry_drains (s : State) (entry : BitVec 512) : Drains true s (s.fetchEntry entry) := by
  unfold State.fetchEntry
  split
  · exact .refl _
  · extract_lets p opcode expected
    split
    · exact ((State.refuseEntry_steps ..).trans (State.haltRing_steps ..)).drains
    · split
      · exact .upd (.refl s) rfl rfl rfl rfl
      · split
        · exact State.accept_drains _ _ _ (commandOf_good ‹_›)
        · exact (State.refuseEntry_steps ..).drains

theorem State.countRead_steps (s : State) (errorAnswer : Bool) : Steps wr s (State.countRead s errorAnswer) := by
  unfold State.countRead
  repeat' first
    | with_reducible exact Steps.refl _
    | with_reducible assumption
    | (extract_lets -underBinder +onlyGivenNames y; clear_value (e : y = _)
       first | (refine Steps.seq (y := y) ?_ ?_; rotate_left; (intro hy; clear e); rotate_right; subst e) | subst e)
    | (with_reducible apply Steps.after (Steps.foldl _ _ _ ?_); rotate_left; intro _ _)
    | (with_reducible apply Steps.ite <;> intro _)
    | fail_if_no_progress with_reducible refine Steps.upd ?_ rfl rfl rfl rfl
    | split
    | dsimp -zeta only [Verdict.state_done, Verdict.state_wait]
    | fail_if_no_progress refine Steps.upd ?_ rfl rfl rfl rfl

theorem State.fetchFails_steps (s : State) (errorAnswer : Bool) : Steps wr s (State.fetchFails s errorAnswer) := by
  unfold State.fetchFails
  repeat' first
    | with_reducible exact .refl _
    | with_reducible apply Steps.after (State.countRead_steps ..)
    | with_reducible apply Steps.after (State.haltRing_steps ..)
    | fail_if_no_progress with_reducible refine Steps.upd ?_ rfl rfl rfl rfl
    | split

theorem blockCommand_good (c : Cmd) (data : List Byte) : (blockCommand c data).Good true := by
  unfold blockCommand
  split
  · exact encodeBlockCmd_good data
  · exact ingestBlockCmd_good data
theorem State.hostReadDone_drains (s : State) (id : Nat) (data : List Byte) : Drains true s (s.hostReadDone id data) := by
  unfold State.hostReadDone
  split
  · exact .refl _
  · split
    · split
      · exact .refl _
      · split
        · exact .refl _
        · next c hc =>
          split
          · extract_lets b
            rename_i f_ _ b_ _ _ _ _ _ _ _
            have hb := blockCommand_good c data
            refine Drains.trans ?_ (settleInFlight_steps ..).drains
            unfold checked
            split
            · exact .refl _
            · rename_i hk
              have := hb.body s b_ (bodyChecks_states hk)
              split
              · split
                · exact this
                · exact .refl _
              · exact this
          · exact ((commandOf_good hc).data ..).trans (settleInFlight_steps ..).drains
    · exact .refl _

theorem State.hostReadFails_steps (s : State) (id : Nat) (errorAnswer : Bool) : Steps wr s (State.hostReadFails s id errorAnswer) := by
  unfold State.hostReadFails
  repeat' first
    | with_reducible exact .refl _
    | with_reducible assumption
    | (extract_lets -underBinder +onlyGivenNames y; clear_value (e : y = _)
       first | (refine Steps.seq (y := y) ?_ ?_; rotate_left; (intro hy; clear e); rotate_right; subst e) | subst e)
    | with_reducible apply Steps.after (State.countRead_steps ..)
    | with_reducible apply Steps.after (State.feedFails_steps ..)
    | with_reducible apply Steps.after (State.finish_steps ..)
    | with_reducible apply Steps.after (State.releaseName_steps ..)
    | with_reducible apply Steps.after (State.unregister_steps ..)
    | (with_reducible apply Steps.after (Steps.foldl _ _ _ ?_); rotate_left; intro _ _)
    | fail_if_no_progress with_reducible refine Steps.upd ?_ rfl rfl rfl rfl
    | split

theorem State.resumeMirrored_drains (s : State) (id : Nat) : Drains true s (s.resumeMirrored id) := by
  unfold State.resumeMirrored
  split
  · exact .refl _
  · split
    · split
      · next c hc =>
        extract_lets t
        have ht : Drains true s t := Drains.trans (.upd (.refl s) rfl rfl rfl rfl) ((startCommand_drains c _ _
            (commandOf_good hc)).trans (settle_steps ..).drains)
        exact .upd ht rfl rfl rfl rfl
      · exact .refl _
    · exact .refl _

/-! ### Machine/Cascade.lean -/

theorem State.badMessage_steps (s : State) : Steps wr s (State.badMessage s) := by
  unfold State.badMessage
  exact .upd (.refl _) rfl rfl rfl rfl

theorem State.relay_steps (s : State) (m : Msg) (bytes : List Byte) : Steps wr s (State.relay s m bytes) := by
  unfold State.relay
  repeat' first
    | with_reducible exact .refl _
    | with_reducible apply Steps.after (State.badMessage_steps ..)
    | with_reducible apply Steps.after (State.putMessage_steps ..)
    | (with_reducible apply Steps.ite <;> intro _)
    | fail_if_no_progress with_reducible refine Steps.upd ?_ rfl rfl rfl rfl
    | split

theorem State.receive_drains (s : State) (m : Msg) (kind : Nat) (mine pass : State → State) (h :
    Drains wr s (mine s)) (h' : Drains wr s (pass s)) :
    Drains wr s (s.receive m kind mine pass) := by
  unfold State.receive
  split
  · exact .refl _
  · split
    · exact (State.enterFaulted_steps ..).drains
    · split
      · exact (State.badMessage_steps ..).drains
      · split
        · exact h'
        · exact h

theorem State.land_steps (s : State) (m : Msg) (data : List Byte) : Steps true s (State.land s m data) := by
  unfold State.land
  repeat' first
    | with_reducible exact .refl _
    | with_reducible assumption
    | (extract_lets -underBinder +onlyGivenNames y; clear_value (e : y = _)
       first | (refine Steps.seq (y := y) ?_ ?_; rotate_left; (intro hy; clear e); rotate_right; subst e) | subst e)
    | with_reducible apply Steps.after (State.modBuf_steps ..)
    | with_reducible apply Steps.after (State.writeMem_steps ..)
    | (with_reducible apply Steps.ite <;> intro _)
    | fail_if_no_progress with_reducible refine Steps.upd ?_ rfl rfl rfl rfl
    | split

theorem State.takeBlock_steps (s : State) (m : Msg) (data : List Byte) : Steps true s (State.takeBlock s m data) := by
  unfold State.takeBlock
  repeat' first
    | with_reducible exact .refl _
    | with_reducible assumption
    | (extract_lets -underBinder +onlyGivenNames y; clear_value (e : y = _)
       first | (refine Steps.seq (y := y) ?_ ?_; rotate_left; (intro hy; clear e); rotate_right; subst e) | subst e)
    | with_reducible apply Steps.after (State.badMessage_steps ..)
    | with_reducible apply Steps.after (State.land_steps ..)
    | with_reducible apply Steps.after (State.send_steps ..)
    | with_reducible apply Steps.after (State.signalRange_steps ..)
    | (with_reducible apply Steps.ite <;> intro _)
    | fail_if_no_progress with_reducible refine Steps.upd ?_ rfl rfl rfl rfl

theorem State.passBlock_steps (s : State) (m : Msg) (data : List Byte) : Steps true s (State.passBlock s m data) := by
  unfold State.passBlock
  repeat' first
    | with_reducible exact .refl _
    | with_reducible assumption
    | (extract_lets -underBinder +onlyGivenNames y; clear_value (e : y = _)
       first | (refine Steps.seq (y := y) ?_ ?_; rotate_left; (intro hy; clear e); rotate_right; subst e) | subst e)
    | with_reducible refine Steps.after (State.alloc_got_steps ‹_›) ?_
    | with_reducible refine Steps.after (State.alloc_none_steps ‹_›) ?_
    | with_reducible apply Steps.after (State.badMessage_steps ..)
    | with_reducible apply Steps.after (State.relay_steps ..)
    | with_reducible apply Steps.after (State.writeMem_steps ..)
    | (with_reducible apply Steps.ite <;> intro _)
    | fail_if_no_progress with_reducible refine Steps.upd ?_ rfl rfl rfl rfl
    | split

theorem State.blockAcked_steps (s : State) (m : Msg) : Steps wr s (State.blockAcked s m) := by
  unfold State.blockAcked
  repeat' first
    | with_reducible exact .refl _
    | (with_reducible apply Steps.ite <;> intro _)
    | fail_if_no_progress with_reducible refine Steps.upd ?_ rfl rfl rfl rfl

theorem State.blockSilent_steps (s : State) (chain : Nat) (index : Nat) : Steps wr s (State.blockSilent s chain index) := by
  unfold State.blockSilent
  repeat' first
    | with_reducible exact .refl _
    | with_reducible assumption
    | (extract_lets -underBinder +onlyGivenNames y; clear_value (e : y = _)
       first | (refine Steps.seq (y := y) ?_ ?_; rotate_left; (intro hy; clear e); rotate_right; subst e) | subst e)
    | with_reducible apply Steps.after (State.repeatUnit_steps ..)
    | with_reducible apply Steps.after (State.sendRetained_steps ..)
    | with_reducible apply Steps.after (State.trace_steps ..)
    | (with_reducible apply Steps.ite <;> intro _)
    | fail_if_no_progress with_reducible refine Steps.upd ?_ rfl rfl rfl rfl
    | split

theorem State.resendOne_steps (s : State) (m : Msg) (r : Retained) : Steps wr s (State.resendOne s m r) := by
  unfold State.resendOne
  repeat' first
    | with_reducible exact .refl _
    | with_reducible assumption
    | (extract_lets -underBinder +onlyGivenNames y; clear_value (e : y = _)
       first | (refine Steps.seq (y := y) ?_ ?_; rotate_left; (intro hy; clear e); rotate_right; subst e) | subst e)
    | with_reducible apply Steps.after (State.sendRetained_steps ..)
    | (with_reducible apply Steps.ite <;> intro _)
    | fail_if_no_progress with_reducible refine Steps.upd ?_ rfl rfl rfl rfl

theorem State.resendFrom_steps (s : State) (m : Msg) : Steps wr s (State.resendFrom s m) := by
  unfold State.resendFrom
  repeat' first
    | with_reducible exact .refl _
    | with_reducible assumption
    | (extract_lets -underBinder +onlyGivenNames y; clear_value (e : y = _)
       first | (refine Steps.seq (y := y) ?_ ?_; rotate_left; (intro hy; clear e); rotate_right; subst e) | subst e)
    | with_reducible apply Steps.after (State.resendOne_steps ..)
    | with_reducible apply Steps.after (State.send_steps ..)
    | (with_reducible apply Steps.after (Steps.foldl _ _ _ ?_); rotate_left; intro _ _)
    | (with_reducible apply Steps.ite <;> intro _)
    | fail_if_no_progress with_reducible refine Steps.upd ?_ rfl rfl rfl rfl

theorem State.modMember_steps (s : State) (m : Nat) (f : Member → Member) : Steps wr s (State.modMember s m f) := by
  unfold State.modMember
  exact .upd (.refl _) rfl rfl rfl rfl

theorem State.sendHeartbeat_steps (s : State) : Steps wr s (State.sendHeartbeat s) := by
  unfold State.sendHeartbeat
  repeat' first
    | with_reducible exact .refl _
    | with_reducible assumption
    | (extract_lets -underBinder +onlyGivenNames y; clear_value (e : y = _)
       first | (refine Steps.seq (y := y) ?_ ?_; rotate_left; (intro hy; clear e); rotate_right; subst e) | subst e)
    | with_reducible apply Steps.after (State.flood_steps ..)
    | (with_reducible apply Steps.ite <;> intro _)
    | fail_if_no_progress with_reducible refine Steps.upd ?_ rfl rfl rfl rfl

theorem State.heartbeatFrom_steps (s : State) (m : Msg) (cue : Nat) (state : Nat) (ready : Bool) :
    Steps wr s (State.heartbeatFrom s m cue state ready) := by
  unfold State.heartbeatFrom
  repeat' first
    | with_reducible exact .refl _
    | with_reducible assumption
    | (extract_lets -underBinder +onlyGivenNames y; clear_value (e : y = _)
       first | (refine Steps.seq (y := y) ?_ ?_; rotate_left; (intro hy; clear e); rotate_right; subst e) | subst e)
    | with_reducible apply Steps.after (State.flood_steps ..)
    | with_reducible apply Steps.after (State.modMember_steps ..)
    | (with_reducible apply Steps.ite <;> intro _)
    | fail_if_no_progress with_reducible refine Steps.upd ?_ rfl rfl rfl rfl

theorem State.resumeHeld_drains (s : State) : Drains true s (State.resumeHeld s) := by
  unfold State.resumeHeld
  repeat' first
    | with_reducible exact .refl _
    | with_reducible apply Drains.after (State.resumeMirrored_drains ..)
    | (with_reducible apply Drains.after (Drains.foldl _ _ _ ?_); rotate_left; intro _ _)
    | fail_if_no_progress with_reducible refine Drains.upd ?_ rfl rfl rfl rfl

theorem State.breakCascade_drains (s : State) : Drains true s (State.breakCascade s) := by
  unfold State.breakCascade
  repeat' first
    | with_reducible exact .refl _
    | with_reducible assumption
    | (extract_lets -underBinder +onlyGivenNames y; clear_value (e : y = _)
       first | (refine Drains.seq (y := y) ?_ ?_; rotate_left; (intro hy; clear e); rotate_right; subst e) | subst e)
    | with_reducible apply Drains.after (State.playbillDue_steps ..).drains
    | with_reducible apply Drains.after (State.resumeHeld_drains ..)
    | fail_if_no_progress with_reducible refine Drains.upd ?_ rfl rfl rfl rfl

theorem State.forget_steps (s : State) (m : Nat) : Steps wr s (State.forget s m) := by
  unfold State.forget
  repeat' first
    | with_reducible exact .refl _
    | with_reducible assumption
    | (extract_lets -underBinder +onlyGivenNames y; clear_value (e : y = _)
       first | (refine Steps.seq (y := y) ?_ ?_; rotate_left; (intro hy; clear e); rotate_right; subst e) | subst e)
    | with_reducible apply Steps.after (State.finish_steps ..)
    | (with_reducible apply Steps.after (Steps.foldl _ _ _ ?_); rotate_left; intro _ _)
    | (with_reducible apply Steps.ite <;> intro _)
    | fail_if_no_progress with_reducible refine Steps.upd ?_ rfl rfl rfl rfl

theorem State.beginRemap_steps (s : State) (m : Nat) : Steps wr s (State.beginRemap s m) := by
  unfold State.beginRemap
  repeat' first
    | with_reducible exact .refl _
    | with_reducible assumption
    | (extract_lets -underBinder +onlyGivenNames y; clear_value (e : y = _)
       first | (refine Steps.seq (y := y) ?_ ?_; rotate_left; (intro hy; clear e); rotate_right; subst e) | subst e)
    | (with_reducible apply Steps.ite <;> intro _)
    | fail_if_no_progress with_reducible refine Steps.upd ?_ rfl rfl rfl rfl

theorem State.loseDeputy_steps (s : State) : Steps wr s (State.loseDeputy s) := by
  unfold State.loseDeputy
  repeat' first
    | with_reducible exact .refl _
    | with_reducible assumption
    | (extract_lets -underBinder +onlyGivenNames y; clear_value (e : y = _)
       first | (refine Steps.seq (y := y) ?_ ?_; rotate_left; (intro hy; clear e); rotate_right; subst e) | subst e)
    | with_reducible apply Steps.after (State.writeHeldCompletions_steps ..)
    | fail_if_no_progress with_reducible refine Steps.upd ?_ rfl rfl rfl rfl

theorem State.declareLost_drains (s : State) (m : Nat) : Drains true s (State.declareLost s m) := by
  unfold State.declareLost
  repeat' first
    | with_reducible exact .refl _
    | with_reducible assumption
    | (extract_lets -underBinder +onlyGivenNames y; clear_value (e : y = _)
       first | (refine Drains.seq (y := y) ?_ ?_; rotate_left; (intro hy; clear e); rotate_right; subst e) | subst e)
    | with_reducible apply Drains.after (State.beginRemap_steps ..).drains
    | with_reducible apply Drains.after (State.breakCascade_drains ..)
    | with_reducible apply Drains.after (State.forget_steps ..).drains
    | with_reducible apply Drains.after (State.loseDeputy_steps ..).drains
    | with_reducible apply Drains.after (State.modMember_steps ..).drains
    | with_reducible apply Drains.after (State.tellMembers_steps ..).drains
    | with_reducible apply Drains.after (State.trace_steps ..).drains
    | (with_reducible apply Drains.ite <;> intro _)
    | fail_if_no_progress with_reducible refine Drains.upd ?_ rfl rfl rfl rfl

theorem State.memberSilent_drains (s : State) (m : Nat) : Drains true s (State.memberSilent s m) := by
  unfold State.memberSilent
  repeat' first
    | with_reducible exact .refl _
    | with_reducible apply Drains.after (State.breakCascade_drains ..)
    | with_reducible apply Drains.after (State.declareLost_drains ..)
    | (with_reducible apply Drains.ite <;> intro _)
    | fail_if_no_progress with_reducible refine Drains.upd ?_ rfl rfl rfl rfl
    | split

theorem State.plansBuilt_steps (s : State) (paused : List Nat) (repeated : List Nat) (missed : List Nat) :
    Steps wr s (State.plansBuilt s paused repeated missed) := by
  unfold State.plansBuilt
  repeat' first
    | with_reducible exact .refl _
    | with_reducible assumption
    | (extract_lets -underBinder +onlyGivenNames y; clear_value (e : y = _)
       first | (refine Steps.seq (y := y) ?_ ?_; rotate_left; (intro hy; clear e); rotate_right; subst e) | subst e)
    | with_reducible apply Steps.after (State.pauseStream_steps ..)
    | with_reducible apply Steps.after (State.playbillDue_steps ..)
    | with_reducible apply Steps.after (State.shed_steps ..)
    | with_reducible apply Steps.after (State.unreserve_steps ..)
    | (with_reducible apply Steps.after (Steps.foldl _ _ _ ?_); rotate_left; intro _ _)
    | (with_reducible apply Steps.ite <;> intro _)
    | fail_if_no_progress with_reducible refine Steps.upd ?_ rfl rfl rfl rfl

theorem State.remapLate_drains (s : State) : Drains true s (State.remapLate s) := by
  unfold State.remapLate
  repeat' first
    | with_reducible exact .refl _
    | with_reducible apply Drains.after (State.breakCascade_drains ..)
    | (with_reducible apply Drains.ite <;> intro _)

theorem State.nameDeputy_drains (s : State) : Drains true s (State.nameDeputy s) := by
  unfold State.nameDeputy
  repeat' first
    | with_reducible exact .refl _
    | with_reducible assumption
    | (extract_lets -underBinder +onlyGivenNames y; clear_value (e : y = _)
       first | (refine Drains.seq (y := y) ?_ ?_; rotate_left; (intro hy; clear e); rotate_right; subst e) | subst e)
    | with_reducible apply Drains.after (State.mirrorChanges_steps ..).drains
    | with_reducible apply Drains.after (State.playbillDue_steps ..).drains
    | with_reducible apply Drains.after (State.resumeHeld_drains ..)
    | with_reducible apply Drains.after (State.sendMirror_steps ..).drains
    | (with_reducible apply Drains.after (Drains.foldl _ _ _ ?_); rotate_left; intro _ _)
    | fail_if_no_progress with_reducible refine Drains.upd ?_ rfl rfl rfl rfl
    | split

theorem State.afterRemap_drains (before s : State) : Drains true s (State.afterRemap before s) := by
  unfold State.afterRemap
  split
  · extract_lets a
    have ha : Drains true s a := by
      show Drains true s (if _ then _ else _)
      split
      · exact State.nameDeputy_drains ..
      · exact .refl _
    exact ha.trans (State.tellMembers_steps ..).drains
  · exact .refl _

theorem State.takeAssignment_steps (s : State) (m : Msg) (member : Nat) (members : Nat) (deputy : Option Nat) (parent : Nat) (port :
    Nat) (hops : Nat) (step : Int) (routes : List (Nat × Nat × Nat)) : Steps wr s
    (State.takeAssignment s m member members deputy parent port hops step routes) := by
  unfold State.takeAssignment
  repeat' first
    | with_reducible exact .refl _
    | with_reducible assumption
    | (extract_lets -underBinder +onlyGivenNames y; clear_value (e : y = _)
       first | (refine Steps.seq (y := y) ?_ ?_; rotate_left; (intro hy; clear e); rotate_right; subst e) | subst e)
    | with_reducible apply Steps.after (State.playbillDue_steps ..)
    | with_reducible apply Steps.after (State.send_steps ..)
    | with_reducible apply Steps.after (State.stepTime_steps ..)
    | (with_reducible apply Steps.ite <;> intro _)
    | fail_if_no_progress with_reducible refine Steps.upd ?_ rfl rfl rfl rfl

theorem State.assignment_steps (s : State) (m : Msg) (identity : Nat) (member : Nat) (members : Nat) (deputy : Option Nat) (parent :
    Nat) (port : Nat) (hops : Nat) (step : Int) (routes : List (Nat × Nat × Nat)) : Steps wr s
    (State.assignment s m identity member members deputy parent port hops step routes) := by
  unfold State.assignment
  repeat' first
    | with_reducible exact .refl _
    | with_reducible assumption
    | (extract_lets -underBinder +onlyGivenNames y; clear_value (e : y = _)
       first | (refine Steps.seq (y := y) ?_ ?_; rotate_left; (intro hy; clear e); rotate_right; subst e) | subst e)
    | with_reducible apply Steps.after (State.badMessage_steps ..)
    | with_reducible apply Steps.after (State.flood_steps ..)
    | with_reducible apply Steps.after (State.modMember_steps ..)
    | with_reducible apply Steps.after (State.send_steps ..)
    | with_reducible apply Steps.after (State.takeAssignment_steps ..)
    | (with_reducible apply Steps.ite <;> intro _)
    | fail_if_no_progress with_reducible refine Steps.upd ?_ rfl rfl rfl rfl

theorem State.runRemote_drains (s : State) (opcode id : Nat) (p : Packet) : Drains true s (s.runRemote opcode id p) := by
  unfold State.runRemote
  split
  · exact .refl _
  · extract_lets src a q
    have ha : Drains true s a := .upd (.refl s) rfl rfl rfl rfl
    split
    · exact ha.trans ((startCommand_drains _ _ _ (commandOf_good ‹_›)).trans (settle_steps ..).drains)
    · exact ha.trans (settle_steps opcode q (.refuse .unknownOpcode a)).drains

theorem State.carryOut_drains (s : State) (m : Msg) (c : CascadeControl) : Drains true s (s.carryOut m c) := by
  cases c <;> rw [State.carryOut]
  · exact (State.assignment_steps ..).drains
  · split
    · exact (State.enterPlaying_steps ..).drains
    · exact .refl _
  · split
    · exact .upd (.refl s) rfl rfl rfl rfl
    · exact .refl _
  · split
    · exact State.startDraining_drains _ ‹_›
    · exact .refl _
  · exact (State.becomeLone_steps ..).drains
  · skip
    repeat' first
      | with_reducible exact Drains.refl _
      | with_reducible assumption
      | (extract_lets -underBinder +onlyGivenNames y; clear_value (e : y = _)
         first | (refine Drains.seq (y := y) ?_ ?_; rotate_left; (intro hy; clear e); rotate_right; subst e) | subst e)
      | with_reducible apply Drains.after (State.beginRemap_steps ..).drains
      | with_reducible apply Drains.after (State.forget_steps ..).drains
      | with_reducible apply Drains.after (State.modMember_steps ..).drains
      | (with_reducible apply Drains.after (Drains.foldl _ _ _ ?_); rotate_left; intro _ _)
      | (with_reducible apply Drains.ite <;> intro _)
      | fail_if_no_progress with_reducible refine Drains.upd ?_ rfl rfl rfl rfl
      | split
      | dsimp -zeta only [Verdict.state_done, Verdict.state_wait]
      | fail_if_no_progress refine Drains.upd ?_ rfl rfl rfl rfl
  · skip
    repeat' first
      | with_reducible exact Drains.refl _
      | with_reducible assumption
      | (extract_lets -underBinder +onlyGivenNames y; clear_value (e : y = _)
         first | (refine Drains.seq (y := y) ?_ ?_; rotate_left; (intro hy; clear e); rotate_right; subst e) | subst e)
      | with_reducible apply Drains.after (State.playbillDue_steps ..).drains
      | (with_reducible apply Drains.after (Drains.foldl _ _ _ ?_); rotate_left; intro _ _)
      | (with_reducible apply Drains.ite <;> intro _)
      | fail_if_no_progress with_reducible refine Drains.upd ?_ rfl rfl rfl rfl
      | split
      | dsimp -zeta only [Verdict.state_done, Verdict.state_wait]
      | fail_if_no_progress refine Drains.upd ?_ rfl rfl rfl rfl
  · split
    · exact .refl _
    · exact (State.unsealPixels_steps ..).drains
  · split
    · exact (State.sealPixels_steps ..).drains
    · exact .refl _
  · split
    · exact .refl _
    · exact (State.setEncoded_steps ..).drains
  · exact State.runRemote_drains ..
theorem State.takeCommand_drains (s : State) (m : Msg) (c : CascadeControl) : Drains true s (s.takeCommand m c) := by
  unfold State.takeCommand
  split
  · exact State.carryOut_drains ..
  · split
    · exact (State.badMessage_steps ..).drains
    · exact (State.send_steps ..).drains.trans (State.carryOut_drains ..)

theorem State.stepReported_steps (s : State) (m level : Nat) : Steps wr s (State.stepReported s m level) := by
  unfold State.stepReported
  repeat' first
    | with_reducible exact .refl _
    | with_reducible assumption
    | (extract_lets -underBinder +onlyGivenNames y; clear_value (e : y = _)
       first | (refine Steps.seq (y := y) ?_ ?_; rotate_left; (intro hy; clear e); rotate_right; subst e) | subst e)
    | with_reducible apply Steps.after (State.modMember_steps ..)
    | with_reducible apply Steps.after (State.playbillDue_steps ..)
    | with_reducible apply Steps.after (State.trace_steps ..)
    | (with_reducible apply Steps.ite <;> intro _)

theorem State.takeReply_steps (s : State) (m : Msg) (c : ReplyContent) : Steps wr s (s.takeReply m c) := by
  cases c <;> rw [State.takeReply]
  · exact .upd (.refl s) rfl rfl rfl rfl
  · exact (State.modMember_steps ..).trans (State.formComplete_steps ..)
  · split
    · exact State.finish_steps ..
    · exact .refl _
  · exact .refl _
  · exact State.stepReported_steps ..

theorem State.replyLate_steps (s : State) (m : Nat) : Steps wr s (State.replyLate s m) := by
  unfold State.replyLate
  repeat' first
    | with_reducible exact .refl _
    | with_reducible assumption
    | (extract_lets -underBinder +onlyGivenNames y; clear_value (e : y = _)
       first | (refine Steps.seq (y := y) ?_ ?_; rotate_left; (intro hy; clear e); rotate_right; subst e) | subst e)
    | with_reducible apply Steps.after (State.putMessage_steps ..)
    | (with_reducible apply Steps.ite <;> intro _)
    | fail_if_no_progress with_reducible refine Steps.upd ?_ rfl rfl rfl rfl
    | split

theorem State.takeMirror_steps (s : State) (m : Msg) (c : MirrorContent) : Steps wr s (State.takeMirror s m c) := by
  unfold State.takeMirror
  repeat' first
    | with_reducible exact .refl _
    | with_reducible apply Steps.after (State.badMessage_steps ..)
    | with_reducible apply Steps.after (State.send_steps ..)
    | (with_reducible apply Steps.ite <;> intro _)
    | fail_if_no_progress with_reducible refine Steps.upd ?_ rfl rfl rfl rfl

theorem State.mirrorHeld_drains (s : State) (m : Msg) : Drains true s (State.mirrorHeld s m) := by
  unfold State.mirrorHeld
  repeat' first
    | with_reducible exact .refl _
    | with_reducible assumption
    | (extract_lets -underBinder +onlyGivenNames y; clear_value (e : y = _)
       first | (refine Drains.seq (y := y) ?_ ?_; rotate_left; (intro hy; clear e); rotate_right; subst e) | subst e)
    | with_reducible apply Drains.after (State.putCompletion_steps ..).drains
    | with_reducible apply Drains.after (State.resumeMirrored_drains ..)
    | (with_reducible apply Drains.ite <;> intro _)
    | fail_if_no_progress with_reducible refine Drains.upd ?_ rfl rfl rfl rfl
    | split

theorem State.mirrorLate_drains (s : State) : Drains true s (State.mirrorLate s) := by
  unfold State.mirrorLate
  repeat' first
    | with_reducible exact .refl _
    | with_reducible apply Drains.after (State.declareLost_drains ..)
    | (with_reducible apply Drains.ite <;> intro _)
    | fail_if_no_progress with_reducible refine Drains.upd ?_ rfl rfl rfl rfl
    | split

theorem State.adopt_steps (s : State) (c : MirrorContent) : Steps wr s (s.adopt c) := by
  cases c <;> first | exact .refl _ | exact .upd (.refl s) rfl rfl rfl rfl

theorem State.putOn_steps (s : State) (q : Nat) (c : Completion) (asked : Bool) : Steps wr s (State.putOn s q c asked) := by
  unfold State.putOn
  repeat' first
    | with_reducible exact .refl _
    | with_reducible apply Steps.after (State.putCompletion_steps ..)
    | fail_if_no_progress with_reducible refine Steps.upd ?_ rfl rfl rfl rfl
    | split

theorem State.settleMirrored_steps (s : State) (lost : Nat) (c : MirrorContent) : Steps wr s (s.settleMirrored lost c) := by
  cases c <;> rw [State.settleMirrored]
  all_goals first
    | exact .refl _
    | exact State.putOn_steps ..
    | (split; exact State.putOn_steps ..; exact .refl _)

theorem State.takeOver_drains (s : State) : Drains true s (State.takeOver s) := by
  unfold State.takeOver
  repeat' first
    | with_reducible exact .refl _
    | with_reducible assumption
    | (extract_lets -underBinder +onlyGivenNames y; clear_value (e : y = _)
       first | (refine Drains.seq (y := y) ?_ ?_; rotate_left; (intro hy; clear e); rotate_right; subst e) | subst e)
    | with_reducible apply Drains.after (State.adopt_steps ..).drains
    | with_reducible apply Drains.after (State.appendLog_steps ..).drains
    | with_reducible apply Drains.after (State.beginRemap_steps ..).drains
    | with_reducible apply Drains.after (State.breakCascade_drains ..)
    | with_reducible apply Drains.after (State.flood_steps ..).drains
    | with_reducible apply Drains.after (State.forget_steps ..).drains
    | with_reducible apply Drains.after (State.modMember_steps ..).drains
    | with_reducible apply Drains.after (State.settleMirrored_steps ..).drains
    | with_reducible apply Drains.after (State.trace_steps ..).drains
    | (with_reducible apply Drains.after (Drains.foldl _ _ _ ?_); rotate_left; intro _ _)
    | (with_reducible apply Drains.ite <;> intro _)
    | fail_if_no_progress with_reducible refine Drains.upd ?_ rfl rfl rfl rfl

theorem State.decideTakeover_drains (s : State) : Drains true s (State.decideTakeover s) := by
  unfold State.decideTakeover
  repeat' first
    | with_reducible exact .refl _
    | with_reducible assumption
    | (extract_lets -underBinder +onlyGivenNames y; clear_value (e : y = _)
       first | (refine Drains.seq (y := y) ?_ ?_; rotate_left; (intro hy; clear e); rotate_right; subst e) | subst e)
    | with_reducible apply Drains.after (State.breakCascade_drains ..)
    | with_reducible apply Drains.after (State.takeOver_drains ..)
    | (with_reducible apply Drains.ite <;> intro _)
    | fail_if_no_progress with_reducible refine Drains.upd ?_ rfl rfl rfl rfl

theorem State.takenOver_steps (s : State) (m : Msg) : Steps wr s (State.takenOver s m) := by
  unfold State.takenOver
  repeat' first
    | with_reducible exact .refl _
    | with_reducible assumption
    | (extract_lets -underBinder +onlyGivenNames y; clear_value (e : y = _)
       first | (refine Steps.seq (y := y) ?_ ?_; rotate_left; (intro hy; clear e); rotate_right; subst e) | subst e)
    | with_reducible apply Steps.after (State.badMessage_steps ..)
    | with_reducible apply Steps.after (State.beginRemap_steps ..)
    | with_reducible apply Steps.after (State.enterFaulted_steps ..)
    | with_reducible apply Steps.after (State.flood_steps ..)
    | with_reducible apply Steps.after (State.forget_steps ..)
    | with_reducible apply Steps.after (State.modMember_steps ..)
    | (with_reducible apply Steps.ite <;> intro _)
    | fail_if_no_progress with_reducible refine Steps.upd ?_ rfl rfl rfl rfl

theorem State.takeCue_steps (s : State) (m : Msg) (c : CueContent) : Steps wr s (State.takeCue s m c) := by
  unfold State.takeCue
  repeat' first
    | with_reducible exact .refl _
    | with_reducible apply Steps.after (State.staged_steps ..)
    | (with_reducible apply Steps.ite <;> intro _)
    | fail_if_no_progress with_reducible refine Steps.upd ?_ rfl rfl rfl rfl
    | split

end Sys2Proof.Machine
end

