-- ==== Sys2Proof/Laws/StepsHost.lean ====
section
/-! SUPPORT. What each operation of repairs and the host port can do to the queue, to memory and to the
device state (`Steps` and its kin), said once for each; a proof about a step cites these and unfolds nothing. -/

set_option linter.all false

namespace Sys2Proof.Machine

open Sys2Proof

/-! ### Machine/Repairs.lean -/

theorem State.noteRepair_steps (s : State) (unit : Nat) (i : Nat) : Steps wr s (State.noteRepair s unit i).1 := by
  unfold State.noteRepair
  repeat' first
    | with_reducible exact Steps.refl _
    | with_reducible assumption
    | (extract_lets -underBinder +onlyGivenNames y; clear_value (e : y = _)
       first | (refine Steps.seq (y := y) ?_ ?_; rotate_left; (intro hy; clear e); rotate_right; subst e) | subst e)
    | with_reducible apply Steps.after (State.modArrayPart_steps ..)
    | with_reducible apply Steps.after (State.modCodec_steps ..)
    | with_reducible apply Steps.after (State.modSamp_steps ..)
    | with_reducible apply Steps.after (State.modScaler_steps ..)
    | with_reducible apply Steps.after (State.modVecPart_steps ..)
    | (with_reducible apply Steps.after (Steps.foldl _ _ _ ?_); rotate_left; intro _ _)
    | (with_reducible apply Steps.ite <;> intro _)
    | fail_if_no_progress with_reducible refine Steps.upd ?_ rfl rfl rfl rfl
    | split
    | dsimp -zeta only [Verdict.state_done, Verdict.state_wait]
    | fail_if_no_progress refine Steps.upd ?_ rfl rfl rfl rfl

theorem State.chargeRepair_steps (s : State) (k : Nat) (unit : Nat) (i : Nat) (most : Nat) :
    Steps wr s (State.chargeRepair s k unit i most) := by
  unfold State.chargeRepair
  repeat' first
    | with_reducible exact .refl _
    | with_reducible assumption
    | (extract_lets -underBinder +onlyGivenNames y; clear_value (e : y = _)
       first | (refine Steps.seq (y := y) ?_ ?_; rotate_left; (intro hy; clear e); rotate_right; subst e) | subst e)
    | with_reducible apply Steps.after (State.draw_steps ..)
    | with_reducible apply Steps.after (State.enterFaulted_steps ..)
    | with_reducible apply Steps.after (State.noteRepair_steps ..)
    | with_reducible apply Steps.after (State.repeatUnit_steps ..)
    | (with_reducible apply Steps.ite <;> intro _)
    | fail_if_no_progress with_reducible refine Steps.upd ?_ rfl rfl rfl rfl
    | split

theorem State.repairRun_steps (s : State) (id : Nat) : Steps wr s (State.repairRun s id) := by
  unfold State.repairRun
  split
  · split
    · extract_lets u r c
      split
      · exact State.enterFaulted_steps ..
      · exact (State.noteRepair_steps ..).trans (State.repeatUnit_steps ..)
    · exact .refl _
  · exact .refl _

theorem State.repairStrip_steps (s : State) (k : Nat) (strip : Nat) : Steps wr s (State.repairStrip s k strip) := by
  unfold State.repairStrip
  repeat' first
    | with_reducible exact .refl _
    | with_reducible assumption
    | (extract_lets -underBinder +onlyGivenNames y; clear_value (e : y = _)
       first | (refine Steps.seq (y := y) ?_ ?_; rotate_left; (intro hy; clear e); rotate_right; subst e) | subst e)
    | with_reducible apply Steps.after (State.chargeRepair_steps ..)
    | with_reducible apply Steps.after (State.stripRebuild_steps ..)
    | fail_if_no_progress with_reducible refine Steps.upd ?_ rfl rfl rfl rfl
    | split

theorem State.repairJpeg_steps (s : State) (k : Nat) : Steps wr s (State.repairJpeg s k) := by
  unfold State.repairJpeg
  repeat' first
    | with_reducible exact .refl _
    | with_reducible assumption
    | (extract_lets -underBinder +onlyGivenNames y; clear_value (e : y = _)
       first | (refine Steps.seq (y := y) ?_ ?_; rotate_left; (intro hy; clear e); rotate_right; subst e) | subst e)
    | with_reducible apply Steps.after (State.jpegRebuild_steps ..)
    | fail_if_no_progress with_reducible refine Steps.upd ?_ rfl rfl rfl rfl
    | split

theorem State.repairContent_steps (s : State) (line : Nat) (c : LineContent) : Steps wr s (s.repairContent line c) := by
  cases c <;> rw [State.repairContent]
  · exact State.repairStrip_steps ..
  · exact State.repairJpeg_steps ..
  · exact State.markCorrupt_steps ..
  · exact .upd (.refl s) rfl rfl rfl rfl
  · exact State.chargeRepair_steps ..
  · exact State.trace_steps ..
  · exact State.trace_steps ..
  · exact State.chargeRepair_steps ..
  · exact State.repairRun_steps ..
  · exact .upd (.refl s) rfl rfl rfl rfl

theorem State.stopReader_steps (s : State) (reader : Nat) (unit : Nat) (part : Nat) : Steps wr s (State.stopReader s reader unit part) := by
  unfold State.stopReader
  repeat' first
    | with_reducible exact .refl _
    | with_reducible assumption
    | (extract_lets -underBinder +onlyGivenNames y; clear_value (e : y = _)
       first | (refine Steps.seq (y := y) ?_ ?_; rotate_left; (intro hy; clear e); rotate_right; subst e) | subst e)
    | with_reducible apply Steps.after (State.modArrayPart_steps ..)
    | with_reducible apply Steps.after (State.modSamp_steps ..)
    | with_reducible apply Steps.after (State.modScaler_steps ..)
    | with_reducible apply Steps.after (State.modVecPart_steps ..)
    | with_reducible apply Steps.after (State.reencode_steps ..)
    | with_reducible apply Steps.after (State.take_steps ..)
    | (with_reducible apply Steps.ite <;> intro _)
    | fail_if_no_progress with_reducible refine Steps.upd ?_ rfl rfl rfl rfl
    | split

theorem State.noteMismatch_steps (s : State) (line : Nat) (reader : Nat) : Steps wr s (State.noteMismatch s line reader) := by
  unfold State.noteMismatch
  repeat' first
    | with_reducible exact .refl _
    | with_reducible assumption
    | (extract_lets -underBinder +onlyGivenNames y; clear_value (e : y = _)
       first | (refine Steps.seq (y := y) ?_ ?_; rotate_left; (intro hy; clear e); rotate_right; subst e) | subst e)
    | with_reducible apply Steps.after (State.enterFaulted_steps ..)
    | (with_reducible apply Steps.ite <;> intro _)
    | fail_if_no_progress with_reducible refine Steps.upd ?_ rfl rfl rfl rfl
    | split

theorem State.poisonedHouseRead_steps (s : State) (n : Nat) : Steps wr s (s.poisonedHouseRead n) :=
  ⟨rfl, fun h => h, .inl rfl, fun _ => ⟨rfl, rfl⟩⟩

theorem Steps.houseRebuilding {s e : State} (l : List (Nat × Nat × Nat × Nat)) (h : Steps wr s e) :
    Steps wr s { e with house := { e.house with rebuilding := l } } := .upd h rfl rfl rfl rfl
theorem State.lineMismatch_steps (s : State) (line reader unit part : Nat) : Steps wr s (s.lineMismatch line reader unit part) := by
  unfold State.lineMismatch
  dsimp only
  split
  · exact .refl _
  · have ha := State.noteMismatch_steps (wr := wr) s line reader
    generalize s.noteMismatch line reader = a at ha ⊢
    split
    · exact ha.trans (State.poisonedHouseRead_steps ..)
    · split
      · exact ha
      · have he : Steps wr a ((a.stopReader reader unit part).repairContent line (a.lineContent line)) :=
          (State.stopReader_steps ..).trans (State.repairContent_steps ..)
        generalize (a.stopReader reader unit part).repairContent line (a.lineContent line) = e at he ⊢
        split
        · exact Steps.houseRebuilding _ (ha.trans he)
        · exact ha.trans he

theorem State.lineRebuilt_steps (s : State) (line : Nat) (failsAgain : Bool) : Steps wr s (State.lineRebuilt s line failsAgain) := by
  unfold State.lineRebuilt
  repeat' first
    | with_reducible exact .refl _
    | with_reducible apply Steps.after (State.enterFaulted_steps ..)
    | (with_reducible apply Steps.ite <;> intro _)
    | fail_if_no_progress with_reducible refine Steps.upd ?_ rfl rfl rfl rfl

theorem State.refLost_steps (s : State) (address : Nat) : Steps wr s (State.refLost s address) := by
  unfold State.refLost
  repeat' first
    | with_reducible exact .refl _
    | with_reducible assumption
    | (extract_lets -underBinder +onlyGivenNames y; clear_value (e : y = _)
       first | (refine Steps.seq (y := y) ?_ ?_; rotate_left; (intro hy; clear e); rotate_right; subst e) | subst e)
    | with_reducible apply Steps.after (State.modCodec_steps ..)
    | with_reducible apply Steps.after (State.modStream_steps ..)
    | (with_reducible apply Steps.after (Steps.foldl _ _ _ ?_); rotate_left; intro _ _)
    | (with_reducible apply Steps.ite <;> intro _)
    | fail_if_no_progress with_reducible refine Steps.upd ?_ rfl rfl rfl rfl
    | split

theorem State.historyLost_steps (s : State) (address : Nat) : Steps true s (State.historyLost s address) := by
  unfold State.historyLost
  repeat' first
    | with_reducible exact .refl _
    | with_reducible assumption
    | (extract_lets -underBinder +onlyGivenNames y; clear_value (e : y = _)
       first | (refine Steps.seq (y := y) ?_ ?_; rotate_left; (intro hy; clear e); rotate_right; subst e) | subst e)
    | with_reducible apply Steps.after (State.writeMem_steps ..)
    | (with_reducible apply Steps.after (Steps.foldl _ _ _ ?_); rotate_left; intro _ _)
    | (with_reducible apply Steps.ite <;> intro _)
    | fail_if_no_progress with_reducible refine Steps.upd ?_ rfl rfl rfl rfl
    | split

theorem State.degradeFor_steps (s : State) (sample : Option Nat) (cause : Nat) : Steps wr s (State.degradeFor s sample cause) := by
  unfold State.degradeFor
  repeat' first
    | with_reducible exact .refl _
    | with_reducible apply Steps.after (State.modSample_steps ..)
    | fail_if_no_progress with_reducible refine Steps.upd ?_ rfl rfl rfl rfl
    | split

theorem State.burstHeld_steps (s : State) (address : Nat) : Steps wr s (State.burstHeld s address) := by
  unfold State.burstHeld
  exact .upd (.refl _) rfl rfl rfl rfl

theorem State.burstLost_steps (s : State) (address : Nat) (content : Nat) (sample : Option Nat) :
    Steps true s (State.burstLost s address content sample) := by
  unfold State.burstLost
  repeat' first
    | with_reducible exact .refl _
    | with_reducible assumption
    | (extract_lets -underBinder +onlyGivenNames y; clear_value (e : y = _)
       first | (refine Steps.seq (y := y) ?_ ?_; rotate_left; (intro hy; clear e); rotate_right; subst e) | subst e)
    | with_reducible apply Steps.after (State.burstHeld_steps ..)
    | with_reducible apply Steps.after (State.chargeRepair_steps ..)
    | with_reducible apply Steps.after (State.degradeFor_steps ..)
    | with_reducible apply Steps.after (State.historyLost_steps ..)
    | with_reducible apply Steps.after (State.markCorrupt_steps ..)
    | with_reducible apply Steps.after (State.refLost_steps ..)
    | with_reducible apply Steps.after (State.releaseName_steps ..)
    | (with_reducible apply Steps.ite <;> intro _)
    | fail_if_no_progress with_reducible refine Steps.upd ?_ rfl rfl rfl rfl
    | split

theorem State.loseBurst_steps (s : State) (address : Nat) (content : Nat) (sample : Option Nat) :
    Steps true s (State.loseBurst s address content sample) := by
  unfold State.loseBurst
  repeat' first
    | with_reducible exact .refl _
    | with_reducible assumption
    | (extract_lets -underBinder +onlyGivenNames y; clear_value (e : y = _)
       first | (refine Steps.seq (y := y) ?_ ?_; rotate_left; (intro hy; clear e); rotate_right; subst e) | subst e)
    | with_reducible apply Steps.after (State.burstLost_steps ..)
    | with_reducible apply Steps.after (State.enterFaulted_steps ..)
    | (with_reducible apply Steps.ite <;> intro _)
    | fail_if_no_progress with_reducible refine Steps.upd ?_ rfl rfl rfl rfl

theorem State.readFails_steps (s : State) (address : Nat) (content : Nat) (failed : Nat) (sample : Option Nat) :
    Steps true s (State.readFails s address content failed sample) := by
  unfold State.readFails
  repeat' first
    | with_reducible exact .refl _
    | with_reducible assumption
    | (extract_lets -underBinder +onlyGivenNames y; clear_value (e : y = _)
       first | (refine Steps.seq (y := y) ?_ ?_; rotate_left; (intro hy; clear e); rotate_right; subst e) | subst e)
    | with_reducible apply Steps.after (State.burstLost_steps ..)
    | with_reducible apply Steps.after (State.chargeRepair_steps ..)
    | with_reducible apply Steps.after (State.loseBurst_steps ..)
    | (with_reducible apply Steps.ite <;> intro _)
    | fail_if_no_progress with_reducible refine Steps.upd ?_ rfl rfl rfl rfl
    | split

theorem State.burstRebuilt_steps (s : State) (address : Nat) (readBackOk : Bool) :
    Steps wr s (State.burstRebuilt s address readBackOk) := by
  unfold State.burstRebuilt
  repeat' first
    | with_reducible exact .refl _
    | with_reducible assumption
    | (extract_lets -underBinder +onlyGivenNames y; clear_value (e : y = _)
       first | (refine Steps.seq (y := y) ?_ ?_; rotate_left; (intro hy; clear e); rotate_right; subst e) | subst e)
    | with_reducible apply Steps.after (State.burstHeld_steps ..)
    | with_reducible apply Steps.after (State.enterFaulted_steps ..)
    | (with_reducible apply Steps.ite <;> intro _)
    | fail_if_no_progress with_reducible refine Steps.upd ?_ rfl rfl rfl rfl
    | split

theorem State.writeCodeError_steps (s : State) (address : Nat) (second : Bool) : Steps wr s (State.writeCodeError s address second) := by
  unfold State.writeCodeError
  repeat' first
    | with_reducible exact .refl _
    | with_reducible assumption
    | (extract_lets -underBinder +onlyGivenNames y; clear_value (e : y = _)
       first | (refine Steps.seq (y := y) ?_ ?_; rotate_left; (intro hy; clear e); rotate_right; subst e) | subst e)
    | with_reducible apply Steps.after (State.enterFaulted_steps ..)
    | (with_reducible apply Steps.ite <;> intro _)
    | fail_if_no_progress with_reducible refine Steps.upd ?_ rfl rfl rfl rfl

/-! ### Machine/HostPort.lean -/

theorem State.badAccess_steps (s : State) : Steps wr s (State.badAccess s) := by
  unfold State.badAccess
  exact .upd (.refl _) rfl rfl rfl rfl

theorem State.noteAccess_steps (s : State) : Steps wr s (State.noteAccess s) := by
  unfold State.noteAccess
  exact .upd (.refl _) rfl rfl rfl rfl

theorem State.barWrite_steps (s : State) (fn : Nat) (f : State → State) (h : ∀ t, Steps wr t (f t)) : Steps wr s (s.barWrite fn f) := by
  unfold State.barWrite
  split
  · exact ((State.wakeLink_steps ..).trans (State.leaveRest_steps ..)).trans (h _)
  · exact .refl _

theorem State.blockWrite_steps (s : State) (fn : Nat) (f : State → State) (h : ∀ t, Steps wr t (f t)) : Steps wr s (s.blockWrite fn f) := by
  unfold State.blockWrite
  refine State.barWrite_steps _ _ _ fun t => ?_
  split
  · exact h t
  · exact .refl _

theorem State.dropDoorbell_steps (s : State) (q : Nat) : Steps wr s (State.dropDoorbell s q) := by
  unfold State.dropDoorbell
  repeat' first
    | with_reducible exact .refl _
    | with_reducible assumption
    | (extract_lets -underBinder +onlyGivenNames y; clear_value (e : y = _)
       first | (refine Steps.seq (y := y) ?_ ?_; rotate_left; (intro hy; clear e); rotate_right; subst e) | subst e)
    | fail_if_no_progress with_reducible refine Steps.upd ?_ rfl rfl rfl rfl

theorem State.writeTail_steps (s : State) (fn : Nat) (q : Nat) (value : Nat) : Steps wr s (State.writeTail s fn q value) := by
  unfold State.writeTail
  repeat' first
    | with_reducible exact .refl _
    | with_reducible assumption
    | (extract_lets -underBinder +onlyGivenNames y; clear_value (e : y = _)
       first | (refine Steps.seq (y := y) ?_ ?_; rotate_left; (intro hy; clear e); rotate_right; subst e) | subst e)
    | with_reducible apply Steps.after (State.dropDoorbell_steps ..)
    | with_reducible apply Steps.after (State.haltRing_steps ..)
    | with_reducible apply Steps.after (State.modRing_steps ..)
    | (with_reducible apply Steps.ite <;> intro _)
    | fail_if_no_progress with_reducible refine Steps.upd ?_ rfl rfl rfl rfl
    | split

theorem State.writeHead_steps (s : State) (fn : Nat) (q : Nat) (value : Nat) : Steps wr s (State.writeHead s fn q value) := by
  unfold State.writeHead
  repeat' first
    | with_reducible exact .refl _
    | with_reducible assumption
    | (extract_lets -underBinder +onlyGivenNames y; clear_value (e : y = _)
       first | (refine Steps.seq (y := y) ?_ ?_; rotate_left; (intro hy; clear e); rotate_right; subst e) | subst e)
    | with_reducible apply Steps.after (State.dropDoorbell_steps ..)
    | with_reducible apply Steps.after (State.flushEvents_steps ..)
    | with_reducible apply Steps.after (State.modRing_steps ..)
    | (with_reducible apply Steps.ite <;> intro _)
    | fail_if_no_progress with_reducible refine Steps.upd ?_ rfl rfl rfl rfl
    | split

theorem State.adminOn_steps (s : State) : Steps wr s (State.adminOn s) := by
  unfold State.adminOn
  repeat' first
    | with_reducible exact .refl _
    | with_reducible assumption
    | (extract_lets -underBinder +onlyGivenNames y; clear_value (e : y = _)
       first | (refine Steps.seq (y := y) ?_ ?_; rotate_left; (intro hy; clear e); rotate_right; subst e) | subst e)
    | with_reducible apply Steps.after (State.badAccess_steps ..)
    | with_reducible apply Steps.after (State.flushEvents_steps ..)
    | with_reducible apply Steps.after (State.freeDeck_steps ..)
    | (with_reducible apply Steps.ite <;> intro _)
    | fail_if_no_progress with_reducible refine Steps.upd ?_ rfl rfl rfl rfl

theorem State.adminOff_steps (s : State) : Steps wr s (State.adminOff s) := by
  unfold State.adminOff
  repeat' first
    | with_reducible exact .refl _
    | with_reducible assumption
    | (extract_lets -underBinder +onlyGivenNames y; clear_value (e : y = _)
       first | (refine Steps.seq (y := y) ?_ ?_; rotate_left; (intro hy; clear e); rotate_right; subst e) | subst e)
    | with_reducible apply Steps.after (State.badAccess_steps ..)
    | with_reducible apply Steps.after (State.modRing_steps ..)
    | (with_reducible apply Steps.ite <;> intro _)
    | fail_if_no_progress with_reducible refine Steps.upd ?_ rfl rfl rfl rfl

theorem State.adminRestart_steps (s : State) : Steps wr s (State.adminRestart s) := by
  unfold State.adminRestart
  repeat' first
    | with_reducible exact .refl _
    | with_reducible apply Steps.after (State.badAccess_steps ..)
    | with_reducible apply Steps.after (State.settleAdminReset_steps ..)
    | (with_reducible apply Steps.ite <;> intro _)
    | fail_if_no_progress with_reducible refine Steps.upd ?_ rfl rfl rfl rfl

theorem State.writeAdmin_steps (s : State) (v : Nat) : Steps wr s (State.writeAdmin s v) := by
  unfold State.writeAdmin
  repeat' first
    | with_reducible exact Steps.refl _
    | with_reducible assumption
    | (extract_lets -underBinder +onlyGivenNames y; clear_value (e : y = _)
       first | (refine Steps.seq (y := y) ?_ ?_; rotate_left; (intro hy; clear e); rotate_right; subst e) | subst e)
    | with_reducible apply Steps.after (State.adminOff_steps ..)
    | with_reducible apply Steps.after (State.adminOn_steps ..)
    | with_reducible apply Steps.after (State.adminRestart_steps ..)
    | with_reducible apply Steps.after (State.badAccess_steps ..)
    | (with_reducible apply Steps.after (Steps.foldl _ _ _ ?_); rotate_left; intro _ _)
    | (with_reducible apply Steps.ite <;> intro _)
    | fail_if_no_progress with_reducible refine Steps.upd ?_ rfl rfl rfl rfl
    | split
    | dsimp -zeta only [Verdict.state_done, Verdict.state_wait]
    | fail_if_no_progress refine Steps.upd ?_ rfl rfl rfl rfl

theorem State.setWindow_steps (s : State) (fn : Nat) (value : Nat) : Steps wr s (State.setWindow s fn value) := by
  unfold State.setWindow
  repeat' first
    | with_reducible exact .refl _
    | with_reducible assumption
    | (extract_lets -underBinder +onlyGivenNames y; clear_value (e : y = _)
       first | (refine Steps.seq (y := y) ?_ ?_; rotate_left; (intro hy; clear e); rotate_right; subst e) | subst e)
    | with_reducible apply Steps.after (State.badAccess_steps ..)
    | with_reducible apply Steps.after (State.modFn_steps ..)
    | (with_reducible apply Steps.ite <;> intro _)
    | fail_if_no_progress with_reducible refine Steps.upd ?_ rfl rfl rfl rfl

theorem State.setRange_steps (s : State) (vf : Nat) (first : Nat) (count : Nat) : Steps wr s (State.setRange s vf first count) := by
  unfold State.setRange
  repeat' first
    | with_reducible exact .refl _
    | with_reducible apply Steps.after (State.badAccess_steps ..)
    | with_reducible apply Steps.after (State.modFn_steps ..)
    | with_reducible apply Steps.after (State.playbillDue_steps ..)
    | (with_reducible apply Steps.ite <;> intro _)
    | fail_if_no_progress with_reducible refine Steps.upd ?_ rfl rfl rfl rfl

theorem State.setCastKey_steps (s : State) (fn : Nat) (slot : Nat) (value : Word256) : Steps wr s (State.setCastKey s fn slot value) := by
  unfold State.setCastKey
  repeat' first
    | with_reducible exact .refl _
    | with_reducible apply Steps.after (State.badAccess_steps ..)
    | (with_reducible apply Steps.ite <;> intro _)
    | fail_if_no_progress with_reducible refine Steps.upd ?_ rfl rfl rfl rfl

theorem State.lockCastKeys_steps (s : State) (fn : Nat) : Steps wr s (State.lockCastKeys s fn) := by
  unfold State.lockCastKeys
  repeat' first
    | with_reducible exact .refl _
    | with_reducible assumption
    | (extract_lets -underBinder +onlyGivenNames y; clear_value (e : y = _)
       first | (refine Steps.seq (y := y) ?_ ?_; rotate_left; (intro hy; clear e); rotate_right; subst e) | subst e)
    | with_reducible apply Steps.after (State.appendLog_steps ..)
    | with_reducible apply Steps.after (State.badAccess_steps ..)
    | (with_reducible apply Steps.ite <;> intro _)
    | fail_if_no_progress with_reducible refine Steps.upd ?_ rfl rfl rfl rfl

theorem State.pushGo_steps (s : State) : Steps wr s (State.pushGo s) := by
  unfold State.pushGo
  repeat' first
    | with_reducible exact .refl _
    | (with_reducible apply Steps.ite <;> intro _)
    | fail_if_no_progress with_reducible refine Steps.upd ?_ rfl rfl rfl rfl

theorem State.setLimit_steps (s : State) (watts : Nat) : Steps wr s (State.setLimit s watts) := by
  unfold State.setLimit
  repeat' first
    | with_reducible exact .refl _
    | with_reducible apply Steps.after (State.badAccess_steps ..)
    | (with_reducible apply Steps.ite <;> intro _)
    | fail_if_no_progress with_reducible refine Steps.upd ?_ rfl rfl rfl rfl

theorem State.settleVector_steps (s : State) (fn : Nat) (v : Nat) : Steps wr s (State.settleVector s fn v) := by
  unfold State.settleVector
  repeat' first
    | with_reducible exact .refl _
    | with_reducible assumption
    | (extract_lets -underBinder +onlyGivenNames y; clear_value (e : y = _)
       first | (refine Steps.seq (y := y) ?_ ?_; rotate_left; (intro hy; clear e); rotate_right; subst e) | subst e)
    | with_reducible apply Steps.after (State.modFn_steps ..)
    | (with_reducible apply Steps.ite <;> intro _)
    | fail_if_no_progress with_reducible refine Steps.upd ?_ rfl rfl rfl rfl

theorem State.writeMsix_steps (s : State) (fn : Nat) (o : Nat) (w : Nat) : Steps wr s (State.writeMsix s fn o w) := by
  unfold State.writeMsix
  repeat' first
    | with_reducible exact .refl _
    | with_reducible assumption
    | (extract_lets -underBinder +onlyGivenNames y; clear_value (e : y = _)
       first | (refine Steps.seq (y := y) ?_ ?_; rotate_left; (intro hy; clear e); rotate_right; subst e) | subst e)
    | with_reducible apply Steps.after (State.modFn_steps ..)
    | with_reducible apply Steps.after (State.settleVector_steps ..)
    | (with_reducible apply Steps.ite <;> intro _)
    | fail_if_no_progress with_reducible refine Steps.upd ?_ rfl rfl rfl rfl
    | split

theorem State.unmask_steps (s : State) (fn : Nat) (v : Nat) : Steps wr s (State.unmask s fn v) := by
  unfold State.unmask
  repeat' first
    | with_reducible exact .refl _
    | with_reducible assumption
    | (extract_lets -underBinder +onlyGivenNames y; clear_value (e : y = _)
       first | (refine Steps.seq (y := y) ?_ ?_; rotate_left; (intro hy; clear e); rotate_right; subst e) | subst e)
    | with_reducible apply Steps.after (State.modFn_steps ..)
    | with_reducible apply Steps.after (State.settleVector_steps ..)
    | (with_reducible apply Steps.ite <;> intro _)
    | fail_if_no_progress with_reducible refine Steps.upd ?_ rfl rfl rfl rfl

theorem State.setAdminBase_steps (s : State) (complete : Bool) (value : Nat) : Steps wr s (State.setAdminBase s complete value) := by
  unfold State.setAdminBase
  repeat' first
    | with_reducible exact Steps.refl _
    | with_reducible assumption
    | (extract_lets -underBinder +onlyGivenNames y; clear_value (e : y = _)
       first | (refine Steps.seq (y := y) ?_ ?_; rotate_left; (intro hy; clear e); rotate_right; subst e) | subst e)
    | with_reducible apply Steps.after (State.badAccess_steps ..)
    | with_reducible apply Steps.after (State.complete_steps ..)
    | (with_reducible apply Steps.after (Steps.foldl _ _ _ ?_); rotate_left; intro _ _)
    | (with_reducible apply Steps.ite <;> intro _)
    | fail_if_no_progress with_reducible refine Steps.upd ?_ rfl rfl rfl rfl
    | split
    | dsimp -zeta only [Verdict.state_done, Verdict.state_wait]
    | fail_if_no_progress refine Steps.upd ?_ rfl rfl rfl rfl

theorem State.writeHost_steps (s : State) (o : Nat) (w : Nat) : Steps wr s (State.writeHost s o w) := by
  unfold State.writeHost
  repeat' first
    | with_reducible exact .refl _
    | with_reducible apply Steps.after (State.setAdminBase_steps ..)
    | with_reducible apply Steps.after (State.setRange_steps ..)
    | with_reducible apply Steps.after (State.setWindow_steps ..)
    | with_reducible apply Steps.after (State.writeAdmin_steps ..)
    | with_reducible apply Steps.after (State.writeMsix_steps ..)
    | (with_reducible apply Steps.ite <;> intro _)
    | fail_if_no_progress with_reducible refine Steps.upd ?_ rfl rfl rfl rfl

theorem State.writeHost64_steps (s : State) (o : Nat) (v : Nat) : Steps wr s (State.writeHost64 s o v) := by
  unfold State.writeHost64
  repeat' first
    | with_reducible exact .refl _
    | with_reducible apply Steps.after (State.setAdminBase_steps ..)
    | with_reducible apply Steps.after (State.setWindow_steps ..)
    | (with_reducible apply Steps.ite <;> intro _)

theorem State.writeSec_steps (s : State) (o : Nat) (w : Nat) : Steps wr s (State.writeSec s o w) := by
  unfold State.writeSec
  repeat' first
    | with_reducible exact .refl _
    | with_reducible assumption
    | (extract_lets -underBinder +onlyGivenNames y; clear_value (e : y = _)
       first | (refine Steps.seq (y := y) ?_ ?_; rotate_left; (intro hy; clear e); rotate_right; subst e) | subst e)
    | with_reducible apply Steps.after (State.lockCastKeys_steps ..)
    | with_reducible apply Steps.after (State.pushGo_steps ..)
    | with_reducible apply Steps.after (State.setCastKey_steps ..)
    | (with_reducible apply Steps.ite <;> intro _)
    | fail_if_no_progress with_reducible refine Steps.upd ?_ rfl rfl rfl rfl

theorem State.writeBlock_steps (s : State) (b : Block19) (o : Nat) (w : Nat) : Steps wr s (State.writeBlock s b o w) := by
  unfold State.writeBlock
  repeat' first
    | with_reducible exact .refl _
    | with_reducible apply Steps.after (State.setLimit_steps ..)
    | with_reducible apply Steps.after (State.writeHost_steps ..)
    | with_reducible apply Steps.after (State.writeSec_steps ..)
    | (with_reducible apply Steps.ite <;> intro _)
    | fail_if_no_progress with_reducible refine Steps.upd ?_ rfl rfl rfl rfl
    | split

theorem State.writeWindow_steps (s : State) (fn : Nat) (offset : Nat) (size : Nat) (value : Nat) :
    Steps wr s (State.writeWindow s fn offset size value) := by
  unfold State.writeWindow
  repeat' first
    | with_reducible exact .refl _
    | with_reducible assumption
    | (extract_lets -underBinder +onlyGivenNames y; clear_value (e : y = _)
       first | (refine Steps.seq (y := y) ?_ ?_; rotate_left; (intro hy; clear e); rotate_right; subst e) | subst e)
    | with_reducible apply Steps.after (State.writeBlock_steps ..)
    | with_reducible apply Steps.after (State.writeHost64_steps ..)
    | with_reducible apply Steps.after (State.writeMsix_steps ..)
    | (with_reducible apply Steps.after (Steps.foldl _ _ _ ?_); rotate_left; intro _ _)
    | (with_reducible apply Steps.ite <;> intro _)
    | fail_if_no_progress with_reducible refine Steps.upd ?_ rfl rfl rfl rfl
    | split

theorem State.writePage_steps (s : State) (fn : Nat) (q : Nat) (o : Nat) (w : Nat) : Steps wr s (State.writePage s fn q o w) := by
  unfold State.writePage
  repeat' first
    | with_reducible exact .refl _
    | with_reducible assumption
    | (extract_lets -underBinder +onlyGivenNames y; clear_value (e : y = _)
       first | (refine Steps.seq (y := y) ?_ ?_; rotate_left; (intro hy; clear e); rotate_right; subst e) | subst e)
    | with_reducible apply Steps.after (State.dropDoorbell_steps ..)
    | with_reducible apply Steps.after (State.noteAccess_steps ..)
    | with_reducible apply Steps.after (State.writeHead_steps ..)
    | with_reducible apply Steps.after (State.writeTail_steps ..)
    | (with_reducible apply Steps.ite <;> intro _)
    | fail_if_no_progress with_reducible refine Steps.upd ?_ rfl rfl rfl rfl

theorem State.writeRegister_steps (s : State) (fn : Nat) (offset : Nat) (size : Nat) (value : Nat) :
    Steps wr s (State.writeRegister s fn offset size value) := by
  unfold State.writeRegister
  repeat' first
    | with_reducible exact .refl _
    | with_reducible assumption
    | (extract_lets -underBinder +onlyGivenNames y; clear_value (e : y = _)
       first | (refine Steps.seq (y := y) ?_ ?_; rotate_left; (intro hy; clear e); rotate_right; subst e) | subst e)
    | with_reducible apply Steps.after (State.badAccess_steps ..)
    | with_reducible apply Steps.after (State.writePage_steps ..)
    | with_reducible apply Steps.after (State.writeWindow_steps ..)
    | (with_reducible apply Steps.ite <;> intro _)
    | fail_if_no_progress with_reducible refine Steps.upd ?_ rfl rfl rfl rfl

theorem State.readPageWord_steps (s : State) (q : Nat) (o : Nat) : Steps wr s (State.readPageWord s q o).2 := by
  unfold State.readPageWord
  repeat' first
    | with_reducible exact .refl _
    | with_reducible assumption
    | (extract_lets -underBinder +onlyGivenNames y; clear_value (e : y = _)
       first | (refine Steps.seq (y := y) ?_ ?_; rotate_left; (intro hy; clear e); rotate_right; subst e) | subst e)
    | with_reducible apply Steps.after (State.modRing_steps ..)
    | (with_reducible apply Steps.ite <;> intro _)
    | fail_if_no_progress with_reducible refine Steps.upd ?_ rfl rfl rfl rfl
    | split

theorem State.readBar0Word_steps (s : State) (fn : Nat) (offset : Nat) : Steps wr s (State.readBar0Word s fn offset).2 := by
  unfold State.readBar0Word
  repeat' first
    | with_reducible exact .refl _
    | with_reducible apply Steps.after (State.readPageWord_steps ..)
    | with_reducible apply Steps.after (State.readWord_steps ..)
    | (with_reducible apply Steps.ite <;> intro _)
    | fail_if_no_progress with_reducible refine Steps.upd ?_ rfl rfl rfl rfl
    | split

theorem State.gotValue_steps (s : State) (v : Nat) : Steps wr s (State.gotValue s v) := by
  unfold State.gotValue
  exact .upd (.refl _) rfl rfl rfl rfl

theorem State.readRegister_steps (s : State) (fn : Nat) (offset : Nat) (size : Nat) : Steps wr s (State.readRegister s fn offset size) := by
  unfold State.readRegister
  repeat' first
    | with_reducible exact .refl _
    | with_reducible assumption
    | (extract_lets -underBinder +onlyGivenNames y; clear_value (e : y = _)
       first | (refine Steps.seq (y := y) ?_ ?_; rotate_left; (intro hy; clear e); rotate_right; subst e) | subst e)
    | with_reducible apply Steps.after (State.badAccess_steps ..)
    | with_reducible apply Steps.after (State.gotValue_steps ..)
    | with_reducible apply Steps.after (State.noteAccess_steps ..)
    | with_reducible apply Steps.after (State.readBar0Word_steps ..)
    | (with_reducible apply Steps.ite <;> intro _)
    | fail_if_no_progress with_reducible refine Steps.upd ?_ rfl rfl rfl rfl

theorem State.barRead_steps (s : State) (fn : Nat) (f : State → State) (h : ∀ t, Steps wr t (f t)) : Steps wr s (s.barRead fn f) := by
  unfold State.barRead
  split
  · exact (State.wakeLink_steps ..).trans (h _)
  · exact .refl _

theorem State.gotBytes_steps (s : State) (bs : List Byte) : Steps wr s (State.gotBytes s bs) := by
  unfold State.gotBytes
  exact .upd (.refl _) rfl rfl rfl rfl

theorem State.readBar2_steps (s : State) (fn x n : Nat) : Steps wr s (s.readBar2 fn x n) := by
  unfold State.readBar2
  dsimp only
  split
  · exact (State.badAccess_steps ..).trans (State.gotBytes_steps ..)
  · have ha := State.noteAccess_steps (wr := wr) s
    generalize s.noteAccess = a at ha ⊢
    split
    · exact ha.trans (State.gotBytes_steps ..)
    · next dram x _ =>
      have hb : Steps wr a (if dram = true then a.exitSelfRefresh else a) := .ite (fun _ => State.exitSelfRefresh_steps ..) fun _ => .refl _
      generalize (if dram = true then a.exitSelfRefresh else a) = b at hb ⊢
      refine (ha.trans hb).trans ?_
      split
      · have hc := State.gotBytes_steps (wr := wr) b (List.replicate n 0)
        generalize b.gotBytes (List.replicate n 0) = c at hc ⊢
        split <;> exact .upd hc rfl rfl rfl rfl
      · split
        · split
          · exact ⟨rfl, fun h => h, .inl rfl, fun _ => ⟨rfl, rfl⟩⟩
          · exact State.gotBytes_steps ..
        · split
          · exact State.gotBytes_steps ..
          · exact Steps.trans (.foldl _ _ _ fun _ _ => State.noteMismatch_steps ..) (State.poisonedHouseRead_steps ..)

theorem State.poisonLine_steps (s : State) (l : Nat) : Steps wr s (State.poisonLine s l) := by
  unfold State.poisonLine
  repeat' first
    | with_reducible exact .refl _
    | (with_reducible apply Steps.ite <;> intro _)
    | fail_if_no_progress with_reducible refine Steps.upd ?_ rfl rfl rfl rfl

theorem State.poisonBurst_steps (s : State) (l : Nat) : Steps wr s (State.poisonBurst s l) := by
  unfold State.poisonBurst
  repeat' first
    | with_reducible exact .refl _
    | with_reducible assumption
    | (extract_lets -underBinder +onlyGivenNames y; clear_value (e : y = _)
       first | (refine Steps.seq (y := y) ?_ ?_; rotate_left; (intro hy; clear e); rotate_right; subst e) | subst e)
    | with_reducible apply Steps.after (State.enterFaulted_steps ..)
    | (with_reducible apply Steps.ite <;> intro _)
    | fail_if_no_progress with_reducible refine Steps.upd ?_ rfl rfl rfl rfl
    | split

theorem State.writeBar2_steps (s : State) (fn : Nat) (x : Nat) (data : List Byte) (poisoned : Bool) :
    Steps true s (State.writeBar2 s fn x data poisoned) := by
  unfold State.writeBar2
  repeat' first
    | with_reducible exact .refl _
    | with_reducible assumption
    | (extract_lets -underBinder +onlyGivenNames y; clear_value (e : y = _)
       first | (refine Steps.seq (y := y) ?_ ?_; rotate_left; (intro hy; clear e); rotate_right; subst e) | subst e)
    | with_reducible apply Steps.after (State.badAccess_steps ..)
    | with_reducible apply Steps.after (State.exitSelfRefresh_steps ..)
    | with_reducible apply Steps.after (State.noteAccess_steps ..)
    | with_reducible apply Steps.after (State.poisonBurst_steps ..)
    | with_reducible apply Steps.after (State.poisonLine_steps ..)
    | with_reducible apply Steps.after (State.writeMem_steps ..)
    | (with_reducible apply Steps.after (Steps.foldl _ _ _ ?_); rotate_left; intro _ _)
    | (with_reducible apply Steps.ite <;> intro _)
    | fail_if_no_progress with_reducible refine Steps.upd ?_ rfl rfl rfl rfl
    | split

theorem State.refuseOn_steps (s : State) (q : Nat) (slot : Nat) (phase : Bool) : Steps wr s (State.refuseOn s q slot phase) := by
  unfold State.refuseOn
  repeat' first
    | with_reducible exact .refl _
    | with_reducible apply Steps.after (State.modRing_steps ..)
    | (with_reducible apply Steps.ite <;> intro _)
    | fail_if_no_progress with_reducible refine Steps.upd ?_ rfl rfl rfl rfl

theorem State.refuseWrite_steps (s : State) (w : PostedWrite) : Steps wr s (State.refuseWrite s w) := by
  unfold State.refuseWrite
  repeat' first
    | with_reducible exact .refl _
    | with_reducible assumption
    | (extract_lets -underBinder +onlyGivenNames y; clear_value (e : y = _)
       first | (refine Steps.seq (y := y) ?_ ?_; rotate_left; (intro hy; clear e); rotate_right; subst e) | subst e)
    | with_reducible apply Steps.after (State.refuseOn_steps ..)
    | (with_reducible apply Steps.ite <;> intro _)
    | fail_if_no_progress with_reducible refine Steps.upd ?_ rfl rfl rfl rfl
    | split

theorem State.stopCommand_steps (s : State) (id : Nat) : Steps true s (State.stopCommand s id) := by
  unfold State.stopCommand
  repeat' first
    | with_reducible exact .refl _
    | with_reducible assumption
    | (extract_lets -underBinder +onlyGivenNames y; clear_value (e : y = _)
       first | (refine Steps.seq (y := y) ?_ ?_; rotate_left; (intro hy; clear e); rotate_right; subst e) | subst e)
    | with_reducible apply Steps.after (State.draw_steps ..)
    | with_reducible apply Steps.after (State.endRun_steps ..)
    | with_reducible apply Steps.after (State.formFails_steps ..)
    | with_reducible apply Steps.after (State.releaseName_steps ..)
    | with_reducible apply Steps.after (State.unregister_steps ..)
    | with_reducible apply Steps.after (State.writeMem_steps ..)
    | with_reducible apply Steps.after (State.zeroMem_steps ..)
    | (with_reducible apply Steps.after (Steps.foldl _ _ _ ?_); rotate_left; intro _ _)
    | (with_reducible apply Steps.ite <;> intro _)
    | fail_if_no_progress with_reducible refine Steps.upd ?_ rfl rfl rfl rfl
    | split

theorem State.closeNow_steps (s : State) (n : Nat) : Steps wr s (State.closeNow s n) := by
  unfold State.closeNow
  repeat' first
    | with_reducible exact .refl _
    | with_reducible assumption
    | (extract_lets -underBinder +onlyGivenNames y; clear_value (e : y = _)
       first | (refine Steps.seq (y := y) ?_ ?_; rotate_left; (intro hy; clear e); rotate_right; subst e) | subst e)
    | with_reducible apply Steps.after (State.closeIfDone_steps ..)
    | with_reducible apply Steps.after (State.dropChain_steps ..)
    | with_reducible apply Steps.after (State.dropOpenFrames_steps ..)
    | with_reducible apply Steps.after (State.modStream_steps ..)
    | with_reducible apply Steps.after (State.releaseSample_steps ..)
    | (with_reducible apply Steps.after (Steps.foldl _ _ _ ?_); rotate_left; intro _ _)
    | fail_if_no_progress with_reducible refine Steps.upd ?_ rfl rfl rfl rfl
    | split

theorem State.freeGroups_steps (s : State) (groups : List Nat) : Steps wr s (State.freeGroups s groups) := by
  unfold State.freeGroups
  repeat' first
    | with_reducible exact .refl _
    | with_reducible assumption
    | (extract_lets -underBinder +onlyGivenNames y; clear_value (e : y = _)
       first | (refine Steps.seq (y := y) ?_ ?_; rotate_left; (intro hy; clear e); rotate_right; subst e) | subst e)
    | with_reducible apply Steps.after (State.freeBuf_steps ..)
    | (with_reducible apply Steps.after (Steps.foldl _ _ _ ?_); rotate_left; intro _ _)
    | fail_if_no_progress with_reducible refine Steps.upd ?_ rfl rfl rfl rfl

theorem State.resetObjects_steps (s : State) (fn : Nat) : Steps true s (s.resetObjects fn) := by
  unfold State.resetObjects
  extract_lets groups mine ids streams rings a b c d e
  have ha : Steps true s a := .foldl _ _ _ fun _ _ => State.stopCommand_steps ..
  have hb : Steps true a b := .foldl _ _ _ fun _ _ => State.closeNow_steps ..
  have hc : Steps true b c := .foldl _ _ _ fun _ _ => State.freeDeck_steps ..
  have hd : Steps true c d := State.freeGroups_steps ..
  have he : Steps true d e := .upd (.refl d) rfl rfl rfl rfl
  exact ((ha.trans hb).trans (hc.trans hd)).trans (he.trans (State.settleSeals_steps ..))

theorem State.resetVf_steps (s : State) (vf : Nat) : Steps true s (State.resetVf s vf) := by
  unfold State.resetVf
  repeat' first
    | with_reducible exact .refl _
    | with_reducible assumption
    | (extract_lets -underBinder +onlyGivenNames y; clear_value (e : y = _)
       first | (refine Steps.seq (y := y) ?_ ?_; rotate_left; (intro hy; clear e); rotate_right; subst e) | subst e)
    | with_reducible apply Steps.after (State.modFn_steps ..)
    | with_reducible apply Steps.after (State.resetObjects_steps ..)
    | (with_reducible apply Steps.ite <;> intro _)
    | fail_if_no_progress with_reducible refine Steps.upd ?_ rfl rfl rfl rfl

theorem State.removeVfs_steps (s : State) : Steps true s (State.removeVfs s) := by
  unfold State.removeVfs
  repeat' first
    | with_reducible exact .refl _
    | with_reducible assumption
    | (extract_lets -underBinder +onlyGivenNames y; clear_value (e : y = _)
       first | (refine Steps.seq (y := y) ?_ ?_; rotate_left; (intro hy; clear e); rotate_right; subst e) | subst e)
    | with_reducible apply Steps.after (State.resetVf_steps ..)
    | (with_reducible apply Steps.after (Steps.foldl _ _ _ ?_); rotate_left; intro _ _)
    | (with_reducible apply Steps.ite <;> intro _)
    | fail_if_no_progress with_reducible refine Steps.upd ?_ rfl rfl rfl rfl

theorem State.resetPf_steps (s : State) : Steps true s (State.resetPf s) := by
  unfold State.resetPf
  repeat' first
    | with_reducible exact .refl _
    | with_reducible assumption
    | (extract_lets -underBinder +onlyGivenNames y; clear_value (e : y = _)
       first | (refine Steps.seq (y := y) ?_ ?_; rotate_left; (intro hy; clear e); rotate_right; subst e) | subst e)
    | with_reducible apply Steps.after (State.modFn_steps ..)
    | with_reducible apply Steps.after (State.removeVfs_steps ..)
    | with_reducible apply Steps.after (State.resetObjects_steps ..)
    | with_reducible apply Steps.after (State.sealPixels_steps ..)
    | with_reducible apply Steps.after (State.setEncoded_steps ..)
    | with_reducible apply Steps.after (State.tellMembers_steps ..)
    | (with_reducible apply Steps.ite <;> intro _)
    | fail_if_no_progress with_reducible refine Steps.upd ?_ rfl rfl rfl rfl

theorem State.writeVfEnable_steps (s : State) (enable : Bool) (numVfs : Nat) (ari : Bool) :
    Steps true s (State.writeVfEnable s enable numVfs ari) := by
  unfold State.writeVfEnable
  repeat' first
    | with_reducible exact .refl _
    | with_reducible apply Steps.after (State.removeVfs_steps ..)
    | (with_reducible apply Steps.ite <;> intro _)
    | fail_if_no_progress with_reducible refine Steps.upd ?_ rfl rfl rfl rfl

end Sys2Proof.Machine
end

