-- ==== Sys2Proof/Laws/Tables.lean ====
section
/-! SUPPORT. The sparse tables: what a look-up finds after each update. -/

namespace Sys2Proof.Machine

open Sys2Proof

theorem aget_amod {α : Type} (l : List (Nat × α)) (n m : Nat) (f : α → α) :
    aget (amod l n f) m = if m = n then (aget l m).map f else aget l m := by
  induction l with
  | nil => simp [amod, aget]
  | cons x l ih =>
    obtain ⟨k, v⟩ := x
    by_cases hk : k = n
    · subst hk
      by_cases hm : k = m
      · subst hm; simp [amod, aget]
      · simp [amod, aget, hm, Ne.symm hm]
    · by_cases hm : k = m
      · subst hm; simp [amod, aget, hk]
      · simp [amod, aget, hk, hm, ih]

theorem aget_aset {α : Type} (l : List (Nat × α)) (n m : Nat) (v : α) :
    aget (aset l n v) m = if m = n then some v else aget l m := by
  induction l with
  | nil => simp [aset, aget, eq_comm]
  | cons x l ih =>
    obtain ⟨k, w⟩ := x
    simp only [aset]
    split
    · by_cases hm : m = n
      · subst hm; simp [aget]
      · simp [aget, hm, Ne.symm hm]
    · split
      · rename_i h1 h2; subst h2
        by_cases hm : m = n
        · subst hm; simp [aget]
        · simp [aget, hm, Ne.symm hm]
      · by_cases hm : m = n
        · subst hm; simp only [aget, ih, if_true]; split
          · omega
          · rfl
        · simp only [aget, ih]; simp [hm]

theorem aget_adel {α : Type} (l : List (Nat × α)) (n m : Nat) :
    aget (adel l n) m = if m = n then none else aget l m := by
  induction l with
  | nil => simp [adel, aget]
  | cons x l ih =>
    obtain ⟨k, w⟩ := x
    simp only [adel]
    by_cases hk : k = n
    · subst hk
      by_cases hm : k = m
      · subst hm; simp [ih]
      · simp [ih, aget, hm, Ne.symm hm]
    · by_cases hm : k = m
      · subst hm; simp [aget, hk]
      · simp [aget, hk, hm, ih]

/-- What a look-up finds is in the table. -/
theorem mem_of_aget {α : Type} {l : List (Nat × α)} {n : Nat} {v : α} (h : aget l n = some v) : (n, v) ∈ l := by
  induction l with
  | nil => simp [aget] at h
  | cons x l ih =>
    obtain ⟨k, w⟩ := x
    by_cases hk : k = n
    · simp_all [aget]
    · simp [aget, hk] at h; exact List.mem_cons_of_mem _ (ih h)

end Sys2Proof.Machine
end

