-- ==== Sys2Proof/WellFormed.lean ====
section
/-! DEFINITION. Which commands are well formed: every unit number names a unit of Table 1.1, every register operand fits its
field.  exec is total on every command; this says which commands the block's wires can carry. -/

namespace Sys2Proof

/-- A packet of one of the 16,384 rings (R296). -/
def Packet.wf (p : Packet) : Bool := p.ring < 16384

/-- A function number (R333). -/
def fnOk (fn : Nat) : Bool := fn < 64

/-- An array, vector engine or sampler part. -/
def partOk (unit part : Nat) : Bool := unit < 8 && part < 4

/-- A message header's fields fit Table 15.3. -/
def Msg.wf (m : Msg) : Bool :=
  m.kind < 256 && m.src < 16 && m.dst < 16 && m.ttl < 16 && m.length ≤ 65536 && m.epoch < 2 ^ 32 && m.address < 2 ^ 64
    && m.chain < 2 ^ 32 && m.block < 2 ^ 32

/-- A flit's fields fit Table 15.1. -/
def Flit.wf (f : Flit) : Bool := f.channel < 3 && f.seq < 4096 && f.ack < 4096 && f.credits.length = 3

/-- The operands of a command lie in the ranges its unit counts and field widths give. -/
def Instr.wf : Instr → Bool
  | .nop _ p | .deviceStart _ p | .deviceStop _ p | .ringCreate _ p | .ringDestroy _ p | .ringReset _ p
  | .streamDeclare _ p | .streamAdmit _ p | .streamStart _ p | .streamPause _ p | .streamResume _ p
  | .streamClose _ p | .streamQuery _ p | .castLoad _ p | .castUnload _ p | .scriptLoad _ p | .scriptUnload _ p
  | .cueSetPeriod _ p | .cueSetEpoch _ p | .cueSetSource _ p | .timeSteer _ p | .timeStep _ p | .timePps _ p
  | .poolCreate _ p | .poolDestroy _ p | .poolReserve _ p | .bufferAlloc _ p | .bufferFree _ p | .memoryCopy _ p
  | .arraySplit _ p | .arrayRun _ p | .arrayTest _ p | .vecSplit _ p | .vecScalars _ p | .vecRun _ p | .vecTest _ p
  | .randomSeed _ p | .sampleRun _ p | .randomTest _ p | .decodeConfigure _ p | .encodeConfigure _ p
  | .encodeSetRate _ p | .encodeForceIntra _ p | .decodeRefresh _ p | .codecTest _ p | .csi2PortSet _ p
  | .ingestConfigure _ p | .feed _ p | .ingestTest _ p | .cascadeForm _ p | .cascadeDissolve _ p | .linkTest _ p
  | .attestReport _ p | .pixelsUnseal _ p | .pixelsSeal _ p | .encodedOutput _ p | .firmwareStage _ p
  | .traceSet _ p | .countersSnapshot _ p | .dramInterleave _ p | .dramTest _ p => p.wf
  | .ringSubmitTailWrite _ fn ring value | .ringCompleteHeadWrite _ fn ring value =>
    fnOk fn && ring < 16384 && value < 65536
  | .adminEnable _ fn | .adminDisable _ fn | .adminReset _ fn | .castKeysLock _ fn | .bootPushGo _ fn
  | .nowLoRead _ fn | .ppsLoRead _ fn | .numberLoRead _ fn | .d3hotEntry _ fn | .d3hotExit _ fn
  | .busMasterEnableWrite _ fn _ => fnOk fn
  | .bar2WindowBaseWrite _ fn value => fnOk fn && value < 2 ^ 64
  | .vfWindowBaseWrite _ fn vf value => fnOk fn && 1 ≤ vf && vf < 64 && value < 2 ^ 64
  | .vfRingsWrite _ fn vf first count => fnOk fn && 1 ≤ vf && vf < 64 && first < 16384 && count < 2048
  | .castKeyHashWrite _ fn slot _ => fnOk fn && slot < 8
  | .limitWattsWrite _ fn watts => fnOk fn && watts < 1024
  | .registerWrite _ fn offset size _ | .readClear _ fn offset size =>
    fnOk fn && offset < 2 ^ 28 && (size = 4 || size = 8)
  | .bar2Read _ fn offset length => fnOk fn && offset < 2 ^ 36 && 1 ≤ length && length ≤ 512
  | .bar2Write _ fn offset data _ => fnOk fn && offset < 2 ^ 36 && 1 ≤ data.length && data.length ≤ 512
  | .functionLevelResetVf _ vf => 1 ≤ vf && vf < 64
  | .msixUnmask _ fn vector => fnOk fn && vector < 2048
  | .shadowLoadStart _ a q | .arrayRow0Entry _ a q | .arrayInstructionComplete _ a q => partOk a q
  | .arrayResidueFailure _ a q column row => partOk a q && column < 512 && row < 65536
  | .scaleTagMismatch _ _ u q => partOk u q
  | .arrayClockGate _ a => a < 8
  | .splitModeChange _ u m | .vectorSplitModeChange _ u m => u < 8 && m < 3
  | .houseLineMismatch _ line reader u q => line < 6291456 && reader < 10 && u < 16 && q < 4
  | .lineRebuildComplete _ line _ => line < 6291456
  | .vectorInstructionIssue _ e q | .vectorInstructionComplete _ e q => partOk e q
  | .vectorParityFailure _ e q l _ _ => partOk e q && l < 512
  | .contextSave _ e q line _ | .contextRestore _ e q line => partOk e q && line < 6291456
  | .samplerInstructionIssue _ b | .samplerResultWrite _ b | .samplerParityFailure _ b _ _ => b < 8
  | .bufferAllocation _ group _ _ _ _ => group < 1024
  | .scrubComplete _ pool _ => pool < 64
  | .csi2FrameStart _ port vc _ | .csi2FrameEnd _ port vc _ | .csi2SotError _ port vc
  | .csi2FrameTimeout _ port vc => port < 16 && vc < 16
  | .csi2LinePacket _ port vc dt _ _ _ => port < 16 && vc < 16 && dt < 64
  | .csi2UncorrectableHeader _ port => port < 16
  | .decodeStart _ c _ _ | .stripComplete _ c _ _ _ | .stripRebuild _ c _ | .encodePictureStart _ c _ _
  | .encodeRowComplete _ c _ _ _ | .encodePictureEnd _ c | .reencode _ c _ => c < 4
  | .jpegImageStart _ u _ _ | .jpegStripComplete _ u _ _ => u < 2
  | .scalerPassStart _ u _ output _ => u < 8 && output < 4
  | .scalerBandComplete _ u _ | .scalerBandRepeat _ u _ => u < 8
  | .dramReadCrcFailure _ a content failed _ =>
    a < 51539607552 && a % 64 = 0 && 1 ≤ content && content ≤ 9 && 1 ≤ failed && failed ≤ 3
  | .dramBurstRebuildComplete _ a _ | .dramWriteCodeError _ a _ => a < 51539607552 && a % 64 = 0
  | .dramRefreshSlice _ die => die < 8
  | .dramSensorSample _ die temps => die < 8 && temps.length = 4
  | .logicSensorSample _ temps => temps.length = 64
  | .dramRecalibration _ channel margin => channel < 128 && margin < 64
  | .dramTrainingComplete _ margins => margins.length = 128
  | .pllLockLoss _ domain => domain < 40
  | .watchdogExpiry _ core | .coreInstructionRefetch _ core => core < 12
  | .linkRetrain _ speed width _ =>
    (speed = 4 || speed = 5 || speed = 6) && (width = 4 || width = 8 || width = 16)
  | .ewlFlitReceived _ port f => port < 8 && f.wf
  | .ewlReplayTimeout _ port | .ewlNoFlitTimeout _ port | .ewlRetrainComplete _ port _
  | .ewlTrainingRetry _ port => port < 8
  | .ewlLinkFlit _ port _ _ _ member peerPort | .ewlTrainingComplete _ port _ member peerPort =>
    port < 8 && member < 16 && peerPort < 8
  | .ewlLaneLockLoss _ port lane => port < 8 && lane < 8
  | .block _ m data | .write _ m data => m.wf && data.length = m.length
  | .blockAck _ m | .resend _ m | .heartbeat _ m _ _ _ | .command _ m _ | .reply _ m _ | .mirror _ m _
  | .mirrorAck _ m | .takeover _ m | .cue _ m _ | .hello _ m _ _ _ => m.wf
  | .memberLost _ m | .replyTimeout _ m => m < 16
  | .mgmtRead _ count => 1 ≤ count && count ≤ 32
  | .i3cDynamicAddress _ address _ => address < 128
  | .ringResetTakesEffect _ _ | .memoryCopyComplete _ _ _ | .arrayTestComplete _ _ _ | .vecTestComplete _ _ _
  | .codecTestComplete _ _ _ | .feedCopyComplete _ _ _ | .feedTimeout _ _ | .ingestTestComplete _ _ _
  | .linkTestComplete _ _ _ _ | .attestReportWritten _ _ _ | .firmwareStageProgrammed _ _ _
  | .dramInterleaveComplete _ _ | .dramTestComplete _ _ _ _ _ | .submissionFetch _ _ | .submissionFetchTimeout _ _
  | .hostReadTimeout _ _ _ | .postedWriteRefused _ _ | .metadataRecordWrite _ _ | .bootPushCheckComplete _
  | .functionLevelResetPf _ | .hostReset _ | .coldReset _ | .powerOnReset _ | .pwrokFall _
  | .railUndervoltage _ _ | .resetRelease _ _ | .flashReadTimeout _ _ | .flashSlotSelect _
  | .firmwareLoadComplete _ | .dramFillComplete _ | .rehearsalComplete _ _ | .floorBurnComplete _ | .cueEdge _
  | .cueInEdge _ | .cueInMissing _ | .ppsInEdge _ | .ppsLost _ | .planSlotStart _ _ _ _ _ | .readerSignal _ _ _
  | .audioBlockPass _ _ | .selfRefreshExit _ | .railSample _ _ _ | .tripHoldTimeout _ | .capacityEvaluation _
  | .restEntry _ | .restExit _ | .sysRefclkLoss _ | .pcieRefclkLoss _ | .ewRefclkLoss _ | .linkDown _
  | .linkPowerEntry _ _ | .linkPowerExit _ | .blockAckTimeout _ _ _ | .heartbeatSend _ | .mirrorAckTimeout _
  | .takeoverDecision _ | .formationTimeout _ | .remapPlansBuilt _ _ _ _ | .remapTimeout _ | .playbillUpdateComplete _
  | .snapshotPublished _ | .mgmtPointerWrite _ _ _ | .mgmtTimeout _ | .mgmtRefused _ | .tapInstruction _ _
  | .dmaTransferComplete _ _ _ _ | .commandHostReadComplete _ _ _ | .vfEnableWrite _ _ _ _ => true

end Sys2Proof
end

