-- ==== Sys2Proof/Tests/Slice0.lean ====
section
/-! SUPPORT. Small tests: an ill-formed command per check of WellFormed, one small state on which the hypotheses of every statement
are met (a witness per clause), and the spec's own figures. Expected values come from the spec. -/

set_option Elab.async false

section

open Sys2Proof Sys2Proof.Machine

/-! ### A small device -/

/-- A packet on Q0 with its target and its parameters as (offset, value). -/
def Tests.pk (target : Nat) (fields : List (Nat × Nat)) : Packet :=
  { ring := 0, flags := 0, tag := 7, target := BitVec.ofNat 32 target
    params := BitVec.ofNat 384 ((fields.map fun e => e.2 * 256 ^ e.1).foldl (· + ·) 0) }

/-- A stream of group 1 on Q0 with its records on ring 1. -/
def Tests.stream (kind : StreamKind) (state : StreamState) : Stream :=
  { kind := kind, state := state, group := 1, metaRing := 1, ingestDone := true, decodeDone := true, encodeDone := true }

/-- A device in STANDBY with Q0, a METADATA ring, a HALTED ring and a spare one, a stream of each kind, two cast files, a script
and three pools. -/
def Tests.rest : State :=
  { State.reset with
    host := { state := .standby, bootStep := 10, fns := [(0, { busMaster := true })] }
    playbill := { generation := 1 }
    groupFn := [(1, 0)]
    rings := [(0, { state := .enabled, tail := 1, group := 1 }), (1, { state := .enabled, metadata := true, group := 1 }),
      (2, { state := .halted, cause := 3, group := 1 }), (3, { state := .enabled, group := 1 })]
    streams := [(1, Tests.stream .encode .declared), (2, Tests.stream .jpeg .admitted), (3, Tests.stream .decode .running),
      (4, Tests.stream .decode .paused), (5, Tests.stream .encode .running), (6, Tests.stream .audio .running),
      (7, Tests.stream .decode .declared)]
    samples := [(1, { stream := 3, capture := 0, arrival := 0, order := 0, assigned := 0 })]
    casts := [(1, ⟨1, 0, 0, 4096, []⟩), (2, ⟨1, 0, 0, 4096, []⟩)]
    scripts := [(1, ⟨1, 1, []⟩)]
    wardrobe := { pools := [
      (0, { dram := false, base := 0, cls := 0, count := 8, owner := none
            bufs := [(0, { state := .held, group := 1 }), (1, { state := .scrubbing, group := 1, sealed := true }),
              (2, { state := .held, group := 1, readers := [5] })] }),
      (1, { dram := true, base := 0, cls := 3, count := 8, owner := none }),
      (2, { dram := false, base := 0x100000, cls := 3, count := 2, owner := none })] } }

/-- The same device in SERVICE. -/
def Tests.play : State := { Tests.rest with host := { Tests.rest.host with state := .service } }

open Tests

/-! ### Witnesses: the hypotheses of each clause are met together -/

theorem test_queueWitness :
    ({ rest with pending := [.cueEdge 1, .ppsLost 1] } : State).pending = .cueEdge 1 :: [.ppsLost 1] ∧ rest.pending = [] := by
  decide

theorem test_deviceAndRingWitness :
    Passes nopCmd 1 (pk 0x50000000 []) rest = true ∧ Passes deviceStartCmd 1 (pk 0x50000000 []) rest = true ∧
    Passes deviceStopCmd 1 (pk 0x50000000 []) play = true ∧
    Passes ringCreateCmd 1 (pk 0x50000000 [(0, 16383), (3, 16), (4, 1023)]) rest = true ∧
    Passes ringDestroyCmd 1 (pk 0x50000000 [(0, 3)]) rest = true ∧
    Passes ringResetCmd 1 (pk 0x50000000 [(0, 2)]) rest = true := by decide +kernel

/-- A command in flight on ring q. -/
def Tests.flight (q opcode : Nat) (w : Work) : InFlight := ⟨q, opcode, 7, 0, false, false, w⟩

theorem test_ringResetWitness :
    let s : State := { rest with inflight := [(0, Tests.flight 0 0x0105 (.ringReset 2))] }
    aget (s.advance 1).inflight 0 = some (Tests.flight 0 0x0105 (.ringReset 2)) ∧ (s.advance 1).uncompleted 2 = 0 := by
  decide +kernel

theorem test_streamWitness :
    Passes streamDeclareCmd 1 (pk 0x50000000 [(0, 1), (2, 1), (3, 255), (4, 1), (6, 1), (8, 1)]) rest = true ∧
    (rest.taken 1 (pk 0 [])).streams.length < 4096 ∧
    Passes streamAdmitCmd 1 (pk 0x50000000 [(0, 1)]) rest = true ∧
    Passes streamStartCmd 1 (pk 0x50000000 [(0, 2)]) play = true ∧
    Passes streamPauseCmd 1 (pk 0x50000000 [(0, 3)]) play = true ∧
    Passes streamResumeCmd 1 (pk 0x50000000 [(0, 4)]) play = true ∧ (Tests.stream .decode .paused).cause = .host ∧
    Passes streamQueryCmd 1 (pk 0x50000000 [(0, 1)]) play = true := by decide +kernel

/-- Whether the stream fits turns on the free value of log entry 10, and both outcomes are met. -/
theorem test_streamAdmitWitness :
    let u := rest.taken 1 (pk 0x50000000 [(0, 1)])
    aget u.streams 1 = some (Tests.stream .encode .declared) ∧ (Tests.stream .encode .declared).kind ≠ .decode := by
  decide +kernel

theorem test_streamCloseWitness :
    let u := rest.taken 1 (pk 0x50000000 [(0, 2)])
    Passes streamCloseCmd 1 (pk 0x50000000 [(0, 2)]) rest = true ∧ (u.samples.any fun e => e.2.stream = 2) = false ∧
    u.feeding 2 = false ∧ Passes streamCloseCmd 1 (pk 0x50000000 [(0, 3)]) rest = true ∧
    (u.samples.any fun e => e.2.stream = 3) = true := by decide +kernel

theorem test_castWitness :
    let u := rest.taken 1 (pk 0x50000000 [(8, 4096)])
    Passes castLoadCmd 1 (pk 0x50000000 [(8, 4096)]) rest = true ∧ u.casts.length < 256 ∧
    (u.allocPieces (u.ringGroup 0) (ownerId (.run u.nextId)) (pieceSizes 4096)).isSome = true ∧
    Passes castUnloadCmd 1 (pk 0x50000000 [(0, 2)]) rest = true ∧ (aget u.casts 2).isSome = true ∧
    Passes scriptLoadCmd 1 (pk 0x50000000 [(8, 64), (12, 1)]) rest = true ∧
    Passes scriptUnloadCmd 1 (pk 0x50000000 [(0, 1)]) rest = true := by decide +kernel

/-- A device whose one planned stream has more audio channels than any cue carries. -/
def Tests.crowded : State := { rest with streams := [(1, { Tests.stream .audio .running with audio := { channels := 1025 } })] }

theorem test_cueWitness :
    let none_ : State := { rest with streams := [] }
    Passes cueSetPeriodCmd 1 (pk 0x50000000 [(0, 1000000)]) none_ = true ∧
    ((none_.taken 1 (pk 0x50000000 [(0, 1000000)])).periodFits 1000000) = true ∧
    Passes cueSetPeriodCmd 1 (pk 0x50000000 [(0, 1000)]) Tests.crowded = true ∧
    ((Tests.crowded.taken 1 (pk 0x50000000 [(0, 1000)])).periodFits 1000) = false ∧
    Passes cueSetEpochCmd 1 (pk 0x50000000 [(0, 2 ^ 64 - 1)]) rest = true ∧
    Passes cueSetSourceCmd 1 (pk 0x50000000 [(0, 1), (1, 1)]) rest = true ∧
    Passes cueSetSourceCmd 1 (pk 0x50000000 []) { rest with cue := { source := .pin, edges := 1 } } = true ∧
    Passes timeSteerCmd 1 (pk 0x50000000 [(0, 6553600), (4, 10000000)]) rest = true ∧
    Passes timeSteerCmd 1 (pk 0x50000000 [(0, 2 ^ 32 - 6553600), (4, 2 ^ 64 - 10000000)]) rest = true ∧
    Passes timeStepCmd 1 (pk 0x50000000 [(0, 2 ^ 63)]) rest = true ∧
    Passes timePpsCmd 1 (pk 0x50000000 []) rest = true ∧ Passes timePpsCmd 1 (pk 0x50000000 [(0, 1)]) rest = true ∧
    (rest.taken 1 (pk 0 [])).time.ppsEnabled = false := by decide +kernel

theorem test_poolWitness :
    Passes poolCreateCmd 1 (pk 0x50000000 [(0, 63), (2, 7), (4, 1), (8, 0x1000000), (16, 0xFFFF)]) rest = true ∧
    Passes poolDestroyCmd 1 (pk 0x50000000 [(0, 2)]) rest = true ∧
    Passes poolReserveCmd 1 (pk 0x50000000 [(0, 2), (2, 1023), (4, 2)]) rest = true ∧
    Passes poolReserveCmd 1 (pk 0x50000000 [(0, 2), (2, 1023), (4, 3)]) rest = true ∧
    (aget (rest.taken 1 (pk 0 [])).wardrobe.pools 2).isSome = true := by decide +kernel

/-- An allocation got something. -/
def Tests.got : Alloc → Bool
  | .got _ _ _ => true
  | .none_ _ _ => false

theorem test_bufferWitness :
    let u := rest.taken 1 (pk 0 [])
    Passes bufferAllocCmd 1 (pk 0x50000000 [(8, 4096)]) rest = true ∧
    Tests.got (u.alloc (u.ringGroup 0) false 4096 none false) = true ∧
    Passes bufferFreeCmd 1 (pk 0x50000000 []) rest = true ∧ (u.locate false 0) = some (0, 0, 0) ∧
    u.heldBuf 0 = some { state := .held, group := 1 } ∧
    Passes memoryCopyCmd 1 (pk 0x50000000 [(24, 1)]) rest = true ∧
    Passes memoryCopyCmd 1 (pk 0x50000000 [(16, 4096), (24, 1)]) rest = true := by decide +kernel

theorem test_copyCompleteWitness :
    let s : State := { rest with inflight := [(0, Tests.flight 0 0x0506 (.copy 0 (2 ^ 40) 4 false true 99)),
      (1, Tests.flight 0 0x0506 (.copy (2 ^ 40) 0 4 true false 99))] }
    let u := s.advance 1
    (aget u.inflight 0).map (·.work) = some (.copy 0 (2 ^ 40) 4 false true 99) ∧
    (aget u.inflight 1).map (·.work) = some (.copy (2 ^ 40) 0 4 true false 99) ∧ ([1, 2, 3, 4] : List Byte).length = 4 ∧
    u.locate (bufDram 0) (bufAddr 0) = some (0, 0, 0) ∧ u.bufAt 0 0 = some { state := .held, group := 1 } := by decide +kernel

/-- A device with one run's words in a held buffer: a zero word is no legal instruction, but its cost bound fits. -/
theorem test_unitWitness :
    Passes arraySplitCmd 1 (pk 0x20000007 [(0, 3)]) rest = true ∧
    Passes arrayRunCmd 1 (pk 0x20000000 [(8, 1)]) rest = true ∧
    Passes vecSplitCmd 1 (pk 0x30000001 [(0, 2)]) rest = true ∧
    Passes vecScalarsCmd 1 (pk 0x50000000 [(0, 63), (1, 1)]) rest = true ∧
    Passes vecRunCmd 1 (pk 0x30000001 [(8, 1), (12, 512)]) rest = true ∧
    Passes sampleRunCmd 1 (pk 0x30000002 [(8, 1)]) rest = true ∧
    Passes randomTestCmd 1 (pk 0x50000000 [(1, 63)]) rest = true ∧
    Passes randomSeedCmd 1 (pk 0x50000000 [(16, 1)]) rest = true ∧
    Tests.got ((rest.taken 1 (pk 0 [])).alloc 1 false 4096 none false) = true ∧
    Passes randomSeedCmd 1 (pk 0x50000000 [(16, 1)]) { rest with wardrobe := {} } = true ∧
    Tests.got (({ rest with wardrobe := {} } : State).taken 1 (pk 0 []) |>.alloc 1 false 4096 none false) = false := by
  decide +kernel
theorem test_testCommandWitness :
    Passes arrayTestCmd 1 (pk 0x20000007 []) rest = true ∧ Passes vecTestCmd 1 (pk 0x3000001D []) rest = true ∧
    Passes codecTestCmd 1 (pk 0x40000012 []) rest = true ∧ Passes ingestTestCmd 1 (pk 0x50000000 []) rest = true ∧
    Passes dramTestCmd 1 (pk 0x5000000B []) rest = true ∧ Passes linkTestCmd 1 (pk 0x50000014 []) rest = true := by
  decide +kernel

/-- A device with one command in flight, 20 ms after a time 0. -/
def Tests.waits (opcode : Nat) (w : Work) : State :=
  { rest with time := { now := 20000000, elapsed := 20000000 }, inflight := [(0, Tests.flight 0 opcode w)] }

theorem test_testDoneWitness :
    let u := (Tests.waits 0x0603 (.test .array 7 0 16800001)).advance 1
    aget u.inflight 0 = some (Tests.flight 0 0x0603 (.test .array 7 0 16800001)) ∧ 16800001 + 3200000 ≤ u.time.elapsed ∧
    u.host.state ≠ .faulted ∧ 18400001 + 1600000 ≤ u.time.elapsed ∧ 17600001 + 2400000 ≤ u.time.elapsed ∧
    18000001 + 2000000 ≤ u.time.elapsed ∧ 10000001 + 10000000 ≤ u.time.elapsed ∧ 2 ^ 32 - 1 < 2 ^ 32 ∧ 65535 ≤ 65535 ∧
    (∀ w ∈ [Work.test .vector 7 0 18400001, .test .codec 3 0 17600001, .test .ingest 0 0 18000001, .test .dram 7 0 0,
      .linkTest 7 10000001], (aget ((Tests.waits 0 w).advance 1).inflight 0).map (·.work) = some w) := by decide +kernel

theorem test_codecCommandWitness :
    Passes decodeConfigureCmd 1 (pk 0x50000000 [(0, 7), (2, 2), (3, 1), (4, 8192), (6, 4352), (8, 8), (9, 1), (16, 64)]) rest = true ∧
    Passes encodeSetRateCmd 1 (pk 0x50000000 [(0, 5), (4, 16), (8, 0), (12, 16)])
      { play with streams := [(5, { Tests.stream .encode .running with encode := { hostSize := 4000 } })] } = true ∧
    Passes encodeForceIntraCmd 1 (pk 0x50000000 [(0, 5)]) play = true ∧
    Passes decodeRefreshCmd 1 (pk 0x50000000 [(0, 4)]) play = true ∧
    Passes csi2PortSetCmd 1 (pk 0x4000001F [(0, 4), (1, 1), (2, 2500)]) rest = true := by decide +kernel

/-- A packet whose FLAGS have EXTENDED set. -/
def Tests.ext (fields : List (Nat × Nat)) : Packet := { pk 0x50000000 fields with flags := 1 }

theorem test_extendedWitness :
    Opens encodeConfigureCmd 1 (Tests.ext [(8, 4096)]) rest = true ∧ Opens ingestConfigureCmd 1 (Tests.ext [(8, 64)]) rest = true := by
  decide +kernel

/-- A device on which command `opcode` of packet p waits for n bytes until 20 ms. -/
def Tests.reads (opcode n : Nat) (p : Packet) : State :=
  { Tests.waits opcode (.hostRead p n 20000001 []) with sec := { encoded := true } }

/-- An extended block of 64 bytes. -/
def Tests.block (fields : List (Nat × Nat)) : List Byte :=
  leBytes 64 ((fields.map fun e => e.2 * 256 ^ e.1).foldl (· + ·) 0)

/-- The block that makes stream 1 encode the 64 by 64 output 0 of stream 3. -/
def Tests.encodeBlock : List Byte :=
  Tests.block [(0, 1), (2, 3), (4, 2), (5, 1), (6, 64), (8, 64), (10, 1), (12, 30), (17, 1), (20, 16), (24, 16), (29, 51),
    (34, 2), (40, 0x1000), (48, 4000)]

/-- The 64-byte header of a cue script with no entries (Table 13.14). -/
def Tests.script : List Byte := Tests.block [(0, 0x53455543), (4, 0x0100), (20, 64)]

/-- The output of 64 by 64 that an encode stream takes. -/
def Tests.picture : OutputCfg := { kind := 1, outW := 64, outH := 64, scaler := some 0 }

/-- A source stream with that output. -/
def Tests.source : Stream := { Tests.stream .decode .running with outputs := [Tests.picture] }

theorem test_hostReadWitness :
    let w := Work.hostRead (Tests.ext [(8, 64)]) 64 20000001 []
    let u := (Tests.reads 0x0802 64 (Tests.ext [(8, 64)])).advance 1
    aget u.inflight 0 = some (Tests.flight 0 0x0802 w) ∧ (Tests.block []).length = 64 ∧ u.time.elapsed ≤ 20000001 ∧
    bodyChecks (encodeBlockCmd (Tests.block [])) (Tests.ext [(8, 64)]) u = some (blockFault 0) ∧
    bodyChecks (ingestBlockCmd (Tests.block [])) (Tests.ext [(8, 64)]) u = some (blockFault 0) ∧
    scriptFault u 0 Tests.script 64 = none ∧ Tests.script.length = 64 ∧ (aget u.casts 1).map (·.content) = some 0 := by
  decide +kernel

theorem test_encodeBlockWitness :
    let s : State := { Tests.reads 0x0802 64 (Tests.ext [(8, 64)]) with
      streams := [(1, Tests.stream .encode .declared), (3, Tests.source)] }
    let u := s.advance 1
    let data := Tests.encodeBlock
    bodyChecks (encodeBlockCmd data) (Tests.ext [(8, 64)]) u = none ∧ bitOf (fieldAt data 34 1) 1 = true ∧
    aget u.streams (fieldAt data 2 2) = some Tests.source ∧ Tests.source.outputs[fieldAt data 35 1]? = some Tests.picture ∧
    Tests.picture.outW = fieldAt data 6 2 ∧ Tests.picture.outH = fieldAt data 8 2 ∧
    aget u.streams (fieldAt data 0 2) = some (Tests.stream .encode .declared) := by decide +kernel

/-- A JPEG stream that takes images of 4,096 bytes. -/
def Tests.jpeg : Stream := { Tests.stream .jpeg .running with jpeg := ⟨4096, 64, 64⟩ }

theorem test_feedWitness :
    let s : State := { play with streams := [(2, Tests.jpeg)] }
    let p := pk 0x50000000 [(0, 2), (16, 4096)]
    let u := s.taken 1 p
    Passes feedCmd 1 p s = true ∧ aget u.streams 2 = some Tests.jpeg ∧ feedBeyond u Tests.jpeg 0 = false ∧
    feedLengthOk Tests.jpeg 4096 = true ∧ Tests.got (u.alloc 1 true 4096 none true) = true ∧
    (aget ((Tests.waits 0x0903 (.feed 2 0 4 (some 0) 10000002)).advance 1).inflight 0).isSome = true ∧
    ((Tests.waits 0x0903 (.feed 2 0 4 (some 0) 10000002)).advance 1).time.elapsed < 10000002 + 10000000 ∧
    10000001 + 10000000 ≤ ((Tests.waits 0x0903 (.feed 2 0 4 (some 0) 10000001)).advance 1).time.elapsed := by decide +kernel

/-- The device with a part of its SEC block. -/
def Tests.withSec (c : Sec) : State := { rest with sec := c }

theorem test_securityWitness :
    Passes attestReportCmd 1 (pk 0x50000000 []) rest = true ∧ Passes pixelsUnsealCmd 1 (pk 0x50000000 []) rest = true ∧
    Passes pixelsSealCmd 1 (pk 0x50000000 []) (Tests.withSec { unsealed := true }) = true ∧
    Passes encodedOutputCmd 1 (pk 0x50000000 [(0, 1)]) rest = true ∧
    Passes firmwareStageCmd 1 (pk 0x50000000 [(8, 4097)]) rest = true ∧
    Passes firmwareStageCmd 1 (pk 0x50000000 [(8, 16781312)]) rest = true := by decide +kernel

/-- A firmware image of one payload byte (Table 18.1), signed by the key of slot 0 as far as Config says so. -/
def Tests.image : List Byte :=
  leBytes 32 (0x4D425242 + 256 ^ 5 + 3 * 256 ^ 7 + 256 ^ 16) ++ bytes256 (sha3 [0]) ++ (List.replicate 4032 0 ++ [0])

theorem test_imageFields :
    fieldAt Tests.image 0 4 = 0x4D425242 ∧ fieldAt Tests.image 5 1 = 1 ∧ fieldAt Tests.image 6 1 = 0 ∧
    fieldAt Tests.image 7 1 = 3 ∧ fieldAt Tests.image 8 1 = 0 ∧ fieldAt Tests.image 9 1 = 0 ∧ fieldAt Tests.image 16 4 = 1 ∧
    zeroBytes Tests.image 10 6 = true ∧ zeroBytes Tests.image 20 4 = true ∧ zeroBytes Tests.image 3796 300 = true ∧
    Tests.image.length = 4097 ∧ Tests.image.drop 4096 = [0] := by decide +kernel

theorem test_middle (a b c : List Byte) (ha : a.length = 32) (hb : b.length = 32) : ((a ++ b ++ c).drop 32).take 32 = b := by
  rw [List.append_assoc, List.drop_left' ha, List.take_left' hb]

theorem test_imageHash : BitVec.ofNat 256 (fieldAt Tests.image 32 32) = sha3 [0] := by
  have h : fieldAt Tests.image 32 32 = (sha3 [0]).toNat := by
    unfold fieldAt Tests.image
    rw [test_middle _ (bytes256 (sha3 [0])) _ (leBytes_length _ _) (leBytes_length _ _)]
    exact leNat_leBytes_of_lt (sha3 [0]).isLt
  rw [h, BitVec.ofNat_toNat, BitVec.setWidth_eq]

/-- An image without the magic fails check 1; one with every field right passes where Config has its key and signature. -/
theorem test_imageWitness (hk : Config.keyHash 0 = sha3 ((Tests.image.drop 64).take 1312))
    (hv : ∀ a b c d, Config.verifies a b c d = true) :
    ({} : Sec).imageCause [] = some 1 ∧ ({} : Sec).imageCause Tests.image = none := by
  obtain ⟨h0, h5, h6, h7, h8, h9, h16, z1, z2, z3, hl, hd⟩ := test_imageFields
  have hb : ∀ b : Bool, bitOf 3 (if b = true then 1 else 0) = true := by decide
  refine ⟨by decide +kernel, ?_⟩
  simp [Sec.imageCause, Sec.headerCause, headerSigned, hv, hb, h0, h5, h6, h7, h8, h9, h16, z1, z2, z3, hl, hd, hk,
    test_imageHash]

theorem test_reportWitness :
    (aget ((Tests.waits 0x0B01 (.attest 0 4096 [])).advance 1).inflight 0).map (·.work) = some (.attest 0 4096 []) ∧
    (aget ((Tests.waits 0x0B05 (.hostRead (pk 0 []) 4097 20000001 [])).advance 1).inflight 0).map (·.opcode) = some 0x0B05 ∧
    Tests.image.length = 4097 ∧
    (aget ((Tests.waits 0x0B05 (.firmwareStage [] true 0)).advance 1).inflight 0).map (·.work) =
      some (.firmwareStage [] true 0) := by decide +kernel
theorem test_observationWitness :
    let s : State := { rest with obs := { snapshots := [{ commands := [0] }] } }
    Passes traceSetCmd 1 (pk 0x50000000 [(0, 2 ^ 14 - 1)]) rest = true ∧
    Passes countersSnapshotCmd 1 (pk 0x50000000 []) rest = true ∧ (rest.taken 1 (pk 0 [])).stageManager = false ∧
    (s.advance 1).live = true ∧ (s.advance 1).obs.snapshots = [{ commands := [0] }] := by decide +kernel

/-- DRAM outside and in self-refresh; a channel recalibrated 10 ms ago. -/
theorem test_dramMaintenanceWitness :
    let s : State := { Tests.waits 0x0D01 (.dramInterleave 4) with dram := { recalibrated := [(127, 10000001)] } }
    let u := s.advance 1
    Passes dramInterleaveCmd 1 (pk 0x50000000 [(0, 4)]) rest = true ∧
    aget u.inflight 0 = some (Tests.flight 0 0x0D01 (.dramInterleave 4)) ∧ u.live = true ∧ u.dram.selfRefresh = false ∧
    aget u.dram.recalibrated 127 = some 10000001 ∧ 10000001 + 10000000 ≤ u.time.elapsed ∧ 63 < 64 ∧
    (({ rest with dram := { selfRefresh := true } } : State).advance 1).dram.selfRefresh = true := by decide +kernel

/-- An entry whose OPCODE, SEQUENCE and TARGET are given. -/
def Tests.entry (opcode sequence : Nat) : BitVec 512 :=
  BitVec.ofNat 512 (opcode + 7 * 2 ^ 32 + 0x50000000 * 2 ^ 64 + sequence * 2 ^ 96)

/-- Q0 as it stands in the small device. -/
def Tests.q0 : Ring := { state := .enabled, tail := 1, group := 1 }

theorem test_fetchWitness :
    let u := rest.advance 1
    u.nextRing = some 0 ∧ aget u.rings 0 = some Tests.q0 ∧
    ((Tests.entry 0x0100 1).extractLsb' 96 32).toNat ≠ Tests.q0.expected ∧
    ((Tests.entry 0x0100 0).extractLsb' 96 32).toNat = Tests.q0.expected ∧
    commandOf ((Tests.entry 0x0F00 0).extractLsb' 0 16).toNat = none ∧
    (commandOf ((Tests.entry 0x0100 0).extractLsb' 0 16).toNat).map (·.opcode) = some 0x0100 ∧
    (packetOf 0 (Tests.entry 0x0100 0)).fence = false := by decide +kernel

/-- A completion entry that ring 0 has put out. -/
def Tests.written (event : Bool) : Completion := ⟨7, .done, 0, 0, 0, 0x0100, 1, 0, event, true⟩

/-- A record with a last mark. -/
def Tests.sampleRecord : Record := ⟨1, true, 3, 0, 0, []⟩

theorem test_refusedWriteWitness :
    let u := ({ rest with outputs := [.completion 0 0 (Tests.written false)] } : State).advance 1
    let v := ({ rest with outputs := [.completion 0 0 (Tests.written true)] } : State).advance 1
    let w := ({ rest with outputs := [.record 1 0 true Tests.sampleRecord] } : State).advance 1
    aget u.rings 0 = some Tests.q0 ∧ Tests.q0.state ≠ .disabled ∧
    takeOutput (Output.isWrite (.completion 0)) u.outputs = some (.completion 0 0 (Tests.written false), []) ∧
    takeOutput (Output.isWrite .event) v.outputs = some (.completion 0 0 (Tests.written true), []) ∧
    takeOutput (Output.isWrite (.record 1)) w.outputs = some (.record 1 0 true Tests.sampleRecord, []) ∧
    (aget w.rings 1).isSome = true := by decide +kernel

theorem test_recordWitness :
    let m : Sample := { stream := 3, capture := 0, arrival := 0, order := 0, assigned := 0, queue := [Tests.sampleRecord] }
    let u := ({ play with samples := [(1, m)] } : State).advance 1
    u.live = true ∧ aget u.samples 1 = some m ∧ aget u.streams m.stream = some (Tests.stream .decode .running) ∧
    u.recordSlot 1 = true ∧ u.earlierSample 1 m = false := by decide +kernel

theorem test_cascadeCommandWitness :
    Passes cascadeFormCmd 1 (pk 0x50000000 [(0, 16), (1, 255)]) rest = true ∧
    Passes cascadeDissolveCmd 1 (pk 0x50000000 []) { rest with ewl := { cascade := .broken } } = true ∧
    Passes cascadeDissolveCmd 1 (pk 0x50000000 []) { rest with ewl := { cascade := .playing, role := 1 } } = true := by
  decide +kernel

/-- Each clause of a doorbell write, at TAIL = size − 1 and size, and at HEAD = the completion tail and one beyond. -/
theorem test_doorbellWitness :
    let s : State := { rest with rings := rest.rings ++ [(4, { state := .disabled })] }
    let u := ((s.advance 1).wakeLink.leaveRest).noteAccess
    (s.advance 1).answers 0 = true ∧ u.host.state ≠ .faulted ∧ u.ownsPage 0 0 = true ∧ u.ownsPage 0 16383 = true ∧
    aget u.rings 16383 = none ∧ aget u.rings 0 = some Tests.q0 ∧ Tests.q0.size = 64 ∧ 63 < Tests.q0.size ∧
    ¬ 64 < Tests.q0.size ∧ Tests.q0.head < Tests.q0.size ∧ Tests.q0.ctail < Tests.q0.size ∧
    (aget u.rings 2).map (·.state) = some .halted ∧ (aget u.rings 4).map (·.state) = some .disabled ∧
    (aget u.rings 1).map (·.metadata) = some true ∧ Tests.q0.fetch < Tests.q0.size ∧ 65535 < 65536 := by decide +kernel

theorem test_windowWitness :
    let s : State := { rest with host := { rest.host with fns := [(0, { busMaster := true, bar2Log2 := 30 })] } }
    let u := (s.advance 1).wakeLink.leaveRest
    (s.advance 1).answers 0 = true ∧ (2 ^ 36 - 2 ^ 30) % 2 ^ (u.fnOf 0).bar2Log2 = 0 ∧
    2 ^ 36 - 2 ^ 30 ≤ 2 ^ 36 - 2 ^ (u.fnOf 0).bar2Log2 ∧ ¬ 2 ^ 36 ≤ 2 ^ 36 - 2 ^ (u.fnOf 0).bar2Log2 ∧
    (u.fnOf 63).bar2Log2 = 36 ∧ u.host.vfEnable = false ∧ 15360 + 1024 ≤ 16384 ∧ u.rangeTaken 63 15360 1024 = false ∧
    u.rangeInUse 63 = false := by decide +kernel

/-- The device with Q0 in a state and ADMIN_CONTROL:ENABLE at a value. -/
def Tests.admin (state : RingState) (enable : Bool) : State :=
  { rest with rings := [(0, { Tests.q0 with state := state })], host := { rest.host with adminEnable := enable } }

theorem test_adminWitness :
    (∀ st ∈ [RingState.disabled, .enabled, .halted], ∀ e ∈ [true, false],
      ((Tests.admin st e).advance 1).answers 0 = true ∧ ((Tests.admin st e).advance 1).wakeLink.leaveRest.ringState 0 = st ∧
      ((Tests.admin st e).advance 1).wakeLink.leaveRest.host.adminEnable = e ∧
      ((Tests.admin st e).advance 1).wakeLink.leaveRest.live = true ∧
      ((Tests.admin st e).advance 1).wakeLink.leaveRest.uncompleted 0 = 0) := by decide +kernel

theorem test_secWriteWitness :
    let s : State := { rest with host := { rest.host with vfEnable := true, numVfs := 1 } }
    let u := (s.advance 1).wakeLink.leaveRest
    (s.advance 1).answers 0 = true ∧ (s.advance 1).answers 1 = true ∧ u.sec.locked = false ∧
    ((Tests.withSec { locked := true }).advance 1).wakeLink.leaveRest.sec.locked = true := by decide +kernel

/-- The device in boot step n. -/
def Tests.boots (n : Nat) : State := { rest with host := { rest.host with state := .boot, bootStep := n } }

theorem test_pushWitness :
    ((Tests.boots 5).advance 1).answers 0 = true ∧ ((Tests.boots 5).advance 1).wakeLink.leaveRest.booting 5 = true ∧
    ((Tests.boots 5).advance 1).wakeLink.leaveRest.sec.pushRunning = false := by decide +kernel

theorem test_registerWitness :
    let u := (rest.advance 1).wakeLink
    (rest.advance 1).answers 0 = true ∧ aget u.rings 0 = some Tests.q0 ∧ u.ownsPage 0 0 = true ∧
    (2 ≠ 4 ∧ 2 ≠ 8) ∧ 4 % 8 ≠ 0 ∧ windowAt (windowOffset 2 0xFFFFC) = some (.house, 0xFFFFC) ∧ windowOffset 2 0xFFFFC % 4 = 0 := by
  decide +kernel

/-- BAR2 at the House window: the first buffer is not sealed, the second is; the last byte of a 4 KiB page. -/
theorem test_bar2Witness :
    let u := (rest.advance 1).wakeLink.noteAccess
    let w := ((rest.advance 1).wakeLink.leaveRest).noteAccess
    (rest.advance 1).answers 0 = true ∧ bar2Accepted 0xF00000FFF 1 = true ∧ bar2Accepted 0xF00000FFF 2 = false ∧
    bar2Accepted 0xF00000000 513 = false ∧ u.bar2At 0 0xF00000FFF = .memory false 0xFFF ∧ u.sealedFor 0 false 0xFFF = false ∧
    (∀ l ∈ linesOf 0xFFF 1, u.lineFails l = false) ∧ u.bar2At 0 0xF00001000 = .memory false 0x1000 ∧
    u.sealedFor 0 false 0x1000 = true ∧ w.bar2At 0 0xF00001000 = .memory false 0x1000 ∧ w.sealedFor 0 false 0x1000 = true ∧
    w.bar2At 0 0xF00000FFF = .memory false 0xFFF ∧ w.sealedFor 0 false 0xFFF = false ∧
    (∀ l ∈ linesOf 0xFFF 1, w.lineFails l = false) := by decide +kernel

theorem test_configurationWitness :
    let s : State := { rest with host := { rest.host with fns := [(0, { msix := [(2047, { pending := true })] })] } }
    let v : State := { rest with host := { rest.host with vfEnable := true, numVfs := 63 } }
    let w := (s.advance 1).wakeLink.leaveRest
    (s.advance 1).configurable 0 = true ∧ (s.advance 1).host.vfEnable = false ∧ 63 ≤ 63 ∧ (s.advance 1).answers 0 = true ∧
    2047 < vectorsOf 0 ∧ (agetD (w.fnOf 0).msix 2047 {} : MsixEntry).pending = true ∧
    (agetD (w.fnOf 0).msix 0 {} : MsixEntry).pending = false ∧ (s.advance 1).host.state ≠ .boot ∧
    (s.advance 1).host.state ≠ .faulted ∧ (v.advance 1).configurable 63 = true := by decide +kernel

theorem test_resetWitness :
    (rest.advance 1).host.bootStep ≠ 0 ∧ (State.reset.advance 1).host.bootStep = 0 ∧ 7 < 8 := by decide +kernel

theorem test_bootWitness :
    let s : State := { Tests.boots 3 with sec := { flashRetries := [2, 2] } }
    let u := (Tests.boots 0).advance 1
    u.host.bootStep = 0 ∧ u.host.state = .boot ∧ u.pwr.resetKind ≠ 4 ∧ (s.advance 1).booting 3 = true ∧
    (s.advance 1).sec.flashRetries = [2, 2] ∧ (s.advance 1).sec.flashUnusable = [false, false] ∧
    (({ Tests.boots 3 with sec := { flashUnusable := [true, true] } } : State).advance 1).sec.slotValid false = false ∧
    (({ Tests.boots 3 with sec := { flashUnusable := [true, true] } } : State).advance 1).sec.slotValid true = false ∧
    (({ Tests.boots 5 with sec := { pushRunning := true, pushLength := 1 } } : State).advance 1).sec.pushRunning = true ∧
    (∀ n ∈ [3, 5, 6, 7, 8], ((Tests.boots n).advance 1).booting n = true) ∧ ((Tests.boots 8).advance 1).pwr.trip = false ∧
    ((Tests.withSec { floorPending := true, revokePending := true }).advance 1).sec.floorPending = true ∧
    ((Tests.withSec { floorPending := true, revokePending := true }).advance 1).host.bootStep = 10 := by decide +kernel

theorem test_trainingWitness :
    (List.replicate 128 16).length = 128 ∧ (∀ m ∈ List.replicate 128 16, 16 ≤ m) ∧ 127 < 128 ∧
    (List.replicate 127 16 ++ [15])[127]? = some 15 := by decide +kernel
theorem test_flashHeader (c : Sec) (h : c.flashA = Tests.image) : c.flashBytes false 0 4096 = Tests.image.take 4096 := by
  have hl : Tests.image.length = 4097 := by decide +kernel
  simp [Sec.flashBytes, h, hl]

theorem test_flashPayload (c : Sec) (h : c.flashA = Tests.image) : c.flashBytes false 4096 1 = [0] := by
  have hd : Tests.image.drop 4096 = [0] := by decide +kernel
  simp [Sec.flashBytes, h, hd]

/-- Slot A holds the image, to be loaded; its payload has the header's hash. -/
theorem test_firmwareLoadWitness (c : Sec) (h : c.flashA = Tests.image) :
    fieldAt (c.flashBytes false 0 4096) 16 4 = 1 ∧
    sha3 (c.flashBytes false 4096 1) = BitVec.ofNat 256 (fieldAt (c.flashBytes false 0 4096) 32 32) ∧
    (({ Tests.boots 4 with sec := { flashA := Tests.image, loading := some false } } : State).advance 1).booting 4 = true := by
  have hf : fieldAt (Tests.image.take 4096) 32 32 = fieldAt Tests.image 32 32 := by
    simp only [fieldAt, List.drop_take, List.take_take]; rfl
  rw [test_flashHeader c h, test_flashPayload c h, hf, test_imageHash]
  exact ⟨by decide +kernel, rfl, by decide +kernel⟩

/-- A slot whose header is that image's is valid where Config has its key and signature. -/
theorem test_slotWitness (c : Sec) (h : c.flashA = Tests.image) (hr : c.slot0Revoked = false) (hf : c.floor = 0)
    (hu : c.flashUnusable = [false, false]) (hk : Config.keyHash 0 = sha3 ((Tests.image.drop 64).take 1312))
    (hv : ∀ a b c d, Config.verifies a b c d = true) : c.slotValid false = true := by
  have hb : ∀ b : Bool, bitOf 3 (if b = true then 1 else 0) = true := by decide
  obtain ⟨h0, h5, h6, h7, h8, h9, h16, z1, z2, z3⟩ : fieldAt (Tests.image.take 4096) 0 4 = 0x4D425242 ∧
      fieldAt (Tests.image.take 4096) 5 1 = 1 ∧ fieldAt (Tests.image.take 4096) 6 1 = 0 ∧
      fieldAt (Tests.image.take 4096) 7 1 = 3 ∧ fieldAt (Tests.image.take 4096) 8 1 = 0 ∧
      fieldAt (Tests.image.take 4096) 9 1 = 0 ∧ fieldAt (Tests.image.take 4096) 16 4 = 1 ∧
      zeroBytes (Tests.image.take 4096) 10 6 = true ∧ zeroBytes (Tests.image.take 4096) 20 4 = true ∧
      zeroBytes (Tests.image.take 4096) 3796 300 = true := by decide +kernel
  have hs : ((Tests.image.take 4096).drop 64).take 1312 = (Tests.image.drop 64).take 1312 := by
    simp only [List.drop_take, List.take_take]; rfl
  simp [Sec.slotValid, test_flashHeader c h, Sec.headerCause, headerSigned, hv, hb, h0, h5, h6, h7, h8, h9, h16, z1, z2, z3, hs,
    hk, hr, hf, hu, b2n]

theorem test_pushedImageWitness (hk : Config.keyHash 0 = sha3 ((Tests.image.drop 64).take 1312))
    (hv : ∀ a b c d, Config.verifies a b c d = true) :
    let u : State := { Tests.boots 5 with
      house := { mem := (({} : Memory).writeBytes 0 Tests.image) }, sec := { pushRunning := true, pushLength := 4097 } }
    u.booting 5 = true ∧ u.sec.imageCause (u.readMem false 0 (min u.sec.pushLength 16781313)) = none := by
  refine ⟨by decide +kernel, ?_⟩
  have hl : Tests.image.length = 4097 := by decide +kernel
  have hr : (({} : Memory).writeBytes 0 Tests.image).readBytes 0 4097 = Tests.image := by
    rw [← hl]; exact Memory.readBytes_writeBytes 0 _ rfl
  show Sec.imageCause { ({} : Sec) with pushRunning := true, pushLength := 4097 }
    ((({} : Memory).writeBytes 0 Tests.image).readBytes 0 4097) = none
  rw [hr]
  exact (test_imageWitness hk hv).2

theorem test_cueEdgeWitness :
    let s : State := { rest with cue := { nextEdge := 1, stagedAt := some 0 } }
    let early : State := { rest with time := { now := 16650332 }, cue := { source := .pin, edges := 1 } }
    let due : State := { rest with time := { now := 16650332 }, cue := { source := .pin, edges := 1 } }
    let missing : State := { rest with time := { now := 16683666 }, cue := { source := .pin, edges := 1, missingRun := 3 } }
    (s.advance 1).edgeDue = some 1 ∧ (s.advance 1).cue.stagedAt = some (s.advance 1).cue.edges ∧
    (early.advance 0).pinSource = true ∧ (early.advance 0).cue.edges ≠ 0 ∧
    (early.advance 0).now < (early.advance 0).cue.lastPin + (early.advance 0).cue.period * 999 ∧
    (due.advance 1).pinSource = true ∧ (due.advance 1).stageManager = false ∧
    (due.advance 1).cue.lastPin + (due.advance 1).cue.period * 999 ≤ (due.advance 1).now ∧
    (missing.advance 1).cue.lastPin + (missing.advance 1).cue.period * 1001 ≤ (missing.advance 1).now ∧
    3 ≤ (missing.advance 1).cue.missingRun ∧ (missing.advance 1).pinSource = true := by decide +kernel

/-- Accepted at 999,900,000 ns, rejected one nanosecond before; 10 ms and one nanosecond more from a whole second. -/
theorem test_ppsWitness :
    let s : State := { rest with time := { now := 999899998, elapsed := 1499999999, ppsEnabled := true, lastPps := some 0 } }
    (s.advance 1).time.ppsEnabled = true ∧ (s.advance 1).plainMember = false ∧ (s.advance 1).host.state ≠ .boot ∧
    (s.advance 1).time.now < 999900000 ∧ (s.advance 2).time.now = 999900000 ∧
    (s.advance 1).time.ppsWaitFrom + 1500000000 ≤ (s.advance 1).time.elapsed ∧
    (secondOffset 10000000).natAbs ≤ 10000000 ∧ (secondOffset 10000001).natAbs = 10000001 ∧
    (secondOffset 999999900).natAbs ≤ 100 := by decide +kernel

/-- A planned sample of stream 3 in its slot. -/
def Tests.planned : Sample := { stream := 3, capture := 0, arrival := 0, order := 0, assigned := 0, planned := true }

/-- The device in SERVICE in its second cue, past the edge reserve, with that sample. -/
def Tests.slot : State :=
  { play with cue := { edges := 2 }, time := { now := 20000000, elapsed := 20000000 }, samples := [(1, Tests.planned)] }

theorem test_planSlotWitness :
    let u := Tests.slot.advance 1
    aget u.samples 1 = some Tests.planned ∧ u.slotOpen Tests.planned = true ∧ u.needMet (0, 0, 1) = true ∧
    ((⟨2, 1, 1, 1, 1, 1⟩ : LayerShape).pm < (⟨2, 1, 1, 1, 1, 1⟩ : LayerShape).m) ∧ 65535 < 65536 ∧
    (u.samp 7).queue.length + 64 ≤ 64 ∧ u.hasJobs (.chain 1) = false ∧ [RecordSource.token 0].flatMap (u.recordsOf Tests.planned) ≠ [] := by
  decide +kernel

/-- An array word C[1 × 1] = A[1 × 1] · W[1 × 1] in INT8 with INT32 results: A at line 0, W at line 1, C at line 2. -/
def Tests.word : Word256 :=
  BitVec.ofNat 256 (1 + 0x0D * 2 ^ 8 + 0x0D * 2 ^ 14 + 2 ^ 22 + 2 ^ 32 + 2 ^ 49 + 2 ^ 64 + 2 ^ 97 + 2 ^ 109 + 2 ^ 132
    + 2 * 2 ^ 144 + 2 ^ 167)

/-- Array 0, part 0 with one job. -/
def Tests.onArray (j : ArrayJob) : State :=
  { Tests.slot with arrays := [{ parts := [{ queue := [j] }, {}, {}, {}] }] ++ List.replicate 7 {} }

/-- The job of that word in a phase. -/
def Tests.job (phase : ArrayPhase) : ArrayJob := { word := Tests.word, owner := .chain 1, phase := phase }

theorem test_arrayEnterWitness :
    let u := (Tests.onArray (Tests.job .queued)).advance 1
    let v := (Tests.onArray (Tests.job (.loading 0 true))).advance 1
    let w := arrayWordOf Tests.word
    let bad := (Tests.onArray { Tests.job .queued with word := 0 }).advance 1
    u.computing = true ∧ 0 < u.arrays.length ∧ 0 < (u.array 0).parts.length ∧ nextLoad (u.arrayPart 0 0).queue = some 0 ∧
    u.arrayCheck 0 (.chain 1) w none = none ∧ (u.arrayPart 0 0).swapAt = none ∧ (u.array 0).splitAt ≤ u.time.elapsed ∧
    u.weightTagsOk w = true ∧
    (∀ r ∈ (w.reads.drop 1).take 1, u.rowsReady none r = true ∧ u.linesClean r.1 ((r.2.2.2 - 1) * r.2.1 + r.2.2.1) = true) ∧
    bad.arrayCheck 0 (.chain 1) (arrayWordOf 0) (bad.arrayPart 0 0).active = some .outOfRange ∧
    (v.arrayPart 0 0).queue = [Tests.job (.loading 0 true)] ∧ loadedAt (Tests.job (.loading 0 true)) = some (ns600 512) ∧
    ns600 512 ≤ v.time.elapsed ∧ (v.arrayPart 0 0).lastRowAt ≤ v.time.elapsed ∧
    (∀ r ∈ w.reads.take 1, v.rowsReady none r = true) ∧ v.operandsClean w = true ∧ v.actTagsOk w = true ∧
    (Tests.slot.advance 1 |>.array 7).idle = true ∧ ((Tests.slot.advance 1).array 7).idleSince + ns600 1024 ≤ 20000001 := by
  decide +kernel

theorem test_arrayCompleteWitness :
    let j := { Tests.job (.streaming 0) with block := some ⟨0x0D, 1, 1, false, [3], []⟩, doneAt := 20000001 }
    let u := (Tests.onArray j).advance 1
    let w := arrayWordOf Tests.word
    u.computing = true ∧ (u.arrayPart 0 0).queue = [j] ∧ j.streaming = true ∧ j.doneAt ≤ u.time.elapsed ∧ w.toVector = false ∧
    u.operandsClean w = true ∧ w.toHouse = true ∧ w.legal = true ∧ 4 * w.n ≤ 64 * w.oPitch ∧
    (u.arrayResults w j.block).length = w.m * w.n ∧ j.repeated = false ∧ (recordRepeat u.ms (u.arrayPart 0 0).repeats).2 = false := by
  decide +kernel

/-- The same word with A scaled: E4M3 activations with a shared scale, whose first entry carries a wrong tag. -/
def Tests.scaledWord : Word256 := BitVec.ofNat 256 (Tests.word.toNat - 5 * 2 ^ 8 - 5 * 2 ^ 14 + 2 ^ 20 - 2 ^ 22 + 3 * 2 ^ 202)

theorem test_arrayFailureWitness :
    let j := { Tests.job (.streaming 0) with repeated := true }
    let u := (Tests.onArray j).advance 1
    (u.arrayPart 0 0).queue = [j] ∧ j.streaming = true ∧ j.repeated = true ∧ u.host.state ≠ .faulted := by decide +kernel

theorem test_scaleMismatchWitness :
    let j := { Tests.job .queued with word := Tests.scaledWord }
    let u := (Tests.onArray j).advance 1
    let w := arrayWordOf Tests.scaledWord
    (u.arrayPart 0 0).queue = [j] ∧ j.streaming = false ∧ w.aScaled = true ∧ u.arrayCheck 0 j.owner w none = none ∧
    j.scaleRetry = false := by decide +kernel
/-- A vector word D[1] = A[1] + B[1] in FP32: A at line 0, B at line 1, D at line 2. -/
def Tests.vecWord : BitVec 128 := BitVec.ofNat 128 (1 + 2 ^ 8 + 2 ^ 14 + 2 ^ 32 + 2 ^ 82 + 2 * 2 ^ 105)

/-- The job of a word in a phase. -/
def Tests.vecJob (word : BitVec 128) (phase : VecPhase) : VecJob :=
  { word := word, owner := .chain 1, descriptor := false, vl := 512, phase := phase }

/-- Vector engine 0, part 0 with one job. -/
def Tests.onVec (j : VecJob) : State :=
  { Tests.slot with vecs := [{ parts := [{ queue := [j] }, {}, {}, {}] }] ++ List.replicate 7 {} }

/-- A vector word that widens 32 MXFP8 elements to FP32. -/
def Tests.unblockWord : BitVec 128 := BitVec.ofNat 128 (0x23 + 8 * 2 ^ 8 + 2 ^ 14 + 32 * 2 ^ 32 + 8 * 2 ^ 105)

theorem test_vectorWitness :
    let j := Tests.vecJob Tests.vecWord .queued
    let u := (Tests.onVec j).advance 1
    let bad := (Tests.onVec (Tests.vecJob 0 .queued)).advance 1
    let w := vecWordOf Tests.vecWord
    u.computing = true ∧ 0 < u.vecs.length ∧ 0 < (u.vec 0).parts.length ∧ (u.vecPart 0 0).queue = [j] ∧ w.dDst = 0 ∧
    (u.vec 0).splitAt ≤ u.time.elapsed ∧ bad.vecCheck 0 0 (bad.readScalars 0 (Tests.vecJob 0 .queued)) none = some .outOfRange ∧
    (vecWordOf 0).dDst = 0 ∧ u.vecCheck 0 0 (u.readScalars 0 j) none = none ∧ u.inputsReady (u.readScalars 0 j) = true ∧
    u.vecTagsOk (u.readScalars 0 j) = true ∧ ((Tests.slot.advance 1).vec 7).idle = true ∧ ((Tests.slot.advance 1).vec 7).fixed = none := by
  decide +kernel

theorem test_vectorIssuedWitness :
    let j := Tests.vecJob Tests.vecWord .issued
    let u := (Tests.onVec j).advance 1
    (u.vecPart 0 0).queue = [j] ∧ (vecWordOf j.word).aSrc ≠ 2 ∧ isVision (vecWordOf j.word).op = false ∧
    (∀ o ∈ (u.vecExtents j).1, u.linesClean o.1 o.2 = true) ∧ u.host.state ≠ .faulted ∧ j.repeated = false ∧
    (recordRepeat u.ms (u.vecPart 0 0).repeats).2 = false ∧ u.holds (u.ownerGroup j.owner) 56 8 = true ∧
    ({ j with repeated := true } : VecJob).repeated = true := by decide +kernel

theorem test_vectorScaleWitness :
    let j := { Tests.vecJob Tests.unblockWord .queued with scaleRetry := true }
    let u := (Tests.onVec j).advance 1
    let w := vecWordOf Tests.unblockWord
    (u.vecPart 0 0).queue = [j] ∧ blockLen w.aFmt ≠ 0 ∧ w.aSrc = 0 ∧ readsA w.op = true ∧
    u.vecCheck 0 0 (u.readScalars 0 j) none = none := by decide +kernel

/-- A saved context of one job at line 0, whose 512 bytes are zero but for the CHECK. -/
def Tests.context : SavedContext := ⟨[Tests.vecJob Tests.vecWord .issued], false, 512, 0, 0⟩

theorem test_contextWitness :
    let u : State := { Tests.slot with contexts := [(0, Tests.context)] }
    aget u.contexts 0 = some Tests.context ∧ (u.vecPart 0 0).queue = [] ∧ 0 < partCount (u.vec 0).split ∧
    Tests.context.jobs.length ≤ 32 := by decide +kernel

theorem test_contextCheckWitness :
    let zeros : List Byte := List.replicate 508 0
    let bs := zeros ++ leBytes 4 (crc32c zeros)
    let u : State := { Tests.slot with house := { mem := ({} : Memory).writeBytes 0 bs } }
    fieldAt (u.readMem false 0 512) 508 4 = crc32c ((u.readMem false 0 512).take 508) % 2 ^ 32 := by
  intro zeros bs u
  have hz : zeros.length = 508 := List.length_replicate
  have hl : bs.length = 512 := by rw [List.length_append, hz, leBytes_length]
  have hr : u.readMem false 0 512 = bs := by
    have h : (({} : Memory).writeBytes 0 bs).readBytes 0 bs.length = bs := Memory.readBytes_writeBytes 0 _ rfl
    rw [hl] at h
    exact h
  rw [hr]
  have h1 : bs.take 508 = zeros := List.take_left' hz
  have h2 : (bs.drop 508).take 4 = leBytes 4 (crc32c zeros) := by
    rw [show bs.drop 508 = leBytes 4 (crc32c zeros) from List.drop_left' hz, List.take_of_length_le (by simp)]
  rw [fieldAt, h1, h2, leNat_leBytes]
  rfl

/-- A sampler word of one FP32 logit at line 0, its result at line 2. -/
def Tests.sampWord : Word256 := BitVec.ofNat 256 (2 ^ 23 + 2 ^ 32 + 2 ^ 51 + 2 * 2 ^ 87 + 0x3F800000 * 2 ^ 160)

/-- Sampler 0 with one job. -/
def Tests.onSamp (j : SampJob) : State := { Tests.slot with samps := [{ queue := [j] }] ++ List.replicate 7 {} }

theorem test_samplerWitness :
    let j : SampJob := { word := Tests.sampWord, owner := .chain 1 }
    let u := (Tests.onSamp j).advance 1
    let w := sampWordOf Tests.sampWord
    let run := { j with issued := true }
    u.live = true ∧ (u.samp 0).queue = [j] ∧ u.sampCheck j.owner (sampWordOf 0) = some .outOfRange ∧
    u.sampCheck j.owner w = none ∧
    (∀ o ∈ w.operands, o.1 ≠ w.rAddr → u.rowsReady none (o.1, o.2, o.2, 1) = true ∧ u.linesClean o.1 o.2 = true) ∧
    ((Tests.onSamp run).advance 1 |>.samp 0).queue = [run] ∧ 0 + ns1200 (sampResultCycles w.v) ≤ u.time.elapsed ∧
    (∀ o ∈ w.operands, u.linesClean o.1 o.2 = true) ∧ u.host.state ≠ .faulted ∧
    (recordRepeat u.ms (u.samp 0).repeats).2 = false := by decide +kernel

theorem test_allocationWitness :
    let u := rest.advance 1
    let full : State := { rest with wardrobe := { pools := [(2, { dram := false, base := 0x100000, cls := 7, count := 0, owner := none })] } }
    let order := fun (v : State) (size : Nat) => (upto 8).flatMap fun j => v.wardrobe.pools.filter fun e =>
      smallestClass size ≤ j && e.2.cls = j && e.2.dram = false && v.poolUsable e.2 1 && v.wardrobe.takeable e.1 e.2 1
    u.live = true ∧ (aget u.wardrobe.pools 2).map (·.cls) = some 3 ∧ classBytes 3 = 262144 ∧
    (aget u.wardrobe.pools 2).map (u.wardrobe.takeable 2 · 1) = some true ∧
    (aget (full.advance 1).wardrobe.pools 2).map ((full.advance 1).wardrobe.takeable 2 · 1) = some false ∧
    ((order u (classBytes 3)).map (·.1)) = [2] ∧ order (full.advance 1) (classBytes 7) = [] := by decide +kernel

theorem test_readerWitness :
    let u := rest.advance 1
    u.live = true ∧ u.locate (bufDram 8192) (bufAddr 8192) = some (0, 2, 0) ∧
    u.bufAt 0 2 = some { state := .held, group := 1, readers := [5] } ∧ ([5] : List Nat).erase 5 = [] ∧
    u.locate (bufDram 4096) (bufAddr 4096) = some (0, 1, 0) ∧ u.bufAt 0 1 = some { state := .scrubbing, group := 1, sealed := true } ∧
    u.locate (bufDram 0x7FFF) (bufAddr 0x7FFF) = some (0, 7, 0xFFF) ∧ u.bufAt 0 7 = none := by decide +kernel

theorem test_lineWitness :
    let h : House := { bankTimes := List.replicate 16 (0, 0) }
    let u := ({ rest with house := h } : State).advance 1
    let s : State := { rest with house := { rebuilding := [(100, 0, 0, 0)] } }
    u.live = true ∧ ((u.house.countMismatch 0 0 u.time.elapsed).bankTimes.filter fun e => e.1 = bankOf 0).length = 17 ∧
    (((rest.advance 1).house.countMismatch 0 8 1).bankTimes.filter fun e => e.1 = bankOf 0).length ≤ 16 ∧
    (rest.advance 1).lineContent 6291455 = .hostWritten ∧ ((s.advance 1).house.rebuilding.any fun e => e.1 = 100) = true := by
  decide +kernel
/-- A camera of 64 by 16 RAW8 pixels on port 15, virtual channel 3, and its stream. -/
def Tests.camera : Stream :=
  { Tests.stream .camera .running with camera := { port := 15, vc := 3, dataType := 0x2A, width := 64, height := 16, maxReadout := 1000 } }

/-- A frame of that camera after n lines. -/
def Tests.frame (lines : Nat) : OpenFrame := { number := 7, capture := 0, stream := 7, lines := lines, buffers := [0] }

/-- The device in SERVICE at a time with port 15 enabled and the frames open on it. -/
def Tests.onPort (now : Nat) (l : List (Nat × OpenFrame)) : State :=
  { play with
    time := { now := now, elapsed := now }, streams := [(7, Tests.camera)]
    ingest := { ports := List.replicate 15 {} ++ [{ enabled := true, open_ := l }] } }

theorem test_cameraWitness :
    let u := (Tests.onPort 0 []).advance 1
    let v := (Tests.onPort 0 [(3, Tests.frame 15)]).advance 1
    let w := (Tests.onPort 1999999 [(3, Tests.frame 16)]).advance 1
    u.live = true ∧ (u.port 15).enabled = true ∧ 15 < u.ingest.ports.length ∧ u.cameraStream 15 2 = none ∧
    u.cameraStream 15 3 = some (7, Tests.camera) ∧ aget (u.port 15).open_ 3 = none ∧
    (u.allocStrips 1 (16 * lineBytes (64 * dataTypeBytes 0x2A)) (ceilDiv 16 16)).isSome = true ∧
    aget (v.port 15).open_ 3 = some (Tests.frame 15) ∧ (Tests.frame 15).buffers[15 / 16]? = some 0 ∧ 15 < 16 ∧
    Tests.camera.camera.dataType ≠ 0x2B ∧ (Tests.frame 15).corrupt = none ∧ (Tests.frame 15).stored = true ∧
    aget v.streams 7 = some Tests.camera ∧ (Tests.frame 16).capture + (1000 + 1000) * 1000 ≤ w.now := by decide +kernel

/-- An access unit of one shown 64 by 64 intra picture. -/
def Tests.au : AuFacts :=
  { syntaxOk := true, profileOk := true, width := 64, height := 64, addressesOk := true, inter := false, frames := 1, shown := 1
    randomAccess := true, rasl := false, kept := [], marksOf := [], refs := [], blocks := 16, headerLost := false, depth := 8
    matrix := 1, range := 0 }

/-- A decode stream of 64 by 64 pictures. -/
def Tests.decoder : Stream :=
  { Tests.stream .decode .running with decode := { codec := 2, profile := 1, maxWidth := 64, maxHeight := 64, maxAuBytes := 4096 } }

/-- A planned sample with its bytes in the first buffer of DRAM. -/
def Tests.unit : Sample := { Tests.planned with buffer := some (2 ^ 63), length := 4096, width := 64, height := 64 }

/-- The device in the slot of a sample of a stream, with a codec cluster's state. -/
def Tests.onCodec (st : Stream) (m : Sample) (x : CodecBlk) : State :=
  { Tests.slot with streams := [(3, st)], samples := [(1, m)], codecs := [x] ++ List.replicate 3 {} }

theorem test_decodeWitness :
    let u := (Tests.onCodec Tests.decoder Tests.unit {}).advance 1
    aget u.samples 1 = some Tests.unit ∧ Tests.unit.stream = 3 ∧ aget u.streams 3 = some Tests.decoder ∧ Tests.decoder.kind = .decode ∧
    u.slotOpen Tests.unit = true ∧ Tests.unit.buffer.isSome = true ∧ Tests.unit.corrupt = none ∧
    Tests.decoder.decode.cluster = none ∧ (u.codecs.getD 0 {}).decoding = none ∧ (u.codecs.getD 0 {}).rebuildUntil ≤ u.time.elapsed ∧
    auVerdict Tests.decoder Tests.unit { Tests.au with width := 65 } = .rejected 4 ∧
    auVerdict Tests.decoder Tests.unit Tests.au = .accepted ∧ (u.openAu 0 1 3 Tests.unit Tests.decoder Tests.au).isSome = true ∧
    0 < u.codecs.length ∧ Tests.au.shown ≤ 1 := by decide +kernel

/-- A decode job of that sample at a strip. -/
def Tests.decodeJob (next : Nat) : DecodeJob := { sample := 1, facts := Tests.au, since := 0, strips := 4, next := next }

theorem test_stripWitness :
    let u := (Tests.onCodec Tests.decoder Tests.unit { decoding := some (Tests.decodeJob 2) }).advance 1
    let v := (Tests.onCodec Tests.decoder Tests.unit { decoding := some (Tests.decodeJob 3) }).advance 1
    let w := (Tests.onCodec Tests.decoder Tests.unit
      { decoding := some (Tests.decodeJob 0), rebuilding := some 0, rebuildUntil := 20000002 }).advance 1
    u.computing = true ∧ (u.codecs.getD 0 {}).decoding = some (Tests.decodeJob 2) ∧ (Tests.decodeJob 2).sample = 1 ∧
    u.stripBuffer 1 0 4096 = true ∧ 2 + 1 < 4 ∧ (v.codecs.getD 0 {}).decoding = some (Tests.decodeJob 3) ∧ 4 ≤ 3 + 1 ∧
    (Tests.decodeJob 3).concealed = 0 ∧ (Tests.decodeJob 3).refs = [] ∧ (Tests.decodeJob 3).later = [] ∧
    u.rebuildSample 0 0 = some (1, Tests.unit) ∧ (u.codecs.getD 0 {}).rebuilding = none ∧
    (recordRepeat u.ms (u.codecs.getD 0 {}).decodeRepeats).2 = false ∧ w.rebuildSample 0 0 = some (1, Tests.unit) ∧
    (w.codecs.getD 0 {}).rebuilding = some 0 ∧ w.time.elapsed < (w.codecs.getD 0 {}).rebuildUntil := by decide +kernel

/-- An encode stream of the 64 by 64 output 0 of stream 3. -/
def Tests.encoder : Stream :=
  { Tests.stream .encode .running with
    encode := { source := 3, codec := 2, profile := 1, width := 64, height := 64, hostSize := 4000, vbv := 16, target := 16 } }

/-- A picture of that stream with a number of rows done. -/
def Tests.encodeJob (row : Nat) : EncodeJob :=
  { stream := 5, sample := 2, source := 1, crop := [0, 0, 64, 64], intra := true, forced := false, target := 0, base := 0
    qp := 30, qpRow := 30, row := row, rows := 4, qpFirst := 30, saved := {} }

/-- The device in the slot of a source sample, encoding permitted, with a codec cluster's state. -/
def Tests.onEncoder (x : CodecBlk) : State :=
  { Tests.onCodec Tests.source { Tests.unit with outputs := [(0, 0, [0, 0, 64, 64])] } x with
    streams := [(3, Tests.source), (5, Tests.encoder)], sec := { encoded := true } }

theorem test_encodeWitness :
    let m := { Tests.unit with outputs := [(0, 0, [0, 0, 64, 64])] }
    let u := (Tests.onEncoder {}).advance 1
    let v := (Tests.onEncoder { encoding := some (Tests.encodeJob 3) }).advance 1
    let w := (Tests.onEncoder { encoding := some (Tests.encodeJob 4) }).advance 1
    aget u.streams 5 = some Tests.encoder ∧ aget u.samples 1 = some m ∧ aget u.streams 3 = some Tests.source ∧ u.slotOpen m = true ∧
    Tests.encoder.encode.source = m.stream ∧ u.sec.encoded = true ∧ (u.codecs.getD 0 {}).encoding = none ∧
    m.encoded.contains 5 = false ∧ sourceCrop Tests.source m 0 = some [0, 0, 64, 64] ∧
    (u.allocFrame 1 none (frameBuffers 64 64 1)).isSome = true ∧ v.computing = true ∧
    (v.codecs.getD 0 {}).encoding = some (Tests.encodeJob 3) ∧ (Tests.encodeJob 3).row < (Tests.encodeJob 3).rows ∧
    (w.codecs.getD 0 {}).encoding = some (Tests.encodeJob 4) ∧ (Tests.encodeJob 4).rows ≤ (Tests.encodeJob 4).row ∧
    ({ Tests.encodeJob 4 with stopped := true } : EncodeJob).stopped = true ∧
    (recordRepeat v.ms (v.codecs.getD 0 {}).encodeRepeats).2 = false := by decide +kernel

/-- A grey JPEG image of 64 by 64 pixels. -/
def Tests.jpegFacts : JpegFacts := ⟨true, 64, 64, 1, 1, 1, false, false⟩

theorem test_jpegWitness :
    let s : State := { Tests.slot with streams := [(3, Tests.jpeg)], samples := [(1, Tests.unit)] }
    let u := s.advance 1
    let j : JpegJob := { sample := 1, facts := Tests.jpegFacts, next := 7 }
    let v := ({ s with jpegs := [{ work := some j }, {}] } : State).advance 1
    0 < u.jpegs.length ∧ aget u.samples 1 = some Tests.unit ∧ aget u.streams 3 = some Tests.jpeg ∧ u.slotOpen Tests.unit = true ∧
    Tests.jpeg.kind = .jpeg ∧ (u.jpegUnit 0).work = none ∧ Tests.jpegFacts.fileLost = false ∧
    jpegCheck Tests.jpeg Tests.unit { Tests.jpegFacts with width := 65 } = some 4 ∧
    jpegCheck Tests.jpeg Tests.unit Tests.jpegFacts = none ∧ v.computing = true ∧ (v.jpegUnit 0).work = some j ∧
    v.stripBuffer 1 0 ((jpegStripBytes Tests.jpegFacts).1 + 2 * (jpegStripBytes Tests.jpegFacts).2) = true ∧
    ¬ (7 + 1) * jpegMcuRows Tests.jpegFacts < 64 ∧ (6 + 1) * jpegMcuRows Tests.jpegFacts < 64 := by decide +kernel

/-- A scaler pass of output 0 after 62 rows. -/
def Tests.pass : ScalePass := { sample := 1, output := 0, crop := [0, 0, 64, 64], rowsDone := 62 }

theorem test_scalerWitness :
    let s : State := { Tests.onCodec Tests.source { Tests.unit with rowsReady := 64 } {} with playbill := {} }
    let m := { Tests.unit with rowsReady := 64 }
    let u := s.advance 1
    let v := ({ s with scalers := [{ work := some { Tests.pass with rowsDone := 60 } }] ++ List.replicate 7 {} } : State).advance 1
    aget u.samples 1 = some m ∧ Tests.source.outputs[0]? = some Tests.picture ∧ u.slotOpen m = true ∧ m.width ≠ 0 ∧
    Tests.picture.scaler = some 0 ∧ (u.scaler 0).work = none ∧ (∀ y ∈ m.outputs, y.1 ≠ 0) ∧
    (∀ y ∈ u.scalers, y.work = none) ∧ Tests.picture.crop ≠ 2 ∧ Tests.got (u.alloc 1 false Tests.picture.bytes none true) = true ∧
    v.computing = true ∧ (v.scaler 0).work = some { Tests.pass with rowsDone := 60 } ∧ 60 + 2 < Tests.picture.outH ∧
    60 + 4 = Tests.picture.outH ∧ (60 + 2) % 2 = 0 ∧ (60 + 4) % 2 = 0 ∧
    sourceReach Tests.source m (lastRow Tests.picture.filter 64 64 [0, 0, 64, 64] 63) < 64 ∧
    sourceReach Tests.source m (lastRow Tests.picture.filter 64 64 [0, 0, 64, 64] 61) < 64 ∧
    (recordRepeat v.ms (v.scaler 0).repeats).2 = false ∧ v.host.state ≠ .faulted ∧
    ({ Tests.pass with retried := true } : ScalePass).retried = true := by decide +kernel
/-- A mono block of 160 samples of 16 bits (one hop), whose carry is usable or not. -/
def Tests.audio (from_ : Option Nat) : Stream :=
  { Tests.stream .audio .running with audio := { block := 160 }, carryFrom := from_ }

theorem test_audioWitness :
    let s : State := { Tests.slot with streams := [(3, Tests.audio none)], samples := [(1, Tests.unit)] }
    let m := { Tests.unit with audioPasses := 1 }
    let u := s.advance 1
    let size := 160 / 160 * 1 * melBytes (Tests.audio none).audio
    aget u.samples 1 = some Tests.unit ∧ aget u.streams 3 = some (Tests.audio none) ∧ u.slotOpen Tests.unit = true ∧
    Tests.unit.audioPasses = 0 ∧ Tests.unit.corrupt = none ∧ Tests.got (u.alloc 1 false size none true) = true ∧
    nonFiniteBlock (Tests.audio none).audio.format [] = false ∧ carryUsable (Tests.audio none).audio none 0 = false ∧
    carryUsable (Tests.audio none).audio (some 0) 10000000 = true ∧ carryUsable (Tests.audio none).audio (some 0) 15000000 = true ∧
    carryUsable (Tests.audio none).audio (some 0) 15000001 = false ∧ m.audioPasses = 1 ∧
    (recordRepeat u.ms u.ingest.audioRepeats).2 = false := by decide +kernel

theorem test_burstWitness :
    let u := rest.advance 1
    let lost : State := { rest with dram := { lostBursts := [(0, 2)] } }
    let times : State := { rest with dram := { channelTimes := List.replicate 16 (channelOf 2 0, 0) } }
    u.live = true ∧ u.dram.selfRefresh = false ∧ u.dram.poisonedBursts.contains 0 = false ∧ 2 < 3 ∧
    (u.dram.channelTimes.filter fun x => x.1 = channelOf 2 0 ∧ u.time.elapsed < x.2 + 1000000000).length < 16 ∧
    16 ≤ ((times.advance 999999999).dram.channelTimes.filter fun x =>
      x.1 = channelOf 2 0 ∧ (times.advance 999999999).time.elapsed < x.2 + 1000000000).length ∧
    ((lost.advance 1).dram.lostBursts.find? fun x => x.1 = 63 / 64) = some (0, 2) ∧ [1, 2, 8].contains 2 = true := by
  decide +kernel

/-- The device with a part of its power controller. -/
def Tests.withPwr (p : Pwr) : State := { rest with pwr := p, wardrobe := {}, time := { now := 1000000000, elapsed := 1000000000 } }

theorem test_powerWitness :
    let hot := (Tests.withPwr { logicTemp := 98, stepNext := 6 }).advance 0
    let cool := (Tests.withPwr { stepNext := 1, increaseSince := some 0 }).advance 0
    let idle := (Tests.withPwr { lastAccess := 990000000 }).advance 0
    hot.live = true ∧ hot.pwr.decided ≠ some hot.cue.edges ∧ hot.wantsDecrease = true ∧ hot.pwr.stepNext < 7 ∧
    cool.wantsDecrease = false ∧ cool.mayIncrease = true ∧
    ((Tests.withPwr { decided := some 0 }).advance 0).pwr.decided = some 0 ∧ idle.host.state = .standby ∧ idle.pwr.rest = false ∧
    idle.inflight = [] ∧ idle.anyScrub = false ∧ idle.pwr.lastAccess + 10000000 ≤ idle.time.elapsed ∧ idle.host.bootStep ≠ 0 ∧
    idle.pwr.stopped = false ∧ (List.replicate 64 100).length ≤ 64 := by decide +kernel

theorem test_clockWitness :
    let u := (Tests.withPwr { trip := true, tripSince := some 900000000 }).advance 0
    let s : State := { rest with ewl := { ports := List.replicate 7 {} ++ [{ state := .training }] } }
    u.pwr.tripSince = some 900000000 ∧ u.pwr.trip = true ∧ 900000000 + 100000000 ≤ u.time.elapsed ∧ u.host.state ≠ .faulted ∧
    u.pllLocked 39 = true ∧ u.host.bootStep ≠ 0 ∧ (recordRepeat u.ms (agetD u.cores 11 [])).2 = false ∧
    (s.advance 1).ewl.ports.length = 8 ∧ ((s.advance 1).ewPort 7).state ≠ .disabled := by decide +kernel

theorem test_hostLinkWitness :
    let u := (Tests.withPwr {}).advance 0
    let plain := ({ Tests.withPwr {} with host := { rest.host with flit := false } } : State).advance 0
    u.host.bootStep ≠ 0 ∧ u.live = true ∧ payloadRate u.host.speed u.host.width ≠ payloadRate 4 4 ∧ u.host.linkUp = true ∧
    u.mayIdle .l1 = true ∧ u.mayIdle .l1p1 = true ∧ u.mayIdle .l1p2 = true ∧ plain.mayIdle .l0s = true := by decide +kernel

/-- The device with Euwald port 7 in a state, at 200 ms. -/
def Tests.onEw (p : EwPort) : State :=
  { rest with ewl := { ports := List.replicate 7 {} ++ [p] }, time := { now := 200000000, elapsed := 200000000 } }

/-- A good DATA flit. -/
def Tests.flit (seq : Nat) : Flit := ⟨true, 0, seq, 0, false, [0, 0, 0], true, 0, false⟩

theorem test_ewlWitness :
    let up : EwPort := { state := .up, expectSeq := 4095, replay := [(4095, 199998000)], lastValid := 199998000 }
    let u := (Tests.onEw up).advance 0
    let down := (Tests.onEw { state := .down, downSince := 100000000 }).advance 0
    7 < u.ewl.ports.length ∧ u.ewPort 7 = up ∧ ({ Tests.flit 0 with crcOk := false } : Flit).crcOk = false ∧
    (Tests.flit 4095).seq = up.expectSeq ∧ (Tests.flit 4095).crcOk = true ∧ (Tests.flit 4095).nak = false ∧
    199998000 + 2000 ≤ u.time.elapsed ∧ 7 < 8 ∧ (Tests.onEw { state := .retraining } |>.ewPort 7).state = .retraining ∧
    (Tests.onEw { state := .training } |>.ewPort 7).state = .training ∧ down.live = true ∧ (down.ewPort 7).state = .down ∧
    (down.ewPort 7).downSince + 100000000 ≤ down.time.elapsed ∧ u.ewl.cascade ≠ .forming := by decide +kernel

/-- A member table of three members, heard at a time. -/
def Tests.table (heard : Nat) : List (Nat × Member) := (upto 3).map fun m => (m, { lastHeartbeat := heard })

/-- Member 1 of a cascade of three at 1 ms, with ports to members 0 and 2. -/
def Tests.member (e : Ewl) : State :=
  { rest with
    time := { now := 1000000, elapsed := 1000000 }
    ewl := { e with
      cascade := .playing, member := 1, members := 3, epoch := 4, assigned := true, table := Tests.table 800000
      ports := [{ state := .up, peerMember := 0 }, { state := .up, peerMember := 2 }] ++ List.replicate 6 {} } }

/-- A message from member src. -/
def Tests.msg (kind src address : Nat) : Msg := ⟨kind, false, src, 1, 8, 4, 4, address, 9, 0⟩

/-- A retained copy sent 20 µs ago. -/
def Tests.kept (sample : Option Nat) : Retained := ⟨9, 0, 0, 4, 2, 980000, false, 0, 0, false, 0, sample⟩

theorem test_blockWitness :
    let u := (Tests.member { role := 3 }).advance 0
    let late := fun (x : Retained) => x.chain = 9 && x.index = 0 && !x.acked && x.sentAt + 20000 ≤ 1000000
    let v := (Tests.member { role := 3, retained := [Tests.kept none] }).advance 0
    let w := (Tests.member { role := 3, retained := [Tests.kept (some 1)] }).advance 0
    u.live = true ∧ u.inCascade = true ∧ u.stageManager = false ∧ (Tests.msg 1 0 0).length ≤ 65536 ∧ (Tests.msg 1 0 0).dst = u.ewl.member ∧
    bufDram 0 = false ∧ u.takesBytes (Tests.msg 1 0 4092) [1, 2, 3, 4] = true ∧ u.takesBytes (Tests.msg 1 0 4093) [1, 2, 3, 4] = false ∧
    u.takesBytes (Tests.msg 4 0 0) [1, 2, 3, 4] = true ∧ (u.routePorts 0).head? = some 0 ∧
    v.ewl.retained.find? late = some (Tests.kept none) ∧ w.ewl.retained.find? late = some (Tests.kept (some 1)) ∧
    (Tests.kept none).sample = none ∧ u.memberLost 2 = false ∧ u.ewl.retained = [] ∧ v.ewl.retained = [Tests.kept none] ∧
    (Tests.kept none).chain = (Tests.msg 3 2 0).chain ∧ (Tests.kept none).index = (Tests.msg 3 2 0).block := by decide +kernel

/-- The stage manager of the cascade. -/
def Tests.manager (e : Ewl) : State := Tests.member { e with role := 1, manager := 1 }

theorem test_controlWitness :
    let u := (Tests.member { role := 3, lastHeartbeatSent := 950000 }).advance 0
    let a := (Tests.manager { waitingReply := [(2, 900000, [5])] }).advance 0
    let m : Msg := { Tests.msg 5 0 0 with block := 2 ^ 31 - 1 }
    u.inCascade = true ∧ u.ewl.lastHeartbeatSent + 50000 ≤ u.time.elapsed ∧ m.src ≠ u.ewl.member ∧ (u.memberOf 0).lost = false ∧
    0 < (m.block + 2 ^ 32 - (u.memberOf 0).lastSequence % 2 ^ 32) % 2 ^ 32 ∧
    (m.block + 2 ^ 32 - (u.memberOf 0).lastSequence % 2 ^ 32) % 2 ^ 32 < 2 ^ 31 ∧ a.live = true ∧ a.ewl.cascade ≠ .broken ∧
    2 ≠ a.ewl.member ∧ 2 < a.ewl.members ∧ a.memberLost 2 = false ∧ (a.memberOf 2).lastHeartbeat + 200000 ≤ a.time.elapsed ∧
    a.ewl.role = 1 ∧ u.fromManager (Tests.msg 6 0 0) = true ∧ u.fromManager (Tests.msg 6 2 0) = false ∧
    controlForms .deviceStop = false ∧ u.ewl.assigned = true ∧ (Tests.msg 7 0 0).dst = u.ewl.member ∧
    (a.ewl.waitingReply.find? fun y => y.1 = 2 && y.2.1 + 100000 ≤ a.time.elapsed) = some (2, 900000, [5]) ∧
    a.backupPort 2 = some 0 := by decide +kernel

/-- A completion that waits for its acknowledgement. -/
def Tests.held : MirrorHold := { sentAt := 800000, write := some (Tests.written false, false) }

theorem test_mirrorWitness :
    let u := (Tests.member { role := 2, managerHeard := 800000 }).advance 0
    let a := (Tests.manager { deputy := some 0, mirrorQueue := [Tests.held] }).advance 0
    let p := (Tests.member { role := 3, deputy := some 2 }).advance 0
    let alone := (Tests.member { role := 2, manager := 0, managerHeard := 800000 }).advance 0
    let five := ({ Tests.member { role := 2, managerHeard := 800000 } with
      ewl := { (Tests.member { role := 2, managerHeard := 800000 }).ewl with
        members := 4, table := [(0, { lastHeartbeat := 0 }), (2, { lastHeartbeat := 800001 }), (3, { lastHeartbeat := 0 })] } } : State)
    u.fromManager (Tests.msg 8 0 0) = true ∧ u.ewl.role = 2 ∧ a.ewl.role = 1 ∧ a.ewl.deputy = some 0 ∧
    a.ewl.mirrorQueue = [Tests.held] ∧ Tests.held.write = some (Tests.written false, false) ∧ Tests.held.command = none ∧
    a.stageManager = true ∧ Tests.held.sentAt + 200000 ≤ a.time.elapsed ∧ u.ewl.managerHeard + 200000 ≤ u.time.elapsed ∧
    (five.otherMembers.filter (· ≠ five.ewl.manager)) = [2, 3] ∧ five.silent 2 = false ∧ five.silent 3 = true ∧
    2 + 1 < 2 * (1 + 1) ∧ (alone.otherMembers.filter (· ≠ alone.ewl.manager)) = [2] ∧ alone.silent 2 = true ∧ 2 * (0 + 1) ≤ 1 + 1 ∧
    p.stageManager = false ∧ p.ewl.epoch < ({ Tests.msg 0x0A 2 0 with epoch := 5 } : Msg).epoch ∧ p.ewl.deputy = some 2 ∧
    p.fromManager (Tests.msg 0x0B 0 0) = true := by decide +kernel

theorem test_formingWitness :
    let u := ({ rest with ewl := { cascade := .forming }, time := { elapsed := 1000000000 } } : State).advance 0
    u.ewl.cascade = .forming ∧ u.formMembers = none ∧ (u.ewl.formIdentities.any fun x => x.1 = 5) = false ∧
    u.ewl.formAt + 1000000000 ≤ u.time.elapsed ∧ (Tests.msg 0x0C 0 0).kind = 0x0C := by decide +kernel

theorem test_remapWitness :
    let u := ({ rest with ewl := { cascade := .remapping, role := 1, remapAt := 0 }, time := { elapsed := 800000 } } : State).advance 0
    let s : State := { rest with playbill := { generation := 2 ^ 32 - 1, updating := some 0 } }
    u.ewl.role = 1 ∧ u.ewl.cascade = .remapping ∧ u.ewl.remapBuilt = false ∧ u.ewl.remapAt + 800000 ≤ u.time.elapsed ∧
    (s.advance 1).playbill.updating = some 0 ∧ (s.advance 1).live = true ∧ (s.advance 1).playbill.again = false ∧
    (s.advance 1).playbill.remapDue = none ∧ (s.advance 1).playbill.remapEvent = none := by decide +kernel

theorem test_managementWitness :
    65535 < 65536 ∧ 32 ≤ 32 ∧ 32 < 33 ∧ 127 < 128 ∧ tapDrives .samplePreload = false ∧ tapDrives .highz = true ∧
    (rest.advance 1).coldAsserted = false ∧ ({ Tests.boots 0 with pwr := { resetCauses := [2] } } : State).coldAsserted = true ∧
    (rest.advance 1).live = true := by decide +kernel

/-- A failure of check 3, and one of check 4; the fetch of both. -/
theorem test_checkWitness :
    let p := pk 0x50000000 []
    Fetchable 1 p rest = true ∧ Fetchable 1 { p with flags := 8 } rest = true ∧
    headChecks nopCmd { p with flags := 8 } = some (rangeFault 2) ∧ headChecks nopCmd p = none ∧ nopCmd.extended = false ∧
    bodyChecks nopCmd (pk 0x50000001 []) (rest.taken 1 (pk 0x50000001 [])) = some (rangeFault 8) ∧
    Fetchable 1 (pk 0x50000001 []) rest = true := by decide +kernel

/-- A completion at the last slot of Q0, with an unmasked and with a masked vector. -/
theorem test_phaseWitness :
    let last : State := { rest with rings := [(0, { Tests.q0 with ctail := 63, head := 1, interruptAll := true })] }
    let open_ : State := { last with host := { last.host with fns := [(0, { busMaster := true, msix := [(0, { masked := false })] })] } }
    let p := pk 0x50000000 []
    Passes nopCmd 1 p last = true ∧ (aget (last.taken 1 p).rings 0).map (·.ctail) = some 63 ∧ p.ring ≠ remoteRing ∧
    (aget (last.taken 1 p).rings 0).map (·.interruptAll) = some true ∧
    (agetD ((last.taken 1 p).fnOf 0).msix 0 {} : MsixEntry).masked = true ∧ Passes nopCmd 1 p open_ = true ∧
    (agetD ((open_.taken 1 p).fnOf 0).msix 0 {} : MsixEntry).masked = false := by decide +kernel

/-- A command whose step goes on, in a state whose memories are canonical; one that writes no memory. -/
theorem test_stepWitness :
    let s : State := { rest with pending := [.linkPowerExit 1] }
    s.memWf = true ∧ s.pending = .linkPowerExit 1 :: [] ∧ mayWriteMemory (.linkPowerExit 1) = false ∧
    (match step s with | .next t => t.pending = [] | .fault _ | .refused _ => false) = true := by decide +kernel

/-! ### WellFormed: an ill-formed command per check, and well-formed ones at the bounds -/

/-- A packet of a ring beyond the last. -/
def Tests.farPk : Packet := { pk 0x50000000 [] with ring := 16384 }

/-- A flit within Table 15.1. -/
def Tests.wireFlit : Flit := ⟨true, 2, 4095, 4095, false, [0, 0, 0], true, 0, false⟩

theorem test_wfHost :
    (Instr.nop 0 farPk).wf = false ∧ (Instr.nop 0 { farPk with ring := 16383 }).wf = true ∧
    (Instr.ringSubmitTailWrite 0 64 0 0).wf = false ∧ (Instr.ringSubmitTailWrite 0 0 16384 0).wf = false ∧
    (Instr.ringCompleteHeadWrite 0 0 0 65536).wf = false ∧ (Instr.ringCompleteHeadWrite 0 63 16383 65535).wf = true ∧
    (Instr.adminEnable 0 64).wf = false ∧ (Instr.bar2WindowBaseWrite 0 0 (2 ^ 64)).wf = false ∧
    (Instr.vfWindowBaseWrite 0 0 0 0).wf = false ∧ (Instr.vfWindowBaseWrite 0 0 64 0).wf = false ∧
    (Instr.vfRingsWrite 0 0 1 16384 0).wf = false ∧ (Instr.vfRingsWrite 0 0 1 0 2048).wf = false ∧
    (Instr.castKeyHashWrite 0 0 8 0).wf = false ∧ (Instr.limitWattsWrite 0 0 1024).wf = false ∧
    (Instr.registerWrite 0 0 0 2 0).wf = false ∧ (Instr.readClear 0 0 (2 ^ 28) 4).wf = false ∧
    (Instr.readClear 0 0 0 8).wf = true ∧ (Instr.bar2Read 0 0 0 0).wf = false ∧ (Instr.bar2Read 0 0 0 513).wf = false ∧
    (Instr.bar2Read 0 0 (2 ^ 36) 1).wf = false ∧ (Instr.bar2Write 0 0 0 [] false).wf = false ∧
    (Instr.functionLevelResetVf 0 0).wf = false ∧ (Instr.functionLevelResetVf 0 63).wf = true ∧
    (Instr.msixUnmask 0 0 2048).wf = false := by decide +kernel

theorem test_wfUnits :
    (Instr.shadowLoadStart 0 8 0).wf = false ∧ (Instr.arrayRow0Entry 0 7 4).wf = false ∧
    (Instr.arrayInstructionComplete 0 7 3).wf = true ∧ (Instr.arrayResidueFailure 0 0 0 512 0).wf = false ∧
    (Instr.arrayResidueFailure 0 0 0 0 65536).wf = false ∧ (Instr.scaleTagMismatch 0 true 8 0).wf = false ∧
    (Instr.arrayClockGate 0 8).wf = false ∧ (Instr.splitModeChange 0 0 3).wf = false ∧
    (Instr.houseLineMismatch 0 6291456 0 0 0).wf = false ∧ (Instr.houseLineMismatch 0 0 10 0 0).wf = false ∧
    (Instr.houseLineMismatch 0 0 0 16 0).wf = false ∧ (Instr.houseLineMismatch 0 6291455 9 15 3).wf = true ∧
    (Instr.lineRebuildComplete 0 6291456 false).wf = false ∧ (Instr.vectorInstructionIssue 0 8 0).wf = false ∧
    (Instr.vectorParityFailure 0 0 0 512 false false).wf = false ∧ (Instr.contextSave 0 0 0 6291456 0).wf = false ∧
    (Instr.contextRestore 0 0 4 0).wf = false ∧ (Instr.samplerInstructionIssue 0 8).wf = false ∧
    (Instr.samplerParityFailure 0 8 true false).wf = false ∧ (Instr.bufferAllocation 0 1024 false 64 none false).wf = false ∧
    (Instr.scrubComplete 0 64 0).wf = false ∧ (Instr.csi2FrameStart 0 16 0 0).wf = false ∧
    (Instr.csi2FrameEnd 0 0 16 0).wf = false ∧ (Instr.csi2LinePacket 0 0 0 64 [] true true).wf = false ∧
    (Instr.csi2UncorrectableHeader 0 16).wf = false ∧ (Instr.stripRebuild 0 4 0).wf = false ∧
    (Instr.encodePictureEnd 0 4).wf = false ∧ (Instr.jpegStripComplete 0 2 false 0).wf = false ∧
    (Instr.scalerPassStart 0 8 0 0 0).wf = false ∧ (Instr.scalerPassStart 0 0 0 4 0).wf = false ∧
    (Instr.scalerBandComplete 0 8 0).wf = false := by decide +kernel

theorem test_wfMemoryPowerAndLinks :
    (Instr.dramReadCrcFailure 0 32 1 1 none).wf = false ∧ (Instr.dramReadCrcFailure 0 51539607552 1 1 none).wf = false ∧
    (Instr.dramReadCrcFailure 0 0 0 1 none).wf = false ∧ (Instr.dramReadCrcFailure 0 0 1 4 none).wf = false ∧
    (Instr.dramReadCrcFailure 0 51539607488 9 3 none).wf = true ∧ (Instr.dramWriteCodeError 0 1 true).wf = false ∧
    (Instr.dramRefreshSlice 0 8).wf = false ∧ (Instr.dramSensorSample 0 0 [0]).wf = false ∧
    (Instr.logicSensorSample 0 [0]).wf = false ∧ (Instr.dramRecalibration 0 128 0).wf = false ∧
    (Instr.dramRecalibration 0 0 64).wf = false ∧ (Instr.dramTrainingComplete 0 []).wf = false ∧
    (Instr.pllLockLoss 0 40).wf = false ∧ (Instr.watchdogExpiry 0 12).wf = false ∧
    (Instr.linkRetrain 0 3 16 true).wf = false ∧ (Instr.linkRetrain 0 6 2 true).wf = false ∧
    (Instr.ewlFlitReceived 0 8 wireFlit).wf = false ∧ (Instr.ewlFlitReceived 0 7 wireFlit).wf = true ∧
    (Instr.ewlFlitReceived 0 7 { wireFlit with channel := 3 }).wf = false ∧
    (Instr.ewlFlitReceived 0 7 { wireFlit with seq := 4096 }).wf = false ∧
    (Instr.ewlFlitReceived 0 7 { wireFlit with ack := 4096 }).wf = false ∧
    (Instr.ewlFlitReceived 0 7 { wireFlit with credits := [] }).wf = false ∧ (Instr.ewlReplayTimeout 0 8).wf = false ∧
    (Instr.ewlLinkFlit 0 0 0 0 0 16 0).wf = false ∧ (Instr.ewlTrainingComplete 0 0 true 0 8).wf = false ∧
    (Instr.ewlLaneLockLoss 0 0 8).wf = false ∧ (Instr.block 0 (msg 1 0 0) []).wf = false ∧
    (Instr.block 0 { msg 1 0 0 with length := 1 } [0]).wf = true ∧ (Instr.blockAck 0 { msg 2 0 0 with src := 16 }).wf = false ∧
    (Instr.heartbeat 0 { msg 5 0 0 with dst := 16 } 0 0 true).wf = false ∧ (Instr.takeover 0 { msg 10 0 0 with ttl := 16 }).wf = false ∧
    (Instr.mirrorAck 0 { msg 9 0 0 with epoch := 2 ^ 32 }).wf = false ∧ (Instr.resend 0 { msg 3 0 0 with kind := 256 }).wf = false ∧
    (Instr.resend 0 { msg 3 0 0 with length := 65537 }).wf = false ∧ (Instr.resend 0 { msg 3 0 0 with chain := 2 ^ 32 }).wf = false ∧
    (Instr.resend 0 { msg 3 0 0 with block := 2 ^ 32 }).wf = false ∧ (Instr.resend 0 { msg 3 0 0 with address := 2 ^ 64 }).wf = false ∧
    (Instr.memberLost 0 16).wf = false ∧ (Instr.mgmtRead 0 0).wf = false ∧ (Instr.mgmtRead 0 33).wf = false ∧
    (Instr.i3cDynamicAddress 0 128 true).wf = false ∧ decodeTableWord 64 0 = none := by decide +kernel

/-! ### The spec's own figures: worked examples of the chapters, computed by the functions that the commands run -/

/-- House address 0x0123_4567: bank 156 (chapter 4); the host reaches it at BAR2 device address 0x0F_0123_4567. -/
theorem test_houseExample : bankOf (0x01234567 / 64) = 156 ∧ bar2Accepted 0xF01234567 1 = true := by decide +kernel

/-- 0x02_0000_0040 is offset 0x02_0000_0040 of the DRAM: channels and offset under GRAIN_1K and GRAIN_256 (chapter 16). -/
theorem test_channelExample :
    channelOf 2 0x200000040 = 4 ∧ channelOffset 2 0x200000040 = 67108928 ∧ channelOf 2 0x200000440 = 5 ∧
    channelOf 0 0x200000040 = 16 := by decide +kernel

/-- Pool 3 of chapter 4 with 440 of 512 buffers held: group 6 takes while more are free than owed, group 5 takes its minimum. -/
def Tests.sharedPool (extra : Nat) : Pool :=
  { dram := false, base := 0, cls := 2, count := 512, owner := none
    bufs := (upto (440 + extra)).map fun k => (k, { state := .held, group := if k < 280 then 4 else if k < 380 then 5 else 6 }) }

theorem test_takeableExample :
    let w : Wardrobe := { minima := [((4, 3), 300), ((5, 3), 150)] }
    w.owed 3 (sharedPool 0) 6 = 70 ∧ w.takeable 3 (sharedPool 0) 6 = true ∧ w.takeable 3 (sharedPool 1) 6 = true ∧
    w.takeable 3 (sharedPool 2) 6 = false ∧ w.takeable 3 (sharedPool 2) 5 = true ∧ smallestClass 200000 = 3 := by decide +kernel

/-- 0x3F80_5000 narrowed to BF16, and the MXFP4 block of chapter 6 with its computed scale. -/
theorem test_narrowExample :
    (narrow 0x03 .nearestEven (f32 0x3F805000)).code = 0x3F80 ∧ (narrow 0x03 .towardZero (f32 0x3F805000)).code = 0x3F80 ∧
    computedScale 0x0C ([0x40A9999A, 0x40200000, 0xBF99999A, 0x3E800000, 0x3E4CCCCD, 0x3D75C28F].map f32) = 0 ∧
    (([0x40A9999A, 0x40200000, 0xBF99999A, 0x3E800000, 0x3E4CCCCD, 0x3D75C28F].map f32).map fun x =>
      ((narrow 0x0C .nearestEven x).code, (narrow 0x0C .nearestEven x).flushed))
      = [(7, false), (4, false), (10, false), (0, true), (0, true), (0, true)] := by decide +kernel

/-- Scale entries 0x807F and 0x077F: the second fails the tag of the first's position (chapter 6). -/
theorem test_scaleEntryExample :
    scaleEntry 0x7F 0 0 false = 0x807F ∧ scaleEntry 0x7F 7 0 false = 0x077F ∧ scaleTagOk 0x807F 0 0 false = true ∧
    scaleTagOk 0x077F 0 0 false = false := by decide +kernel

/-- Step 7 has a budget of 264.2 W (chapter 20); the default period's window U is 16,643,666.6 ns (chapter 3). -/
theorem test_budgetAndWindowExample : stepBudget 7 = 264200 ∧ usableWindow .internal 16667 = 166436666 := by decide +kernel

/-- The NODE_IDs of member 1's bay 5, its vector engine, and cell 0.0 of section 9 of its array 5 (chapter 2). -/
theorem test_nodeExample :
    nodeId 3 32 1 20 = 0x30000034 ∧ nodeId 3 32 1 21 = 0x30000035 ∧ nodeId 5 64 1 0 = 0x50000040 ∧
    nodeId 0 2097152 1 ((64 * 5 + 9) * 4096) = 0x00349000 := by decide +kernel

/-- The five candidates of chapter 10: c0, c3, c2 and c4 are kept, and one is suppressed. -/
theorem test_nmsExample :
    let c := fun (x0 y0 x1 y1 : Nat) (score : Word32) (cls pos : Nat) =>
      (Cand.mk (natF32 x0) (natF32 y0) (natF32 x1) (natF32 y1) score cls 0 0 pos 0)
    let c0 := c 10 10 50 50 0x3F666666 0 100
    let c1 := c 12 12 52 52 0x3F4CCCCD 0 101
    let c2 := c 60 10 100 50 0x3F4CCCCD 0 40
    let c3 := c 10 10 50 50 0x3F59999A 1 200
    let c4 := c 30 10 70 50 0x3F333333 0 102
    let r := nmsWalk half32 false 16 6 [] [c0, c3, c2, c1, c4] 0
    r.1.map (·.position) = [100, 200, 40, 102] ∧ r.2 = (1, 0) := by decide +kernel

/-- The P picture of chapter 11: base 66,666 and target 79,166 at v = 400,000. -/
theorem test_encodeExample :
    let e : EncodeCfg := { width := 1280, height := 720, rateNum := 30, rateDen := 1, rcMode := 1, target := 2000, max := 2000, vbv := 1000 }
    e.base 400000 = 66666 ∧ e.pictureTarget 400000 false = 79166 ∧ e.rows = 12 := by decide +kernel

/-- The board controller's 4-byte read of PWR status in chapter 21: STEPPED is returned and clears, POINTER moves on by 4. -/
theorem test_mgmtExample :
    let s : State := { rest with mgmt := { stepped := true }, pending := [] }
    let t := (s.mgmtPoints 0x0010 true).mgmtReads 4
    t.mgmt.lastRead = [0x00, 0x00, 0x02, 0x00] ∧ t.mgmt.stepped = false ∧ t.mgmt.pointer = 0x0014 := by decide +kernel

end
end

section
/-! PROOFS. The state right after reset: its registers and lists stand at the defaults of their blocks; memories that list nothing read
as zero in canonical form (log entry 13), and all eight Euwald ports are copies of one disabled port. -/

namespace Sys2Proof.Machine

open Sys2Proof

@[simp] theorem Memory.read_empty (a : Nat) : Memory.read {} a = 0 := by
  rw [Memory.read, cellsRead]

@[simp] theorem State.reset_house_mem : State.reset.house.mem = {} := rfl

@[simp] theorem State.reset_dram_mem : State.reset.dram.mem = {} := rfl

theorem State.reset_ewl_ports : State.reset.ewl.ports = List.replicate 8 {} := rfl

/-- R453, log entry 13: no byte of the House or of DRAM is listed. -/
theorem State.reset_reads_zero (a : Nat) : State.reset.house.mem.read a = 0 ∧ State.reset.dram.mem.read a = 0 := by
  rw [State.reset_house_mem, State.reset_dram_mem, and_self]
  exact Memory.read_empty a

theorem State.reset_memWf : State.reset.memWf = true := by
  rw [State.memWf, State.reset_house_mem, State.reset_dram_mem, Bool.and_self]
  exact Memory.wf_empty

theorem State.reset_port_disabled {p : EwPort} (h : p ∈ State.reset.ewl.ports) : p.state = .disabled := by
  rw [State.reset_ewl_ports] at h
  rw [List.eq_of_mem_replicate h]

end Sys2Proof.Machine

section

open Sys2Proof Sys2Proof.Machine

/-- Settles O54: each register and list is the default of its block; the ports, the bytes of memory and the canonical form by their
lemmas. -/
theorem resetStateHolds : Obligations.ResetStateHolds := by
  refine ⟨
    -- device state, faults, functions
    rfl, rfl, rfl, rfl, rfl, rfl,
    -- power and reset cause
    rfl, rfl, rfl, rfl,
    -- time base and cue
    rfl, rfl, rfl, rfl, rfl, rfl,
    -- rings, commands and objects
    rfl, rfl, rfl, rfl, rfl, rfl, rfl, rfl,
    -- trace and security
    rfl, rfl, rfl, rfl, rfl, rfl,
    -- cascade, management port, test port, queue
    rfl, ?ports, rfl, rfl, rfl, ?reads, ?wf⟩
  case ports => exact fun _ h => State.reset_port_disabled h
  case reads => exact State.reset_reads_zero
  case wf => exact State.reset_memWf

end
end

section
/-! PROOFS. What one command can do, said once for all of them: any command but a reset goes on to a state that Table 13.6 allows,
keeps the queue and the canonical form of memory, and leaves both memories as they are unless `mayWriteMemory` names it. Each case
cites the lemma of the operation that the command runs. -/

namespace Sys2Proof.Machine

open Sys2Proof

/-- The outcome is a next state, reached from s by at most one transition of Table 13.6; unless wr, with both memories as they were. -/
def MovesTo (wr : Bool) (s : State) (o : Host.Outcome State Fault Refusal) : Prop := ∃ t, o = .next t ∧ Moves wr s t

section
variable {wr : Bool} {s t : State} {dt : Nat}

theorem MovesTo.moves (h : Moves wr (s.advance dt) t) : MovesTo wr s (.next t) :=
  ⟨t, rfl, .before (State.advance_steps ..) h⟩

theorem MovesTo.drains (h : Drains wr (s.advance dt) t) : MovesTo wr s (.next t) := .moves h.moves

theorem MovesTo.steps (h : Steps wr (s.advance dt) t) : MovesTo wr s (.next t) := .drains h.drains

/-- A host command changes what its own part changes. -/
theorem MovesTo.accept {c : Cmd} {p : Packet} (h : c.Good wr) : MovesTo wr s (.next ((s.advance dt).accept c p)) :=
  .drains (State.accept_drains _ _ _ h)

/-- An event whose condition does not hold changes nothing but the time (log entry 16). -/
theorem MovesTo.when {c : Prop} [Decidable c] (h : Steps wr (s.advance dt) t) :
    MovesTo wr s (.next (if c then t else s.advance dt)) :=
  .steps (.ite (fun _ => h) fun _ => .refl _)

theorem MovesTo.testDone {id ns : Nat} {kind : TestKind} {wrong : Bool} {after : Nat → State → State}
    (h : ∀ n t, Steps wr t (after n t)) : MovesTo wr s (.next ((s.advance dt).testDone id kind ns wrong after)) :=
  .steps (State.testDone_steps _ _ _ _ _ _ h)

theorem MovesTo.receive {m : Msg} {kind : Nat} {mine pass : State → State} (h : Drains wr (s.advance dt) (mine (s.advance dt)))
    (h' : Drains wr (s.advance dt) (pass (s.advance dt))) : MovesTo wr s (.next ((s.advance dt).receive m kind mine pass)) :=
  .drains (State.receive_drains _ _ _ _ _ h h')

variable {fn : Nat} {f : State → State}

theorem MovesTo.barWrite (h : ∀ t, Steps wr t (f t)) : MovesTo wr s (.next ((s.advance dt).barWrite fn f)) :=
  .steps (State.barWrite_steps _ _ _ h)

theorem MovesTo.barRead (h : ∀ t, Steps wr t (f t)) : MovesTo wr s (.next ((s.advance dt).barRead fn f)) :=
  .steps (State.barRead_steps _ _ _ h)

theorem MovesTo.blockWrite (h : ∀ t, Steps wr t (f t)) : MovesTo wr s (.next ((s.advance dt).blockWrite fn f)) :=
  .steps (State.blockWrite_steps _ _ _ h)

end

/-- An allocation, whatever it finds, writes no byte (R74, R75). -/
theorem execBufferAllocation_movesTo (dt group : Nat) (dram : Bool) (size : Nat) (named : Option Nat) (sealed : Bool) (s : State) :
    MovesTo false s (execBufferAllocation dt group dram size named sealed s) := by
  refine .steps (dt := dt) (.ite (fun _ => .refl _) fun _ => ?_)
  split
  · exact State.alloc_got_steps ‹_›
  · exact State.alloc_none_steps ‹_›

theorem exec_movesTo (c : Instr) (s : State) (hr : isReset c = false) : MovesTo (mayWriteMemory c) s (exec c s) := by
  cases c with
  | nop => exact .accept nopCmd_good
  | deviceStart => exact .accept deviceStartCmd_good
  | deviceStop => exact .accept deviceStopCmd_good
  | ringCreate => exact .accept ringCreateCmd_good
  | ringDestroy => exact .accept ringDestroyCmd_good
  | ringReset => exact .accept ringResetCmd_good
  | ringResetTakesEffect => exact .steps (State.ringResetDone_steps ..)
  | streamDeclare => exact .accept streamDeclareCmd_good
  | streamAdmit => exact .accept streamAdmitCmd_good
  | streamStart => exact .accept streamStartCmd_good
  | streamPause => exact .accept streamPauseCmd_good
  | streamResume => exact .accept streamResumeCmd_good
  | streamClose => exact .accept streamCloseCmd_good
  | streamQuery => exact .accept streamQueryCmd_good
  | castLoad => exact .accept castLoadCmd_good
  | castUnload => exact .accept castUnloadCmd_good
  | scriptLoad => exact .accept scriptLoadCmd_good
  | scriptUnload => exact .accept scriptUnloadCmd_good
  | cueSetPeriod => exact .accept cueSetPeriodCmd_good
  | cueSetEpoch => exact .accept cueSetEpochCmd_good
  | cueSetSource => exact .accept cueSetSourceCmd_good
  | timeSteer => exact .accept timeSteerCmd_good
  | timeStep => exact .accept timeStepCmd_good
  | timePps => exact .accept timePpsCmd_good
  | poolCreate => exact .accept poolCreateCmd_good
  | poolDestroy => exact .accept poolDestroyCmd_good
  | poolReserve => exact .accept poolReserveCmd_good
  | bufferAlloc => exact .accept bufferAllocCmd_good
  | bufferFree => exact .accept bufferFreeCmd_good
  | memoryCopy => exact .accept memoryCopyCmd_good
  | memoryCopyComplete => exact .steps (State.copyDone_steps ..)
  | arraySplit => exact .accept arraySplitCmd_good
  | arrayRun => exact .accept arrayRunCmd_good
  | arrayTest => exact .accept arrayTestCmd_good
  | arrayTestComplete => exact .testDone fun _ _ => State.modArray_steps ..
  | vecSplit => exact .accept vecSplitCmd_good
  | vecScalars => exact .accept vecScalarsCmd_good
  | vecRun => exact .accept vecRunCmd_good
  | vecTest => exact .accept vecTestCmd_good
  | vecTestComplete => exact .testDone fun _ _ => .refl _
  | randomSeed => exact .accept randomSeedCmd_good
  | sampleRun => exact .accept sampleRunCmd_good
  | randomTest => exact .accept randomTestCmd_good
  | decodeConfigure => exact .accept decodeConfigureCmd_good
  | encodeConfigure => exact .accept encodeConfigureCmd_good
  | encodeSetRate => exact .accept encodeSetRateCmd_good
  | encodeForceIntra => exact .accept encodeForceIntraCmd_good
  | decodeRefresh => exact .accept decodeRefreshCmd_good
  | codecTest => exact .accept codecTestCmd_good
  | codecTestComplete => exact .testDone fun _ _ => .refl _
  | csi2PortSet => exact .accept csi2PortSetCmd_good
  | ingestConfigure => exact .accept ingestConfigureCmd_good
  | feed => exact .accept feedCmd_good
  | feedCopyComplete => exact .steps (State.feedDone_steps ..)
  | feedTimeout => exact .steps (State.feedLate_steps ..)
  | ingestTest => exact .accept ingestTestCmd_good
  | ingestTestComplete => exact .testDone fun _ _ => .refl _
  | cascadeForm => exact .accept cascadeFormCmd_good
  | cascadeDissolve => exact .accept cascadeDissolveCmd_good
  | linkTest => exact .accept linkTestCmd_good
  | linkTestComplete => exact .steps (State.linkTested_steps ..)
  | attestReport => exact .accept attestReportCmd_good
  | attestReportWritten => exact .steps (State.reportWritten_steps ..)
  | pixelsUnseal => exact .accept pixelsUnsealCmd_good
  | pixelsSeal => exact .accept pixelsSealCmd_good
  | encodedOutput => exact .accept encodedOutputCmd_good
  | firmwareStage => exact .accept firmwareStageCmd_good
  | firmwareStageProgrammed => exact .steps (State.staged_steps ..)
  | traceSet => exact .accept traceSetCmd_good
  | countersSnapshot => exact .accept countersSnapshotCmd_good
  | dramInterleave => exact .accept dramInterleaveCmd_good
  | dramInterleaveComplete => exact .steps (State.interleaved_steps ..)
  | dramTest => exact .accept dramTestCmd_good
  | dramTestComplete => exact .steps (State.dramTested_steps ..)
  | submissionFetch => exact .drains (State.fetchEntry_drains ..)
  | submissionFetchTimeout => exact .steps (State.fetchFails_steps ..)
  | hostReadTimeout => exact .steps (State.hostReadFails_steps ..)
  | postedWriteRefused => exact .steps (State.refuseWrite_steps ..)
  | metadataRecordWrite => exact .when (State.writeRecord_steps ..)
  | ringSubmitTailWrite => exact .barWrite fun _ => (State.noteAccess_steps ..).trans (State.writeTail_steps ..)
  | ringCompleteHeadWrite => exact .barWrite fun _ => (State.noteAccess_steps ..).trans (State.writeHead_steps ..)
  | adminEnable => exact .blockWrite fun _ => State.adminOn_steps ..
  | adminDisable => exact .blockWrite fun _ => State.adminOff_steps ..
  | adminReset => exact .blockWrite fun _ => State.adminRestart_steps ..
  | bar2WindowBaseWrite => exact .blockWrite fun _ => State.setWindow_steps ..
  | vfWindowBaseWrite => exact .blockWrite fun _ => .ite (fun _ => State.setWindow_steps ..) fun _ => .refl _
  | vfRingsWrite => exact .blockWrite fun _ => State.setRange_steps ..
  | castKeyHashWrite => exact .barWrite fun _ => State.setCastKey_steps ..
  | castKeysLock => exact .barWrite fun _ => State.lockCastKeys_steps ..
  | bootPushGo => exact .blockWrite fun _ => State.pushGo_steps ..
  | bootPushCheckComplete => exact .steps (State.pushChecked_steps ..)
  | limitWattsWrite => exact .blockWrite fun _ => State.setLimit_steps ..
  | registerWrite => exact .barWrite fun _ => State.writeRegister_steps ..
  | readClear => exact .barRead fun _ => State.readRegister_steps ..
  | nowLoRead => exact .barRead fun _ => State.readRegister_steps ..
  | ppsLoRead => exact .barRead fun _ => State.readRegister_steps ..
  | numberLoRead => exact .barRead fun _ => State.readRegister_steps ..
  | bar2Read => exact .barRead fun _ => State.readBar2_steps ..
  | bar2Write => exact .barWrite fun _ => State.writeBar2_steps ..
  | functionLevelResetVf => exact .when (State.resetVf_steps ..)
  | functionLevelResetPf => exact .when (State.resetPf_steps ..)
  | d3hotEntry => exact .when (State.modFn_steps ..)
  | hostReset => exact nomatch hr
  | coldReset => exact nomatch hr
  | powerOnReset => exact nomatch hr
  | pwrokFall => exact nomatch hr
  | railUndervoltage => exact nomatch hr
  | resetRelease => exact .steps (State.releaseReset_steps ..)
  | flashReadTimeout => exact .steps (State.flashTimeout_steps ..)
  | flashSlotSelect => exact .steps (State.selectSlot_steps ..)
  | firmwareLoadComplete => exact .steps (State.loadDone_steps ..)
  | dramTrainingComplete => exact .steps (State.trained_steps ..)
  | dramFillComplete => exact .steps (State.filled_steps ..)
  | rehearsalComplete => exact .moves (State.rehearsed_moves ..)
  | floorBurnComplete => exact .steps (State.burned_steps ..)
  | cueEdge => exact .moves (State.cueEdge_moves ..)
  | cueInEdge => exact .moves (State.cueInEdge_moves ..)
  | cueInMissing => exact .moves (State.cueInMissing_moves ..)
  | ppsInEdge => exact .steps (State.ppsEdge_steps ..)
  | ppsLost => exact .steps (State.ppsLose_steps ..)
  | planSlotStart => exact .steps (State.planSlot_steps ..)
  | shadowLoadStart => exact .when (State.shadowLoad_steps ..)
  | arrayRow0Entry => exact .when (State.row0Entry_steps ..)
  | arrayInstructionComplete => exact .when (State.arrayComplete_steps ..)
  | arrayResidueFailure => exact .when (State.residueFailure_steps ..)
  | scaleTagMismatch =>
    exact .steps (.ite (fun _ => .refl _) fun _ => .ite (fun _ => State.vecScaleMismatch_steps ..)
      fun _ => State.arrayScaleMismatch_steps ..)
  | arrayClockGate => exact .when (State.gateArray_steps ..)
  | splitModeChange => exact .when (State.arraySplitChange_steps ..)
  | houseLineMismatch => exact .steps (State.lineMismatch_steps ..)
  | lineRebuildComplete => exact .steps (State.lineRebuilt_steps ..)
  | vectorInstructionIssue => exact .when (State.vecIssue_steps ..)
  | vectorInstructionComplete => exact .when (State.vecComplete_steps ..)
  | vectorParityFailure => exact .when (State.vecParity_steps ..)
  | contextSave => exact .when (State.contextSave_steps ..)
  | contextRestore => exact .when (State.contextRestore_steps ..)
  | vectorSplitModeChange => exact .when (State.vecSplitChange_steps ..)
  | samplerInstructionIssue => exact .when (State.sampIssue_steps ..)
  | samplerResultWrite => exact .when (State.sampWrite_steps ..)
  | samplerParityFailure => exact .when (State.sampParity_steps ..)
  | bufferAllocation => exact execBufferAllocation_movesTo ..
  | readerSignal => exact .when (State.signalReader_steps ..)
  | scrubComplete => exact .when (State.scrubbed_steps ..)
  | csi2FrameStart => exact .when (State.frameStart_steps ..)
  | csi2LinePacket => exact .when (State.linePacket_steps ..)
  | csi2FrameEnd => exact .when (State.frameEnd_steps ..)
  | csi2UncorrectableHeader => exact .when (State.headerError_steps ..)
  | csi2SotError => exact .when (State.sotError_steps ..)
  | csi2FrameTimeout => exact .when (State.frameTimeout_steps ..)
  | decodeStart => exact .steps (State.decodeStart_steps ..)
  | stripComplete => exact .when (State.stripDone_steps ..)
  | stripRebuild => exact .when (State.stripRebuild_steps ..)
  | encodePictureStart => exact .steps (State.encodeStart_steps ..)
  | encodeRowComplete => exact .when (State.encodeRow_steps ..)
  | encodePictureEnd => exact .when (State.encodeEnd_steps ..)
  | reencode => exact .when (State.reencode_steps ..)
  | jpegImageStart => exact .steps (State.jpegStart_steps ..)
  | jpegStripComplete => exact .when (State.jpegStrip_steps ..)
  | scalerPassStart => exact .steps (State.passStart_steps ..)
  | scalerBandComplete => exact .when (State.bandDone_steps ..)
  | scalerBandRepeat => exact .when (State.bandRepeat_steps ..)
  | audioBlockPass => exact .steps (State.audioPass_steps ..)
  | dramReadCrcFailure => exact .steps (State.readFails_steps ..)
  | dramBurstRebuildComplete => exact .steps (State.burstRebuilt_steps ..)
  | dramWriteCodeError => exact .steps (State.writeCodeError_steps ..)
  | dramRefreshSlice => exact .steps (State.refreshSlice_steps ..)
  | dramRecalibration => exact .steps (State.recalibrate_steps ..)
  | selfRefreshExit => exact .steps (State.exitSelfRefresh_steps ..)
  | railSample => exact .when (State.railSample_steps ..)
  | logicSensorSample => exact .when ((State.readSensors_steps ..).trans (State.watchPower_steps ..))
  | tripHoldTimeout => exact .steps (State.tripHeld_steps ..)
  | dramSensorSample => exact .when (State.dramSensors_steps ..)
  | capacityEvaluation => exact .steps (State.evaluate_steps ..)
  | restEntry => exact .steps (State.enterRest_steps ..)
  | restExit => exact .steps (State.leaveRest_steps ..)
  | sysRefclkLoss => exact nomatch hr
  | pcieRefclkLoss => exact .steps (State.pcieLost_steps ..)
  | ewRefclkLoss => exact .steps (State.ewLost_steps ..)
  | pllLockLoss => exact .steps (State.lostLock_steps ..)
  | watchdogExpiry => exact .when (State.enterFaulted_steps ..)
  | coreInstructionRefetch => exact .when (State.refetchLine_steps ..)
  | linkRetrain => exact .when (State.retrain_steps ..)
  | linkDown => exact .steps (State.linkFalls_steps ..)
  | linkPowerEntry => exact .steps (State.linkSleeps_steps ..)
  | linkPowerExit => exact .steps (State.wakeLink_steps ..)
  | ewlFlitReceived => exact .steps (State.flitReceived_steps ..)
  | ewlReplayTimeout => exact .steps (State.replayTimeout_steps ..)
  | ewlLinkFlit => exact .steps (State.linkFlit_steps ..)
  | ewlNoFlitTimeout => exact .steps (State.flitSilence_steps ..)
  | ewlLaneLockLoss => exact .when (State.laneLost_steps ..)
  | ewlRetrainComplete => exact .steps (State.retrained_steps ..)
  | ewlTrainingRetry => exact .when (State.trainingRetry_steps ..)
  | block => exact .receive (State.takeBlock_steps ..).drains (State.passBlock_steps ..).drains
  | blockAck => exact .receive (State.blockAcked_steps ..).drains (State.relay_steps ..).drains
  | blockAckTimeout => exact .steps (State.blockSilent_steps ..)
  | resend => exact .receive (State.resendFrom_steps ..).drains (State.relay_steps ..).drains
  | write =>
    exact .receive (.ite (fun _ => (State.land_steps ..).drains) fun _ => (State.badMessage_steps ..).drains)
      (State.relay_steps ..).drains
  | heartbeat => exact .receive (State.heartbeatFrom_steps ..).drains (State.heartbeatFrom_steps ..).drains
  | heartbeatSend => exact .steps (State.sendHeartbeat_steps ..)
  | memberLost => exact .drains (State.memberSilent_drains ..)
  | command => exact .receive (State.takeCommand_drains ..) (State.relay_steps ..).drains
  | reply => exact .receive (State.takeReply_steps ..).drains (State.relay_steps ..).drains
  | replyTimeout => exact .steps (State.replyLate_steps ..)
  | mirror => exact .receive (State.takeMirror_steps ..).drains (State.relay_steps ..).drains
  | mirrorAck => exact .receive (State.mirrorHeld_drains ..) (State.relay_steps ..).drains
  | mirrorAckTimeout => exact .drains (State.mirrorLate_drains ..)
  | takeoverDecision => exact .drains (State.decideTakeover_drains ..)
  | takeover => exact .steps (State.takenOver_steps ..)
  | cue => exact .receive (State.takeCue_steps ..).drains (State.relay_steps ..).drains
  | hello => exact .steps (State.helloReceived_steps ..)
  | formationTimeout => exact .steps (State.formTimeout_steps ..)
  | remapPlansBuilt => exact .steps (State.plansBuilt_steps ..)
  | remapTimeout => exact .drains (State.remapLate_drains ..)
  | playbillUpdateComplete => exact .drains ((State.playbillDone_steps ..).drains.trans (State.afterRemap_drains ..))
  | snapshotPublished => exact .steps (State.snapshotPublished_steps ..)
  | mgmtPointerWrite => exact .steps (State.mgmtPoints_steps ..)
  | mgmtRead => exact .steps (State.mgmtReads_steps ..)
  | mgmtTimeout => exact .steps (.upd (.refl _) rfl rfl rfl rfl)
  | mgmtRefused => exact .steps (.upd (.refl _) rfl rfl rfl rfl)
  | tapInstruction => exact .steps (State.tapLoads_steps ..)
  | ewlTrainingComplete => exact .steps (State.portTrained_steps ..)
  | dmaTransferComplete => exact .steps (State.dmaDone_steps ..)
  | commandHostReadComplete => exact .drains (State.hostReadDone_drains ..)
  | d3hotExit => exact .when (State.modFn_steps ..)
  | vfEnableWrite => exact .when (State.writeVfEnable_steps ..)
  | busMasterEnableWrite => exact .when (State.modFn_steps ..)
  | msixUnmask => exact .barWrite fun _ => State.unmask_steps ..
  | i3cDynamicAddress => exact .steps (State.assignAddress_steps ..)

theorem isReset_of_keepsMemory {c : Instr} (h : mayWriteMemory c = false) : isReset c = false := by
  cases c with
  | hostReset | coldReset | powerOnReset | pwrokFall | railUndervoltage | sysRefclkLoss => nomatch h
  | _ => rfl

end Sys2Proof.Machine

section

open Sys2Proof Sys2Proof.Machine

/-- Settles O60: a command that `mayWriteMemory` does not name is no reset, and leaves both memories the same. -/
theorem otherCommandsKeepMemory : Obligations.OtherCommandsKeepMemory := by
  intro c s t hc ht
  obtain ⟨u, hu, hmoves⟩ := exec_movesTo c s (isReset_of_keepsMemory hc)
  obtain rfl : t = u := Host.Outcome.next.inj (ht.symm.trans hu)
  obtain ⟨hhouse, hdram⟩ := hmoves.same hc
  exact ⟨fun a => by rw [hhouse], fun a => by rw [hdram]⟩

end
end

section
/-! PROOFS. The management port (R468 to R470), the test access port (R442) and planned transfers (R22, R381): what each command
comes to under its condition, and all that a transfer changes. -/

namespace Sys2Proof.Machine

open Sys2Proof

/-! ### The management port and the test access port -/

theorem State.mgmtPoints_right {s : State} {pointer : Nat} (h : pointer < 65536) :
    s.mgmtPoints pointer true = { s with mgmt := { s.mgmt with pointer := pointer } } := by
  rw [State.mgmtPoints, if_pos rfl, Nat.mod_eq_of_lt h]

/-- R469: the bytes answered are those that stand at the first one, whatever the read clears. -/
theorem State.mgmtReads_answers {s : State} {count : Nat} (h0 : 0 < count) (h32 : count ≤ 32) :
    (s.mgmtReads count).mgmt.pointer = (s.mgmt.pointer + count) % 65536 ∧
    (s.mgmtReads count).mgmt.lastRead = (upto count).map fun k => s.mgmtByte ((s.mgmt.pointer + k) % 65536) := by
  have hc : ¬ (decide (count = 0) || decide (32 < count)) = true := by simp; omega
  rw [State.mgmtReads, if_neg hc]
  exact ⟨rfl, List.map_map⟩

theorem State.mgmtReads_refused {s : State} {count : Nat} (h : count = 0 ∨ 32 < count) :
    s.mgmtReads count = { s with mgmt := { s.mgmt with refused := s.mgmt.refused.inc } } := by
  rw [State.mgmtReads, if_pos (by simpa using h)]

theorem State.assignAddress_of_lt {s : State} {address : Nat} (h : address < 128) :
    s.assignAddress address = { s with mgmt := { s.mgmt with dynamicAddress := some address } } := by
  rw [State.assignAddress, Nat.mod_eq_of_lt h]

theorem State.tapLoads_loaded {s : State} {i : TapInstruction} (h : tapDrives i = false ∨ s.coldAsserted = true) :
    s.tapLoads i = { s with tap := i } := by
  rw [State.tapLoads, if_neg]
  rcases h with h | h <;> simp [h]

theorem State.tapLoads_refused {s : State} {i : TapInstruction} (hd : tapDrives i = true) (hc : s.coldAsserted = false) :
    s.tapLoads i = { s with tap := .bypass, obs := { s.obs with bscanRefused := s.obs.bscanRefused.inc } } := by
  rw [State.tapLoads, if_pos (by simp [hd, hc])]

/-! ### Planned transfers -/

/-- Signalling a range changes the tiles of the scoreboard only (R221). -/
theorem State.signalRange_only {s : State} {a n : Nat} : ∃ b, s.signalRange a n = { s with scoreboard := b } := by
  unfold State.signalRange
  generalize s.scoreboard.filter _ = l
  induction l generalizing s with
  | nil => exact ⟨_, rfl⟩
  | cons e l ih =>
    obtain ⟨b, h⟩ := ih (s := s.signalTile (some e.1))
    exact ⟨b, h⟩

/-- Writing bytes changes the two memories only. -/
theorem State.writeMem_only {s : State} {d : Bool} {a : Nat} {bs : List Byte} :
    ∃ h m, s.writeMem d a bs = { s with house := h, dram := m } := by
  cases d <;> exact ⟨_, _, rfl⟩

/-- Beside the bytes it lands, a planned transfer changes the seal of the destination's buffer (R76) and the tiles it signals. -/
theorem State.dmaDone_only {s : State} {src dst n : Nat} (h : s.live = true) :
    ∃ w b, s.dmaDone src dst n =
      { s.writeMem (bufDram dst) (bufAddr dst) (s.readMem (bufDram src) (bufAddr src) n) with wardrobe := w, scoreboard := b } := by
  rw [State.dmaDone, if_neg (by simp [h])]
  extract_lets bytes sealed t t'
  obtain ⟨w, hw⟩ : ∃ w, t' = { t with wardrobe := w } := by
    unfold t'
    split <;> exact ⟨_, rfl⟩
  rw [hw]
  split
  · exact ⟨w, _, rfl⟩
  · obtain ⟨b, hb⟩ := State.signalRange_only (s := { t with wardrobe := w }) (a := bufAddr dst) (n := n)
    exact ⟨w, b, hb⟩

theorem State.dmaDone_lands {s : State} {src dst n : Nat} (h : s.live = true) :
    (s.dmaDone src dst n).house =
      (s.writeMem (bufDram dst) (bufAddr dst) (s.readMem (bufDram src) (bufAddr src) n)).house ∧
    (s.dmaDone src dst n).dram =
      (s.writeMem (bufDram dst) (bufAddr dst) (s.readMem (bufDram src) (bufAddr src) n)).dram ∧
    (s.dmaDone src dst n).streams = s.streams ∧ (s.dmaDone src dst n).rings = s.rings := by
  obtain ⟨w, b, hw⟩ := State.dmaDone_only (src := src) (dst := dst) (n := n) h
  obtain ⟨x, y, hx⟩ := State.writeMem_only (s := s) (d := bufDram dst) (a := bufAddr dst)
    (bs := s.readMem (bufDram src) (bufAddr src) n)
  rw [hw, hx]
  exact ⟨rfl, rfl, rfl, rfl⟩

end Sys2Proof.Machine

section

open Sys2Proof Sys2Proof.Machine

/-- Settles O53: each command runs one operation in the state dt later, and that operation's lemma gives its effect. -/
theorem managementAndTransfers : Obligations.ManagementAndTransfers := by
  intro s dt pointer count address n setdasa i src dst u g bytes
  refine ⟨
    -- the pointer, and a wrong PEC
    fun hp => congrArg Host.Outcome.next (State.mgmtPoints_right hp), rfl,
    -- a read, one of another length, a refused one, a timeout
    fun h0 h32 => ⟨_, rfl, State.mgmtReads_answers h0 h32⟩,
    fun h => congrArg Host.Outcome.next (State.mgmtReads_refused h), rfl, rfl,
    -- the dynamic address
    fun ha => congrArg Host.Outcome.next (State.assignAddress_of_lt ha),
    -- the test access port
    fun h => congrArg Host.Outcome.next (State.tapLoads_loaded h),
    fun hd hc => congrArg Host.Outcome.next (State.tapLoads_refused hd hc),
    -- a planned transfer
    fun hl => ⟨_, rfl, State.dmaDone_lands hl⟩⟩

end
end

section
/-! PROOFS. PLAN_SLOT_START in an open slot (R24): what the shapes decide (R140), what each kind of work comes to, and how many
records a source makes (R233, R326). -/

namespace Sys2Proof.Machine

open Sys2Proof

/-- Two changes that agree on the entry a look-up finds change the table alike. -/
theorem amod_congr {α : Type} {l : List (Nat × α)} {k : Nat} {v : α} {f g : α → α} (h : aget l k = some v) (hfg : f v = g v) :
    amod l k f = amod l k g := by
  induction l with
  | nil => rfl
  | cons x l ih =>
    obtain ⟨n, w⟩ := x
    by_cases hn : n = k
    · have hw : w = v := by simpa [aget, hn] using h
      simp [amod, hn, hw, hfg]
    · simp only [aget, hn, if_false] at h
      simp [amod, hn, ih h]

/-! ### Run-time shapes -/

theorem exceeding_eq_some {l : List LayerShape} {i : Nat} {x : LayerShape} (hi : l[i]? = some x)
    (hx : x.pm < x.m ∨ x.pn < x.n ∨ x.pk < x.k)
    (hl : ∀ j y, l[j]? = some y → j < i → y.m ≤ y.pm ∧ y.n ≤ y.pn ∧ y.k ≤ y.pk) : exceeding l = some i := by
  obtain ⟨h, rfl⟩ := List.getElem?_eq_some_iff.1 hi
  rw [exceeding, List.findIdx?_eq_some_iff_getElem]
  refine ⟨h, by simpa [or_assoc] using hx, fun j hj => ?_⟩
  have hfits := hl j _ (List.getElem?_eq_getElem (hj.trans h)) hj
  simpa [and_assoc] using hfits

theorem exceeding_eq_none {l : List LayerShape} (h : ∀ x ∈ l, x.m ≤ x.pm ∧ x.n ≤ x.pn ∧ x.k ≤ x.pk) : exceeding l = none := by
  rw [exceeding, List.findIdx?_eq_none_iff]
  intro x hx
  simpa [and_assoc] using h x hx

/-! ### An open slot whose needs are met -/

section
variable {s : State} {k : Nat} {m : Sample} {shapes : List LayerShape} {needs : List (Nat × Nat × Nat)}
  (ho : s.slotOpen m = true) (hn : ∀ n ∈ needs, s.needMet n = true)
include ho hn

theorem State.planSlot_gate_passed : (!s.slotOpen m || !needs.all s.needMet) = false := by simpa [ho] using hn

variable (hm : aget s.samples k = some m)
include hm

theorem State.planSlot_exceeds {i : Nat} (he : exceeding shapes = some i) (hi : i < 65536) (work : SlotWork) :
    s.planSlot k shapes needs work = s.endChain k ⟨.shapeExceedsPlan, i⟩ := by
  simp [State.planSlot, hm, State.planSlot_gate_passed ho hn, he, Nat.mod_eq_of_lt hi]

theorem State.planSlot_samplerWords (he : exceeding shapes = none) (b : Nat) (words : List Word256) :
    s.planSlot k shapes needs (.samplerWords b words) = s.slotSamplers k b words := by
  simp [State.planSlot, hm, State.planSlot_gate_passed ho hn, he]

theorem State.planSlot_records (he : exceeding shapes = none) (sources : List RecordSource) :
    s.planSlot k shapes needs (.records sources) = s.slotRecords k sources := by
  simp [State.planSlot, hm, State.planSlot_gate_passed ho hn, he]

end

/-! ### The work of a slot -/

theorem State.slotSamplers_room {s : State} {k b : Nat} {words : List Word256} (h : (s.samp b).queue.length + words.length ≤ 64) :
    s.slotSamplers k b words =
      words.foldl (fun (t : State) w => t.queueSamp b (.chain k) w) (s.loadDeck b 4 (.chain k)) := by
  rw [State.slotSamplers, if_neg (Nat.not_lt.2 h)]

/-- The records of a chain with nothing running are those its sources make for the sample that the look-up finds. -/
theorem State.slotRecords_queued {s : State} {k : Nat} {m : Sample} {sources : List RecordSource} (hm : aget s.samples k = some m)
    (hj : s.hasJobs (.chain k) = false) (hs : sources.flatMap (s.recordsOf m) ≠ []) :
    s.slotRecords k sources =
      { s with samples := amod s.samples k fun x => x.queueRecords (sources.flatMap (s.recordsOf m)) true } := by
  rw [State.slotRecords, if_neg (by simp [hj]), State.modSample]
  congr 1
  refine amod_congr hm ?_
  rw [if_neg (by simpa using hs)]

theorem State.slotRecords_nil {s : State} {k : Nat} (hj : s.hasJobs (.chain k) = false) :
    s.slotRecords k [] = s.modSample k fun x => { x with
      finished := true
      queue := x.queue ++ [⟨0x01, true, x.stream, x.assigned, x.capture, sampleBody x.issued x.arrival⟩] } := by
  rw [State.slotRecords, if_neg (by simp [hj])]
  rfl

/-! ### How many records a source makes -/

theorem State.readMem_length (s : State) (d : Bool) (a n : Nat) : (s.readMem d a n).length = n := by
  cases d <;> simp [State.readMem, Memory.readBytes_eq, upto]

/-- With fuel for every byte, the pieces of 36 bytes cover all of them. -/
theorem valuePieces_length (output fmt i : Nat) {fuel : Nat} {bs : List Byte} (h : bs.length ≤ fuel) :
    (valuePieces output fmt fuel i bs).length = ceilDiv bs.length 36 := by
  induction fuel generalizing i bs with
  | zero =>
    obtain rfl : bs = [] := List.length_eq_zero_iff.1 (Nat.le_zero.1 h)
    rfl
  | succ fuel ih =>
    cases bs with
    | nil => rfl
    | cons b bs =>
      have hrest : ((b :: bs).drop 36).length ≤ fuel := by
        rw [List.length_cons] at h
        rw [List.length_drop, List.length_cons]
        omega
      rw [valuePieces, if_neg (by simp), List.length_cons, ih (i + 1) hrest]
      simp only [ceilDiv, List.length_drop, List.length_cons, OfNat.ofNat_ne_zero, if_false]
      omega

theorem State.recordsOf_values_length (s : State) (m : Sample) (output fmt line n : Nat) :
    (s.recordsOf m (.values output fmt line n)).length = ceilDiv n 36 := by
  have hl := s.readMem_length false (64 * line) n
  rw [State.recordsOf, valuePieces_length output fmt 0 hl.le, hl]

@[simp] theorem State.cands_length (s : State) (line n : Nat) : (s.cands line n).length = n := by simp [State.cands, upto]

/-- A frame without track tables has no track to tell, so it makes one record per candidate. -/
theorem State.recordsOf_frame_length (s : State) (m : Sample) (line : Nat) {n : Nat} (h : 0 < n) :
    (s.recordsOf m (.frame line n none)).length = n := by
  have hcands : (s.cands line n).isEmpty = false := by
    rw [← Bool.not_eq_true, List.isEmpty_iff_length_eq_zero, State.cands_length]
    omega
  have htracks : framedTracks [] [] = [] := rfl
  simp [State.recordsOf, hcands, htracks, upto]

end Sys2Proof.Machine

section

open Sys2Proof Sys2Proof.Machine

/-- Settles O29: the shapes decide first; where all fit their plan, the work's own lemma gives the state, and the counts of records
hold of every sample. -/
theorem planSlotsStart : Obligations.PlanSlotsStart := by
  intro s dt k b m shapes needs work words sources output fmt line n u hm ho hn
  refine ⟨fun i x hi hx hlt hl => ?_, fun hfit => ⟨fun hroom => ?_, fun hj => ⟨fun hs => ?_, ?_, ?_, ?_⟩⟩⟩
  · exact congrArg Host.Outcome.next (State.planSlot_exceeds ho hn hm (exceeding_eq_some hi hx hl) hlt work)
  · exact congrArg Host.Outcome.next
      ((State.planSlot_samplerWords ho hn hm (exceeding_eq_none hfit) b words).trans (State.slotSamplers_room hroom))
  · exact congrArg Host.Outcome.next
      ((State.planSlot_records ho hn hm (exceeding_eq_none hfit) sources).trans (State.slotRecords_queued hm hj hs))
  · exact State.recordsOf_values_length u m output fmt line n
  · exact State.recordsOf_frame_length u m line
  · exact congrArg Host.Outcome.next
      ((State.planSlot_records ho hn hm (exceeding_eq_none hfit) []).trans (State.slotRecords_nil hj))

end
end

section
/-! PROOFS. The remap and the Playbill (R38, R41, R406, R408, R411): what building the remap's plans, a remap that is late, and an
update that completes each come to under its condition. -/

namespace Sys2Proof.Machine

open Sys2Proof

/-- What every step of a fold keeps, the fold keeps. -/
theorem foldl_keeps {α β γ : Type} {f : β → α → β} (g : β → γ) (h : ∀ b a, g (f b a) = g b) (l : List α) (b : β) :
    g (l.foldl f b) = g b :=
  (List.foldl_hom g (g₂ := fun c _ => c) fun x y => (h x y).symm).symm.trans (List.foldl_fixed l)

/-! ### The plans of a remap -/

@[simp] theorem State.unreserve_ewl (s : State) (n : Nat) : (s.unreserve n).ewl = s.ewl := by
  unfold State.unreserve
  split <;> rfl

@[simp] theorem State.pauseStream_ewl (s : State) (n : Nat) (cause : PauseCause) : (s.pauseStream n cause).ewl = s.ewl := by
  rw [State.pauseStream, State.postEvent_ewl, State.modStream_ewl]

/-- The streams that a rebuilt plan pauses change nothing of the cascade. -/
@[simp] theorem State.shed_ewl (s : State) : s.shed.ewl = s.ewl := by
  unfold State.shed
  refine foldl_keeps (fun acc : List (Stream × Word256) × State => acc.2.ewl) (fun acc n => ?_) _ _
  split
  · rfl
  · split
    · rfl
    · dsimp only
      split
      · rfl
      · rw [State.pauseStream_ewl, State.unreserve_ewl]

/-- R406: of the cascade, building the plans changes only what the remap records. -/
theorem State.plansBuilt_ewl {s : State} (hr : s.ewl.role = 1) (hc : s.ewl.cascade = .remapping) (hb : s.ewl.remapBuilt = false)
    (paused repeated missed : List Nat) :
    (s.plansBuilt paused repeated missed).ewl =
      { s.ewl with remapBuilt := true, remapRepeat := repeated, remapMissed := missed } := by
  rw [State.plansBuilt, if_neg (by simp [hr, hc, hb])]
  dsimp only
  rw [State.playbillDue_ewl]
  dsimp only
  rw [State.shed_ewl, foldl_keeps State.ewl]
  intro t n
  split
  · rw [State.pauseStream_ewl, State.unreserve_ewl]
  · rfl

theorem State.remapLate_breaks {s : State} (hc : s.ewl.cascade = .remapping) (ht : s.ewl.remapAt + 800000 ≤ s.time.elapsed) :
    s.remapLate = s.breakCascade := by
  rw [State.remapLate, if_pos (by simp [hc, ht])]

/-! ### An update of the Playbill that ends no remap -/

@[simp] theorem State.playbillEvent_none_playbill (s : State) : (s.playbillEvent none).playbill = s.playbill :=
  State.postEvent_playbill ..

@[simp] theorem State.playbillEvent_none_ewl (s : State) : (s.playbillEvent none).ewl = s.ewl := State.postEvent_ewl ..

/-- R38, R41: with no further change due, the Playbill stays as published; the event and its trace record leave it and the cascade. -/
theorem State.playbillDone_publishes {s : State} {began : Nat} (hu : s.playbill.updating = some began) (hl : s.live = true)
    (ha : s.playbill.again = false) (hd : s.playbill.remapDue = none) (he : s.playbill.remapEvent = none) :
    s.playbillDone.playbill = s.publish.playbill ∧ s.playbillDone.ewl = s.ewl := by
  rw [State.playbillDone, if_neg (by simp [hu, hl]), he]
  extract_lets remap published old settled told
  have hplaybill : told.playbill = s.publish.playbill := by simp [told, remap, settled, old, published, State.publish, he]
  have hewl : told.ewl = s.ewl := by simp [told, remap, settled, published, State.publish]
  rw [if_neg (by simp [hplaybill, State.publish, ha, hd])]
  exact ⟨hplaybill, hewl⟩

/-- Members are told to play again only when the update has ended a remap. -/
theorem State.afterRemap_same {s t : State} (h : t.ewl = s.ewl) : s.afterRemap t = t := by
  rw [State.afterRemap, h, if_neg]
  cases s.ewl.cascade <;> simp

end Sys2Proof.Machine

section

open Sys2Proof Sys2Proof.Machine

/-- Settles O52: each command runs one operation in the state dt later; an update that ends no remap leaves the cascade as it is, so
nothing follows it. -/
theorem remapAndPlaybillUpdates : Obligations.RemapAndPlaybillUpdates := by
  intro s dt paused repeated missed u
  refine ⟨fun hr hc hb => ?_, fun hc ht => congrArg Host.Outcome.next (State.remapLate_breaks hc ht), fun began hu hl ha hd he => ?_⟩
  · have hewl := State.plansBuilt_ewl hr hc hb paused repeated missed
    refine ⟨u.plansBuilt paused repeated missed, rfl, ?_⟩
    rw [hewl]
    exact ⟨rfl, rfl, rfl, hc⟩
  · obtain ⟨hplaybill, hewl⟩ := State.playbillDone_publishes hu hl ha hd he
    refine ⟨u.playbillDone, congrArg Host.Outcome.next (State.afterRemap_same hewl), ?_⟩
    rw [hplaybill]
    exact ⟨rfl, rfl, rfl, rfl, rfl⟩

end
end

section
/-! PROOFS. PPS alignment (R47): what an edge of the pin comes to, rejected, near a whole second or far from one, and what becomes of
the alignment when no edge is accepted for 1.5 s. -/

namespace Sys2Proof.Machine

open Sys2Proof

/-- An edge that comes now passes the interval check: a first edge, or one 1 s ± 100 ppm after the last accepted one (R47). -/
def TimeBlk.PpsInTime (t : TimeBlk) : Prop :=
  t.lastPps = none ∨ ∃ x, t.lastPps = some x ∧ x + 999900000 ≤ t.now ∧ t.now ≤ x + 1000100000

/-- The time block once an edge is accepted within 10 ms of a whole second: it slews by the negated offset, and LOCKED follows the run
of edges within 100 ns. -/
def TimeBlk.ppsAligned (t : TimeBlk) : TimeBlk :=
  let o := secondOffset t.now
  let good := if o.natAbs ≤ 100 then t.ppsGood + 1 else 0
  { t with
    ppsTime := t.now, lastPps := some t.now, ppsWaitFrom := t.elapsed
    slewRemain := if o = 0 then t.slewRemain else -o, slewFrac := if o = 0 then t.slewFrac else 0
    ppsGood := good, ppsLocked := 4 ≤ good || (t.ppsLocked && good ≠ 0) }

section
variable {s : State} (he : s.time.ppsEnabled = true) (hm : s.plainMember = false) (hb : s.host.state ≠ .boot)
include he hm hb

theorem State.ppsEdge_rejected {x : Nat} (hx : s.time.lastPps = some x)
    (hout : s.time.now < x + 999900000 ∨ x + 1000100000 < s.time.now) :
    s.ppsEdge = { s with time := { s.time with ppsRejected := s.time.ppsRejected.add 16 1 } } := by
  have hlate : ¬(x + 999900000 ≤ s.time.now ∧ s.time.now ≤ x + 1000100000) := by omega
  simp [State.ppsEdge, he, hm, hb, hx, hlate]

theorem State.ppsEdge_near (hin : s.time.PpsInTime) (ho : (secondOffset s.time.now).natAbs ≤ 10000000) :
    s.ppsEdge = { s with time := s.time.ppsAligned } := by
  rcases hin with hx | ⟨x, hx, hin⟩
  · simp [State.ppsEdge, TimeBlk.ppsAligned, he, hm, hb, hx, Nat.not_lt.2 ho]
  · simp [State.ppsEdge, TimeBlk.ppsAligned, he, hm, hb, hx, hin, Nat.not_lt.2 ho]

theorem State.ppsEdge_far (hin : s.time.PpsInTime) (ho : 10000000 < (secondOffset s.time.now).natAbs) :
    s.ppsEdge = ({ s with time := { s.time with
      ppsTime := s.time.now, lastPps := some s.time.now, ppsWaitFrom := s.time.elapsed, ppsLocked := false
      ppsGood := 0 } }).postEvent 0x0003 .done 1 s.time.now := by
  rcases hin with hx | ⟨x, hx, hin⟩
  · simp [State.ppsEdge, he, hm, hb, hx, ho]
  · simp [State.ppsEdge, he, hm, hb, hx, hin, ho]

end

theorem State.ppsLose_lost {s : State} (he : s.time.ppsEnabled = true) (hb : s.host.state ≠ .boot)
    (ht : s.time.ppsWaitFrom + 1500000000 ≤ s.time.elapsed) :
    s.ppsLose = ({ s with time := { s.time with
      ppsLost := true, ppsLocked := false, ppsGood := 0, lastPps := none
      ppsWaitFrom := s.time.elapsed } }).postEvent 0x0003 .done 2 0 := by
  rw [State.ppsLose, if_neg (by simp [he, hb, ht])]

theorem TimeBlk.ppsAligned_good (t : TimeBlk) :
    t.ppsAligned.ppsGood = if (secondOffset t.now).natAbs ≤ 100 then t.ppsGood + 1 else 0 := rfl

theorem TimeBlk.ppsAligned_slewRemain {t : TimeBlk} (h : secondOffset t.now ≠ 0) : t.ppsAligned.slewRemain = -secondOffset t.now :=
  if_neg h

theorem TimeBlk.ppsAligned_unlocked {t : TimeBlk} (h : 100 < (secondOffset t.now).natAbs) : t.ppsAligned.ppsLocked = false := by
  simp [TimeBlk.ppsAligned, Nat.not_le.2 h]

theorem TimeBlk.ppsAligned_locked {t : TimeBlk} (h : (secondOffset t.now).natAbs ≤ 100) (hg : 3 ≤ t.ppsGood) :
    t.ppsAligned.ppsLocked = true := by
  simp [TimeBlk.ppsAligned, h, hg]

end Sys2Proof.Machine

section

open Sys2Proof Sys2Proof.Machine

/-- Settles O28: the interval check decides first, then the distance from a whole second; each case is one equation of the event. -/
theorem ppsAligns : Obligations.PpsAligns := by
  intro s dt x u t o he hm hb
  refine ⟨fun hx hout => congrArg Host.Outcome.next (State.ppsEdge_rejected he hm hb hx hout), fun hin => ?_,
    fun ht => congrArg Host.Outcome.next (State.ppsLose_lost he hb ht)⟩
  have hin : t.PpsInTime := hin.imp_right fun h => ⟨x, h⟩
  refine ⟨fun ho => ⟨t.ppsAligned, congrArg Host.Outcome.next (State.ppsEdge_near he hm hb hin ho), rfl, rfl,
    TimeBlk.ppsAligned_slewRemain, t.ppsAligned_good, TimeBlk.ppsAligned_unlocked, TimeBlk.ppsAligned_locked⟩, fun ho => ?_⟩
  exact congrArg Host.Outcome.next (State.ppsEdge_far he hm hb hin ho)

end
end

section
/-! PROOFS. Register reads and writes of PF0 (R8, R9, R45, R49, R337): what a read that latches or clears gives and leaves, and what a
write that is misaligned, that meets a block without writable registers, a ring's TAIL or LIMIT does. -/

namespace Sys2Proof.Machine

open Sys2Proof

/-! ### Accesses of a function that answers -/

theorem State.barRead_answered {s : State} {fn : Nat} (h : s.answers fn = true) (f : State → State) :
    s.barRead fn f = f s.wakeLink := if_pos h

theorem State.barWrite_answered {s : State} {fn : Nat} (h : s.answers fn = true) (f : State → State) :
    s.barWrite fn f = f s.wakeLink.leaveRest := if_pos h

/-! ### Reads -/

theorem State.readRegister_unaccepted (s : State) (fn : Nat) {offset size : Nat}
    (h : (size ≠ 4 ∧ size ≠ 8) ∨ offset % size ≠ 0) :
    s.readRegister fn offset size = s.badAccess.gotValue 0 := by
  rw [State.readRegister, if_pos (by simpa using h)]

/-- A 32-bit read of a block window gives the word as the read latches it, and leaves what it latches and clears. -/
theorem State.readRegister_window (s : State) {offset o : Nat} {b : Block19} (h4 : offset % 4 = 0)
    (hw : windowAt offset = some (b, o)) :
    s.readRegister 0 offset 4 = (s.readWord b o).2.gotValue (s.readWord b o).1 := by
  have hlow : ¬ offset < 0x4000000 := fun h => by simp [windowAt, h] at hw
  simp [State.readRegister, h4, hlow, State.readBar0Word, hw]

theorem State.readRegister_nowLo (s : State) :
    s.readRegister 0 (windowOffset 40 0) 4 =
      { s with time := { s.time with nowHi := bitsOf s.time.now 32 32 }
               lastRead := BitVec.ofNat 64 (bitsOf s.time.now 0 32) } :=
  s.readRegister_window (b := .time) (o := 0) rfl rfl

theorem State.readRegister_ppsLo (s : State) :
    s.readRegister 0 (windowOffset 40 0x10) 4 =
      { s with time := { s.time with ppsHi := bitsOf s.time.ppsTime 32 32 }
               lastRead := BitVec.ofNat 64 (bitsOf s.time.ppsTime 0 32) } :=
  s.readRegister_window (b := .time) (o := 0x10) rfl rfl

theorem State.readRegister_numberLo (s : State) :
    s.readRegister 0 (windowOffset 1 8) 4 =
      { s with cue := { s.cue with numberHi := bitsOf s.cueNow 32 32, edgeLatch := s.cue.edge }
               lastRead := BitVec.ofNat 64 (bitsOf s.cueNow 0 32) } :=
  s.readRegister_window (b := .cue) (o := 8) rfl rfl

theorem State.readRegister_badAccess (s : State) :
    s.readRegister 0 (windowOffset 0 0x30) 4 =
      { s with host := { s.host with badAccess := s.host.badAccess.clear }
               lastRead := BitVec.ofNat 64 s.host.badAccess.val } :=
  s.readRegister_window (b := .host) (o := 0x30) rfl rfl

/-- A 32-bit read of the accessing function's own doorbell page. -/
theorem State.readRegister_page (s : State) {fn offset : Nat} (h4 : offset % 4 = 0) (hlow : offset < 0x4000000)
    (ho : s.ownsPage fn (offset / 0x1000) = true) :
    s.readRegister fn offset 4 =
      (s.noteAccess.readPageWord (offset / 0x1000) (offset % 0x1000)).2.gotValue
        (s.noteAccess.readPageWord (offset / 0x1000) (offset % 0x1000)).1 := by
  have howns : s.noteAccess.ownsPage fn (offset / 0x1000) = true := ho
  simp [State.readRegister, h4, hlow, howns, State.readBar0Word]

theorem State.readPageWord_dropped {s : State} {q : Nat} {r : Ring} (hr : aget s.rings q = some r) :
    s.readPageWord q 0x1C = (r.dropped.val, s.modRing q fun x => { x with dropped := x.dropped.clear }) := by
  simp [State.readPageWord, agetD, hr]

theorem State.readRegister_dropped {s : State} {q : Nat} {r : Ring} (hr : aget s.rings q = some r) (ho : s.ownsPage 0 q = true) :
    s.readRegister 0 (0x1000 * q + 0x1C) 4 =
      { s.noteAccess with rings := amod s.rings q fun x => { x with dropped := x.dropped.clear }
                          lastRead := BitVec.ofNat 64 r.dropped.val } := by
  have hq : q < 16384 := by
    rw [State.ownsPage, Bool.and_eq_true] at ho
    exact of_decide_eq_true ho.1
  have hpage : (0x1000 * q + 0x1C) / 0x1000 = q := by omega
  have hoff : (0x1000 * q + 0x1C) % 0x1000 = 0x1C := by omega
  rw [s.readRegister_page (by omega) (by omega) (by rwa [hpage]), hpage, hoff, State.readPageWord_dropped (s := s.noteAccess) hr]
  rfl

/-! ### Writes -/

theorem State.writeRegister_unaccepted (s : State) (fn value : Nat) {offset size : Nat}
    (h : (size ≠ 4 ∧ size ≠ 8) ∨ offset % size ≠ 0) :
    s.writeRegister fn offset size value = s.badAccess := by
  rw [State.writeRegister, if_pos (by simpa using h)]

/-- A 32-bit write that leaves BAD_ACCESS, or counts once in it, has the effect of the register it meets. -/
theorem State.writeRegister_effect {s t : State} {fn offset value : Nat} (h4 : offset % 4 = 0)
    (ht : (if offset < 0x4000000 then s.writePage fn (offset / 0x1000) (offset % 0x1000) value
      else s.writeWindow fn offset 4 value) = t)
    (hb : t.host.badAccess = s.host.badAccess ∨ t.host.badAccess = s.host.badAccess.inc) :
    s.writeRegister fn offset 4 value = t := by
  rw [State.writeRegister, if_neg (by simp [h4])]
  dsimp only
  rw [ht]
  split
  · rfl
  · next hne => rw [← hb.resolve_left hne]

theorem State.writeWindow_word (s : State) {offset o : Nat} {b : Block19} (value : Nat) (hw : windowAt offset = some (b, o)) :
    s.writeWindow 0 offset 4 value = s.writeBlock b (offset % 0x100000) (value % 2 ^ 32) := by
  simp [State.writeWindow, hw]

theorem State.writeBlock_unwritable (s : State) {b : Block19} (hh : b ≠ .host) (hs : b ≠ .sec) (hp : b ≠ .pwr) (ht : b ≠ .time)
    (o w : Nat) : s.writeBlock b o w = s := by
  cases b with
  | host => exact absurd rfl hh
  | sec => exact absurd rfl hs
  | pwr => exact absurd rfl hp
  | time => exact absurd rfl ht
  | _ => rfl

theorem State.writeRegister_unwritable (s : State) {offset o : Nat} {b : Block19} (value : Nat) (h4 : offset % 4 = 0)
    (hw : windowAt offset = some (b, o)) (hh : b ≠ .host) (hs : b ≠ .sec) (hp : b ≠ .pwr) (ht : b ≠ .time) :
    s.writeRegister 0 offset 4 value = s := by
  have hlow : ¬ offset < 0x4000000 := fun h => by simp [windowAt, h] at hw
  refine State.writeRegister_effect h4 ?_ (.inl rfl)
  rw [if_neg hlow, s.writeWindow_word value hw, s.writeBlock_unwritable hh hs hp ht]

@[simp] theorem State.writeTail_host (s : State) (fn q value : Nat) : (s.writeTail fn q value).host = s.host := by
  unfold State.writeTail
  dsimp only
  repeat' split
  all_goals rfl

theorem State.writeRegister_tail (s : State) {q : Nat} (hq : q < 16384) (value : Nat) :
    s.writeRegister 0 (0x1000 * q) 4 value = s.noteAccess.writeTail 0 q value := by
  have hpage : 0x1000 * q / 0x1000 = q := by omega
  have hoff : 0x1000 * q % 0x1000 = 0 := by omega
  refine State.writeRegister_effect (by omega) ?_ (.inl (by rw [State.writeTail_host]; rfl))
  rw [if_pos (by omega), hpage, hoff, State.writePage, if_pos rfl]

/-- The register takes the low 16 bits. -/
theorem State.writeTail_mod (s : State) (fn q value : Nat) : s.writeTail fn q (value % 65536) = s.writeTail fn q value := by
  simp only [State.writeTail, Nat.mod_mod]

theorem State.setLimit_badAccess (s : State) (watts : Nat) :
    (s.setLimit watts).host.badAccess = s.host.badAccess ∨ (s.setLimit watts).host.badAccess = s.host.badAccess.inc := by
  unfold State.setLimit
  split
  · exact .inl rfl
  · exact .inr rfl

theorem State.writeRegister_limit (s : State) (value : Nat) :
    s.writeRegister 0 (windowOffset 39 4) 4 value = s.setLimit (value % 1024) := by
  have hw : windowAt (windowOffset 39 4) = some (.pwr, 4) := rfl
  have hbits : bitsOf (value % 2 ^ 32) 0 10 = value % 1024 := by simp [bitsOf]
  refine State.writeRegister_effect rfl ?_ (s.setLimit_badAccess _)
  rw [if_neg (by decide), s.writeWindow_word value hw]
  exact congrArg s.setLimit hbits

end Sys2Proof.Machine

section

open Sys2Proof Sys2Proof.Machine

/-- Settles O22: a function that answers runs the access in the woken state, where the register's own equation gives its effect. -/
theorem registerAccessesTakeEffect : Obligations.RegisterAccessesTakeEffect := by
  refine ⟨fun s dt q size offset r ha => ?_, fun s dt offset size q value b o ha => ?_⟩
  · intro u got
    have hread (f : State → State) : (Host.Outcome.next ((s.advance dt).barRead 0 f) : Host.Outcome State Fault Refusal) =
        .next (f u) := congrArg _ (State.barRead_answered ha f)
    refine ⟨?_, ?_, ?_, ?_, fun hr ho => ?_, fun h => ?_⟩
    · exact (hread _).trans (congrArg _ u.readRegister_nowLo)
    · exact (hread _).trans (congrArg _ u.readRegister_ppsLo)
    · exact (hread _).trans (congrArg _ u.readRegister_numberLo)
    · exact (hread _).trans (congrArg _ u.readRegister_badAccess)
    · exact (hread _).trans (congrArg _ (State.readRegister_dropped hr ho))
    · exact (hread _).trans (congrArg _ (u.readRegister_unaccepted 0 h))
  · intro u
    have hwrite (f : State → State) : (Host.Outcome.next ((s.advance dt).barWrite 0 f) : Host.Outcome State Fault Refusal) =
        .next (f u) := congrArg _ (State.barWrite_answered ha f)
    refine ⟨fun h => ?_, fun h4 hw hh hs hp ht => ?_, fun hq => ?_, ?_⟩
    · exact (hwrite _).trans (congrArg _ (u.writeRegister_unaccepted 0 _ h))
    · exact (hwrite _).trans (congrArg _ (u.writeRegister_unwritable _ h4 hw hh hs hp ht))
    · refine ((hwrite _).trans (congrArg _ ?_)).trans (hwrite _).symm
      rw [u.writeRegister_tail hq, State.writeTail_mod]
    · exact ((hwrite _).trans (congrArg _ (u.writeRegister_limit _))).trans (hwrite _).symm

end
end

section
/-! PROOFS. The effect of the cast, script, cue and time commands that pass their checks (R46, R47, R60, R305, R323, R424): what each
command's own part answers, and the state its verdict comes to. -/

namespace Sys2Proof.Machine

open Sys2Proof

/-! ### Verdicts -/

/-- A command whose own part ends at once completes with what it answers. -/
theorem accept_done {s t : State} {c : Cmd} {dt : Nat} {p : Packet} {o : Outcome} {r : Nat} (h : Passes c dt p s = true)
    (hb : c.body (s.taken dt p) p = .done o r t) : (s.advance dt).accept c p = t.completed c.opcode p o r := by
  rw [accept_passes h, hb, settle_done]

/-- A command whose own part reads host memory is in flight with that read. -/
theorem accept_hostRead {s t : State} {c : Cmd} {dt : Nat} {p q : Packet} {n deadline : Nat} {l : List Nat} (h : Passes c dt p s = true)
    (hb : c.body (s.taken dt p) p = .wait (.hostRead q n deadline l) t) :
    (s.advance dt).accept c p = t.begun c.opcode p (.hostRead q n deadline l) := by
  rw [accept_passes h, hb]
  rfl

/-! ### Cast files -/

theorem castLoadCmd_body {s t : State} {p : Packet} {l : List Nat} (hn : s.casts.length < 256)
    (ha : s.allocPieces (s.ringGroup p.ring) (ownerId (.run s.nextId)) (pieceSizes (p.u32 8)) = some (l, t)) :
    castLoadCmd.body s p = .wait (.hostRead p (p.u32 8) (t.transferBy (p.u32 8)) l)
      { t with outputs := .hostRead (p.u64 0) (p.u32 8) :: t.outputs } := by
  have hroom : castLoadCmd.body s p = _ := if_neg (Nat.not_le.2 hn)
  exact hroom.trans (by rw [ha])

theorem castUnloadCmd_body {s : State} {p : Packet} {c : Cast} (hc : aget s.casts (p.u32 0) = some c) :
    castUnloadCmd.body s p =
      .ok { c.copies.foldl (fun (t : State) w => t.releaseName w) s with casts := adel s.casts (p.u32 0) } := by
  simp [castUnloadCmd, hc]

/-! ### The cue -/

theorem cueSetPeriodCmd_body_fits {s : State} {p : Packet} (hf : s.periodFits (p.u32 0) = true) (hk : s.packs.1 = true) :
    cueSetPeriodCmd.body s p = .ok (({ s with
      cue := { s.cue with nextPeriod := p.u32 0, stagedAt := some (s.cue.edges + 1) }
      freeCount := s.freeCount + 1 }).tellMembers 0x0B (leBytes 4 (p.u32 0) ++ leBytes 8 (s.cue.edges + 1))) := by
  simp [cueSetPeriodCmd, hf, hk]
  rfl

theorem cueSetPeriodCmd_body_unfit {s : State} {p : Packet} (hf : s.periodFits (p.u32 0) = false) :
    cueSetPeriodCmd.body s p = .refuse .notAdmitted { s with freeCount := s.freeCount + 1 } := by
  simp [cueSetPeriodCmd, hf]
  rfl

theorem cueSetEpochCmd_body (s : State) (p : Packet) :
    cueSetEpochCmd.body s p = .ok { s with cue := { s.cue with
      epoch := p.u64 0
      nextEdge := if s.cue.source = CueSource.pin then s.cue.nextEdge else edgeBeyond (p.u64 0) s.cue.period s.time.now } } := by
  simp [cueSetEpochCmd, CueBlk.byPeriod]

theorem CueBlk.setSource_keeps (c : CueBlk) (now : Nat) (pin out : Bool) :
    (c.setSource now pin out).outEnable = out ∧ (c.setSource now pin out).fallback = false ∧
    (c.setSource now pin out).edges = c.edges ∧ (c.setSource now pin out).period = c.period ∧
    (c.setSource now pin out).stagedAt = c.stagedAt := by
  unfold CueBlk.setSource
  dsimp only
  repeat' split
  all_goals exact ⟨rfl, rfl, rfl, rfl, rfl⟩

theorem CueBlk.setSource_source (c : CueBlk) (now : Nat) (pin out : Bool) :
    (c.setSource now pin out).source = if pin then .pin else .internal := by
  unfold CueBlk.setSource
  cases pin with
  | true => rfl
  | false =>
    rw [if_neg Bool.false_ne_true]
    split <;> rfl

/-- From PIN to INTERNAL the last edge becomes EPOCH (R60). -/
theorem CueBlk.setSource_epoch {c : CueBlk} (hs : c.source = .pin) (he : c.edges ≠ 0) (now : Nat) (out : Bool) :
    (c.setSource now false out).epoch = c.lastEdge := by
  simp [CueBlk.setSource, hs, he]

/-! ### Device time -/

theorem State.stepTime_edges (s : State) (goal : Nat) : (s.stepTime goal).cue.edges = s.cue.edges := by
  unfold State.stepTime
  dsimp only
  split <;> rfl

/-- Under the INTERNAL source the next whole microsecond becomes EPOCH (R46). -/
theorem State.stepTime_epoch {s : State} (h : s.cue.source = .internal) (goal : Nat) :
    (s.stepTime goal).cue.epoch = (goal / 1000 + 1) * 1000 := by
  simp [State.stepTime, CueBlk.byPeriod, h, nextMicro]

theorem timePpsCmd_body_off {s : State} {p : Packet} (h : p.u8 0 = 0) :
    timePpsCmd.body s p = .ok { s with time := { s.time with ppsEnabled := false, ppsLocked := false, ppsGood := 0 } } := by
  simp [timePpsCmd, h]

theorem timePpsCmd_body_on {s : State} {p : Packet} (h : p.u8 0 = 1) (hoff : s.time.ppsEnabled = false) :
    timePpsCmd.body s p = .ok { s with time := { s.time with
      ppsEnabled := true, lastPps := none, ppsGood := 0, ppsWaitFrom := s.time.elapsed } } := by
  simp [timePpsCmd, h, hoff]

end Sys2Proof.Machine

section

open Sys2Proof Sys2Proof.Machine

/-- Settles O5: a command that passes its checks comes to what its own part answers in the state that has taken it. -/
theorem castScriptCueAndTimeCommandsTakeEffect : Obligations.CastScriptCueAndTimeCommandsTakeEffect := by
  refine ⟨fun s dt p => ?_, fun s dt p => ?_⟩
  · intro u
    refine ⟨fun h hn l t ha => ?_, fun h c hc => ?_, fun h => ?_, fun h => ?_⟩
    · exact congrArg Host.Outcome.next (accept_hostRead h (castLoadCmd_body hn ha))
    · exact congrArg Host.Outcome.next (accept_done h (castUnloadCmd_body hc))
    · exact congrArg Host.Outcome.next (accept_hostRead h rfl)
    · exact congrArg Host.Outcome.next (accept_done h rfl)
  · intro u
    refine ⟨fun h hf hk => ?_, fun h hf => ?_, fun h => ?_, fun h => ?_, fun h => ?_, fun h => ?_, fun h h0 => ?_, fun h h1 hoff => ?_⟩
    · exact congrArg Host.Outcome.next (accept_done h (cueSetPeriodCmd_body_fits hf hk))
    · exact congrArg Host.Outcome.next (accept_done h (cueSetPeriodCmd_body_unfit hf))
    · exact congrArg Host.Outcome.next (accept_done h (cueSetEpochCmd_body u p))
    · obtain ⟨hout, hfall, hedges, hperiod, hstaged⟩ := u.cue.setSource_keeps u.now (p.u8 0 = 1) (p.u8 1 = 1)
      refine ⟨u.cue.setSource u.now (p.u8 0 = 1) (p.u8 1 = 1), congrArg Host.Outcome.next (accept_done h rfl),
        ?_, hout, hfall, hedges, hperiod, hstaged, fun h0 hs he => ?_⟩
      · rw [CueBlk.setSource_source]
        exact if_congr decide_eq_true_iff rfl rfl
      · rw [h0]
        exact CueBlk.setSource_epoch hs he ..
    · exact congrArg Host.Outcome.next (accept_done h rfl)
    · exact ⟨u.stepTime (p.u64 0), congrArg Host.Outcome.next (accept_done h rfl), rfl, rfl, rfl, u.stepTime_edges _,
        fun hs => State.stepTime_epoch hs _, rfl, rfl, rfl, rfl⟩
    · exact congrArg Host.Outcome.next (accept_done h (timePpsCmd_body_off h0))
    · exact congrArg Host.Outcome.next (accept_done h (timePpsCmd_body_on h1 hoff))

end
end

section
/-! PROOFS. Capacity steps, REST and samples (R58, R385, R386, R445, R447, R449): what a decided step stages, and that the readings a
sample settles stand whatever the sample brings about, a trip (R451) and a shutdown (R452) among it. -/

namespace Sys2Proof.Machine

open Sys2Proof

/-! ### Capacity steps -/

section
variable (s : State) (level : Nat)

@[simp] theorem State.reportStep_pwr : (s.reportStep level).pwr = s.pwr := by
  unfold State.reportStep
  split <;> simp

@[simp] theorem State.reportStep_cue : (s.reportStep level).cue = s.cue := by
  unfold State.reportStep
  split <;> simp

@[simp] theorem State.reportStep_mgmt : (s.reportStep level).mgmt = s.mgmt := by
  unfold State.reportStep
  split <;> simp

@[simp] theorem State.reportStep_dram : (s.reportStep level).dram = s.dram := by
  unfold State.reportStep
  split <;> simp

end

/-- A decided step is told: in the Playbill where admission uses it from the next edge (R44), in the trace and to the stage manager. -/
def State.tellStep (s : State) (level e : Nat) : State :=
  ((if e = s.cue.edges then s.playbillDue else s).trace 8 0 0 level e).reportStep level

theorem State.tellStep_pwr (s : State) (level e : Nat) : (s.tellStep level e).pwr = s.pwr := by
  unfold State.tellStep
  split <;> simp

theorem State.tellStep_cue (s : State) (level e : Nat) : (s.tellStep level e).cue = s.cue := by
  unfold State.tellStep
  split <;> simp

theorem State.tellStep_mgmt (s : State) (level e : Nat) : (s.tellStep level e).mgmt = s.mgmt := by
  unfold State.tellStep
  split <;> simp

theorem State.tellStep_dram (s : State) (level e : Nat) : (s.tellStep level e).dram = s.dram := by
  unfold State.tellStep
  split <;> simp

theorem State.leaveRest_stepChanges (s : State) : s.leaveRest.pwr.stepChanges = s.pwr.stepChanges := by
  unfold State.leaveRest
  split <;> rfl

/-- The edge from which admission uses a step decided now (R58). -/
def State.stepEdge (s : State) : Nat := s.cue.edges + (if s.cue.nextEdge < s.now + 200000 then 1 else 0)

/-- What a decided step changes: a decrease acts on the units one edge after admission, an increase leaves REST first. -/
theorem State.decideStep_effect {s : State} {level : Nat} (h : level ≠ s.pwr.stepNext) :
    (s.decideStep level).pwr.stepNext = level ∧
    (s.decideStep level).cue.staged = s.cue.staged ++
      [{ level := level, admitEdge := s.stepEdge
         physicalEdge := if s.pwr.stepNext < level then s.stepEdge + 1 else s.stepEdge }] ∧
    (s.decideStep level).pwr.stepChanges = s.pwr.stepChanges.inc ∧
    (s.decideStep level).pwr.decided = some s.cue.edges ∧ (s.decideStep level).mgmt.stepped = true := by
  rw [State.decideStep, if_neg h]
  extract_lets e lower x rested _ _ _ _ decided
  have hcue : rested.cue = s.cue := by
    unfold rested
    split
    · rfl
    · exact s.leaveRest_cue
  have hchanges : rested.pwr.stepChanges = s.pwr.stepChanges := by
    unfold rested
    split
    · rfl
    · exact s.leaveRest_stepChanges
  have hx : x.physicalEdge = if s.pwr.stepNext < level then s.stepEdge + 1 else s.stepEdge := if_congr decide_eq_true_iff rfl rfl
  rw [← State.tellStep, State.tellStep_pwr, State.tellStep_cue, State.tellStep_mgmt, ← hchanges, ← hcue, ← hx]
  exact ⟨rfl, rfl, rfl, rfl, rfl⟩

section
variable {s : State} (hl : s.live = true) (hd : s.pwr.decided ≠ some s.cue.edges)
include hl hd

theorem State.evaluate_decrease (hw : s.wantsDecrease = true) (hn : s.pwr.stepNext < 7) :
    s.evaluate = s.decideStep (s.pwr.stepNext + 1) := by
  simp [State.evaluate, hl, hd, hw, hn]

theorem State.evaluate_increase (hw : s.wantsDecrease = false) (hi : s.mayIncrease = true) :
    s.evaluate = s.decideStep (s.pwr.stepNext - 1) := by
  simp [State.evaluate, hl, hd, hw, hi]

end

theorem State.evaluate_decided {s : State} (hd : s.pwr.decided = some s.cue.edges) : s.evaluate = s := by
  rw [State.evaluate, if_pos (by simp [hd])]

theorem State.mayIncrease_pos {s : State} (h : s.mayIncrease = true) : 0 < s.pwr.stepNext := by
  simp only [State.mayIncrease, Bool.and_eq_true, decide_eq_true_eq] at h
  exact h.1.2

/-! ### REST -/

theorem State.enterRest_idle {s : State} (hs : s.host.state = .standby) (hr : s.pwr.rest = false) (hi : s.inflight = [])
    (hb : s.anyScrub = false) (ht : s.pwr.lastAccess + 10000000 ≤ s.time.elapsed) :
    s.enterRest = { s with
      pwr := { s.pwr with rest := true, restEntries := s.pwr.restEntries.inc }
      dram := { s.dram with selfRefresh := true } } := by
  rw [State.enterRest, if_neg (by simp [hs, hr, hi, hb, ht])]

theorem State.leaveRest_rest (s : State) : s.leaveRest.pwr.rest = false := by
  unfold State.leaveRest
  split
  · rfl
  · next h => exact Bool.eq_false_of_not_eq_true h

/-! ### The readings that stand after a sample -/

/-- What a sample settles and no step, trip or shutdown changes. -/
structure Readings where
  milliwatts : Nat
  average : Nat
  coreMilliamps : Nat
  sensors : List (Nat × Nat)
  logicTemp : Nat
  dramTemp : Nat
  dieTemp : List (Nat × Nat)
  diePeak : List (Nat × Nat)
  doubled : List Nat

/-- The readings as the power and the DRAM block hold them. -/
def State.readings (s : State) : Readings :=
  ⟨s.pwr.milliwatts, s.pwr.average, s.pwr.coreMilliamps, s.pwr.sensors, s.pwr.logicTemp, s.pwr.dramTemp, s.dram.dieTemp,
    s.dram.diePeak, s.dram.doubled⟩

theorem State.readings_congr {s t : State} (hp : t.pwr = s.pwr) (hd : t.dram = s.dram) : t.readings = s.readings := by
  rw [State.readings, State.readings, hp, hd]

@[simp] theorem State.leaveRest_readings (s : State) : s.leaveRest.readings = s.readings := by
  unfold State.leaveRest
  split <;> rfl

theorem State.decideStep_readings (s : State) (level : Nat) : (s.decideStep level).readings = s.readings := by
  unfold State.decideStep
  split
  · rfl
  · extract_lets e lower x rested _ _ _ _ decided
    have hrested : rested.readings = s.readings := by
      unfold rested
      split
      · rfl
      · exact s.leaveRest_readings
    have hdecided : decided.readings = rested.readings := rfl
    have htold : (decided.tellStep level e).readings = decided.readings :=
      State.readings_congr (decided.tellStep_pwr level e) (decided.tellStep_dram level e)
    exact htold.trans (hdecided.trans hrested)

/-! ### Entry to FAULTED -/

theorem State.writeHeldCompletions_readings (s : State) : s.writeHeldCompletions.readings = s.readings :=
  foldl_keeps State.readings (fun _ _ => State.readings_congr (State.putCompletion_pwr ..) (State.putCompletion_dram ..)) _ _

theorem completeAll_readings (l : List (Nat × InFlight)) (detail : Nat) (s : State) :
    (completeAll l detail s).readings = s.readings := by
  induction l generalizing s with
  | nil => rfl
  | cons e l ih => exact (ih _).trans (State.readings_congr (State.finish_pwr ..) (State.finish_dram ..))

theorem State.lowerFault_readings (s : State) (cls unit : Nat) : (s.lowerFault cls unit).readings = s.readings := by
  unfold State.lowerFault
  split <;> rfl

theorem State.enterFaulted_readings (s : State) (cls unit : Nat) : (s.enterFaulted cls unit).readings = s.readings := by
  unfold State.enterFaulted
  split
  · exact s.lowerFault_readings cls unit
  · extract_lets detail stopped ewl completed told traced
    have hstopped : stopped.readings = s.readings := State.writeHeldCompletions_readings _
    have hcompleted : completed.readings = stopped.readings := completeAll_readings ..
    have htold : told.readings = completed.readings := by
      unfold told
      split
      · rfl
      · exact State.readings_congr (State.postEvent_pwr ..) (State.postEvent_dram ..)
    have htraced : traced.readings = told.readings := State.readings_congr (State.trace_pwr ..) (State.trace_dram ..)
    exact htraced.trans (htold.trans (hcompleted.trans hstopped))

/-! ### What a sample may bring about -/

theorem State.thermalFault_readings (s : State) (sensor : Nat) : (s.thermalFault sensor).readings = s.readings :=
  s.enterFaulted_readings clsThermal sensor

theorem State.declareTrip_readings (s : State) (cause : Nat) : (s.declareTrip cause).readings = s.readings := by
  unfold State.declareTrip
  extract_lets _ _ tripped
  have htripped : tripped.readings = s.readings := rfl
  split
  · exact (tripped.decideStep_readings 7).trans htripped
  · exact htripped

/-- After a sample LOGIC_TEMP and DRAM_TEMP show the hottest sensors, whatever threshold they cross. -/
theorem State.watchPower_readings (s : State) :
    s.watchPower.readings =
      { s.readings with logicTemp := hottest s.pwr.sensors 0 64, dramTemp := hottest s.pwr.sensors 64 96 } := by
  unfold State.watchPower
  extract_lets now logic _ watched
  change _ = watched.readings
  split
  · rfl
  · split
    · exact watched.thermalFault_readings _
    · split
      · extract_lets held
        split
        · rfl
        · exact held.declareTrip_readings _
      · rfl

/-! ### Sensors -/

theorem State.crossing_pwr (s : State) (sensor reading : Nat) : (s.crossing sensor reading).pwr = s.pwr := s.trace_pwr ..

theorem State.crossing_dram (s : State) (sensor reading : Nat) : (s.crossing sensor reading).dram = s.dram := s.trace_dram ..

theorem State.readSensor_sensors (s : State) (sensor c : Nat) :
    (s.readSensor sensor c).pwr.sensors = aset s.pwr.sensors sensor c := by
  unfold State.readSensor
  extract_lets old crossed told
  have htold : told.pwr = s.pwr := foldl_keeps State.pwr (fun t _ => t.crossing_pwr ..) _ _
  exact congrArg (fun p : Pwr => aset p.sensors sensor c) htold

theorem State.readSensor_dram (s : State) (sensor c : Nat) : (s.readSensor sensor c).dram = s.dram :=
  foldl_keeps State.dram (fun t _ => t.crossing_dram ..) _ _

@[simp] theorem State.readSensors_dram (s : State) (n : Nat) (temps : List Nat) : (s.readSensors n temps).dram = s.dram :=
  foldl_keeps State.dram (fun t _ => t.readSensor_dram ..) _ _

/-- Readings of other sensors leave a sensor's own. -/
theorem aget_foldl_readSensor_of_notMem {n i : Nat} {l : List (Nat × Nat)} (h : i ∉ l.map Prod.fst) (s : State) :
    aget (l.foldl (fun (t : State) e => t.readSensor (n + e.1) e.2) s).pwr.sensors (n + i) = aget s.pwr.sensors (n + i) := by
  induction l generalizing s with
  | nil => rfl
  | cons e l ih =>
    rw [List.map_cons, List.mem_cons, not_or] at h
    rw [List.foldl_cons, ih h.2, State.readSensor_sensors, aget_aset, if_neg (by omega)]

/-- Of readings of different sensors each one stands. -/
theorem aget_foldl_readSensor {n i x : Nat} {l : List (Nat × Nat)} (hl : (l.map Prod.fst).Nodup) (h : (i, x) ∈ l) (s : State) :
    aget (l.foldl (fun (t : State) e => t.readSensor (n + e.1) e.2) s).pwr.sensors (n + i) = some x := by
  induction l generalizing s with
  | nil => cases h
  | cons e l ih =>
    rw [List.map_cons, List.nodup_cons] at hl
    rw [List.foldl_cons]
    rcases List.mem_cons.1 h with rfl | h
    · rw [aget_foldl_readSensor_of_notMem hl.1, State.readSensor_sensors, aget_aset, if_pos rfl]
    · exact ih hl.2 h _

theorem State.readSensors_reading (s : State) (n : Nat) {temps : List Nat} {i x : Nat} (h : temps[i]? = some x) :
    aget (s.readSensors n temps).pwr.sensors (n + i) = some x := by
  obtain ⟨hi, rfl⟩ := List.getElem?_eq_some_iff.1 h
  refine aget_foldl_readSensor ?_ ?_ s
  · rw [List.map_fst_zip (by simp)]
    exact List.nodup_range
  · exact List.mem_iff_getElem.2 ⟨i, by simpa using hi, by simp⟩

/-! ### The rate of a die -/

theorem Dram.rate_diePeak (d : Dram) (now die hot : Nat) : (d.rate now die hot).diePeak = d.diePeak := by
  unfold Dram.rate
  extract_lets since cool aged
  split
  · rfl
  · split <;> rfl

/-- R385: a die above 85 °C refreshes at the doubled rate from then on, or did so before. -/
theorem Dram.rate_doubled (d : Dram) (now die : Nat) {hot : Nat} (h : 85 < hot) :
    (d.rate now die hot).doubled.contains die = true := by
  have hwarm : ¬ hot ≤ 83 := by omega
  unfold Dram.rate
  by_cases hc : die ∈ d.doubled <;> simp [h, hwarm, hc]

/-! ### The samples -/

theorem State.railSample_readings (s : State) (milliwatts milliamps : Nat) :
    (s.railSample milliwatts milliamps).readings.milliwatts =
      meanOf (recent s.time.elapsed 1000000 ((s.time.elapsed, milliwatts) :: s.pwr.history1)) ∧
    (s.railSample milliwatts milliamps).readings.average =
      meanOf (recent s.time.elapsed 100000000 ((s.time.elapsed, milliwatts) :: s.pwr.history100)) ∧
    (s.railSample milliwatts milliamps).readings.coreMilliamps =
      meanOf (recent s.time.elapsed 1000000 ((s.time.elapsed, milliamps) :: s.pwr.currentHistory)) ∧
    (s.railSample milliwatts milliamps).readings.sensors = s.pwr.sensors := by
  unfold State.railSample
  extract_lets now p h1 h100 hi before averaged excess limited n told
  have htold : told.readings = ({ s with pwr := limited } : State).readings :=
    foldl_keeps State.readings
      (fun t _ => State.readings_congr (t.draw.2.crossing_pwr 0 _) (t.draw.2.crossing_dram 0 _)) _ _
  rw [State.watchPower_readings, htold]
  exact ⟨rfl, rfl, rfl, rfl⟩

theorem State.readSensors_watched (s : State) (n : Nat) (temps : List Nat) :
    (∀ i x, temps[i]? = some x → aget (s.readSensors n temps).watchPower.pwr.sensors (n + i) = some x) ∧
    (s.readSensors n temps).watchPower.pwr.logicTemp = hottest (s.readSensors n temps).watchPower.pwr.sensors 0 64 ∧
    (s.readSensors n temps).watchPower.pwr.dramTemp = hottest (s.readSensors n temps).watchPower.pwr.sensors 64 96 := by
  have h := (s.readSensors n temps).watchPower_readings
  have hs : (s.readSensors n temps).watchPower.pwr.sensors = (s.readSensors n temps).pwr.sensors := congrArg Readings.sensors h
  rw [hs]
  exact ⟨fun i x hi => s.readSensors_reading n hi, congrArg Readings.logicTemp h, congrArg Readings.dramTemp h⟩

theorem State.dramSensors_reading (s : State) (die : Nat) (temps : List Nat) (i x : Nat) (h : temps[i]? = some x) :
    aget (s.dramSensors die temps).pwr.sensors (64 + 4 * die + i) = some x :=
  (State.readSensors_watched _ _ temps).1 i x h

/-- A die shows its hottest reading and its peak, and refreshes at the doubled rate above 85 °C (R385, R386). -/
theorem State.dramSensors_die (s : State) (die : Nat) (temps : List Nat) :
    aget (s.dramSensors die temps).dram.dieTemp die = some (temps.foldl max 0) ∧
    aget (s.dramSensors die temps).dram.diePeak die = some (max (temps.foldl max 0) (agetD s.dram.diePeak die 0)) ∧
    (85 < temps.foldl max 0 → (s.dramSensors die temps).dram.doubled.contains die = true) := by
  unfold State.dramSensors
  extract_lets hot rated shown
  have h := (({ s with dram := shown } : State).readSensors (64 + 4 * die) temps).watchPower_readings
  have hdram := ({ s with dram := shown } : State).readSensors_dram (64 + 4 * die) temps
  have htemp := congrArg Readings.dieTemp h
  have hpeak := congrArg Readings.diePeak h
  have hdoubled := congrArg Readings.doubled h
  simp only [State.readings, hdram] at htemp hpeak hdoubled
  rw [htemp, hpeak, hdoubled]
  refine ⟨?_, ?_, fun hhot => Dram.rate_doubled _ _ _ hhot⟩
  · rw [aget_aset, if_pos rfl]
  · rw [aget_aset, if_pos rfl, Dram.rate_diePeak]

end Sys2Proof.Machine

section

open Sys2Proof Sys2Proof.Machine

/-- Settles O45: a step decided, REST entered or left, and the readings of a sample, each by the lemma of its operation. -/
theorem powerSamplesAndStepsTakeEffect : Obligations.PowerSamplesAndStepsTakeEffect := by
  refine ⟨fun s dt => ?_, fun s dt milliwatts milliamps die a b c d temps => ?_⟩
  · intro u e
    refine ⟨fun hl hd => ⟨fun hw hn => ?_, fun hw hi => ?_⟩, fun _ hd => congrArg Host.Outcome.next (State.evaluate_decided hd),
      fun hs hr hi hb ht => congrArg Host.Outcome.next (State.enterRest_idle hs hr hi hb ht),
      u.leaveRest, rfl, u.leaveRest_rest, u.leaveRest_host⟩
    · obtain ⟨hnext, hstaged, hchanges, hdecided, hstepped⟩ := State.decideStep_effect (s := u) (Nat.succ_ne_self _)
      rw [if_pos (Nat.lt_succ_self _)] at hstaged
      exact ⟨_, congrArg Host.Outcome.next (State.evaluate_decrease hl hd hw hn), hnext, hstaged, hchanges, hdecided, hstepped⟩
    · have hpos := State.mayIncrease_pos hi
      obtain ⟨hnext, hstaged, -, hdecided, hstepped⟩ := State.decideStep_effect (s := u) (level := u.pwr.stepNext - 1) (by omega)
      rw [if_neg (by omega)] at hstaged
      exact ⟨_, congrArg Host.Outcome.next (State.evaluate_increase hl hd hw hi), hnext, hstaged, hdecided, hstepped⟩
  · intro u now hot hboot
    have hpowered : u.powered = true := decide_eq_true hboot
    refine ⟨⟨u.railSample milliwatts milliamps, congrArg Host.Outcome.next (if_pos hpowered), u.railSample_readings _ _⟩,
      fun hlen => ?_, fun hstopped => ?_⟩
    · obtain ⟨hread, hottest⟩ := u.readSensors_watched 0 temps
      refine ⟨(u.readSensors 0 temps).watchPower, ?_, fun i x hi => by simpa using hread i x hi, hottest⟩
      refine congrArg Host.Outcome.next ((if_pos hpowered).trans ?_)
      rw [List.take_of_length_le hlen]
    · obtain ⟨htemp, hpeak, hdoubled⟩ := u.dramSensors_die die [a, b, c, d]
      have hhot : [a, b, c, d].foldl max 0 = hot := by simp [hot, max_assoc]
      rw [hhot] at htemp hpeak hdoubled
      have hread := u.dramSensors_reading die [a, b, c, d]
      have hruns : (u.powered && !u.pwr.stopped) = true := by rw [hpowered, hstopped]; rfl
      exact ⟨u.dramSensors die [a, b, c, d], congrArg Host.Outcome.next (if_pos hruns),
        hread 0 a rfl, hread 1 b rfl, hread 2 c rfl, hread 3 d rfl, htemp, hpeak, hdoubled⟩

end
end

section
/-! PROOFS. Cue edges (R48, R51, R60): the frame of everything that falls due at an edge. What an edge sets of the cue, its number, its
time, the period, EPOCH and the staged period, no work at that edge changes again. -/

namespace Sys2Proof.Machine

open Sys2Proof

/-! ### The Wardrobe leaves the cue -/

section
variable (s : State)

@[simp] theorem State.unregister_cue (who : Nat) : (s.unregister who).cue = s.cue := rfl

@[simp] theorem State.freeBuf_cue (p k : Nat) : (s.freeBuf p k).cue = s.cue := by
  unfold State.freeBuf
  repeat' split
  all_goals rfl

@[simp] theorem State.freeName_cue (w : Nat) : (s.freeName w).cue = s.cue := by
  unfold State.freeName
  split <;> simp

@[simp] theorem State.freeFrames_cue (n : Nat) : (s.freeFrames n).cue = s.cue := by
  unfold State.freeFrames
  split
  · rfl
  · exact foldl_keeps State.cue (fun _ _ => foldl_keeps State.cue State.freeName_cue _ _) _ _

@[simp] theorem State.dropStrip_cue (name : Nat) : (s.dropStrip name).cue = s.cue := by
  unfold State.dropStrip
  refine foldl_keeps State.cue (fun t e => ?_) _ _
  split <;> simp

@[simp] theorem State.release_cue (p k : Nat) : (s.release p k).cue = s.cue := by
  unfold State.release
  split <;> simp

@[simp] theorem State.releaseName_cue (w : Nat) : (s.releaseName w).cue = s.cue := by
  unfold State.releaseName
  split <;> simp

theorem State.releaseNames_cue (l : List Nat) : (l.foldl (fun (t : State) w => t.releaseName w) s).cue = s.cue :=
  foldl_keeps State.cue State.releaseName_cue l s

/-! ### Samples and streams leave the cue -/

@[simp] theorem State.countStream_cue (n : Nat) (f : StreamCounts → StreamCounts) : (s.countStream n f).cue = s.cue := rfl

@[simp] theorem State.countSubstitutions_cue (st : Stream) : (s.countSubstitutions st).cue = s.cue := by
  unfold State.countSubstitutions
  exact foldl_keeps State.cue (fun _ _ => by rfl) _ _

@[simp] theorem State.substitute_cue (k : Nat) : (s.substitute k).cue = s.cue := by
  unfold State.substitute
  repeat' split
  all_goals simp

@[simp] theorem State.planSample_cue (k : Nat) : (s.planSample k).cue = s.cue := by
  unfold State.planSample
  split <;> simp

@[simp] theorem State.reassign_cue (prev edge k : Nat) : (s.reassign prev edge k).cue = s.cue := by
  unfold State.reassign
  split <;> rfl

@[simp] theorem State.freeFormer_cue (n : Nat) : (s.freeFormer n).cue = s.cue := by
  unfold State.freeFormer
  split
  · rfl
  · exact State.releaseNames_cue ..

@[simp] theorem State.releaseSample_cue (k : Nat) : (s.releaseSample k).cue = s.cue := by
  unfold State.releaseSample
  split
  · rfl
  · simp [State.releaseNames_cue]

@[simp] theorem State.dropJobs_cue (o : Owner) : (s.dropJobs o).cue = s.cue := rfl

@[simp] theorem State.dropPasses_cue (k : Nat) : (s.dropPasses k).cue = s.cue := rfl

@[simp] theorem State.dropChain_cue (k : Nat) : (s.dropChain k).cue = s.cue := by simp [State.dropChain]

@[simp] theorem State.unreserve_cue (n : Nat) : (s.unreserve n).cue = s.cue := by
  unfold State.unreserve
  split <;> rfl

@[simp] theorem State.closeIfDone_cue (n : Nat) : (s.closeIfDone n).cue = s.cue := by
  unfold State.closeIfDone
  split
  · rfl
  · split
    · rfl
    · exact (foldl_keeps State.cue (fun t id => t.finish_cue id ..) _ _).trans
        ((State.releaseNames_cue ..).trans (s.unreserve_cue n))

@[simp] theorem State.endSample_cue (k : Nat) : (s.endSample k).cue = s.cue := by
  unfold State.endSample
  split <;> simp

@[simp] theorem State.pauseStream_cue (n : Nat) (cause : PauseCause) : (s.pauseStream n cause).cue = s.cue := by
  simp [State.pauseStream]

@[simp] theorem State.resumeStream_cue (n : Nat) : (s.resumeStream n).cue = s.cue := by
  unfold State.resumeStream
  split <;> simp

end

/-! ### Admission leaves the cue -/

theorem State.reserve_cue {s t : State} {n : Nat} {st : Stream} (h : s.reserve n st = some t) : t.cue = s.cue := by
  unfold State.reserve at h
  obtain ⟨w, -, rfl⟩ := Option.map_eq_some_iff.1 h
  rfl

@[simp] theorem State.choosePhase_cue (s : State) (st : Stream) (fits : Nat → Bool) : (s.choosePhase st fits).2.cue = s.cue := by
  unfold State.choosePhase
  split <;> rfl

theorem State.admitStream_cue {s t : State} {n : Nat} (h : s.admitStream n = some t) : t.cue = s.cue := by
  unfold State.admitStream at h
  split at h
  · cases h
  · extract_lets d others r at h
    split at h
    · cases h
    · split at h
      · cases h
      · split at h
        · cases h
        · next u hu =>
          cases h
          exact (State.reserve_cue hu).trans (s.choosePhase_cue ..)

/-- A plan reserved anew keeps the cue, stream by stream. -/
theorem State.rereserve_cue {s : State} : ∀ t, s.rereserve = some t → t.cue = s.cue := by
  unfold State.rereserve
  refine List.foldlRecOn (motive := fun o : Option State => ∀ t, o = some t → t.cue = s.cue) _ _ ?_ fun o ho e _ t ht => ?_
  · rintro t ⟨⟩
    rfl
  · obtain ⟨u, rfl, hu⟩ := Option.bind_eq_some_iff.1 ht
    have hkeep := ho u rfl
    split at hu
    · split at hu
      · exact (State.reserve_cue hu).trans ((u.unreserve_cue e.1).trans hkeep)
      · cases hu
        exact hkeep
    · cases hu
      exact hkeep

@[simp] theorem State.shed_cue (s : State) : s.shed.cue = s.cue := by
  unfold State.shed
  refine foldl_keeps (fun acc : List (Stream × Word256) × State => acc.2.cue) (fun acc n => ?_) _ _
  split
  · rfl
  · split
    · rfl
    · dsimp only
      split <;> simp

@[simp] theorem State.resumeShed_cue (s : State) : s.resumeShed.cue = s.cue := by
  unfold State.resumeShed
  refine foldl_keeps State.cue (fun t n => ?_) _ _
  split
  · rfl
  · split
    · split
      · next u hu => simp [State.admitStream_cue hu]
      · rfl
    · rfl

/-! ### Units leave the cue -/

section
variable (s : State)

@[simp] theorem State.readerOf_cue (o : Owner) (l : Nat) : (s.readerOf o l).cue = s.cue := by
  unfold State.readerOf
  split <;> rfl

@[simp] theorem State.writerOf_cue (o : Owner) (l : Nat) : (s.writerOf o l).cue = s.cue := by
  unfold State.writerOf State.setWriter
  split <;> rfl

@[simp] theorem State.registerRows_cue (o : Owner) (reads writes : List (Nat × Nat × Nat × Nat)) :
    (s.registerRows o reads writes).cue = s.cue := by
  unfold State.registerRows
  extract_lets read
  have hread : read.cue = s.cue := foldl_keeps State.cue (fun t (r : Nat × Nat × Nat × Nat) => t.readerOf_cue o r.1) _ _
  exact (foldl_keeps State.cue (fun t (r : Nat × Nat × Nat × Nat) => t.writerOf_cue o r.1) _ _).trans hread

@[simp] theorem State.tileFor_cue (o : Owner) (slot unit index : Nat) (withheld : Bool) (w : List (Nat × Nat × Nat × Nat)) :
    (s.tileFor o slot unit index withheld w).2.cue = s.cue := by
  cases o <;> rfl

@[simp] theorem State.queueArray_cue (a : Nat) (o : Owner) (word : Word256) : (s.queueArray a o word).cue = s.cue := by
  simp [State.queueArray]

@[simp] theorem State.queueSamp_cue (b : Nat) (o : Owner) (word : Word256) : (s.queueSamp b o word).cue = s.cue := by
  simp [State.queueSamp]

@[simp] theorem State.queueVec_cue (e p : Nat) (o : Owner) (descriptor : Bool) (vl : Nat) (word : BitVec 128) :
    (s.queueVec e p o descriptor vl word).cue = s.cue := by
  simp [State.queueVec]

@[simp] theorem State.loadDeck_cue (b j : Nat) (o : Owner) : (s.loadDeck b j o).cue = s.cue := rfl

@[simp] theorem State.feedRun_cue (id : Nat) (f : InFlight) : (s.feedRun id f).cue = s.cue := by
  unfold State.feedRun
  split
  · next r _ =>
    split
    · rfl
    · split
      · extract_lets word
        split <;> simp
      · split <;> simp
      · split
        · rfl
        · extract_lets image loaded active
          have hloaded : loaded.cue = s.cue := by
            unfold loaded
            split <;> simp
          exact (foldl_keeps State.cue (fun t w => t.queueVec_cue ..) _ _).trans hloaded
  · rfl

@[simp] theorem State.feedRuns_cue : s.feedRuns.cue = s.cue := by
  unfold State.feedRuns
  refine foldl_keeps State.cue (fun t e => ?_) _ _
  split <;> simp

@[simp] theorem State.edgeUnits_cue : s.edgeUnits.cue = s.cue := by
  simp [State.edgeUnits]

end

/-! ### What else falls due at an edge leaves the cue -/

section
variable (s : State)

@[simp] theorem State.enterState_cue (d : DevState) : (s.enterState d).cue = s.cue := by simp [State.enterState]

@[simp] theorem State.finishAll_cue (w : Work) : (s.finishAll w).cue = s.cue :=
  foldl_keeps State.cue (fun t id => t.finish_cue id ..) _ _

@[simp] theorem State.edgeTransitions_cue : s.edgeTransitions.cue = s.cue := by
  unfold State.edgeTransitions
  repeat' split
  all_goals simp

@[simp] theorem State.releaseTrip_cue : s.releaseTrip.cue = s.cue := by
  unfold State.releaseTrip
  repeat' split
  all_goals rfl

@[simp] theorem State.noteDecrease_cue (k : Nat) : (s.noteDecrease k).cue = s.cue := rfl

@[simp] theorem State.showShares_cue : s.showShares.cue = s.cue := by
  unfold State.showShares
  extract_lets shown
  split <;> simp

@[simp] theorem State.takeSnapshot_cue (commands : List Nat) : (s.takeSnapshot commands).cue = s.cue := rfl

@[simp] theorem State.edgeWidth_cue : s.edgeWidth.cue = s.cue := by
  unfold State.edgeWidth
  split <;> rfl

@[simp] theorem State.freeRetained_cue (k : Nat) : (s.freeRetained k).cue = s.cue := by
  unfold State.freeRetained
  exact foldl_keeps State.cue (fun t _ => t.releaseName_cue _) _ _

end

/-! ### What an edge sets and keeps -/

/-- What an edge sets of the cue for good. -/
structure CueGrid where
  edges : Nat
  edge : Nat
  period : Nat
  epoch : Nat
  stagedAt : Option Nat

/-- The grid as the cue block holds it. -/
def State.grid (s : State) : CueGrid := ⟨s.cue.edges, s.cue.edge, s.cue.period, s.cue.epoch, s.cue.stagedAt⟩

theorem State.grid_congr {s t : State} (h : t.cue = s.cue) : t.grid = s.grid := by rw [State.grid, State.grid, h]

theorem State.cue_of_grid {s : State} {g : CueGrid} (h : s.grid = g) :
    s.cue.edges = g.edges ∧ s.cue.edge = g.edge ∧ s.cue.period = g.period ∧ s.cue.epoch = g.epoch ∧
    s.cue.stagedAt = g.stagedAt := by
  subst h
  exact ⟨rfl, rfl, rfl, rfl, rfl⟩

/-- An examined sample can only count in EXCESS or STALE (R53). -/
theorem State.examineOne_grid (s : State) (edge k id : Nat) : (s.examineOne edge k id).grid = s.grid := by
  unfold State.examineOne
  split
  · rfl
  split
  · rfl
  -- not to be examined, closing, unstored, stale, not yet, too early
  iterate 6
    split
    · rfl
  extract_lets planned
  split
  · exact State.grid_congr (s.planSample_cue id)
  · rfl

theorem State.examine_grid (s : State) (edge k : Nat) : (s.examine edge k).grid = s.grid :=
  foldl_keeps State.grid (fun t id => t.examineOne_grid edge k id) _ _

/-- A missed sample can only count in MISSED (R57). -/
theorem State.missSample_grid (s : State) (k cause : Nat) : (s.missSample k cause).grid = s.grid := by
  unfold State.missSample
  split
  · rfl
  · extract_lets released finished counted _ missed halted
    have hmissed : missed.grid = s.grid := (State.grid_congr (by simp [counted, finished, released]) : counted.grid = s.grid)
    split
    · exact (State.grid_congr (missed.endSample_cue k)).trans hmissed
    · exact hmissed

theorem State.missDeadlines_grid (s : State) (k : Nat) : (s.missDeadlines k).grid = s.grid := by
  refine foldl_keeps State.grid (fun t id => ?_) _ _
  split
  · split
    · exact t.missSample_grid ..
    · rfl
  · rfl

theorem State.applySteps_grid (s : State) (k : Nat) (periodChanged : Bool) : (s.applySteps k periodChanged).grid = s.grid := by
  unfold State.applySteps
  extract_lets decided phys level host changed freed _ c _ h stepped shed
  have hstepped : stepped.grid = s.grid := rfl
  have hshed : shed.grid = stepped.grid := State.grid_congr stepped.shed_cue
  split
  · split
    · exact (State.grid_congr shed.resumeShed_cue).trans (hshed.trans hstepped)
    · exact hshed.trans hstepped
  · exact hstepped

/-- R60: at its edge the staged period is in force and EPOCH becomes that edge; any other edge keeps them. -/
theorem State.takePeriod_grid (s : State) (k at_ : Nat) :
    (s.takePeriod k at_).grid =
      if s.cue.stagedAt = some k then { s.grid with period := s.cue.nextPeriod, epoch := at_, stagedAt := none } else s.grid := by
  unfold State.takePeriod
  split
  · extract_lets _ c _ taken
    have htaken : (taken.rereserve.getD taken).cue = taken.cue := by
      cases h : taken.rereserve with
      | none => rfl
      | some t => exact State.rereserve_cue t h
    exact State.grid_congr ((State.playbillDue_cue _).trans htaken)
  · rfl

/-- The edge at a time: the next cue has begun, at that time. -/
theorem State.makeEdge_grid (s : State) (at_ : Nat) :
    (s.makeEdge at_).grid =
      if s.cue.stagedAt = some s.cue.edges then ⟨s.cue.edges + 1, at_, s.cue.nextPeriod, at_, none⟩
      else ⟨s.cue.edges + 1, at_, s.cue.period, s.cue.epoch, s.cue.stagedAt⟩ := by
  unfold State.makeEdge
  extract_lets k before changed _ c begun _ timed snapped closed stepped examined moved released worked d slack drawn out _ shown
  have hbegun : begun.grid = if s.cue.stagedAt = some k then ⟨k + 1, at_, s.cue.nextPeriod, at_, none⟩
      else ⟨k + 1, at_, s.cue.period, s.cue.epoch, s.cue.stagedAt⟩ := State.takePeriod_grid ..
  clear_value begun
  have htimed : timed.grid = begun.grid := rfl
  have hsnapped : snapped.grid = timed.grid := State.grid_congr (timed.takeSnapshot_cue _)
  have hclosed : closed.grid = snapped.grid := snapped.missDeadlines_grid k
  have hstepped : stepped.grid = closed.grid :=
    (State.grid_congr (by simp [stepped])).trans (closed.applySteps_grid k (decide changed))
  have hexamined : examined.grid = stepped.grid :=
    (State.examine_grid _ at_ k).trans (State.grid_congr (stepped.reassign_cue ..))
  have hworked : worked.grid = examined.grid := State.grid_congr (by simp [worked, released, moved])
  have hdrawn : drawn.grid = worked.grid := State.grid_congr worked.draw_cue
  clear_value drawn
  have hshown : shown.grid = drawn.grid := rfl
  have htold : (shown.trace 1 0 0 (if k = 0 then 0 else slack) k).mirrorChanges.grid = shown.grid := State.grid_congr (by simp)
  rw [htold, hshown, hdrawn, hworked, hexamined, hstepped, hclosed, hsnapped, htimed, hbegun]

theorem State.makeEdge_begins (s : State) (at_ : Nat) :
    (s.makeEdge at_).cue.edges = s.cue.edges + 1 ∧ (s.makeEdge at_).cue.edge = at_ := by
  obtain ⟨hedges, hedge, -⟩ := State.cue_of_grid (s.makeEdge_grid at_)
  rw [hedges, hedge]
  split <;> exact ⟨rfl, rfl⟩

/-! ### The three ways an edge comes about -/

theorem State.cueEdge_due {s : State} {at_ : Nat} (h : s.edgeDue = some at_) : s.cueEdge = s.makeEdge at_ := by
  rw [State.cueEdge, h]

/-- An edge of the pin is made at once by a device that leads no cascade (R51, R364). -/
theorem State.pinEdge_alone {s : State} (h : s.stageManager = false) (c : CueBlk) (at_ : Nat) :
    ({ s with cue := c }).pinEdge at_ = ({ s with cue := c }).makeEdge at_ := by
  have hc : ({ s with cue := c }).stageManager = false := h
  rw [State.pinEdge, hc, if_neg Bool.false_ne_true]

section
variable {s : State} (hp : s.pinSource = true)
include hp

theorem State.cueInEdge_early (he : s.cue.edges ≠ 0) (ht : s.now < s.cue.lastPin + s.cue.period * 999) :
    s.cueInEdge = { s with cue := { s.cue with pinEarly := s.cue.pinEarly.inc } } := by
  have hlate : ¬ s.cue.lastPin + s.cue.period * 1001 < s.now := by omega
  rw [State.cueInEdge, if_neg (by simp [hp, hlate]), if_pos (by simp [he, ht])]

theorem State.cueInEdge_inTime (hm : s.stageManager = false) (hlow : s.cue.lastPin + s.cue.period * 999 ≤ s.now)
    (hhigh : s.now ≤ s.cue.lastPin + s.cue.period * 1001) :
    s.cueInEdge = ({ s with cue := { s.cue with missingRun := 0 } }).makeEdge s.now := by
  rw [State.cueInEdge, if_neg (by simp [hp, hhigh]), if_neg (by simp [hlow])]
  exact State.pinEdge_alone hm _ _

/-- R51: the device makes the missing edge at P × 1.001, and after four in a row it falls back to INTERNAL with EPOCH there. -/
theorem State.cueInMissing_made (hm : s.stageManager = false) (he : s.cue.edges ≠ 0)
    (ht : s.cue.lastPin + s.cue.period * 1001 ≤ s.now) :
    s.cueInMissing.cue.edges = s.cue.edges + 1 ∧ s.cueInMissing.cue.edge = s.cue.lastPin + s.cue.period * 1001 ∧
    (3 ≤ s.cue.missingRun → s.cueInMissing.cue.source = .internal ∧ s.cueInMissing.cue.fallback = true ∧
      s.cueInMissing.cue.epoch = s.cue.lastPin + s.cue.period * 1001) := by
  unfold State.cueInMissing
  extract_lets late run _ counted made _ c
  rw [if_neg (by simp [hp, he, late, ht])]
  have hmade : made.cue.edges = s.cue.edges + 1 ∧ made.cue.edge = late := by
    have halone : made = counted.makeEdge late := State.pinEdge_alone hm _ late
    rw [halone]
    exact counted.makeEdge_begins late
  clear_value made
  by_cases hrun : run < 4
  · rw [if_pos hrun]
    exact ⟨hmade.1, hmade.2, fun h => absurd hrun (by omega)⟩
  · rw [if_neg hrun, State.tellMembers_cue, State.postEvent_cue]
    exact ⟨hmade.1, hmade.2, fun _ => ⟨rfl, rfl, rfl⟩⟩

end

end Sys2Proof.Machine

section

open Sys2Proof Sys2Proof.Machine

/-- Settles O27: each of the three events makes its edge or ignores it, and an edge sets the cue's number, time and grid for good. -/
theorem cueEdgesBeginCues : Obligations.CueEdgesBeginCues := by
  intro s dt at_ u
  refine ⟨fun h => ?_, fun hp he ht => congrArg Host.Outcome.next (State.cueInEdge_early hp he ht), fun hp hm hlow hhigh => ?_,
    fun hp hm he ht => ⟨u.cueInMissing, rfl, State.cueInMissing_made hp hm he ht⟩⟩
  · obtain ⟨hedges, hedge⟩ := u.makeEdge_begins at_
    obtain ⟨-, -, hgrid⟩ := State.cue_of_grid (u.makeEdge_grid at_)
    refine ⟨u.makeEdge at_, congrArg Host.Outcome.next (State.cueEdge_due h), hedges, hedge, fun hs => ?_, fun hs => ?_⟩
    · rwa [if_pos hs] at hgrid
    · rwa [if_neg hs] at hgrid
  · exact ⟨_, congrArg Host.Outcome.next (State.cueInEdge_inTime hp hm hlow hhigh), State.makeEdge_begins ..⟩

end
end

section
/-! PROOFS. Allocation (R80): the lowest free number of a table, what taking a buffer leaves as it was, and what an allocation answers
in a named pool and over the pools in the order of R80. -/

namespace Sys2Proof.Machine

open Sys2Proof

/-! ### The lowest free number -/

/-- Among one more numbers than a table has entries, one is free. -/
theorem exists_aget_eq_none {α : Type} (l : List (Nat × α)) : ∃ i < l.length + 1, aget l i = none := by
  by_contra! hall
  have hsub : List.range (l.length + 1) ⊆ l.map Prod.fst := fun i hi => by
    obtain ⟨v, hv⟩ := Option.ne_none_iff_exists'.1 (hall i (List.mem_range.1 hi))
    exact List.mem_map_of_mem (mem_of_aget hv)
  have := (List.nodup_range.subperm hsub).length_le
  simp at this

theorem freeKey_lowest {α : Type} (l : List (Nat × α)) :
    aget l (freeKey l 0) = none ∧ ∀ i < freeKey l 0, aget l i ≠ none := by
  obtain ⟨i, hi, hfree⟩ := exists_aget_eq_none l
  have hfound : ((List.range (l.length + 1)).find? fun k => (aget l k).isNone).isSome := by
    rw [List.find?_isSome]
    exact ⟨i, List.mem_range.2 hi, by rw [hfree]; rfl⟩
  obtain ⟨k, hk⟩ := Option.isSome_iff_exists.1 hfound
  have hkey : freeKey l 0 = k := by simp [freeKey, upto, hk]
  obtain ⟨hnone, -, hbelow⟩ := List.find?_range_eq_some.1 hk
  rw [hkey]
  exact ⟨by simpa using hnone, fun j hj => by simpa [Option.isSome_iff_ne_none] using hbelow j hj⟩

/-! ### Taking a buffer -/

theorem State.bufAt_of_pool {s : State} {q : Nat} {pool : Pool} (h : aget s.wardrobe.pools q = some pool) (k : Nat) :
    s.bufAt q k = aget pool.bufs k := by
  simp [State.bufAt, h]

section
variable {s : State} {q : Nat} {pool : Pool} (g : Nat) (sealed : Bool)

theorem State.take_bufAt_taken :
    (s.take q pool g sealed).2.bufAt q (freeKey pool.bufs 0) = some { state := .held, group := g, sealed := sealed } := by
  simp [State.bufAt, State.take, aget_aset]

theorem State.take_bufAt_other (hq : aget s.wardrobe.pools q = some pool) {i l : Nat} (h : (i, l) ≠ (q, freeKey pool.bufs 0)) :
    (s.take q pool g sealed).2.bufAt i l = s.bufAt i l := by
  by_cases hi : i = q
  · subst hi
    have hl : l ≠ freeKey pool.bufs 0 := fun e => h (e ▸ rfl)
    simp [State.bufAt, State.take, aget_aset, hq, hl]
  · simp [State.bufAt, State.take, aget_aset, hi]

/-- Nothing but the pools changes. -/
theorem State.take_only :
    (s.take q pool g sealed).2 =
      { s with wardrobe := { s.wardrobe with pools := (s.take q pool g sealed).2.wardrobe.pools } } := rfl

end

/-! ### What an allocation answers -/

theorem classBytes_mono {c d : Nat} (h : c ≤ d) : classBytes c ≤ classBytes d :=
  Nat.mul_le_mul_left _ (Nat.pow_le_pow_right (by decide) h)

/-- The pools that alloc(g, location, size) of R80 may take from, in its order: by class from the smallest that fits, and by number
within a class. -/
def State.allocOrder (s : State) (g : Nat) (dram : Bool) (size : Nat) : List (Nat × Pool) :=
  (upto 8).flatMap fun j => s.wardrobe.pools.filter fun e =>
    smallestClass size ≤ j && e.2.cls = j && e.2.dram = dram && s.poolUsable e.2 g && s.wardrobe.takeable e.1 e.2 g

section
variable {s : State} {g : Nat} {dram : Bool} {size : Nat} {sealed : Bool} (h0 : 0 < size)
include h0

theorem State.alloc_named {q : Nat} {pool : Pool} (hq : aget s.wardrobe.pools q = some pool) (hsize : size ≤ classBytes pool.cls)
    (hcls : pool.cls ≤ 7) :
    s.alloc g dram size (some q) sealed =
      if s.wardrobe.takeable q pool g then .got (s.take q pool g sealed).1 false (s.take q pool g sealed).2
      else .none_ .noResource { s with wardrobe := { s.wardrobe with noResource := s.wardrobe.noResource.inc } } := by
  have h7 : size ≤ classBytes 7 := hsize.trans (classBytes_mono hcls)
  simp [State.alloc, h0.ne', Nat.not_lt.2 h7, Nat.not_lt.2 hsize, hq]

variable (h7 : size ≤ classBytes 7)
include h7

theorem State.alloc_first {q : Nat} {pool : Pool} {rest : List (Nat × Pool)} (ho : s.allocOrder g dram size = (q, pool) :: rest) :
    ∃ a fb, s.alloc g dram size none sealed = .got a fb
      { (s.take q pool g sealed).2 with
        wardrobe := { (s.take q pool g sealed).2.wardrobe with
          fallback := if pool.cls > smallestClass size then s.wardrobe.fallback.inc else s.wardrobe.fallback } } := by
  unfold State.allocOrder at ho
  refine ⟨(s.take q pool g sealed).1, pool.cls > smallestClass size, ?_⟩
  simp only [State.alloc, h0.ne', if_false, gt_iff_lt, Nat.not_lt.2 h7, ho]
  by_cases hfb : smallestClass size < pool.cls
  · simp only [hfb, decide_true, if_true]
    rfl
  · simp only [hfb, decide_false, if_false]
    rfl

theorem State.alloc_nothing (ho : s.allocOrder g dram size = []) :
    s.alloc g dram size none sealed =
      .none_ .noResource { s with wardrobe := { s.wardrobe with noResource := s.wardrobe.noResource.inc } } := by
  unfold State.allocOrder at ho
  simp only [State.alloc, h0.ne', if_false, gt_iff_lt, Nat.not_lt.2 h7, ho]

end

section
variable {s t : State} {dt g size : Nat} {dram sealed : Bool} {named : Option Nat} (hl : (s.advance dt).live = true)
include hl

theorem exec_bufferAllocation_got {a : Nat} {fb : Bool} (ha : (s.advance dt).alloc g dram size named sealed = .got a fb t) :
    exec (.bufferAllocation dt g dram size named sealed) s = .next t := by
  show execBufferAllocation dt g dram size named sealed s = .next t
  simp [execBufferAllocation, hl, ha]

theorem exec_bufferAllocation_none {st : Status} (ha : (s.advance dt).alloc g dram size named sealed = .none_ st t) :
    exec (.bufferAllocation dt g dram size named sealed) s = .next t := by
  show execBufferAllocation dt g dram size named sealed s = .next t
  simp [execBufferAllocation, hl, ha]

end

end Sys2Proof.Machine

section

open Sys2Proof Sys2Proof.Machine

/-- Settles O35: in a live device the event's state is the one the allocation answers; in a named pool it has taken the lowest free
number, else it has taken from the first pool in the order of R80. -/
theorem allocationsTakeTheLowestFreeBuffer : Obligations.AllocationsTakeTheLowestFreeBuffer := by
  intro s dt g size q dram sealed pool rest u k c order hl h0
  refine ⟨fun hq hsize hcls ht => ?_, fun hq hsize hcls ht => ?_, fun h7 ho => ?_, fun h7 ho => ?_⟩
  · obtain ⟨hfree, hbelow⟩ := freeKey_lowest pool.bufs
    have hgot := (u.alloc_named (g := g) (dram := dram) (sealed := sealed) h0 hq hsize hcls).trans (if_pos ht)
    refine ⟨(u.take q pool g sealed).2, exec_bufferAllocation_got hl hgot, ?_, fun i hi => ?_, State.take_bufAt_taken g sealed,
      fun i l h => State.take_bufAt_other g sealed hq h, State.take_only g sealed⟩
    · rwa [State.bufAt_of_pool hq]
    · rw [State.bufAt_of_pool hq]
      exact hbelow i hi
  · exact exec_bufferAllocation_none hl ((State.alloc_named h0 hq hsize hcls).trans (if_neg (Bool.eq_false_iff.1 ht)))
  · obtain ⟨a, fb, hgot⟩ := u.alloc_first (sealed := sealed) h0 h7 ho
    exact exec_bufferAllocation_got hl hgot
  · exact exec_bufferAllocation_none hl (State.alloc_nothing h0 h7 ho)

end
end

section
/-! PROOFS. House lines over the banks (R64): the eight low bits of a line number choose the bank within its row, and the row only
permutes the banks. So each row has one line in every bank, and whole rows have as many lines in one bank as in any other. -/

namespace Sys2Proof.Machine

open Sys2Proof

theorem bankOf_eq (l : Nat) : bankOf l = (l % 256) ^^^ (l / 256 % 256) ^^^ (l / 65536 % 128) := by
  simp [bankOf, bitsOf, Nat.shiftRight_eq_div_pow]

/-- What the row L[22:8] of a line does to its bank. -/
def rowSkew (row : Nat) : Nat := (row % 256) ^^^ (row / 256 % 128)

theorem rowSkew_lt (row : Nat) : rowSkew row < 256 := Nat.xor_lt_two_pow (n := 8) (by omega) (by omega)

theorem bankOf_eq_rowSkew (l : Nat) : bankOf l = (l % 256) ^^^ rowSkew (l / 256) := by
  rw [bankOf_eq, Nat.xor_assoc, rowSkew, Nat.div_div_eq_div_mul]

theorem bankOf_add (row : Nat) {i : Nat} (h : i < 256) : bankOf (256 * row + i) = i ^^^ rowSkew row := by
  rw [bankOf_eq_rowSkew, show (256 * row + i) % 256 = i by omega, show (256 * row + i) / 256 = row by omega]

/-- In each row one place falls into bank b: XOR with the row's skew is its own inverse. -/
theorem bankOf_add_eq_iff (row : Nat) {i b : Nat} (h : i < 256) : bankOf (256 * row + i) = b ↔ i = b ^^^ rowSkew row := by
  rw [bankOf_add row h]
  constructor
  · rintro rfl
    exact (Nat.xor_xor_cancel_right ..).symm
  · rintro rfl
    exact Nat.xor_xor_cancel_right ..

theorem bank_place_lt (row : Nat) {b : Nat} (h : b < 256) : b ^^^ rowSkew row < 256 :=
  Nat.xor_lt_two_pow (n := 8) h (rowSkew_lt row)

theorem countP_bankOf_row (row : Nat) {b : Nat} (h : b < 256) :
    (upto 256).countP (fun i => bankOf (256 * row + i) = b) = 1 := by
  have hplace : b ^^^ rowSkew row ∈ upto 256 := List.mem_range.2 (bank_place_lt row h)
  rw [← List.count_eq_one_of_mem List.nodup_range hplace]
  refine List.countP_congr fun i hi => ?_
  simpa using bankOf_add_eq_iff row (List.mem_range.1 hi)

theorem countP_bankOf_rows (row n : Nat) {b : Nat} (h : b < 256) :
    (upto (256 * n)).countP (fun i => bankOf (256 * row + i) = b) = n := by
  induction n with
  | zero => rfl
  | succ n ih =>
    have hlast := countP_bankOf_row (row + n) h
    rw [Nat.mul_succ, upto, List.range_add, List.countP_append, ih, List.countP_map]
    simpa [Function.comp_def, Nat.mul_add, Nat.add_assoc] using hlast

/-- A power of two sets one bit of the line number, and with it one bit of the bank. -/
theorem bankOf_two_pow_ne_zero : ∀ k < 22, bankOf (2 ^ k) ≠ 0 := by decide

end Sys2Proof.Machine

section

open Sys2Proof Sys2Proof.Machine

/-- Settles O55: within a row the bank is the place XOR the row's skew, so every count over whole rows is a count of rows; a stride of
2^k lines leaves bank 0 with its first step. -/
theorem houseLinesSpreadOverBanks : Obligations.HouseLinesSpreadOverBanks := by
  refine ⟨fun l _ => bankOf_eq l, fun row b _ hb => ?_, fun first n b hfirst _ hb => ?_, fun k hk => ?_⟩
  · have hplace := bank_place_lt row hb
    refine ⟨256 * row + (b ^^^ rowSkew row), by omega, (bankOf_add_eq_iff row hplace).2 rfl, ?_⟩
    rintro k rfl hk
    have hmod : k % 256 < 256 := Nat.mod_lt _ (by decide)
    rw [← (bankOf_add_eq_iff (k / 256) hmod).1 (by rwa [Nat.div_add_mod]), Nat.div_add_mod]
  · obtain ⟨row, rfl⟩ := Nat.dvd_of_mod_eq_zero hfirst
    rw [← List.countP_eq_length_filter]
    exact countP_bankOf_rows row n hb
  · refine ⟨1, ?_, ?_⟩
    · have := Nat.pow_le_pow_right (n := 2) (by decide) (show k ≤ 21 by omega)
      omega
    · rw [Nat.one_mul]
      exact bankOf_two_pow_ne_zero k hk

end
end

section
/-! PROOFS. The Wardrobe commands that pass their checks (R76, R79, R80, R82, Table 4.6): what each command's own part answers, and what
a finished MEMORY_COPY leaves. -/

namespace Sys2Proof.Machine

open Sys2Proof

/-! ### What a command's own part answers -/

theorem poolReserveCmd_body {s : State} {p : Packet} {pool : Pool} (hp : aget s.wardrobe.pools (p.u8 0) = some pool) :
    poolReserveCmd.body s p =
      if (s.wardrobe.setMinimum (p.u16 2) (p.u8 0) (p.u32 4)).minimaSum (p.u8 0) ≤ pool.count ∧
          (s.wardrobe.setMinimum (p.u16 2) (p.u8 0) (p.u32 4)).minima.length ≤ 4096
        then .ok { s with wardrobe := s.wardrobe.setMinimum (p.u16 2) (p.u8 0) (p.u32 4) }
        else .refuse .noResource s := by
  simp only [poolReserveCmd, hp]
  rw [← ite_not]
  refine if_congr ?_ rfl rfl
  simp [-not_and]

theorem bufferAllocCmd_body_unnamed {s t : State} {p : Packet} {a : Nat} {fb : Bool} (h1 : p.u8 1 = 0)
    (ha : s.alloc (s.ringGroup p.ring) (p.u8 0 = 1) (p.u64 8) none false = .got a fb t) :
    bufferAllocCmd.body s p = .done ⟨.done, b2n fb⟩ (bufName (p.u8 0 = 1) a) t := by
  have hnamed : allocNamed p = none := by simp [allocNamed, h1]
  simp [bufferAllocCmd, hnamed, ha]

theorem bufferFreeCmd_body_unused {s : State} {p : Packet} {q k o : Nat} {b : Buf}
    (hl : s.locate (bufDram (p.u64 0)) (bufAddr (p.u64 0)) = some (q, k, o)) (hb : s.heldBuf (p.u64 0) = some b)
    (hr : b.readers = []) (hw : b.writer = none) : bufferFreeCmd.body s p = .ok (s.release q k) := by
  simp [bufferFreeCmd, hl, hb, hr, hw]

theorem memoryCopyCmd_body_empty {s : State} {p : Packet} (hn : p.u64 16 = 0) :
    memoryCopyCmd.body s p = .done ⟨.empty, 0⟩ 0 s := if_pos hn

theorem State.setWriter_transferBy (s : State) (w writer n : Nat) : (s.setWriter w writer).transferBy n = s.transferBy n := by
  unfold State.setWriter
  split <;> rfl

theorem memoryCopyCmd_body_fromHost {s : State} {p : Packet} (hn : p.u64 16 ≠ 0) (h24 : p.u8 24 = 1) :
    memoryCopyCmd.body s p =
      .wait (.copy (p.u64 0) (p.u64 8) (p.u64 16) true false (s.transferBy (p.u64 16)))
        (({ s with outputs := .hostRead (p.u64 0) (p.u64 16) :: s.outputs }).setWriter (p.u64 8) (ownerId (.run s.nextId))) := by
  have hsh : bitOf 1 0 = true := rfl
  have hdh : bitOf 1 1 = false := rfl
  simp only [memoryCopyCmd, hn, if_false, h24, hsh, hdh, if_true, Bool.false_eq_true, State.setWriter_transferBy]
  rfl

/-- A command whose own part begins a copy is in flight with it. -/
theorem accept_copy {s t : State} {c : Cmd} {dt : Nat} {p : Packet} {src dst n deadline : Nat} {sh dh : Bool}
    (h : Passes c dt p s = true) (hb : c.body (s.taken dt p) p = .wait (.copy src dst n sh dh deadline) t) :
    (s.advance dt).accept c p = t.begun c.opcode p (.copy src dst n sh dh deadline) := by
  rw [accept_passes h, hb]
  rfl

/-! ### The end of a copy -/

/-- The bytes a copy moves: those that came from the host, or those at its device source. -/
def State.copyBytes (s : State) (sh : Bool) (data : List Byte) (src n : Nat) : List Byte :=
  if sh then data else s.readMem (bufDram src) (bufAddr src) n

/-- The copy's source is a sealed buffer of the device (R76). -/
def State.copySeals (s : State) (sh : Bool) (src : Nat) : Bool :=
  !sh && match s.heldBuf src with
    | some b => b.sealed
    | none => false

/-- The bytes at a device destination, its buffer sealed with a sealed source (R76). -/
def State.copyLands (s : State) (dst q k : Nat) (bytes : List Byte) (seals : Bool) : State :=
  (s.writeMem (bufDram dst) (bufAddr dst) bytes).modBuf q k fun b => { b with sealed := b.sealed || seals }

@[simp] theorem State.writeMem_wardrobe (s : State) (d : Bool) (a : Nat) (bs : List Byte) :
    (s.writeMem d a bs).wardrobe = s.wardrobe := by
  cases d <;> rfl

@[simp] theorem State.writeMem_locate (s : State) (d d' : Bool) (a a' : Nat) (bs : List Byte) :
    (s.writeMem d a bs).locate d' a' = s.locate d' a' := by
  simp only [State.locate, State.writeMem_wardrobe]

section
variable {s : State} {dst q k : Nat} {bytes : List Byte} {seals : Bool}

theorem State.copyLands_streams : (s.copyLands dst q k bytes seals).streams = s.streams := by
  unfold State.copyLands
  cases bufDram dst <;> rfl

theorem State.copyLands_rings : (s.copyLands dst q k bytes seals).rings = s.rings := by
  unfold State.copyLands
  cases bufDram dst <;> rfl

theorem State.copyLands_bufAt {b : Buf} (hb : s.bufAt q k = some b) :
    (s.copyLands dst q k bytes seals).bufAt q k = some { b with sealed := b.sealed || seals } := by
  obtain ⟨pool, hq, hk⟩ := Option.bind_eq_some_iff.1 hb
  simp [State.copyLands, State.bufAt, State.modBuf, aget_amod, hq, hk]

end

/-- All the bytes that the host was asked for have come. -/
theorem copy_not_short {n : Nat} {sh : Bool} {data : List Byte} (h : sh = true → data.length = n) :
    (sh && decide (data.length ≠ n)) = false := by
  simpa using h

section
variable {s : State} {id src dst n deadline : Nat} {sh : Bool} {f : InFlight} {data : List Byte} (hf : aget s.inflight id = some f)
  (hdata : sh = true → data.length = n)
include hf hdata

theorem State.copyDone_toHost (hw : f.work = .copy src dst n sh true deadline) :
    s.copyDone id data =
      (({ s with outputs := .hostBytes dst (s.copyBytes sh data src n) :: s.outputs }).unregister (ownerId (.run id))).finish
        id ⟨.done, 0⟩ 0 := by
  simp only [State.copyDone, hf, hw, copy_not_short hdata, Bool.false_eq_true, if_false, if_true]
  rfl

theorem State.copyDone_toDevice (hw : f.work = .copy src dst n sh false deadline) {q k o : Nat}
    (hl : s.locate (bufDram dst) (bufAddr dst) = some (q, k, o)) :
    s.copyDone id data =
      ((s.copyLands dst q k (s.copyBytes sh data src n) (s.copySeals sh src)).unregister (ownerId (.run id))).finish
        id ⟨.done, 0⟩ 0 := by
  simp only [State.copyDone, hf, hw, copy_not_short hdata, Bool.false_eq_true, if_false, State.writeMem_locate, hl]
  rfl

end

end Sys2Proof.Machine

section

open Sys2Proof Sys2Proof.Machine

/-- Settles O6: a command that passes its checks comes to what its own part answers in the state that has taken it, and a copy that has
finished lands at its destination. -/
theorem poolAndBufferCommandsTakeEffect : Obligations.PoolAndBufferCommandsTakeEffect := by
  refine ⟨fun s dt p => ?_, fun s dt id src dst n deadline sh f data => ?_⟩
  · intro u
    refine ⟨fun h => ?_, fun h => ?_, fun h pool hp => ?_, fun h h1 a fb t ha => ?_, fun h q k o b hl hb hr hw => ?_, fun h hn => ?_,
      fun h hn h24 => ?_⟩
    · exact congrArg Host.Outcome.next (accept_done h rfl)
    · exact congrArg Host.Outcome.next (accept_done h rfl)
    · refine congrArg Host.Outcome.next ?_
      rw [accept_passes h, poolReserveCmd_body hp, apply_ite (settle _ p)]
      rfl
    · exact congrArg Host.Outcome.next (accept_done h (bufferAllocCmd_body_unnamed h1 ha))
    · exact congrArg Host.Outcome.next (accept_done h (bufferFreeCmd_body_unused hl hb hr hw))
    · exact congrArg Host.Outcome.next (accept_done h (memoryCopyCmd_body_empty hn))
    · exact congrArg Host.Outcome.next (accept_copy h (memoryCopyCmd_body_fromHost hn h24))
  · intro u bytes hf hdata
    refine ⟨fun hw => ?_, fun hw q k o b hl hb => ?_⟩
    · exact congrArg Host.Outcome.next (State.copyDone_toHost hf hdata hw)
    · exact ⟨u.copyLands dst q k bytes (u.copySeals sh src), congrArg Host.Outcome.next (State.copyDone_toDevice hf hdata hw hl),
        rfl, rfl, State.copyLands_streams, State.copyLands_rings, State.copyLands_bufAt hb⟩

end
end

section
/-! PROOFS. The unit commands of classes 0x06 and 0x07 that pass their checks (R114, R187, R209, Tables 5.11 and 8.8): what each
command's own part answers, and what a run that fits the unreserved time, or does not, comes to. -/

namespace Sys2Proof.Machine

open Sys2Proof

/-! ### Split modes -/

/-- In STANDBY no plan is in force that could use a unit otherwise. -/
theorem State.planUsesOther_standby {s : State} (h : s.host.state = .standby) (unit : Nat) : s.planUsesOther unit = (false, s) := by
  simp [State.planUsesOther, h]

/-- In STANDBY, or for mode 3, the firmware's choice (Table 5.11), no plan stands against a split. -/
theorem State.splitPlan_free {s : State} {p : Packet} (h : s.host.state = .standby ∨ p.u8 0 = 3) (unit : Nat) :
    (if p.u8 0 = 3 then (false, s) else s.planUsesOther unit) = (false, s) := by
  rcases h with h | h
  · rw [State.planUsesOther_standby h, ite_self]
  · rw [if_pos h]

theorem arraySplitCmd_body {s : State} {p : Packet} (h : s.host.state = .standby ∨ p.u8 0 = 3) :
    arraySplitCmd.body s p = .ok (s.modArray (targetUnit s p) fun b => { b with stagedFix := some (p.u8 0) }) := by
  simp only [arraySplitCmd, State.splitPlan_free h, Bool.false_eq_true, if_false]

theorem vecSplitCmd_body {s : State} {p : Packet} (h : s.host.state = .standby ∨ p.u8 0 = 3) :
    vecSplitCmd.body s p = .ok (s.modVec (targetUnit s p) fun b => { b with stagedFix := some (p.u8 0) }) := by
  simp only [vecSplitCmd, State.splitPlan_free h, Bool.false_eq_true, if_false]

/-! ### Runs -/

/-- A run whose cost bound fits the unreserved time goes on as a reader of its words; one that does not fit is NOT_ADMITTED. -/
theorem accept_run {s t : State} {c : Cmd} {dt cost free : Nat} {p : Packet} {r : RunWork} (h : Passes c dt p s = true)
    (hb : c.body (s.taken dt p) p =
      if cost > free then .refuse .notAdmitted (s.taken dt p) else .wait (.run r) t) :
    (s.advance dt).accept c p =
      if cost ≤ free then t.begun c.opcode p (.run r) else (s.taken dt p).completed c.opcode p ⟨.notAdmitted, 0⟩ 0 := by
  rw [accept_passes h, hb, apply_ite (settle _ p), ← ite_not]
  exact if_congr Nat.not_lt rfl rfl

/-! ### Decks -/

section
variable {s t : State} {p : Packet}

/-- R189: the ring's old deck goes, and the new one is both in the buffer and on the ring. -/
theorem randomSeedCmd_body_got {a : Nat} {fb : Bool} (ha : s.alloc (s.ringGroup p.ring) false 4096 none false = .got a fb t) :
    randomSeedCmd.body s p = .ok (((t.freeDeck p.ring).writeMem false a (deckBytes (seedOf p))).modRing p.ring fun r =>
      { r with deck := some { seed := seedOf p, number := p.u32 0, buffer := some a } }) := by
  simp only [randomSeedCmd, State.seedRing, ha]

theorem randomSeedCmd_body_none {st : Status} (ha : s.alloc (s.ringGroup p.ring) false 4096 none false = .none_ st t) :
    randomSeedCmd.body s p = .refuse st t := by
  simp only [randomSeedCmd, State.seedRing, ha]

end

end Sys2Proof.Machine

section

open Sys2Proof Sys2Proof.Machine

/-- Settles O7: a command that passes its checks comes to what its own part answers in the state that has taken it. -/
theorem unitCommandsTakeEffect : Obligations.UnitCommandsTakeEffect := by
  refine ⟨fun s dt p => ?_, fun s dt p h => ?_⟩
  · intro u n
    refine ⟨fun h hfree => ?_, fun h => ?_, fun h hfree => ?_, fun h => ?_, fun h => ?_, fun h => ?_, fun h => ?_⟩
    · exact congrArg Host.Outcome.next (accept_done h (arraySplitCmd_body hfree))
    · exact congrArg Host.Outcome.next (accept_run h rfl)
    · exact congrArg Host.Outcome.next (accept_done h (vecSplitCmd_body hfree))
    · exact congrArg Host.Outcome.next (accept_hostRead h rfl)
    · exact congrArg Host.Outcome.next (accept_run h rfl)
    · exact congrArg Host.Outcome.next (accept_run h rfl)
    · exact congrArg Host.Outcome.next (accept_done h rfl)
  · intro u
    refine ⟨fun a fb t ha => ?_, fun st t ha => ?_⟩
    · exact congrArg Host.Outcome.next (accept_done h (randomSeedCmd_body_got ha))
    · exact congrArg Host.Outcome.next (accept_done h (randomSeedCmd_body_none ha))

end
end

section
/-! PROOFS. ARRAY_INSTRUCTION_COMPLETE (R95, R103, R110): what the event comes to, and where the results of an instruction stand. In a
store of the canonical form each result stands at its place and no other byte changes; the statement is about every store, and one
that lists its bytes out of order can keep a byte over which a zero is written. -/

namespace Sys2Proof.Machine

open Sys2Proof

/-! ### The event -/

/-- R95: the head's effect, its row's signal, its counts, its end and the clip trigger, in this order. -/
theorem State.arrayComplete_due {s : State} {a p : Nat} {j : ArrayJob} {rest : List ArrayJob}
    (hq : (s.arrayPart a p).queue = j :: rest) (hs : j.streaming = true) (hd : j.doneAt ≤ s.time.elapsed)
    (hv : (arrayWordOf j.word).toVector = true → s.canDeliver a p = true) (hc : s.operandsClean (arrayWordOf j.word) = true) :
    s.arrayComplete a p =
      (((((s.arrayEffect a p j).signalTile j.tile).modArray a fun b => { b with
          recomputed := if j.repeated || j.restarted then b.recomputed.inc else b.recomputed
          scaleRetries := if j.scaleRetry then b.scaleRetries.inc else b.scaleRetries }).finishArray a p 0 j
            (if j.repeated || j.restarted then .recomputed else .done)).clipTrigger j.owner (arrayWordOf j.word).layer
              (arrayWordOf j.word).aFmt) := by
  have hdelivers : ((arrayWordOf j.word).toVector && !s.canDeliver a p) = false := by simpa using hv
  simp [State.arrayComplete, hq, hs, Nat.not_lt.2 hd, hdelivers, hc]

theorem exec_arrayInstructionComplete {s : State} {dt : Nat} (h : (s.advance dt).computing = true) (a p : Nat) :
    exec (.arrayInstructionComplete dt a p) s = .next ((s.advance dt).arrayComplete a p) := by
  show execArrayInstructionComplete dt a p s = _
  simp [execArrayInstructionComplete, h]

/-! ### Rows of results -/

theorem chunks_length {α : Type} {n m : Nat} {xs : List α} (hn : 0 < n) (h : xs.length = m * n) : (chunks n xs).length = m := by
  have hlast : (m * n + n - 1) / n = m := by
    rw [Nat.add_sub_assoc hn, Nat.mul_comm, Nat.mul_add_div hn, Nat.div_eq_of_lt (Nat.sub_lt hn Nat.one_pos), Nat.add_zero]
  simp [chunks, ceilDiv, hn.ne', h, hlast]

/-- Row i of a list cut into rows of n. -/
theorem chunks_getElem {α : Type} {n i : Nat} {xs : List α} (h : i < (chunks n xs).length) :
    (chunks n xs)[i] = (xs.drop (i * n)).take n := by
  simp [chunks]

/-- The bytes of a row of four-byte results. -/
def rowBytes (row : List Word32) : List Byte := row.flatMap fun v => leBytes 4 v.toNat

theorem rowBytes_length (row : List Word32) : (rowBytes row).length = 4 * row.length := by
  simp [rowBytes, List.length_flatMap, Nat.mul_comm]

/-- Byte i of element n of a row. -/
theorem rowBytes_getD {row : List Word32} {n i : Nat} {v : Word32} (hv : row[n]? = some v) (hi : i < 4) :
    (rowBytes row).getD (4 * n + i) 0 = (leBytes 4 v.toNat).getD i 0 := by
  induction row generalizing n with
  | nil => simp at hv
  | cons x row ih =>
    have hlen := leBytes_length 4 x.toNat
    rw [rowBytes, List.flatMap_cons]
    cases n with
    | zero =>
      obtain rfl : x = v := by simpa using hv
      rw [List.getD_append _ _ _ _ (by omega), Nat.mul_zero, Nat.zero_add]
    | succ n =>
      rw [List.getD_append_right _ _ _ _ (by omega), hlen, show 4 * (n + 1) + i - 4 = 4 * n + i by omega]
      exact ih (by simpa using hv)

/-- The store with numbered rows of results written, row m at a line's distance of m pitches. -/
def Memory.writeRows (m : Memory) (line pitch : Nat) (rows : List (List Word32 × Nat)) : Memory :=
  rows.foldl (fun m r => m.writeBytes (64 * (line + r.2 * pitch)) (rowBytes r.1)) m

theorem State.writeResultRows_mem (s : State) (line pitch : Nat) (rows : List (List Word32)) :
    (s.writeResultRows line pitch rows).house.mem = s.house.mem.writeRows line pitch (rows.zip (upto rows.length)) :=
  (List.foldl_hom (fun t : State => t.house.mem) fun _ _ => rfl).symm

section
variable {m : Memory} {line pitch x : Nat}

theorem Memory.writeRows_wf (rows : List (List Word32 × Nat)) (h : m.wf = true) : (m.writeRows line pitch rows).wf = true := by
  induction rows generalizing m with
  | nil => exact h
  | cons r rows ih => exact ih (writeBytes_wf _ _ h)

/-- A byte in none of the rows reads as before. -/
theorem Memory.read_writeRows_outside {rows : List (List Word32 × Nat)} (h : m.wf = true)
    (hx : ∀ r ∈ rows, ¬ (64 * (line + r.2 * pitch) ≤ x ∧ x < 64 * (line + r.2 * pitch) + 4 * r.1.length)) :
    (m.writeRows line pitch rows).read x = m.read x := by
  induction rows generalizing m with
  | nil => rfl
  | cons r rows ih =>
    obtain ⟨hr, hrows⟩ := List.forall_mem_cons.1 hx
    rw [show m.writeRows line pitch (r :: rows) = _ from List.foldl_cons ..]
    refine (ih (writeBytes_wf _ _ h) hrows).trans ?_
    rw [read_writeBytes _ _ _ h, rowBytes_length, if_neg hr]

/-- A byte of the last row that holds its address reads as that row has it. -/
theorem Memory.read_writeRows_last {before after : List (List Word32 × Nat)} {r : List Word32 × Nat} (h : m.wf = true)
    (hr : 64 * (line + r.2 * pitch) ≤ x ∧ x < 64 * (line + r.2 * pitch) + 4 * r.1.length)
    (hafter : ∀ q ∈ after, ¬ (64 * (line + q.2 * pitch) ≤ x ∧ x < 64 * (line + q.2 * pitch) + 4 * q.1.length)) :
    (m.writeRows line pitch (before ++ r :: after)).read x = (rowBytes r.1).getD (x - 64 * (line + r.2 * pitch)) 0 := by
  rw [Memory.writeRows, List.foldl_append, List.foldl_cons]
  refine (read_writeRows_outside (writeBytes_wf _ _ (writeRows_wf before h)) hafter).trans ?_
  rw [read_writeBytes _ _ _ (writeRows_wf before h), rowBytes_length, if_pos hr]

/-- Rows of n results whose pitch holds a row do not overlap: byte k of row i reads as written. -/
theorem Memory.read_writeRows_inside {rows : List (List Word32)} {n i k : Nat} (h : m.wf = true)
    (hlen : ∀ r ∈ rows, r.length = n) (hp : 4 * n ≤ 64 * pitch) (hi : i < rows.length) (hk : k < 4 * n) :
    (m.writeRows line pitch (rows.zip (upto rows.length))).read (64 * (line + i * pitch) + k) = (rowBytes rows[i]).getD k 0 := by
  have hzip : i < (rows.zip (upto rows.length)).length := by simpa using hi
  have hsplit := List.take_append_drop i (rows.zip (upto rows.length))
  rw [List.drop_eq_getElem_cons hzip, List.getElem_zip, List.getElem_range] at hsplit
  rw [← hsplit]
  refine (read_writeRows_last h ⟨Nat.le_add_right .., ?_⟩ fun q hq => ?_).trans ?_
  · rw [hlen _ (List.getElem_mem hi)]
    exact Nat.add_lt_add_left hk _
  · obtain ⟨d, hd, rfl⟩ := List.mem_drop_iff_getElem.1 hq
    have hbelow : (i + 1) * pitch ≤ (i + 1 + d) * pitch := Nat.mul_le_mul_right _ (Nat.le_add_right ..)
    rw [Nat.succ_mul] at hbelow
    simp only [List.getElem_zip, List.getElem_range]
    omega
  · rw [Nat.add_sub_cancel_left]

end

/-! ### The results of an instruction -/

/-- The results of a job's instruction, row by row. -/
def State.resultRows (s : State) (j : ArrayJob) : List (List Word32) :=
  chunks (arrayWordOf j.word).n ((s.arrayResults (arrayWordOf j.word) j.block).map (·.1))

theorem State.sealLine_house (s : State) (line : Nat) : (s.sealLine line).house = s.house := by
  unfold State.sealLine
  split <;> rfl

/-- All that an instruction changes in the House's bytes is its rows of results. -/
theorem State.arrayEffect_mem {s : State} {j : ArrayJob} (hh : (arrayWordOf j.word).toHouse = true) (a p : Nat) :
    (s.arrayEffect a p j).house.mem = s.house.mem.writeRows (arrayWordOf j.word).oAddr (arrayWordOf j.word).oPitch
      ((s.resultRows j).zip (upto (s.resultRows j).length)) := by
  unfold State.arrayEffect
  extract_lets w res sat rows sealed hits counted written stored link
  have hstored : stored.house.mem = written.house.mem := by
    rw [show stored = if sealed then written.sealLine w.oAddr else written from if_neg (by simp [w, hh])]
    split
    · rw [State.sealLine_house]
    · rfl
  have hwritten : stored.house.mem = _ := hstored.trans (counted.writeResultRows_mem ..)
  split <;> exact hwritten

section
variable {s : State} {j : ArrayJob} {w : ArrayWord} (hwf : s.house.mem.wf = true) (hw : w = arrayWordOf j.word)
  (hh : w.toHouse = true) (hres : (s.arrayResults w j.block).length = w.m * w.n)
include hw

/-- With N = 0 there are no rows at all. -/
theorem State.resultRows_empty (hn : w.n = 0) : s.resultRows j = [] := by
  subst hw
  simp [State.resultRows, chunks, ceilDiv, hn]

/-- Element n of row m is result m × N + n. -/
theorem State.resultRows_getElem {m n : Nat} {v : Word32 × Bool} (hn : n < w.n) (hm : m < (s.resultRows j).length)
    (hv : (s.arrayResults w j.block)[m * w.n + n]? = some v) : (s.resultRows j)[m][n]? = some v.1 := by
  subst hw
  simp [State.resultRows, chunks_getElem, hn, hv]

include hres

/-- The results are M rows of N. -/
theorem State.resultRows_shape (hn : 0 < w.n) : (s.resultRows j).length = w.m ∧ ∀ r ∈ s.resultRows j, r.length = w.n := by
  subst hw
  have hrows : (s.resultRows j).length = (arrayWordOf j.word).m := chunks_length hn (by rw [List.length_map, hres])
  refine ⟨hrows, fun r hr => ?_⟩
  obtain ⟨i, hi, rfl⟩ := List.getElem_of_mem hr
  have hroom := Nat.mul_le_mul_right (arrayWordOf j.word).n (show i + 1 ≤ _ from hrows ▸ hi)
  rw [Nat.succ_mul] at hroom
  simp only [State.resultRows, chunks_getElem, List.length_take, List.length_drop, List.length_map, hres]
  omega

include hwf hh

/-- R103: in a store of the canonical form, element n of row m stands at line O_ADDR + m × O_PITCH. -/
theorem State.arrayEffect_result {m n : Nat} {v : Word32 × Bool} (hp : 4 * w.n ≤ 64 * w.oPitch) (hm : m < w.m) (hn : n < w.n)
    (hv : (s.arrayResults w j.block)[m * w.n + n]? = some v) (a p : Nat) :
    (s.arrayEffect a p j).readMem false (64 * (w.oAddr + m * w.oPitch) + 4 * n) 4 = leBytes 4 v.1.toNat := by
  obtain ⟨hrows, hcols⟩ := State.resultRows_shape hw hres (Nat.zero_lt_of_lt hn)
  have hm' : m < (s.resultRows j).length := hrows ▸ hm
  have hv' := State.resultRows_getElem hw hn hm' hv
  subst hw
  rw [State.readMem, if_neg Bool.false_ne_true, Memory.readBytes_eq, State.arrayEffect_mem hh]
  refine List.ext_getElem (by simp) fun i hi hi' => ?_
  have hi4 : i < 4 := by simpa using hi
  rw [List.getElem_map, List.getElem_range, Nat.add_assoc, Memory.read_writeRows_inside hwf hcols hp hm' (by omega),
    rowBytes_getD hv' hi4, List.getD_eq_getElem _ _ hi']

/-- R110: outside the rows of results no byte of the House changes. -/
theorem State.arrayEffect_outside {x : Nat}
    (hx : ∀ m < w.m, ¬ (64 * (w.oAddr + m * w.oPitch) ≤ x ∧ x < 64 * (w.oAddr + m * w.oPitch) + 4 * w.n)) (a p : Nat) :
    (s.arrayEffect a p j).house.mem.read x = s.house.mem.read x := by
  rw [State.arrayEffect_mem (hw ▸ hh), ← hw]
  refine Memory.read_writeRows_outside hwf fun r hr => ?_
  obtain ⟨i, hi, rfl⟩ := List.getElem_of_mem hr
  obtain hn | hn := Nat.eq_zero_or_pos w.n
  · simp [State.resultRows_empty hw hn] at hi
  · obtain ⟨hrows, hcols⟩ := State.resultRows_shape hw hres hn
    have hi' : i < (s.resultRows j).length := by simpa using hi
    rw [List.getElem_zip, List.getElem_range, hcols _ (List.getElem_mem hi')]
    exact hx i (hrows ▸ hi')

end

/-! ### A store that is not in the canonical form -/

/-- A House that lists the byte at address 128 behind one at a higher address. -/
def unsortedHouse : State := { State.reset with house := { mem := ⟨[(256, 1), (128, 1)]⟩ } }

/-- The array word C[1 × 1] = 0 in INT8 with K = 0 and INIT = 0 (R111): C at line 2. -/
def zeroWord : Word256 := BitVec.ofNat 256 (1 + 0x0D * 2 ^ 8 + 0x0D * 2 ^ 14 + 2 ^ 32 + 2 ^ 64 + 2 * 2 ^ 144 + 2 ^ 167)

/-- A chain's job of that word. -/
def zeroJob : ArrayJob := { word := zeroWord, owner := .chain 1 }

theorem zeroWord_legal : (arrayWordOf zeroWord).legal = true ∧ (arrayWordOf zeroWord).toHouse = true ∧
    (arrayWordOf zeroWord).toVector = false := by decide +kernel

theorem zeroWord_extents : (arrayWordOf zeroWord).m = 1 ∧ (arrayWordOf zeroWord).n = 1 ∧ (arrayWordOf zeroWord).oAddr = 2 ∧
    (arrayWordOf zeroWord).oPitch = 1 := by decide +kernel

theorem zeroJob_results : unsortedHouse.arrayResults (arrayWordOf zeroWord) zeroJob.block = [(0, false)] := by decide +kernel

/-- Writing the zero at address 128 stops before the cell of address 256, and the cell behind it still reads 1. -/
theorem unsortedHouse_keeps_byte : (unsortedHouse.arrayEffect 0 0 zeroJob).readMem false 128 4 = [1, 0, 0, 0] := by decide +kernel

end Sys2Proof.Machine

section

open Sys2Proof Sys2Proof.Machine

/-- Refutes O31: the statement does not ask for the canonical form of the House, and in `unsortedHouse` the result 0 of `zeroJob` does
not replace the 1 at its place. In the canonical form both parts hold: `exec_arrayInstructionComplete` with `State.arrayComplete_due`,
and `State.arrayEffect_result` with `State.arrayEffect_outside`. -/
theorem not_arrayInstructionsComplete : ¬ Obligations.ArrayInstructionsComplete := by
  rintro ⟨-, hstore⟩
  obtain ⟨hlegal, hhouse, hvector⟩ := zeroWord_legal
  obtain ⟨hm, hn, haddr, hpitch⟩ := zeroWord_extents
  obtain ⟨hplaced, -⟩ := hstore unsortedHouse 0 0 zeroJob (arrayWordOf zeroWord) rfl hhouse hvector hlegal
    (by rw [hn, hpitch]; decide) (by rw [zeroJob_results, hm, hn]; rfl)
  have hzero := hplaced 0 0 (0, false) (by rw [hm]; decide) (by rw [hn]; decide) (by rw [zeroJob_results, hn]; rfl)
  rw [haddr, hpitch] at hzero
  exact absurd (unsortedHouse_keeps_byte.symm.trans hzero) (by decide)

end
end

section
/-! PROOFS. Host reads of commands (R186, R305, R323, R343): what a command comes to when its data have arrived in time, where its
block fails a check or passes, and what a read that fails leaves. -/

namespace Sys2Proof.Machine

open Sys2Proof

/-! ### A block's checks -/

theorem checked_failed {s : State} {c : Cmd} {p : Packet} {o : Outcome} (h : bodyChecks c p s = some o) (run : State → Verdict) :
    checked c p run s = .done o 0 s := by
  simp only [checked, h]

/-- The root is no other member's node, so what passes its checks runs here. -/
theorem checked_passed {s : State} {c : Cmd} {p : Packet} (h : bodyChecks c p s = none) (ht : c.target = .root)
    (run : State → Verdict) : checked c p run s = run s := by
  simp only [checked, h, ht]

theorem blockCommand_target (c : Cmd) (data : List Byte) : (blockCommand c data).target = .root := by
  unfold blockCommand
  split <;> rfl

/-! ### The data of a read that has not timed out -/

section
variable {s : State} {id n deadline : Nat} {l : List Nat} {f : InFlight} {p : Packet} {c : Cmd} {data : List Byte}
  (hf : aget s.inflight id = some f) (hw : f.work = .hostRead p n deadline l)
include hf hw

/-- R305, R343: a read that fails is counted by its kind, and what it was to fill goes back. -/
theorem State.hostReadFails_read (answered : Bool) :
    s.hostReadFails id answered =
      (l.foldl (fun (t : State) w => t.releaseName w) (s.countRead answered)).finish id ⟨.timeout, 0⟩ 0 := by
  simp only [State.hostReadFails, hf, hw]

variable (hn : data.length = n) (ht : s.time.elapsed ≤ deadline) (hc : commandOf f.opcode = some c)
include hn ht hc

/-- R304: the command goes on with its checks on the block. -/
theorem State.hostReadDone_extended (he : c.extended = true) :
    s.hostReadDone id data =
      settleInFlight id (checked (blockCommand c data) p (fun t => (blockCommand c data).body t p) s) := by
  simp [State.hostReadDone, hf, hw, hc, hn, Nat.not_lt.2 ht, he]

/-- R305: a command that has passed its checks goes on with its data. -/
theorem State.hostReadDone_plain (he : c.extended = false) :
    s.hostReadDone id data = settleInFlight id (c.withData s p id data) := by
  simp [State.hostReadDone, hf, hw, hc, hn, Nat.not_lt.2 ht, he]

/-- A block that fails a check is the command's outcome, and changes nothing else. -/
theorem State.hostReadDone_failed {o : Outcome} (he : c.extended = true) (hb : bodyChecks (blockCommand c data) p s = some o) :
    s.hostReadDone id data = s.finish id o 0 := by
  rw [State.hostReadDone_extended hf hw hn ht hc he, checked_failed hb]
  rfl

theorem State.hostReadDone_passed (he : c.extended = true) (hb : bodyChecks (blockCommand c data) p s = none) :
    s.hostReadDone id data = settleInFlight id ((blockCommand c data).body s p) := by
  rw [State.hostReadDone_extended hf hw hn ht hc he, checked_passed hb (blockCommand_target c data)]

end

/-! ### ENCODE_CONFIGURE (R257, R281) -/

/-- A stream that the look-up finds is the one a change makes of it. -/
theorem State.modStream_stream {s : State} {n : Nat} {st : Stream} (h : aget s.streams n = some st) (f : Stream → Stream) :
    aget (s.modStream n f).streams n = some (f st) := by
  rw [State.modStream_streams, aget_amod, if_pos rfl, h, Option.map_some]

/-- Where the block names an output of the source that fits, the encode stream is configured with it. -/
theorem encodeConfigured_named {s : State} {bs : List Byte} {src st : Stream} {o : OutputCfg}
    (hnamed : bitOf (fieldAt bs 34 1) 1 = true) (hsrc : aget s.streams (fieldAt bs 2 2) = some src)
    (ho : src.outputs[fieldAt bs 35 1]? = some o) (hkind : o.kind = 1) (hw : o.outW = fieldAt bs 6 2)
    (hh : o.outH = fieldAt bs 8 2) (hst : aget s.streams (fieldAt bs 0 2) = some st) :
    ∃ (t : State) (x : Stream), encodeConfigured s bs = .ok t ∧ aget t.streams (fieldAt bs 0 2) = some x ∧
      x.encodeDone = true ∧ x.encode.source = fieldAt bs 2 2 ∧ x.encode.codec = fieldAt bs 4 1 ∧
      x.encode.width = fieldAt bs 6 2 ∧ x.encode.height = fieldAt bs 8 2 ∧ x.encode.output = fieldAt bs 35 1 ∧
      x.encode.hostBase = fieldAt bs 40 8 ∧ x.encode.hostSize = fieldAt bs 48 8 := by
  have hout (scaler : Nat) : pictureOutput (agetD s.streams (fieldAt bs 2 2) {}) (some (fieldAt bs 35 1)) (fieldAt bs 6 2)
      (fieldAt bs 8 2) scaler = some (fieldAt bs 35 1, src) := by
    simp [pictureOutput, agetD, hsrc, ho, hkind, hw, hh]
  have hkept : aget (s.draw.2.modStream (fieldAt bs 2 2) fun _ => src).streams (fieldAt bs 0 2) = some st := by
    rw [State.modStream_streams, State.draw_streams, aget_amod]
    split_ifs with hself
    · rw [hst, Option.map_some, ← hsrc, ← hself, hst]
    · exact hst
  simp only [encodeConfigured, hnamed, if_true, State.draw_streams, hout]
  exact ⟨_, _, rfl, State.modStream_stream hkept _, rfl, rfl, rfl, rfl, rfl, rfl, rfl, rfl⟩

/-! ### SCRIPT_LOAD (R323) -/

theorem scriptLoadCmd_withData {s : State} {p : Packet} {id : Nat} {bs : List Byte} {c : Cast}
    (hc : aget s.casts (p.u32 12) = some c) (hs : scriptFault s c.content bs (p.u32 8) = none) :
    scriptLoadCmd.withData s p id bs = .okResult (freeKey s.scripts 1)
      { s with scripts := aset s.scripts (freeKey s.scripts 1)
                { group := s.ringGroup p.ring, cast := p.u32 12, bytes := bs } } := by
  simp only [scriptLoadCmd, hc, hs]

end Sys2Proof.Machine

section

open Sys2Proof Sys2Proof.Machine

/-- Settles O11: data in time take the command on with its block's checks or its own part; a read that fails ends it at once. -/
theorem hostReadsEnd : Obligations.HostReadsEnd := by
  refine ⟨fun s dt id n deadline l f p data => ?_, fun s dt id n deadline l f p answered => ?_⟩
  · intro u hf hw hn ht
    have hdone {t : State} (h : u.hostReadDone id data = t) : exec (.commandHostReadComplete dt id data) s = .next t :=
      congrArg Host.Outcome.next h
    refine ⟨fun o hop hb => ?_, fun o hop hb => ?_, ?_, fun hop => ?_, fun hop c hc hs => ?_⟩
    · exact hdone (State.hostReadDone_failed (c := encodeConfigureCmd) hf hw hn ht (congrArg commandOf hop) rfl hb)
    · exact hdone (State.hostReadDone_failed (c := ingestConfigureCmd) hf hw hn ht (congrArg commandOf hop) rfl hb)
    · intro hop hb hnamed src o st hsrc ho hkind how hoh hst
      obtain ⟨t, x, ht', hx⟩ := encodeConfigured_named hnamed hsrc ho hkind how hoh hst
      have hpassed := State.hostReadDone_passed (c := encodeConfigureCmd) hf hw hn ht (congrArg commandOf hop) rfl hb
      exact ⟨t, x, hdone (hpassed.trans (congrArg (settleInFlight id) ht')), hx⟩
    · exact hdone (State.hostReadDone_plain (c := vecScalarsCmd) hf hw hn ht (congrArg commandOf hop) rfl)
    · have hplain := State.hostReadDone_plain (c := scriptLoadCmd) hf hw hn ht (congrArg commandOf hop) rfl
      exact hdone (hplain.trans (congrArg (settleInFlight id) (scriptLoadCmd_withData hc hs)))
  · intro u hf hw
    exact congrArg Host.Outcome.next (State.hostReadFails_read hf hw answered)

end
end

section
/-! PROOFS. Vector engines (R154, R171, R176 to R185): what a change of an engine or of a part leaves of both, what each vector
event of a part comes to, and what a saved context takes from a part and a restored one gives it. -/

namespace Sys2Proof.Machine

open Sys2Proof

/-! ### Engines and parts -/

section
variable {s t : State} {e p : Nat}

theorem State.vec_congr (h : t.vecs = s.vecs) : t.vec e = s.vec e := by simp only [State.vec, h]

theorem State.vecPart_congr (h : t.vecs = s.vecs) : t.vecPart e p = s.vecPart e p := by rw [State.vecPart, State.vec_congr h]; rfl

theorem getD_modAt {α : Type} {l : List α} {i : Nat} (h : i < l.length) (f : α → α) (d : α) :
    (modAt l i f).getD i d = f (l.getD i d) := by
  simp [modAt, List.getD_eq_getElem?_getD, h]

theorem State.vec_modVec (he : e < s.vecs.length) (f : VecBlk → VecBlk) : (s.modVec e f).vec e = f (s.vec e) := getD_modAt he f {}

theorem State.vecPart_modVec (he : e < s.vecs.length) {f : VecBlk → VecBlk} (hf : (f (s.vec e)).parts = (s.vec e).parts) :
    (s.modVec e f).vecPart e p = s.vecPart e p := by
  rw [State.vecPart, State.vec_modVec he, hf]
  rfl

theorem State.vecs_length_modVec (s : State) (e : Nat) (f : VecBlk → VecBlk) : (s.modVec e f).vecs.length = s.vecs.length :=
  List.length_modify ..

variable (he : e < s.vecs.length) (hp : p < (s.vec e).parts.length)
include he

theorem State.parts_length_modVec {f : VecBlk → VecBlk} (hf : (f (s.vec e)).parts = (s.vec e).parts) :
    ((s.modVec e f).vec e).parts.length = (s.vec e).parts.length := by rw [State.vec_modVec he, hf]

theorem State.vec_modVecPart (f : VecPart → VecPart) :
    (s.modVecPart e p f).vec e = { s.vec e with parts := modAt (s.vec e).parts p f } := State.vec_modVec he _

include hp

theorem State.vecPart_modVecPart (f : VecPart → VecPart) : (s.modVecPart e p f).vecPart e p = f (s.vecPart e p) := by
  rw [State.vecPart, State.vec_modVecPart he]
  exact getD_modAt hp f {}

theorem State.vecPart_modVecHead {j : VecJob} {rest : List VecJob} (hq : (s.vecPart e p).queue = j :: rest) (f : VecJob → VecJob) :
    (s.modVecHead e p f).vecPart e p = { s.vecPart e p with queue := f j :: rest } := by
  rw [State.modVecHead, State.vecPart_modVecPart he hp]
  simp only [hq]

/-- A change of the engine that leaves its parts goes before a change of the head. -/
theorem State.modVecHead_queue {f : VecBlk → VecBlk} (hf : ∀ v, (f v).parts = v.parts) {j : VecJob} {rest : List VecJob}
    (hq : (s.vecPart e p).queue = j :: rest) (g : VecJob → VecJob) :
    (((s.modVec e f).modVecHead e p g).vecPart e p).queue = g j :: rest := by
  have he' : e < (s.modVec e f).vecs.length := (s.vecs_length_modVec e f).symm ▸ he
  have hp' : p < ((s.modVec e f).vec e).parts.length := (State.parts_length_modVec he (hf _)).symm ▸ hp
  rw [State.vecPart_modVecHead he' hp' ((congrArg VecPart.queue (State.vecPart_modVec he (hf _))).trans hq)]

end

/-! ### Events -/

/-- In a device that computes the event takes place. -/
theorem next_computing {s x y : State} (hlive : s.computing = true) (h : x = y) :
    (Host.Outcome.next (if s.computing then x else s) : Host.Outcome State Fault Refusal) = .next y :=
  congrArg Host.Outcome.next ((if_pos hlive).trans h)

theorem exec_scaleTagMismatch_vector {s : State} {dt : Nat} (h : (s.advance dt).computing = true) (e p : Nat) :
    exec (.scaleTagMismatch dt true e p) s = .next ((s.advance dt).vecScaleMismatch e p) := by
  show execScaleTagMismatch dt true e p s = _
  simp [execScaleTagMismatch, h]

/-! ### Issue (R161) -/

section
variable {s : State} {e p : Nat} {j : VecJob} {rest : List VecJob} (hq : (s.vecPart e p).queue = j :: rest)
  (hph : j.phase = .queued) (hsplit : (s.vec e).splitAt ≤ s.time.elapsed) (hd : (vecWordOf j.word).dDst = 0 ∨ rest ≠ [])
include hph hsplit hd

/-- The word has not issued, its split mode has settled, and the next word of its link group is there. -/
theorem vecIssue_due (b : Bool) :
    (decide (j.phase = .issued) || decide (s.time.elapsed < (s.vec e).splitAt) ||
      (decide ((vecWordOf j.word).dDst ≠ 0) && rest.isEmpty && b)) = false := by
  obtain hd | hd := hd <;> simp [hph, hsplit, hd]

include hq

theorem State.vecIssue_failed {st : Status} (hc : s.vecCheck e p (s.readScalars e j) rest.head? = some st) :
    s.vecIssue e p =
      ((s.modVecPart e p fun x => { x with link := none }).signalTile (s.readScalars e j).tile).finishVec e p
        (s.readScalars e j) st 0 := by
  simp only [State.vecIssue, hq, vecIssue_due hph hsplit hd, Bool.false_eq_true, if_false, hc]

theorem State.vecIssue_ready (hc : s.vecCheck e p (s.readScalars e j) rest.head? = none)
    (hi : s.inputsReady (s.readScalars e j) = true) (ht : s.vecTagsOk (s.readScalars e j) = true) :
    ∃ w : Nat, s.vecIssue e p =
      (s.modVec e fun v => { v with scoreboardWait := v.scoreboardWait.add 32 w }).modVecHead e p fun _ =>
        { s.readScalars e j with phase := .issued } := by
  simp only [State.vecIssue, hq, vecIssue_due hph hsplit hd, Bool.false_eq_true, if_false, hc, hi, ht, Bool.not_true,
    Bool.or_false]
  exact ⟨_, rfl⟩

end

/-! ### Completion (R179) -/

@[simp] theorem State.modVecPart_house (s : State) (e p : Nat) (f : VecPart → VecPart) : (s.modVecPart e p f).house = s.house := rfl

@[simp] theorem State.signalTile_house (s : State) (t : Option Nat) : (s.signalTile t).house = s.house := by cases t <;> rfl

@[simp] theorem State.sealOutputs_house (s : State) (sealed : Bool) (l : List (Nat × Nat)) :
    (s.sealOutputs sealed l).house = s.house := by
  cases sealed with
  | false => rfl
  | true => exact foldl_keeps State.house (fun t x => t.sealLine_house x.1) l s

@[simp] theorem State.flushTrigger_house (s : State) (o : Owner) (slot blocks : Nat) :
    (s.flushTrigger o slot blocks).house = s.house := by
  unfold State.flushTrigger
  repeat' split
  all_goals rfl

@[simp] theorem State.withholdFed_house (s : State) (j : VecJob) (layer : Option Nat) :
    (s.withholdFed j layer).house = s.house := by
  unfold State.withholdFed
  repeat' split
  all_goals rfl

/-- All that an operation 0x01 to 0x44 changes in the House's bytes is its results. -/
theorem State.vecComplete_plain {s : State} {e p : Nat} {j : VecJob} {rest : List VecJob}
    (hq : (s.vecPart e p).queue = j :: rest) (hph : j.phase = .issued)
    (ha : (vecWordOf j.word).aSrc ≠ 2) (hv : isVision (vecWordOf j.word).op = false)
    (hclean : ∀ o ∈ (s.vecExtents j).1, s.linesClean o.1 o.2 = true) :
    ∃ v : State,
      s.vecComplete e p = v.finishVec e p j (if j.repeated || j.restarted then .recomputed else .done)
        (s.plainEffect e p j ((s.samp e).decks.getD p none)).flags ∧
      v.house.mem = (s.storeAll (s.plainEffect e p j ((s.samp e).decks.getD p none)).writes).house.mem := by
  have hall : ((s.vecExtents j).1.all fun o => s.linesClean o.1 o.2) = true := List.all_eq_true.2 hclean
  have hfed : decide ((vecWordOf j.word).aSrc = 2) = false := decide_eq_false ha
  unfold State.vecComplete
  simp only [hq, hph, hall, hfed, hv, ne_eq, not_true_eq_false, decide_false, Bool.false_and, Bool.or_false, Bool.not_true,
    Bool.false_eq_true, if_false]
  refine ⟨_, rfl, ?_⟩
  simp only [State.signalTile_house, State.withholdFed_house, State.flushTrigger_house, State.modVec_house, State.modVecPart_house,
    State.modSamp_house, State.sealOutputs_house]

/-! ### Split modes (R154) -/

theorem State.vecSplitChange_idle {s : State} {e mode : Nat} (hidle : (s.vec e).idle = true) (hm : mode ≤ 2)
    (hfix : (s.vec e).fixed = none ∨ (s.vec e).fixed = some mode) :
    s.vecSplitChange e mode = s.modVec e fun v => v.setSplit mode s.time.elapsed := by
  obtain hfix | hfix := hfix <;> simp [State.vecSplitChange, hidle, hfix, Nat.not_lt.2 hm]

/-! ### Parity failures (R180 to R182, R398) -/

/-- A repetition changes what its owner shows of it, and the trace. -/
theorem State.repeatUnit_only {s : State} {o : Owner} {unit cost cls index : Nat} :
    ∃ m i b, s.repeatUnit o unit cost cls index = { s with samples := m, inflight := i, obs := b } := by
  cases o with
  | chain k =>
    obtain ⟨b, h⟩ := State.trace_only (s := s.modSample k fun m => { m with
      repetitions := m.repetitions + 1, lastUnit := unit, reserveLeft := m.reserveLeft - cost })
    exact ⟨_, _, b, h⟩
  | run id =>
    obtain ⟨b, h⟩ := State.trace_only
    exact ⟨_, _, b, h⟩

@[simp] theorem State.repeatUnit_vecs (s : State) (o : Owner) (unit cost cls index : Nat) :
    (s.repeatUnit o unit cost cls index).vecs = s.vecs := by
  obtain ⟨m, i, b, h⟩ := State.repeatUnit_only
  rw [h]

@[simp] theorem State.repeatUnit_house (s : State) (o : Owner) (unit cost cls index : Nat) :
    (s.repeatUnit o unit cost cls index).house = s.house := by
  obtain ⟨m, i, b, h⟩ := State.repeatUnit_only
  rw [h]

theorem State.enterFaulted_host {s : State} (h : s.host.state ≠ .faulted) (cls unit : Nat) :
    (s.enterFaulted cls unit).host.state = .faulted ∧ (s.enterFaulted cls unit).host.fault = cls ∧
    (s.enterFaulted cls unit).host.faultUnit = unit := by
  rw [State.enterFaulted, if_neg h]
  exact ⟨rfl, rfl, rfl⟩

/-- The state that has counted a parity failure of a lane; no generator's mismatch is counted with the sampler. -/
def State.countParity (s : State) (e p lane : Nat) : State :=
  (s.modVec e fun v => { v with parityErrors := v.parityErrors.inc, errorPart := p, errorLane := lane % 512 }).modSamp e id

theorem State.countParity_vec {s : State} {e : Nat} (he : e < s.vecs.length) (p lane : Nat) :
    (s.countParity e p lane).vec e =
      { s.vec e with parityErrors := (s.vec e).parityErrors.inc, errorPart := p, errorLane := lane % 512 } := State.vec_modVec he _

theorem State.countParity_vecs_length (s : State) (e p lane : Nat) : (s.countParity e p lane).vecs.length = s.vecs.length :=
  State.vecs_length_modVec ..

/-- A part in rehearsal mode with its first n jobs in repetition, the times of its repetitions given. -/
def VecPart.repeatJobs (q : VecPart) (n : Nat) (times : List Nat) : VecPart :=
  { q with
    repeats := times, rehearsal := true
    queue := (q.queue.take n).map (fun x => { x with repeated := true }) ++ q.queue.drop n }

section
variable {s : State} {e p : Nat} {j : VecJob} {rest : List VecJob} (hq : (s.vecPart e p).queue = j :: rest)
  (hph : j.phase = .issued) (lane : Nat)
include hq hph

/-- A failure in the repetition is a persistent fault. -/
theorem State.vecParity_persists (hr : j.repeated = true) :
    s.vecParity e p lane false false = (s.countParity e p lane).enterFaulted clsVector (4 * e + p) := by
  simp only [State.vecParity, hq, hph, hr, Bool.true_or, if_true, ne_eq, not_true_eq_false, if_false, Bool.false_eq_true]
  rfl

theorem State.vecParity_repeats (hr : j.repeated = false) (hrate : (recordRepeat s.ms (s.vecPart e p).repeats).2 = false) :
    ∃ unit cost, s.vecParity e p lane false false =
      ((s.countParity e p lane).modVecPart e p fun q =>
        q.repeatJobs (headGroup (j :: rest)).length (recordRepeat s.ms (s.vecPart e p).repeats).1).repeatUnit
          j.owner unit cost clsVector (4 * e + p) := by
  simp only [State.vecParity, hq, hph, hr, Bool.false_or, ne_eq, not_true_eq_false, if_false, Bool.false_eq_true]
  exact ⟨_, _, if_neg (ne_true_of_eq_false hrate)⟩

/-- The part rehearses with its head in repetition, and the engine has counted the failure. -/
theorem State.vecParity_part (he : e < s.vecs.length) (hp : p < (s.vec e).parts.length) (hr : j.repeated = false)
    (hrate : (recordRepeat s.ms (s.vecPart e p).repeats).2 = false) :
    ((s.vecParity e p lane false false).vec e).parityErrors = (s.vec e).parityErrors.inc ∧
    ((s.vecParity e p lane false false).vecPart e p).rehearsal = true ∧
    ((s.vecParity e p lane false false).vecPart e p).queue.head? = some { j with repeated := true } ∧
    (s.vecParity e p lane false false).house = s.house := by
  obtain ⟨unit, cost, h⟩ := State.vecParity_repeats hq hph lane hr hrate
  have hc := State.countParity_vec he p lane
  have he' : e < (s.countParity e p lane).vecs.length := (s.countParity_vecs_length e p lane).symm ▸ he
  have hp' : p < ((s.countParity e p lane).vec e).parts.length := hc ▸ hp
  have hq' : ((s.countParity e p lane).vecPart e p).queue = j :: rest := by rw [State.vecPart, hc]; exact hq
  rw [h, State.vec_congr (State.repeatUnit_vecs ..), State.vecPart_congr (State.repeatUnit_vecs ..), State.vec_modVecPart he',
    State.vecPart_modVecPart he' hp', hc, State.repeatUnit_house]
  refine ⟨rfl, rfl, ?_, rfl⟩
  simp [VecPart.repeatJobs, hq', headGroup]

end

/-! ### Scale tags (R171) -/

/-- The state that has counted and traced the second mismatch of a head. -/
def State.countMismatch (s : State) (e p slot : Nat) : State :=
  (s.trace 5 clsVector (4 * e + p) (slot + 16) s.cueNow).modVec e fun v => { v with scaleMismatch := v.scaleMismatch.inc }

theorem State.countMismatch_frame {s : State} {e : Nat} (he : e < s.vecs.length) (p slot : Nat) (f : VecPart → VecPart) :
    (((s.countMismatch e p slot).modVecPart e p f).vec e).scaleMismatch = (s.vec e).scaleMismatch.inc ∧
    ((s.countMismatch e p slot).modVecPart e p f).house = s.house := by
  have hvecs := s.trace_vecs 5 clsVector (4 * e + p) (slot + 16) s.cueNow
  have he' : e < (s.trace 5 clsVector (4 * e + p) (slot + 16) s.cueNow).vecs.length := hvecs.symm ▸ he
  have he'' : e < (s.countMismatch e p slot).vecs.length := (State.vecs_length_modVec ..).symm ▸ he'
  refine ⟨?_, s.trace_house ..⟩
  rw [State.vec_modVecPart he'', State.countMismatch, State.vec_modVec he', State.vec_congr hvecs]

/-- The second mismatch of a head that passes its checks. -/
theorem State.vecScaleMismatch_second {s : State} {e p : Nat} {j : VecJob} {rest : List VecJob}
    (hq : (s.vecPart e p).queue = j :: rest) (hph : j.phase = .queued)
    (hretry : j.scaleRetry = true) (hblock : blockLen (vecWordOf j.word).aFmt ≠ 0) (ha : (vecWordOf j.word).aSrc = 0)
    (hreads : readsA (vecWordOf j.word).op = true) (hc : s.vecCheck e p (s.readScalars e j) rest.head? = none) :
    s.vecScaleMismatch e p =
      ((s.countMismatch e p (vecWordOf j.word).slot).modVecPart e p fun q => { q with link := none }).finishVec e p
        (s.readScalars e j) .scaleMismatch 0 := by
  have hword : (s.readScalars e j).word = j.word := rfl
  have hphase : (s.readScalars e j).phase = j.phase := rfl
  have hscale : (s.readScalars e j).scaleRetry = j.scaleRetry := rfl
  simp [State.vecScaleMismatch, hq, hword, hphase, hscale, hph, hretry, hblock, ha, hreads, hc, State.countMismatch]

/-! ### Saving a context (R183) -/

/-- What a save of a part keeps of it, its work at a position. -/
def VecPart.context (q : VecPart) (position : Nat) : SavedContext :=
  { jobs := headGroup q.queue, descriptor := q.descriptor, vl := q.vl, flags := q.flags, position := position }

/-- The state with a context's bytes in the House and the context at its line. -/
def State.storeContext (s : State) (line : Nat) (bytes : List Byte) (c : SavedContext) : State :=
  { s.writeMem false (64 * line) bytes with contexts := aset (s.writeMem false (64 * line) bytes).contexts line c }

section
variable {s : State} {e p : Nat} (line : Nat) (bytes : List Byte) (c : SavedContext) (f : VecPart → VecPart)

theorem State.storeContext_mem :
    ((s.storeContext line bytes c).modVecPart e p f).house.mem = s.house.mem.writeBytes (64 * line) bytes := rfl

theorem State.aget_storeContext : aget ((s.storeContext line bytes c).modVecPart e p f).contexts line = some c :=
  (aget_aset ..).trans (if_pos rfl)

theorem State.vecPart_storeContext (he : e < s.vecs.length) (hp : p < (s.vec e).parts.length) :
    ((s.storeContext line bytes c).modVecPart e p f).vecPart e p = f (s.vecPart e p) :=
  State.vecPart_modVecPart (s := s.storeContext line bytes c) he hp f

end

theorem State.contextSave_held {s : State} {e p k line : Nat} {j : VecJob} {rest : List VecJob}
    (hq : (s.vecPart e p).queue = j :: rest) (hph : j.phase = .issued) (ho : j.owner = .chain k)
    (hh : s.holds (s.ownerGroup j.owner) line 8 = true) (position : Nat) :
    s.contextSave e p line position =
      (s.storeContext line (s.contextBytes e p position (headGroup (s.vecPart e p).queue) (s.vecPart e p))
        ((s.vecPart e p).context position)).modVecPart e p fun q =>
        { q with queue := q.queue.drop (headGroup (s.vecPart e p).queue).length, rehearsal := false } := by
  rw [ho] at hh
  simp only [State.contextSave, hq, hph, ho, hh, ne_eq, not_true_eq_false, decide_false, Bool.not_true, Bool.or_false,
    Bool.false_eq_true, if_false, VecPart.context, State.storeContext]

/-! ### Restoring a context (R184) -/

/-- The part that goes on with a context's jobs, on so many lanes. -/
def VecPart.takeContext (q : VecPart) (c : SavedContext) (vl : Nat) : VecPart :=
  { q with
    queue := (c.jobs.map fun x => { x with vl := vl, position := c.position }) ++ q.queue
    descriptor := c.descriptor, vl := vl, flags := c.flags }

/-- A part without work shows the context's words, position, lanes and flags. -/
theorem VecPart.takeContext_shows {q : VecPart} (hq : q.queue = []) (c : SavedContext) (vl : Nat) :
    (q.takeContext c vl).queue.map (fun x => x.word) = c.jobs.map (fun x => x.word) ∧
    (∀ x ∈ (q.takeContext c vl).queue, x.position = c.position ∧ x.vl = vl) ∧ (q.takeContext c vl).flags = c.flags := by
  simp [VecPart.takeContext, hq]

/-- A context whose CHECK is right goes on at its POSITION, and nothing is repeated. -/
theorem State.contextRestore_checked {s : State} {e p line : Nat} {c : SavedContext} {j : VecJob} {rest : List VecJob}
    (hc : aget s.contexts line = some c) (hj : c.jobs = j :: rest) (hq : (s.vecPart e p).queue = [])
    (hp : p < partCount (s.vec e).split) (hn : c.jobs.length ≤ 32)
    (hok : fieldAt (s.readMem false (64 * line) 512) 508 4 = crc32c ((s.readMem false (64 * line) 512).take 508) % 2 ^ 32) :
    s.contextRestore e p line =
      (({ s with contexts := adel s.contexts line }).modVecPart e p fun q =>
        q.takeContext c (min c.vl (partWidth (s.vec e).split))).loadDeck e p j.owner := by
  obtain ⟨jobs, descriptor, vl, flags, position⟩ := c
  obtain rfl : jobs = j :: rest := hj
  have hroom : roomFor 0 (j :: rest).length = true := by simpa [roomFor] using hn
  simp only [State.contextRestore, hc, hq, List.length_nil, hroom, hok, Nat.not_le.2 hp, decide_true, decide_false,
    Bool.not_true, Bool.or_false, Bool.false_eq_true, if_false, if_true, VecPart.takeContext]

section
variable {s : State} {e p : Nat} (line : Nat) (o : Owner) (f : VecPart → VecPart)

theorem State.aget_contexts_restored :
    aget ((({ s with contexts := adel s.contexts line }).modVecPart e p f).loadDeck e p o).contexts line = none :=
  (aget_adel ..).trans (if_pos rfl)

theorem State.vecPart_restored (he : e < s.vecs.length) (hp : p < (s.vec e).parts.length) :
    ((({ s with contexts := adel s.contexts line }).modVecPart e p f).loadDeck e p o).vecPart e p = f (s.vecPart e p) :=
  State.vecPart_modVecPart (s := { s with contexts := adel s.contexts line }) he hp f

end

end Sys2Proof.Machine

section

open Sys2Proof Sys2Proof.Machine

/-- Settles O33: in a device that computes, each event comes to what its own lemma says of the part. -/
theorem vectorInstructionsAndContexts : Obligations.VectorInstructionsAndContexts := by
  refine ⟨fun s dt e p mode j rest st => ?_, fun s dt e p line position k j rest c => ?_⟩
  · intro u q w again hlive he hp
    refine ⟨fun hq hph hsplit hd => ⟨fun hc => ?_, fun hc hi ht => ?_⟩, fun hq hph ha hv hclean => ?_,
      fun hidle hm hfix => ?_, fun hq hph hr hs => ?_, fun hq hph hr hrate => ?_, fun hq hph hretry hblock ha hreads hc => ?_⟩
    · exact next_computing hlive (State.vecIssue_failed hq hph hsplit hd hc)
    · obtain ⟨n, hn⟩ := State.vecIssue_ready hq hph hsplit hd hc hi ht
      refine ⟨_, next_computing hlive hn, State.modVecHead_queue he hp ?_ hq _, rfl⟩
      exact fun _ => rfl
    · obtain ⟨v, hv, hmem⟩ := State.vecComplete_plain hq hph ha hv hclean
      exact ⟨v, _, _, rfl, next_computing hlive hv, rfl, hmem⟩
    · exact next_computing hlive (State.vecSplitChange_idle hidle hm hfix)
    · have hagain := State.vecParity_persists hq hph 0 hr
      exact ⟨_, next_computing hlive hagain, State.enterFaulted_host (s := u.countParity e p 0) hs ..⟩
    · exact ⟨_, next_computing hlive rfl, State.vecParity_part hq hph 0 he hp hr hrate⟩
    · have hsecond := State.vecScaleMismatch_second hq hph hretry hblock ha hreads hc
      exact ⟨_, (exec_scaleTagMismatch_vector hlive e p).trans (congrArg Host.Outcome.next hsecond),
        State.countMismatch_frame he p w.slot _⟩
  · intro u q hlive he hp
    refine ⟨fun hq hph ho hh => ?_, fun hc hj hq hp' hn hok => ?_⟩
    · have hsave := State.contextSave_held hq hph ho hh position
      refine ⟨_, next_computing hlive hsave, State.storeContext_mem .., ?_, State.aget_storeContext ..⟩
      rw [State.vecPart_storeContext _ _ _ _ he hp]
    · have hrestore := State.contextRestore_checked hc hj hq hp' hn hok
      refine ⟨_, next_computing hlive hrestore, State.aget_contexts_restored .., ?_⟩
      rw [State.vecPart_restored _ _ _ he hp]
      exact VecPart.takeContext_shows hq ..

end
end

section
/-! PROOFS. The commands on decode and encode streams and on camera ports that pass their checks (R259, R264, R268, Table 11.3): each
one's own part ends at once, so it completes with what that part answers. -/

open Sys2Proof Sys2Proof.Machine

/-- Settles O9: a command that passes its checks comes to what its own part answers in the state that has taken it. -/
theorem codecAndPortCommandsTakeEffect : Obligations.CodecAndPortCommandsTakeEffect := by
  intro s dt p u
  refine ⟨fun h => ?_, fun h => ?_, fun h => ?_, fun h => ?_, fun h => ?_⟩
  · exact ⟨_, congrArg Host.Outcome.next (accept_done h rfl), rfl, rfl, rfl, rfl, rfl, rfl, rfl, fun hgiven => if_pos hgiven,
      rfl, rfl, rfl⟩
  · exact congrArg Host.Outcome.next (accept_done h rfl)
  · exact congrArg Host.Outcome.next (accept_done h rfl)
  · exact congrArg Host.Outcome.next (accept_done h rfl)
  · exact congrArg Host.Outcome.next (accept_done h rfl)

end

section
/-! PROOFS. What the codec's operations keep: taking and freeing buffers, writing bytes and drawing free values leave everything else of
the state that the codec pipelines read, and one change of a cluster shows in that cluster. -/

namespace Sys2Proof.Machine

open Sys2Proof

/-! ### Clusters -/

theorem State.codec_modCodec {s : State} {c : Nat} (hc : c < s.codecs.length) (f : CodecBlk → CodecBlk) :
    (s.modCodec c f).codecs.getD c {} = f (s.codecs.getD c {}) := getD_modAt hc f {}

theorem State.codecs_length_modCodec (s : State) (c : Nat) (f : CodecBlk → CodecBlk) :
    (s.modCodec c f).codecs.length = s.codecs.length := List.length_modify ..

/-- A change of a cluster, after operations that leave the clusters as they are, shows in it. -/
theorem State.codec_modCodec_of {s t : State} {c : Nat} (hc : c < s.codecs.length) (h : t.codecs = s.codecs)
    (f : CodecBlk → CodecBlk) : (t.modCodec c f).codecs.getD c {} = f (s.codecs.getD c {}) := by
  rw [← h] at hc ⊢
  exact State.codec_modCodec hc f

/-! ### Buffers, bytes and draws -/

/-- The parts of the state that the codec pipelines read, buffers, bytes and draws apart. -/
structure CodecView where
  codecs : List CodecBlk
  streams : List (Nat × Stream)
  samples : List (Nat × Sample)
  sampleOrder : Nat
  outputs : List Output
  sec : Sec

/-- What buffers, bytes and draws leave of the state. -/
def State.codecView (s : State) : CodecView := ⟨s.codecs, s.streams, s.samples, s.sampleOrder, s.outputs, s.sec⟩

section
variable {s t : State} (h : t.codecView = s.codecView)
include h

theorem State.codecs_of_view : t.codecs = s.codecs := congrArg CodecView.codecs h

theorem State.streams_of_view : t.streams = s.streams := congrArg CodecView.streams h

theorem State.samples_of_view : t.samples = s.samples := congrArg CodecView.samples h

theorem State.sampleOrder_of_view : t.sampleOrder = s.sampleOrder := congrArg CodecView.sampleOrder h

theorem State.outputs_of_view : t.outputs = s.outputs := congrArg CodecView.outputs h

theorem State.sec_of_view : t.sec = s.sec := congrArg CodecView.sec h

end

section
variable (s : State)

@[simp] theorem State.draw_codecView : s.draw.2.codecView = s.codecView := rfl

@[simp] theorem State.writeMem_codecView (d : Bool) (a : Nat) (bs : List Byte) : (s.writeMem d a bs).codecView = s.codecView := by
  cases d <;> rfl

@[simp] theorem State.modBuf_codecView (p k : Nat) (f : Buf → Buf) : (s.modBuf p k f).codecView = s.codecView := rfl

@[simp] theorem State.addReader_codecView (w reader : Nat) : (s.addReader w reader).codecView = s.codecView := by
  unfold State.addReader
  split <;> rfl

@[simp] theorem State.freeBuf_codecView (p k : Nat) : (s.freeBuf p k).codecView = s.codecView := by
  unfold State.freeBuf
  repeat' split
  all_goals rfl

@[simp] theorem State.freeName_codecView (w : Nat) : (s.freeName w).codecView = s.codecView := by
  unfold State.freeName
  split
  · exact State.freeBuf_codecView ..
  · rfl

/-- The buffers of frame buffers go back to the Wardrobe. -/
theorem State.freeBuffers_codecView (l : List FrameBuf) :
    (l.foldl (fun (t : State) f => f.buffers.foldl (fun (u : State) w => u.freeName w) t) s).codecView = s.codecView :=
  foldl_keeps State.codecView (fun _ _ => foldl_keeps State.codecView State.freeName_codecView _ _) _ _

@[simp] theorem State.freeFrames_codecs (n : Nat) : (s.freeFrames n).codecs = s.codecs := by
  unfold State.freeFrames
  split
  · rfl
  · exact (State.modStream_codecs ..).trans (State.codecs_of_view (State.freeBuffers_codecView ..))

@[simp] theorem State.dropStrip_codecs (name : Nat) : (s.dropStrip name).codecs = s.codecs := by
  refine foldl_keeps State.codecs (fun t e => ?_) _ _
  split
  · exact State.freeFrames_codecs ..
  · rfl

end

section
variable {s t : State} {g : Nat} {pool : Option Nat}

theorem State.alloc_got_codecView {dram sealed fb : Bool} {size a : Nat} (h : s.alloc g dram size pool sealed = .got a fb t) :
    t.codecView = s.codecView := by
  unfold State.alloc at h
  dsimp only at h
  repeat' split at h
  all_goals cases h
  all_goals rfl

theorem State.allocFrame_codecView {sizes names : List Nat} (h : s.allocFrame g pool sizes = some (names, t)) :
    t.codecView = s.codecView := by
  induction sizes generalizing s names t with
  | nil => cases h; rfl
  | cons n l ih =>
    unfold State.allocFrame at h
    split at h
    · exact nomatch h
    · next ha =>
      obtain ⟨r, hr, he⟩ := Option.map_eq_some_iff.1 h
      cases he
      exact (ih hr).trans (State.alloc_got_codecView ha)

theorem State.keepFrames_codecView {cfg : DecodeCfg} {sizes : List Nat} {room : Nat} {l : List KeptFrame}
    {r : List FrameBuf × Option Nat × Nat × State} (h : s.keepFrames g cfg sizes room l = some r) :
    r.2.2.2.codecView = s.codecView := by
  induction l generalizing s room r with
  | nil => cases h; rfl
  | cons f l ih =>
    unfold State.keepFrames at h
    split at h
    · exact ih h
    · split at h
      · obtain ⟨r, hr, he⟩ := Option.map_eq_some_iff.1 h
        cases he
        exact ih (r := r) hr
      · split at h
        · exact nomatch h
        · next ha =>
          obtain ⟨r, hr, he⟩ := Option.map_eq_some_iff.1 h
          cases he
          exact (ih (r := r) hr).trans (State.allocFrame_codecView ha)

theorem State.checkpointsFor_codecs {n : Nat} {st : Stream} (h : s.checkpointsFor n st = some t) : t.codecs = s.codecs := by
  unfold State.checkpointsFor at h
  split at h
  · cases h; rfl
  · obtain ⟨r, hr, rfl⟩ := Option.map_eq_some_iff.1 h
    exact (State.modStream_codecs r.2 n _).trans (State.codecs_of_view (State.allocFrame_codecView hr))

end

end Sys2Proof.Machine
end

section
/-! PROOFS. The decode pipeline (R243 to R255, Table 11.4): what DECODE_START, STRIP_COMPLETE and STRIP_REBUILD come to where their
conditions hold. -/

namespace Sys2Proof.Machine

open Sys2Proof

/-! ### DECODE_START (R243, R244) -/

/-- A sample of a decode stream in its slot, with its access unit, and a cluster that may take it and has no picture. -/
structure State.DecodeReady (s : State) (c : Nat) (m : Sample) (st : Stream) : Prop where
  slot : s.slotOpen m = true
  buffer : m.buffer.isSome = true
  sound : m.corrupt = none
  cluster : st.decode.cluster = none ∨ st.decode.cluster = some c
  idle : (s.codecs.getD c {}).decoding = none
  free : (s.codecs.getD c {}).rebuildUntil ≤ s.time.elapsed

section
variable {s : State} {c k : Nat} {m : Sample} {st : Stream} {f : AuFacts}

/-- The access unit is checked, then rejected or opened. -/
theorem State.decodeStart_checks (hm : aget s.samples k = some m) (hst : aget s.streams m.stream = some st)
    (hkind : st.kind = .decode) (hready : s.DecodeReady c m st) :
    (∀ check, auVerdict st m f = .rejected check → s.decodeStart c k f =
      (((s.modSample k fun y => { y with buffer := none }).modCodec c fun y => { y with
        rejected := y.rejected.inc, unsupported := if check = 3 then y.unsupported.inc else y.unsupported }).codecError
          c m.stream check).markCorrupt k 0x71 check) ∧
    (∀ v, auVerdict st m f = .accepted → s.openAu c k m.stream m st f = some v → s.decodeStart c k f = v) := by
  obtain ⟨hslot, hbuffer, hsound, hcluster, hidle, hfree⟩ := hready
  have hgate : (s.codecs.getD c {}).decoding.isSome = false ∧ decide (s.time.elapsed < (s.codecs.getD c {}).rebuildUntil) = false := by
    rw [hidle]
    exact ⟨rfl, decide_eq_false (Nat.not_lt.2 hfree)⟩
  have hfile : m.buffer.isNone = false := Option.isNone_eq_false_iff.2 hbuffer
  refine ⟨fun check hv => ?_, fun v hv ho => ?_⟩
  · rcases hcluster with hcluster | hcluster
    all_goals simp only [State.decodeStart, hm, hst, hslot, hkind, hfile, hsound, hcluster, hgate, hv]; rfl
  · rcases hcluster with hcluster | hcluster
    all_goals simp only [State.decodeStart, hm, hst, hslot, hkind, hfile, hsound, hcluster, hgate, hv, ho]; rfl

/-- An accepted access unit that shows at most one frame leaves the cluster with a job at its first strip. -/
theorem State.openAu_decoding {n : Nat} {v : State} (hc : c < s.codecs.length) (ho : s.openAu c k n m st f = some v)
    (hshown : f.shown ≤ 1) : ∃ job, (v.codecs.getD c {}).decoding = some job ∧ job.sample = k ∧ job.facts = f ∧ job.next = 0 ∧
      job.strips = ceilDiv f.height (stripRows st.decode.codec) := by
  unfold State.openAu at ho
  extract_lets sizes refs marked held at ho
  obtain ⟨t, ht, ho⟩ := Option.bind_eq_some_iff.1 ho
  obtain ⟨r, hr, rfl⟩ := Option.map_eq_some_iff.1 ho
  have hone : f.shown - 1 = 0 := by omega
  have hcodecs : r.2.2.2.codecs = s.codecs :=
    (State.codecs_of_view (State.keepFrames_codecView hr)).trans (State.checkpointsFor_codecs ht)
  rw [hone, State.codec_modCodec_of hc]
  · exact ⟨_, rfl, rfl, rfl, rfl, rfl⟩
  · simp [State.addShown, hcodecs]

end

/-! ### STRIP_COMPLETE (R245 to R255) -/

/-- The rows of a job's next strip. -/
def DecodeJob.rows (j : DecodeJob) (st : Stream) : Nat :=
  min (stripRows st.decode.codec) (j.facts.height - j.next * stripRows st.decode.codec)

/-- The bytes of a job's next strip. -/
def DecodeJob.stripBytes (j : DecodeJob) (st : Stream) : Nat :=
  lineBytes (j.facts.width * depthBytes j.facts.depth) * (j.rows st + (j.rows st + 1) / 2)

/-- A job's next strip is predicted from a DAMAGED frame buffer (R255). -/
def DecodeJob.fromDamaged (j : DecodeJob) (st : Stream) : Bool :=
  st.frames.any fun f => f.damaged && (match f.buffers.head? with
    | some x => j.refs.contains x
    | none => false)

/-- A job whose next strip has been decoded. -/
def DecodeJob.after (j : DecodeJob) (st : Stream) (concealed : Nat) (cause : ConcealCause) : DecodeJob :=
  { j with
    next := j.next + 1, concealed := j.concealed + concealed, propagated := j.propagated || j.fromDamaged st
    cause := if concealed ≠ 0 && j.cause.isNone then some (concealCode cause) else j.cause }

/-- A job's next strip in its buffers, its rows ready, and the frames it is predicted from waiting for it (R22, R245, R248, R249). -/
def State.storeStrip (s : State) (st : Stream) (n : Nat) (j : DecodeJob) (name : Nat) : State :=
  let b := depthBytes j.facts.depth
  let frame := (st.frames.find? fun f => j.frame.isSome && f.buffers.head? = j.frame).map (·.buffers)
  let s := (s.putStrip name j.facts.width j.facts.height b (stripRows st.decode.codec) j.next frame).putCheckpoint st
    j.facts.width b j.next
  (s.signalStrip j.sample name (j.rows st)).modStream n fun x => { x with
    frames := x.frames.map fun (f : FrameBuf) => match f.buffers.head? with
      | some y => if j.refs.contains y then { f with strips := name :: f.strips } else f
      | none => f }

/-- A strip and its concealed blocks, counted for the cluster (R254). -/
def State.countStrip (s : State) (c n concealed : Nat) (cause : ConcealCause) : State :=
  let s := s.modCodec c fun x => { x with
    strips := x.strips.inc, concealed := x.concealed.add 32 concealed, rebuilding := none }
  if concealed = 0 then s else s.codecError c n (concealCode cause)

section
variable {s : State} {c n concealed : Nat} {cause : ConcealCause} {j : DecodeJob} {m : Sample} {st : Stream} {name : Nat}

theorem State.putRows_codecView (base width : Nat) (l : List (List Byte)) :
    (s.putRows base width l).codecView = s.codecView := by
  induction l generalizing s base with
  | nil => rfl
  | cons r l ih => exact (ih _).trans (State.writeMem_codecView ..)

theorem State.putStrip_codecView (w h b h0 i : Nat) (frame : Option (List Nat)) :
    (s.putStrip name w h b h0 i frame).codecView = s.codecView := by
  unfold State.putStrip
  cases frame <;> simp [State.putRows_codecView]

theorem State.putCheckpoint_codecView (w b i : Nat) : (s.putCheckpoint st w b i).codecView = s.codecView := by
  unfold State.putCheckpoint
  split <;> simp

theorem State.signalStrip_codecs (k rows : Nat) : (s.signalStrip k name rows).codecs = s.codecs := by
  unfold State.signalStrip
  split <;> rfl

theorem State.signalStrip_samples (k rows : Nat) : (s.signalStrip k name rows).samples = amod s.samples k fun m => { m with
    strips := m.strips ++ [name], buffers := m.buffers ++ [name], rowsReady := m.rowsReady + rows } := by
  unfold State.signalStrip
  split <;> rfl

theorem State.storeStrip_codecs : (s.storeStrip st n j name).codecs = s.codecs := by
  simp only [State.storeStrip, State.modStream_codecs, State.signalStrip_codecs]
  exact State.codecs_of_view ((State.putCheckpoint_codecView ..).trans (State.putStrip_codecView ..))

/-- The strip joins the sample's strips and its rows are ready. -/
theorem State.storeStrip_sample (hm : aget s.samples j.sample = some m) :
    ∃ y, aget (s.storeStrip st n j name).samples j.sample = some y ∧ y.strips = m.strips ++ [name] ∧
      y.rowsReady = m.rowsReady + j.rows st := by
  have hstored : ∀ t : State, t.codecView = s.codecView → aget t.samples j.sample = some m :=
    fun t h => (State.samples_of_view h).symm ▸ hm
  simp only [State.storeStrip, State.modStream_samples, State.signalStrip_samples, aget_amod, if_true,
    hstored _ ((State.putCheckpoint_codecView ..).trans (State.putStrip_codecView ..)), Option.map_some]
  exact ⟨_, rfl, rfl, rfl⟩

theorem State.countStrip_samples : (s.countStrip c n concealed cause).samples = s.samples := by
  unfold State.countStrip
  split <;> rfl

theorem State.countStrip_codec (hc : c < s.codecs.length) :
    ((s.countStrip c n concealed cause).codecs.getD c {}).strips = (s.codecs.getD c {}).strips.inc ∧
    ((s.countStrip c n concealed cause).codecs.getD c {}).concealed = (s.codecs.getD c {}).concealed.add 32 concealed ∧
    ((s.countStrip c n concealed cause).codecs.getD c {}).picturesDecoded = (s.codecs.getD c {}).picturesDecoded := by
  unfold State.countStrip
  split
  · rw [State.codec_modCodec hc]
    exact ⟨rfl, rfl, rfl⟩
  · rw [State.codecError, State.codec_modCodec ((s.codecs_length_modCodec ..).symm ▸ hc), State.codec_modCodec hc]
    exact ⟨rfl, rfl, rfl⟩

theorem State.countStrip_codecs_length : (s.countStrip c n concealed cause).codecs.length = s.codecs.length := by
  unfold State.countStrip
  split
  · exact State.codecs_length_modCodec ..
  · exact (State.codecs_length_modCodec ..).trans (State.codecs_length_modCodec ..)

/-- A frame without concealed or propagated blocks is done as it is (R255). -/
theorem State.frameDone_clean (hconcealed : j.concealed = 0) (hprop : j.propagated = false) : s.frameDone c st n j = s := by
  simp [State.frameDone, hconcealed, hprop]

theorem DecodeJob.fromDamaged_no_refs (h : j.refs = []) : j.fromDamaged st = false := by
  simp only [DecodeJob.fromDamaged, h, List.contains_nil, List.any_eq_false, Bool.and_eq_true, not_and]
  intro f _ _
  split <;> exact Bool.false_ne_true

theorem State.stripDone_gate (hfree : (s.codecs.getD c {}).rebuildUntil ≤ s.time.elapsed)
    (hbuf : s.stripBuffer st.group name (j.stripBytes st) = true) :
    ¬ (decide (s.time.elapsed < (s.codecs.getD c {}).rebuildUntil) || !s.stripBuffer st.group name (j.stripBytes st)) = true := by
  rw [hbuf, decide_eq_false (Nat.not_lt.2 hfree)]
  exact Bool.false_ne_true

section
variable (hj : (s.codecs.getD c {}).decoding = some j) (hm : aget s.samples j.sample = some m)
  (hst : aget s.streams m.stream = some st) (hfree : (s.codecs.getD c {}).rebuildUntil ≤ s.time.elapsed)
  (hbuf : s.stripBuffer st.group name (j.stripBytes st) = true)
include hj hm hst hfree hbuf

/-- A strip that is not the last one of its picture. -/
theorem State.stripDone_more (hmore : j.next + 1 < j.strips) : s.stripDone c concealed cause name =
    ((s.storeStrip st m.stream j name).countStrip c m.stream concealed cause).modCodec c fun x => { x with
      decoding := some (j.after st concealed cause) } := by
  simp only [State.stripDone, hj, hm, hst]
  exact (if_neg (State.stripDone_gate hfree hbuf)).trans (if_pos hmore)

/-- The last strip of a picture of one frame. -/
theorem State.stripDone_last (hlast : j.strips ≤ j.next + 1) (hlater : j.later = []) : s.stripDone c concealed cause name =
    ((((s.storeStrip st m.stream j name).countStrip c m.stream concealed cause).frameDone c st m.stream
      (j.after st concealed cause)).modCodec c fun x => { x with
        decoding := none, lastSample := j.sample, picturesDecoded := x.picturesDecoded.add 32 j.facts.frames }).dropStrip
          (decodeMark j.sample) := by
  simp only [State.stripDone, hj, hm, hst, hlater]
  exact (if_neg (State.stripDone_gate hfree hbuf)).trans (if_neg (Nat.not_lt.2 hlast))

end

end

/-! ### STRIP_REBUILD (R252, R398) -/

section
variable {s : State} {c k strip : Nat} {m : Sample} {st : Stream} (hs : s.rebuildSample c strip = some (k, m))
  (hst : aget s.streams m.stream = some st) (hkind : st.kind = .decode)
include hs hst hkind

/-- The cluster decodes no other strip again, and fails seldom: the strip is charged to its sample. -/
theorem State.stripRebuild_repeats {cost : Nat}
    (hcost : cost = ceilDiv (m.width * min (stripRows st.decode.codec) (m.height - strip * stripRows st.decode.codec)) 16)
    (hidle : (s.codecs.getD c {}).rebuilding = none ∨ (s.codecs.getD c {}).rebuildUntil ≤ s.time.elapsed)
    (hrate : (recordRepeat s.ms (s.codecs.getD c {}).decodeRepeats).2 = false) :
    s.stripRebuild c strip = (s.modCodec c fun y => { y with
      rebuilds := y.rebuilds.inc, rebuilding := some strip, rebuildUntil := s.time.elapsed + cost
      decodeRepeats := (recordRepeat s.ms (s.codecs.getD c {}).decodeRepeats).1 }).repeatUnit (.chain k) 0x05 cost clsCodec (2 * c) := by
  subst hcost
  have hbusy : ¬ (decide (s.time.elapsed < (s.codecs.getD c {}).rebuildUntil) && (s.codecs.getD c {}).rebuilding.isSome) = true := by
    rcases hidle with hidle | hidle
    · rw [hidle, Option.isSome_none, Bool.and_false]
      exact Bool.false_ne_true
    · rw [decide_eq_false (Nat.not_lt.2 hidle), Bool.false_and]
      exact Bool.false_ne_true
  simp only [State.stripRebuild, hs, hst]
  exact (if_neg (not_not.2 hkind)).trans ((if_neg hbusy).trans (if_neg (by rw [hrate]; exact Bool.false_ne_true)))

/-- A strip that fails while it is decoded again is a persistent fault. -/
theorem State.stripRebuild_again (hsame : (s.codecs.getD c {}).rebuilding = some strip)
    (hbusy : s.time.elapsed < (s.codecs.getD c {}).rebuildUntil) : s.stripRebuild c strip = s.enterFaulted clsCodec (2 * c) := by
  simp only [State.stripRebuild, hs, hst, hsame]
  exact (if_neg (not_not.2 hkind)).trans ((if_pos (by rw [decide_eq_true hbusy]; rfl)).trans (if_pos trivial))

end

end Sys2Proof.Machine

section

open Sys2Proof Sys2Proof.Machine

/-- Settles O39: each event comes to what its own lemma says of the pipeline, and storing a strip leaves the clusters as they are. -/
theorem decodingProceeds : Obligations.DecodingProceeds := by
  rintro s dt c k n check strip m st f v j cause concealed w u x ready h0 rows size cost hc hm rfl hst hkind
  have hready : ready → u.DecodeReady c m st := fun ⟨hslot, hbuffer, hsound, hcluster, hidle, hfree⟩ =>
    ⟨hslot, hbuffer, hsound, hcluster, hidle, hfree⟩
  refine ⟨fun hr hv => ?_, fun hr hv ho => ⟨?_, State.openAu_decoding hc ho⟩, fun hlive hj hk hfree hbuf => ?_, fun hlive hs => ?_⟩
  · exact congrArg Host.Outcome.next ((State.decodeStart_checks hm hst hkind (hready hr)).1 check hv)
  · exact congrArg Host.Outcome.next ((State.decodeStart_checks hm hst hkind (hready hr)).2 v hv ho)
  · subst hk
    have hstored : c < (u.storeStrip st m.stream j w.toNat).codecs.length := State.storeStrip_codecs.symm ▸ hc
    obtain ⟨hstrips, hconcealed, hpictures⟩ := State.countStrip_codec (n := m.stream) (concealed := concealed) (cause := cause) hstored
    rw [State.storeStrip_codecs] at hstrips hconcealed hpictures
    refine ⟨fun hmore => ⟨_, next_computing hlive (State.stripDone_more hj hm hst hfree hbuf hmore), ?_⟩,
      fun hlast hj0 h0 hprop hrefs hlater => ⟨_, next_computing hlive (State.stripDone_last hj hm hst hfree hbuf hlast hlater), ?_⟩⟩
    · rw [State.codec_modCodec (State.countStrip_codecs_length.symm ▸ hstored)]
      refine ⟨hstrips, hconcealed, ⟨_, rfl, rfl, rfl⟩, ?_⟩
      rw [State.modCodec_samples, State.countStrip_samples]
      exact State.storeStrip_sample hm
    · have hclean : (j.after st concealed cause).propagated = false := by
        rw [DecodeJob.after, hprop, DecodeJob.fromDamaged_no_refs hrefs, Bool.or_self]
      have hnone : (j.after st concealed cause).concealed = 0 := by
        rw [DecodeJob.after, hj0, h0]
      rw [State.frameDone_clean hnone hclean, State.dropStrip_codecs,
        State.codec_modCodec (State.countStrip_codecs_length.symm ▸ hstored)]
      exact ⟨rfl, rfl, congrArg (Counter.add 32 j.facts.frames) hpictures⟩
  · exact ⟨fun hidle hrate => next_computing hlive (State.stripRebuild_repeats hs hst hkind rfl hidle hrate),
      fun hsame hbusy => next_computing hlive (State.stripRebuild_again hs hst hkind hsame hbusy)⟩

end
end

section
/-! PROOFS. The encode pipeline (R257 to R262): what ENCODE_PICTURE_START, ENCODE_ROW_COMPLETE, ENCODE_PICTURE_END and REENCODE come to
where their conditions hold. -/

namespace Sys2Proof.Machine

open Sys2Proof

/-! ### Rate control (R259) -/

section
variable {s : State}

theorem State.log6_codecView (a b : Int) : (s.log6 a b).2.codecView = s.codecView := by
  unfold State.log6
  split <;> rfl

theorem State.rowQp_codecView (e : EncodeCfg) (j : EncodeJob) : (s.rowQp e j).2.codecView = s.codecView :=
  State.log6_codecView ..

/-- A picture begins before its first row, of the samples and the crop it is given. -/
theorem State.pictureJob_begins (st : Stream) (n k source : Nat) (crop : List Nat) (intra recovery : Bool) :
    let r := s.pictureJob st n k source crop intra recovery
    r.2.codecView = s.codecView ∧ r.1.stream = n ∧ r.1.source = source ∧ r.1.sample = k ∧ r.1.crop = crop ∧ r.1.row = 0 ∧
      r.1.bits = 0 := by
  unfold State.pictureJob
  dsimp only
  split
  · exact ⟨rfl, rfl, rfl, rfl, rfl, rfl, rfl⟩
  · split
    · exact ⟨rfl, rfl, rfl, rfl, rfl, rfl, rfl⟩
    · split
      · exact ⟨rfl, rfl, rfl, rfl, rfl, rfl, rfl⟩
      · exact ⟨State.log6_codecView .., rfl, rfl, rfl, rfl, rfl, rfl⟩

end

/-! ### ENCODE_PICTURE_START (R257, R258) -/

/-- A new sample of encode stream n for a picture of sample k: it holds the reconstruction's buffers and reads the source's output. -/
def State.addPicture (s : State) (n k output : Nat) (m : Sample) (names : List Nat) : State :=
  let id := s.sampleOrder
  let t := s.addSample n m.capture 0 none names
  let t := t.modSample id fun x => { x with assigned := m.assigned, planned := true }
  let t := t.countStream n fun x => { x with planned := x.planned + 1 }
  let t := t.modSample k fun x => { x with encoded := n :: x.encoded }
  let read := (m.outputs.filter fun o => o.1 = output).map fun o => o.2.1
  read.foldl (fun (u : State) w => u.addReader w (ownerId (.chain id))) t

section
variable {s : State} {c n k : Nat} {m : Sample} {st src : Stream} {crop : List Nat}

theorem State.addSample_codecs (capture length : Nat) (buffer : Option Nat) (buffers : List Nat) :
    (s.addSample n capture length buffer buffers).codecs = s.codecs := by
  unfold State.addSample
  split <;> rfl

theorem State.addPicture_codecs (output : Nat) (names : List Nat) : (s.addPicture n k output m names).codecs = s.codecs :=
  (foldl_keeps State.codecs (fun _ _ => State.codecs_of_view (State.addReader_codecView ..)) _ _).trans (State.addSample_codecs ..)

/-- A source sample in its slot, of a RUNNING encode stream, and a cluster without a picture. -/
structure State.EncodeReady (s : State) (c n : Nat) (m : Sample) (st : Stream) : Prop where
  slot : s.slotOpen m = true
  kind : st.kind = .encode
  running : st.state = .running
  notClosing : st.closing = false
  source : st.encode.source = m.stream
  allowed : s.sec.encoded = true
  idle : (s.codecs.getD c {}).encoding = none
  once : m.encoded.contains n = false

section
variable {names : List Nat} {v : State} (hst : aget s.streams n = some st) (hm : aget s.samples k = some m)
  (hsrc : aget s.streams m.stream = some src) (hready : s.EncodeReady c n m st)
  (hcrop : sourceCrop src m st.encode.output = some crop)
  (halloc : s.allocFrame st.group none (frameBuffers st.encode.width st.encode.height 1) = some (names, v))
include hst hm hsrc hready hcrop halloc

/-- The picture's sample is added, and the cluster has its job. -/
theorem State.encodeStart_begins : s.encodeStart c n k =
      let t := v.modStream n Stream.takeRate
      let st' := agetD t.streams n st
      let r := (t.addPicture n k st'.encode.output m names).pictureJob st' n t.sampleOrder k crop st'.nextIntra false
      (r.2.modStream n fun x => { x with enc := { x.enc with forceIntra := false } }).modCodec c fun x => { x with
        encoding := some r.1 } := by
  obtain ⟨hslot, hkind, hrun, hopen, hsource, hallowed, hidle, honce⟩ := hready
  have hnone : (s.codecs.getD c {}).encoding.isSome = false := by rw [hidle, Option.isSome_none]
  have hgate : ¬ (!s.slotOpen m || decide (st.kind ≠ .encode) || decide (st.state ≠ .running) || st.closing ||
      decide (st.encode.source ≠ m.stream) || !s.sec.encoded || (s.codecs.getD c {}).encoding.isSome ||
      m.encoded.contains n) = true := by
    simp [hslot, hkind, hrun, hopen, hsource, hallowed, hnone, honce, -List.getD_eq_getElem?_getD, -List.contains_eq_mem]
  simp only [State.encodeStart, hst, hm, hsrc, hcrop, halloc]
  exact if_neg hgate

/-- The job of a picture that begins. -/
theorem State.encodeStart_job (hc : c < s.codecs.length) :
    ∃ job, ((s.encodeStart c n k).codecs.getD c {}).encoding = some job ∧ job.stream = n ∧ job.source = k ∧
      job.sample = s.sampleOrder ∧ job.crop = crop ∧ job.row = 0 ∧ job.bits = 0 := by
  have hv := State.allocFrame_codecView halloc
  rw [State.encodeStart_begins hst hm hsrc hready hcrop halloc]
  extract_lets t st' r
  obtain ⟨hview, hstream, hsource, hsample, hjcrop, hrow, hbits⟩ :=
    State.pictureJob_begins (s := t.addPicture n k st'.encode.output m names) st' n t.sampleOrder k crop st'.nextIntra false
  have hcodecs : r.2.codecs = s.codecs := by
    rw [State.codecs_of_view hview, State.addPicture_codecs, State.modStream_codecs, State.codecs_of_view hv]
  rw [State.codec_modCodec_of (t := r.2.modStream n _) hc hcodecs]
  exact ⟨_, rfl, hstream, hsource, hsample.trans (State.sampleOrder_of_view hv :), hjcrop, hrow, hbits⟩

end

end

/-! ### ENCODE_ROW_COMPLETE (R259, R261) -/

/-- A row adds its bits and bytes to the job; rate control may draw, and changes nothing else but the job. -/
theorem State.encodeRow_counts {s : State} {c bits bytes : Nat} (bound : Nat) {j : EncodeJob} {st : Stream}
    (hj : (s.codecs.getD c {}).encoding = some j) (hst : aget s.streams j.stream = some st) (hrow : j.row < j.rows)
    (hgo : j.stopped = false) : ∃ (t : State) (job : EncodeJob),
      s.encodeRow c bits bytes bound = t.modCodec c (fun x => { x with encoding := some job }) ∧
      t.codecView = s.codecView ∧ job.row = j.row + 1 ∧ job.bits = j.bits + bits ∧ job.bytes = j.bytes + bytes ∧
      job.rowBits = j.rowBits ++ [bits] := by
  have hgate : ¬ (decide (j.row ≥ j.rows) || j.stopped) = true := by
    rw [hgo, decide_eq_false (Nat.not_le.2 hrow)]
    exact Bool.false_ne_true
  simp only [State.encodeRow, hj, hst]
  rw [if_neg hgate]
  refine ⟨_, _, rfl, ?_, rfl, rfl, rfl, rfl⟩
  split
  · rfl
  · exact State.rowQp_codecView ..

/-! ### ENCODE_PICTURE_END (R258 to R261) -/

section
variable {s : State} {n : Nat}

/-- The bytes that a reconstruction takes and the buffers that older ones free change nothing else that the pipelines read. -/
theorem State.keepRecon_keeps (k references : Nat) : (s.keepRecon n k references).codecs = s.codecs ∧
    (s.keepRecon n k references).outputs = s.outputs ∧ (s.keepRecon n k references).sec = s.sec ∧
    ∀ st, aget s.streams n = some st → ∃ y, aget (s.keepRecon n k references).streams n = some y := by
  unfold State.keepRecon
  split
  · exact ⟨rfl, rfl, rfl, fun st hst => ⟨st, hst⟩⟩
  · extract_lets s1 d s2 all old s3
    have hwritten : s2.codecView = d.2.codecView := foldl_keeps State.codecView (fun _ _ => State.writeMem_codecView ..) _ _
    have hkept : s3.codecView = s1.codecView := (State.freeBuffers_codecView ..).trans hwritten
    refine ⟨(State.codecs_of_view hkept :), (State.outputs_of_view hkept :), (State.sec_of_view hkept :), fun st hst => ?_⟩
    have hst' : aget s3.streams n = some st := (congrArg (aget · n) (State.streams_of_view hkept)).trans hst
    exact ⟨_, State.modStream_stream hst' _⟩

end

/-- A finished picture's bytes at an offset of the host ring, and its reconstruction kept (R258, R260). -/
def State.writePicture (s : State) (e : EncodeCfg) (j : EncodeJob) (offset : Nat) : State :=
  ({ s.draw.2 with
      outputs := .hostBytes (e.hostBase + offset) (pixelBytes s.freeCount j.bytes 1) :: s.outputs }).wakeLink.keepRecon
    j.stream j.sample e.references

/-- The end of a finished picture: its bytes and its reconstruction, the rate control's state, the counts and the record. -/
def State.endFinished (s : State) (c : Nat) (j : EncodeJob) (st : Stream) (offset : Nat) : State :=
  let e := st.encode
  let excess := e.rcMode ≠ 0 && (1000 * e.vbv : Int) < st.enc.v + j.bits - j.base
  let enc := st.enc.finish e j offset
  let t := ((s.writePicture e j offset).modStream j.stream fun x => { x with enc := enc }).modCodec c fun x => { x with
    picturesEncoded := x.picturesEncoded.inc, rcOverrun := if excess then x.rcOverrun.inc else x.rcOverrun }
  t.modSample j.sample fun m =>
    m.queueRecords [(0x05, encodedBody j j.bytes offset excess false enc.v e.source st.enc.picture)] true

/-- The end of a picture that was too large: nothing is stored, and the next one is an I picture. -/
def State.endTooLarge (s : State) (c : Nat) (j : EncodeJob) (st : Stream) : State :=
  let enc := { st.enc.next j.intra with v := 1000 * st.encode.vbv, retryIntra := true }
  let t := (s.modStream j.stream fun x => { x with enc := enc }).modCodec c fun x => { x with rcOverrun := x.rcOverrun.inc }
  t.modSample j.sample fun m => (m.reach ⟨.degraded, 0x65⟩).queueRecords
    [(0x05, encodedBody j 0 st.enc.hostOffset false true enc.v st.encode.source st.enc.picture)] true

section
variable {s : State} {c offset : Nat} {j : EncodeJob} {st : Stream}

/-- A picture of which every row is coded, or that was too large, ends; while encoded output is allowed the stream goes on
(R261, R426). -/
theorem State.encodeEnd_due {t : State} (hj : (s.codecs.getD c {}).encoding = some j) (hst : aget s.streams j.stream = some st)
    (hdue : (decide (j.row < j.rows) && !j.stopped) = false) (hallowed : t.sec.encoded = true)
    (ht : (if j.stopped then (s.modCodec c fun x => { x with encoding := none }).endTooLarge c j st
      else (s.modCodec c fun x => { x with encoding := none }).endFinished c j st
        (if st.enc.hostOffset + j.bytes ≤ st.encode.hostSize then st.enc.hostOffset else 0)) = t) :
    s.encodeEnd c = t := by
  have hgo : ¬ (!t.sec.encoded && decide (st.state = .running)) = true := by simp [hallowed]
  subst ht
  simp only [State.encodeEnd, hj, hst]
  exact (if_neg (Bool.eq_false_iff.1 hdue)).trans (if_neg hgo)

theorem State.writePicture_keeps : (s.writePicture st.encode j offset).codecs = s.codecs ∧
    (s.writePicture st.encode j offset).outputs =
      .hostBytes (st.encode.hostBase + offset) (pixelBytes s.freeCount j.bytes 1) :: s.outputs ∧
    (s.writePicture st.encode j offset).sec = s.sec ∧
    ∀ st', aget s.streams j.stream = some st' → ∃ y, aget (s.writePicture st.encode j offset).streams j.stream = some y :=
  State.keepRecon_keeps ..

theorem State.endFinished_shows (hc : c < s.codecs.length) (hst : aget s.streams j.stream = some st) :
    let t := s.endFinished c j st offset
    (t.codecs.getD c {}).encoding = (s.codecs.getD c {}).encoding ∧
    (t.codecs.getD c {}).picturesEncoded = (s.codecs.getD c {}).picturesEncoded.inc ∧
    t.outputs = .hostBytes (st.encode.hostBase + offset) (pixelBytes s.freeCount j.bytes 1) :: s.outputs ∧
    t.sec = s.sec ∧ ∃ y, aget t.streams j.stream = some y ∧ y.enc = st.enc.finish st.encode j offset := by
  obtain ⟨hcodecs, houtputs, hsec, hstream⟩ := State.writePicture_keeps (s := s) (st := st) (j := j) (offset := offset)
  obtain ⟨y, hy⟩ := hstream st hst
  simp only [State.endFinished, State.modSample_codecs, State.modSample_outputs, State.modCodec_outputs, State.modStream_outputs,
    State.modSample_sec, State.modCodec_sec, State.modStream_sec, State.modSample_streams, State.modCodec_streams]
  rw [State.codec_modCodec_of (t := (s.writePicture st.encode j offset).modStream j.stream _) hc hcodecs]
  exact ⟨rfl, rfl, houtputs, hsec, _, State.modStream_stream hy _, rfl⟩

theorem State.endTooLarge_shows (hc : c < s.codecs.length) (hst : aget s.streams j.stream = some st) :
    let t := s.endTooLarge c j st
    (t.codecs.getD c {}).encoding = (s.codecs.getD c {}).encoding ∧
    (t.codecs.getD c {}).rcOverrun = (s.codecs.getD c {}).rcOverrun.inc ∧ t.outputs = s.outputs ∧ t.sec = s.sec ∧
    ∃ y, aget t.streams j.stream = some y ∧ y.enc.v = 1000 * st.encode.vbv ∧ y.enc.retryIntra = true := by
  simp only [State.endTooLarge, State.modSample_codecs, State.modSample_streams, State.modCodec_streams]
  rw [State.codec_modCodec_of (t := s.modStream j.stream _) hc rfl]
  exact ⟨rfl, rfl, rfl, rfl, _, State.modStream_stream hst _, rfl, rfl⟩

end

/-! ### REENCODE (R262, R398) -/

section
variable {s : State} {c : Nat} {j : EncodeJob} {st : Stream} (hj : (s.codecs.getD c {}).encoding = some j)
  (hst : aget s.streams j.stream = some st)
include hj hst

theorem State.reencode_repeats (hfirst : j.repeated = false)
    (hrate : (recordRepeat s.ms (s.codecs.getD c {}).encodeRepeats).2 = false) : s.reencode c false =
      (s.modCodec c fun y => { y with
        encoding := some { j with
          qpRow := j.qp, bits := 0, bytes := 0, row := 0, rowBits := [], qpFirst := j.qp, skipRest := false, stopped := false
          repeated := true }
        reencodes := y.reencodes.inc, encodeRepeats := (recordRepeat s.ms (s.codecs.getD c {}).encodeRepeats).1 }).repeatUnit
          (.chain j.sample) 0x09 (ceilDiv (st.encode.width * st.encode.height) 4) clsCodec (2 * c + 1) := by
  simp only [State.reencode, hj, hst]
  exact if_neg (by simp [hfirst, hrate, -List.getD_eq_getElem?_getD])

theorem State.reencode_persists (hagain : j.repeated = true) : s.reencode c false = s.enterFaulted clsCodec (2 * c + 1) := by
  simp only [State.reencode, hj, hst]
  exact if_pos (by simp [hagain])

end

end Sys2Proof.Machine

section

open Sys2Proof Sys2Proof.Machine

/-- Settles O40: each event comes to what its own lemma says of the cluster's job and of the stream's rate control. -/
theorem encodingProceeds : Obligations.EncodingProceeds := by
  intro s dt c n k bits bytes bound m st src crop names v j u x e offset cost hc hst
  refine ⟨fun hm hsrc hslot hkind hrun hopen hsource hallowed hidle honce hcrop halloc => ?_, fun hlive hj hn => ?_⟩
  · exact ⟨_, rfl, State.encodeStart_job hst hm hsrc ⟨hslot, hkind, hrun, hopen, hsource, hallowed, hidle, honce⟩ hcrop halloc hc⟩
  · subst hn
    let w := u.modCodec c fun x => { x with encoding := none }
    have hw : c < w.codecs.length := (u.codecs_length_modCodec ..).symm ▸ hc
    have hcodec : w.codecs.getD c {} = { x with encoding := none } := State.codec_modCodec hc _
    refine ⟨fun hrow hgo => ?_, fun hrow hgo hallowed => ?_, fun hstop hallowed => ?_, fun hfirst hrate => ?_, fun hagain => ?_⟩
    · obtain ⟨t, job, ht, hview, hjob⟩ := State.encodeRow_counts bound hj hst hrow hgo
      refine ⟨_, next_computing hlive ht, ⟨job, ?_, hjob⟩, (State.streams_of_view hview :), (State.samples_of_view hview :),
        (State.outputs_of_view hview :)⟩
      rw [State.codec_modCodec_of hc (State.codecs_of_view hview)]
    · obtain ⟨hencoding, hpictures, houtputs, hsec, hstream⟩ := State.endFinished_shows (s := w) (offset := offset) hw hst
      rw [hcodec] at hencoding hpictures
      refine ⟨_, next_computing hlive (State.encodeEnd_due hj hst ?_ ((congrArg Sec.encoded hsec).trans hallowed) ?_), hencoding,
        hpictures, houtputs, hstream⟩
      · rw [decide_eq_false (Nat.not_lt.2 hrow), Bool.false_and]
      · exact if_neg (by rw [hgo]; exact Bool.false_ne_true)
    · obtain ⟨hencoding, hoverrun, houtputs, hsec, hstream⟩ := State.endTooLarge_shows hw hst
      rw [hcodec] at hencoding hoverrun
      refine ⟨_, next_computing hlive (State.encodeEnd_due hj hst ?_ ((congrArg Sec.encoded hsec).trans hallowed) ?_), hencoding,
        hoverrun, houtputs, hstream⟩
      · rw [hstop, Bool.not_true, Bool.and_false]
      · exact if_pos hstop
    · exact next_computing hlive (State.reencode_repeats hj hst hfirst hrate)
    · exact next_computing hlive (State.reencode_persists hj hst hagain)

end
end

section
/-! PROOFS. The JPEG units (R274, R278 to R280, Table 12.6): what JPEG_IMAGE_START and JPEG_STRIP_COMPLETE come to where their
conditions hold. -/

namespace Sys2Proof.Machine

open Sys2Proof

/-! ### Units and samples -/

theorem State.jpegUnit_modJpeg {s : State} {i : Nat} (hi : i < s.jpegs.length) (f : JpegUnit → JpegUnit) :
    (s.modJpeg i f).jpegUnit i = f (s.jpegUnit i) := getD_modAt hi f {}

/-- A change of a unit, after operations that leave the units as they are, shows in it. -/
theorem State.jpegUnit_modJpeg_of {s t : State} {i : Nat} (hi : i < s.jpegs.length) (h : t.jpegs = s.jpegs)
    (f : JpegUnit → JpegUnit) : (t.modJpeg i f).jpegUnit i = f (s.jpegUnit i) := by
  rw [State.jpegUnit_modJpeg (h.symm ▸ hi), State.jpegUnit, State.jpegUnit, h]

/-- A sample that the look-up finds is the one a change makes of it. -/
theorem State.modSample_sample {s : State} {k : Nat} {m : Sample} (h : aget s.samples k = some m) (f : Sample → Sample) :
    aget (s.modSample k f).samples k = some (f m) := by
  rw [State.modSample_samples, aget_amod, if_pos rfl, h, Option.map_some]

/-! ### JPEG_IMAGE_START (R279) -/

/-- A good sample of a JPEG stream in its slot, with its file, and a unit without an image. -/
structure State.JpegReady (s : State) (i : Nat) (m : Sample) (st : Stream) : Prop where
  slot : s.slotOpen m = true
  kind : st.kind = .jpeg
  buffer : m.buffer.isSome = true
  sound : m.corrupt = none
  idle : (s.jpegUnit i).work = none

/-- A sample whose size and colours an image's headers give (R278). -/
def Sample.sized (m : Sample) (f : JpegFacts) : Sample :=
  { m with width := f.width, height := f.height, depth := 8, matrix := 0, range := 1, jpeg := some f }

section
variable {s : State} {i k : Nat} {m : Sample} {st : Stream} {f : JpegFacts} (hm : aget s.samples k = some m)
  (hst : aget s.streams m.stream = some st) (hready : s.JpegReady i m st) (hfile : f.fileLost = false)
include hm hst hready hfile

theorem State.jpegStart_rejected {check : Nat} (hcheck : jpegCheck st m f = some check) : s.jpegStart i k f =
    ((s.modSample k fun y => { y with buffer := none }).modJpeg i fun y => { y with rejected := y.rejected.inc }).markCorrupt
      k 0x7B check := by
  obtain ⟨hslot, hkind, hbuffer, hsound, hidle⟩ := hready
  simp [State.jpegStart, hm, hst, hslot, hkind, Option.isNone_eq_false_iff.2 hbuffer, hsound, hidle, hfile, hcheck]

theorem State.jpegStart_accepted (hcheck : jpegCheck st m f = none) : s.jpegStart i k f =
    ((s.modSample k fun y => { y with buffer := none }).modSample k fun y => y.sized f).modJpeg i fun y => { y with
      work := some { sample := k, facts := f }, retried := false } := by
  obtain ⟨hslot, hkind, hbuffer, hsound, hidle⟩ := hready
  simp [State.jpegStart, hm, hst, hslot, hkind, Option.isNone_eq_false_iff.2 hbuffer, hsound, hidle, hfile, hcheck, Sample.sized]

end

/-! ### JPEG_STRIP_COMPLETE (R280) -/

/-- The rows of an image's next strip. -/
def JpegJob.rows (j : JpegJob) : Nat := min (jpegMcuRows j.facts) (j.facts.height - j.next * jpegMcuRows j.facts)

/-- The bytes of a strip of an image. -/
def JpegJob.stripBytes (j : JpegJob) : Nat := (jpegStripBytes j.facts).1 + 2 * (jpegStripBytes j.facts).2

/-- An image's next strip in its buffer, its rows ready. -/
def State.storeJpegStrip (s : State) (j : JpegJob) (name : Nat) : State :=
  (s.draw.2.writeMem false (bufAddr name) (pixelBytes s.draw.1 j.stripBytes 1)).signalStrip j.sample name j.rows

/-- A unit whose image has one strip more: it goes on to the next one, or has ended its image. -/
def JpegUnit.afterStrip (x : JpegUnit) (j : JpegJob) : JpegUnit :=
  if (j.next + 1) * jpegMcuRows j.facts < j.facts.height then { x with work := some { j with next := j.next + 1 }, retried := false }
  else { x with work := none, retried := false, images := x.images.inc }

theorem JpegUnit.afterStrip_shows (x : JpegUnit) (j : JpegJob) :
    (x.afterStrip j).work =
      (if (j.next + 1) * jpegMcuRows j.facts < j.facts.height then some { j with next := j.next + 1 } else none) ∧
    (x.afterStrip j).images = (if (j.next + 1) * jpegMcuRows j.facts < j.facts.height then x.images else x.images.inc) := by
  unfold JpegUnit.afterStrip
  split <;> exact ⟨rfl, rfl⟩

section
variable {s : State} {i : Nat} {j : JpegJob} {m : Sample} {name : Nat}

theorem State.storeJpegStrip_jpegs : (s.storeJpegStrip j name).jpegs = s.jpegs := by
  unfold State.storeJpegStrip State.signalStrip
  split <;> rfl

/-- The strip joins the sample's strips and its rows are ready. -/
theorem State.storeJpegStrip_sample (hm : aget s.samples j.sample = some m) :
    ∃ y, aget (s.storeJpegStrip j name).samples j.sample = some y ∧ y.strips = m.strips ++ [name] ∧
      y.rowsReady = m.rowsReady + j.rows := by
  have hwritten : aget (s.draw.2.writeMem false (bufAddr name) (pixelBytes s.draw.1 j.stripBytes 1)).samples j.sample = some m := hm
  simp only [State.storeJpegStrip, State.signalStrip_samples, aget_amod, if_true, hwritten, Option.map_some]
  exact ⟨_, rfl, rfl, rfl⟩

variable {st : Stream} (hj : (s.jpegUnit i).work = some j) (hm : aget s.samples j.sample = some m)
  (hst : aget s.streams m.stream = some st)
include hj hm hst

theorem State.jpegStrip_entropyError : s.jpegStrip i true name =
    (s.modJpeg i fun x => { x with work := none, entropyErrors := x.entropyErrors.inc }).markCorrupt j.sample 0x7C 0 := by
  simp only [State.jpegStrip, hj, hm, hst, if_true]

theorem State.jpegStrip_stores (hbuf : s.stripBuffer st.group name j.stripBytes = true) :
    s.jpegStrip i false name = (s.storeJpegStrip j name).modJpeg i fun x => x.afterStrip j := by
  have hgate : ¬ (!s.stripBuffer st.group name j.stripBytes) = true := by simp [hbuf]
  simp only [State.jpegStrip, hj, hm, hst]
  refine (if_neg Bool.false_ne_true).trans ((if_neg hgate).trans ?_)
  unfold JpegUnit.afterStrip
  split <;> rfl

end

end Sys2Proof.Machine

section

open Sys2Proof Sys2Proof.Machine

/-- Settles O41: each event comes to what its own lemma says of the unit and of its sample. -/
theorem jpegImagesAreDecoded : Obligations.JpegImagesAreDecoded := by
  intro s dt i k check m st f j w u x mcu size rows hi hm hst
  refine ⟨fun hslot hkind hbuffer hsound hidle hfile => ?_, fun hlive hj hk => ?_⟩
  · have hready : u.JpegReady i m st := ⟨hslot, hkind, hbuffer, hsound, hidle⟩
    refine ⟨fun hcheck => congrArg Host.Outcome.next (State.jpegStart_rejected hm hst hready hfile hcheck), fun hcheck =>
      ⟨_, congrArg Host.Outcome.next (State.jpegStart_accepted hm hst hready hfile hcheck), ?_, ?_, rfl, rfl⟩⟩
    · exact congrArg JpegUnit.work (State.jpegUnit_modJpeg (s := (u.modSample k _).modSample k _) hi _)
    · exact ⟨_, State.modSample_sample (State.modSample_sample hm _) _, rfl, rfl, rfl, rfl⟩
  · subst hk
    refine ⟨next_computing hlive (State.jpegStrip_entropyError hj hm hst), fun hbuf =>
      ⟨_, next_computing hlive (State.jpegStrip_stores hj hm hst hbuf), ?_⟩⟩
    rw [State.jpegUnit_modJpeg_of hi State.storeJpegStrip_jpegs]
    obtain ⟨hwork, himages⟩ := JpegUnit.afterStrip_shows x j
    exact ⟨hwork, himages, State.storeJpegStrip_sample hm⟩

end
end

section
/-! PROOFS. What taking and releasing buffers leaves of the state, for the scalers and the audio front end: all but the Wardrobe and
the streams. -/

namespace Sys2Proof.Machine

open Sys2Proof

/-- The state but for the Wardrobe and the streams. -/
def State.besideBuffers (s : State) : State := { s with wardrobe := {}, streams := [] }

section
variable (s : State)

theorem State.addReader_besideBuffers (w reader : Nat) : (s.addReader w reader).besideBuffers = s.besideBuffers := by
  unfold State.addReader
  split <;> rfl

theorem State.freeBuf_besideBuffers (p k : Nat) : (s.freeBuf p k).besideBuffers = s.besideBuffers := by
  unfold State.freeBuf
  repeat' split
  all_goals rfl

theorem State.freeName_besideBuffers (w : Nat) : (s.freeName w).besideBuffers = s.besideBuffers := by
  unfold State.freeName
  split
  · exact State.freeBuf_besideBuffers ..
  · rfl

theorem State.freeFrames_besideBuffers (n : Nat) : (s.freeFrames n).besideBuffers = s.besideBuffers := by
  unfold State.freeFrames
  split
  · rfl
  · exact foldl_keeps State.besideBuffers (fun _ _ => foldl_keeps State.besideBuffers State.freeName_besideBuffers _ _) _ _

theorem State.dropStrip_besideBuffers (name : Nat) : (s.dropStrip name).besideBuffers = s.besideBuffers := by
  refine foldl_keeps State.besideBuffers (fun t e => ?_) _ _
  split
  · exact State.freeFrames_besideBuffers ..
  · rfl

theorem State.releaseName_besideBuffers (w : Nat) : (s.releaseName w).besideBuffers = s.besideBuffers := by
  unfold State.releaseName State.release
  split
  · split
    · exact (State.dropStrip_besideBuffers ..).trans (State.freeBuf_besideBuffers ..)
    · rfl
  · rfl

theorem State.freeFormer_besideBuffers (n : Nat) : (s.freeFormer n).besideBuffers = s.besideBuffers := by
  unfold State.freeFormer
  split
  · rfl
  · exact foldl_keeps State.besideBuffers State.releaseName_besideBuffers _ _

end

/-- An allocation changes the Wardrobe only. -/
theorem State.alloc_got_only {s t : State} {g size a : Nat} {dram sealed fb : Bool} {pool : Option Nat}
    (h : s.alloc g dram size pool sealed = .got a fb t) : ∃ w, t = { s with wardrobe := w } := by
  unfold State.alloc at h
  dsimp only at h
  repeat' split at h
  all_goals cases h
  all_goals exact ⟨_, rfl⟩

end Sys2Proof.Machine
end

section
/-! PROOFS. The scalers (R282 to R286, R398): what SCALER_PASS_START, SCALER_BAND_COMPLETE and SCALER_BAND_REPEAT come to where their
conditions hold. -/

namespace Sys2Proof.Machine

open Sys2Proof

/-! ### Scalers -/

theorem State.scaler_congr {s t : State} {c : Nat} (h : t.scalers = s.scalers) : t.scaler c = s.scaler c := by
  rw [State.scaler, h, State.scaler]

theorem State.scaler_modScaler {s : State} {c : Nat} (hc : c < s.scalers.length) (f : Scaler → Scaler) :
    (s.modScaler c f).scaler c = f (s.scaler c) := getD_modAt hc f {}

/-- A change of a scaler, after operations that leave the scalers as they are, shows in it. -/
theorem State.scaler_modScaler_of {s t : State} {c : Nat} (hc : c < s.scalers.length) (h : t.scalers = s.scalers)
    (f : Scaler → Scaler) : (t.modScaler c f).scaler c = f (s.scaler c) := by
  rw [State.scaler_modScaler (h.symm ▸ hc), State.scaler_congr h]

/-! ### SCALER_PASS_START (R282, R285) -/

/-- A good sample in its slot whose size is known, without output i yet, and the output's scaler without a pass. -/
structure State.PassReady (s : State) (c k i : Nat) (m : Sample) (o : OutputCfg) : Prop where
  slot : s.slotOpen m = true
  sound : m.corrupt = none
  sized : m.width ≠ 0
  scaler : o.scaler = some c
  idle : (s.scaler c).work = none
  missing : ∀ y ∈ m.outputs, y.1 ≠ i
  alone : ∀ y ∈ s.scalers, ∀ z, y.work = some z → ¬ (z.sample = k ∧ z.output = i)

/-- The scaler has a pass of the output, into a buffer just taken. -/
theorem State.passStart_begins {s v : State} {c k i line a : Nat} {fb : Bool} {m : Sample} {st : Stream} {o : OutputCfg}
    (hm : aget s.samples k = some m) (hst : aget s.streams m.stream = some st) (ho : st.outputs[i]? = some o)
    (hready : s.PassReady c k i m o) (hcrop : o.crop ≠ 2) (halloc : s.alloc st.group false o.bytes none true = .got a fb v) :
    ∃ (t : State) (p : ScalePass),
      s.passStart c k i line = t.modScaler c (fun x => { x with work := some p, cropAdjusted := x.cropAdjusted.add 32 0 }) ∧
      t.scalers = v.scalers ∧ t.wardrobe = v.wardrobe ∧ t.house = v.house ∧
      p.sample = k ∧ p.output = i ∧ p.crop = o.cropFor m.width m.height ∧ p.buffer = bufName false a ∧ p.rowsDone = 0 := by
  obtain ⟨hslot, hsound, hsized, hscaler, hidle, hmissing, halone⟩ := hready
  have houtputs : (m.outputs.any fun x => x.1 = i) = false := by simpa using hmissing
  have hscalers : (s.scalers.any fun x => x.work.any fun w => w.sample = k && w.output = i) = false := by
    refine List.any_eq_false.2 fun y hy => ?_
    cases hz : y.work with
    | none => simp
    | some z => simpa using halone y hy z hz
  simp only [State.passStart, hm, hst, ho]
  rw [if_neg (by simp [hslot, hsound, hsized, hscaler, hidle, houtputs, hscalers])]
  simp only [State.passCrop, hcrop, ne_eq, not_false_eq_true, if_true, halloc]
  exact ⟨_, _, rfl, rfl, rfl, rfl, rfl, rfl, rfl, rfl, rfl⟩

/-! ### SCALER_BAND_COMPLETE (R282 to R286) -/

/-- The outputs of a sample that becomes its stream's substitute set stay its outputs; of the rest, buffers and streams change. -/
theorem State.goodOutputs_keeps {s : State} (k : Nat) : (s.goodOutputs k).scalers = s.scalers ∧ (s.goodOutputs k).house = s.house ∧
    ∀ m, aget s.samples k = some m → ∃ y, aget (s.goodOutputs k).samples k = some y ∧ y.outputs = m.outputs := by
  unfold State.goodOutputs
  split
  · exact ⟨rfl, rfl, fun m hm => ⟨m, hm, rfl⟩⟩
  · split
    · exact ⟨rfl, rfl, fun m hm => ⟨m, hm, rfl⟩⟩
    · split
      · exact ⟨rfl, rfl, fun m hm => ⟨m, hm, rfl⟩⟩
      · extract_lets set t read dropped
        have hread : read.besideBuffers = t.besideBuffers :=
          foldl_keeps State.besideBuffers (fun t w => t.addReader_besideBuffers w _) _ _
        have hdropped : dropped.besideBuffers = read.besideBuffers := by
          refine foldl_keeps State.besideBuffers (fun t w => ?_) _ _
          split <;> rfl
        have hshows {u : State} (h : u.besideBuffers = t.besideBuffers) : u.scalers = s.scalers ∧ u.house = s.house ∧
            ∀ m, aget s.samples k = some m → ∃ y, aget u.samples k = some y ∧ y.outputs = m.outputs := by
          refine ⟨(congrArg State.scalers h :), (congrArg State.house h :), fun m hm => ?_⟩
          rw [show u.samples = t.samples from (congrArg State.samples h :)]
          exact ⟨_, State.modSample_sample hm _, rfl⟩
        exact hshows ((State.freeFormer_besideBuffers ..).trans (hdropped.trans hread))

/-- Rows up to row b of a pass's output, written and signalled. -/
def State.writeBand (s : State) (st : Stream) (m : Sample) (o : OutputCfg) (w : ScalePass) (b : Nat) : State :=
  let px := resample (s.sourcePixel st m) o.filter o.outW o.outH m.width m.height w.crop
  let t := (outputRows o px w.rowsDone b).foldl (fun (t : State) r => t.writeMem false (bufAddr w.buffer + r.1) r.2) s
  { t with scoreboard := amod t.scoreboard w.tile fun x => { x with
      watermark := if b = o.outH then x.rows else x.rows * b / o.outH, signalledAt := t.time.elapsed } }

/-- A pass that has written its last row: the scaler has ended it, and the sample has its output. -/
def State.endPass (s : State) (c : Nat) (w : ScalePass) : State :=
  ((s.modScaler c fun x => { x with
    work := none, passes := x.passes.inc, recomputed := if w.recomputed then x.recomputed.inc else x.recomputed }).modSample
      w.sample fun x => { x with outputs := x.outputs ++ [(w.output, w.buffer, w.crop)] }).goodOutputs w.sample

section
variable {s : State} {c rows b : Nat} {w : ScalePass} {m : Sample} {st : Stream} {o : OutputCfg}

theorem State.writeBand_keeps : (s.writeBand st m o w b).scalers = s.scalers ∧ (s.writeBand st m o w b).samples = s.samples :=
  ⟨foldl_keeps State.scalers (fun _ _ => by rfl) _ s, foldl_keeps State.samples (fun _ _ => by rfl) _ s⟩

theorem State.endPass_shows (hc : c < s.scalers.length) (hm : aget s.samples w.sample = some m) :
    ((s.endPass c w).scaler c).work = none ∧ ((s.endPass c w).scaler c).passes = (s.scaler c).passes.inc ∧
    ∃ y, aget (s.endPass c w).samples w.sample = some y ∧ y.outputs = m.outputs ++ [(w.output, w.buffer, w.crop)] := by
  let t := s.modScaler c fun x => { x with
    work := none, passes := x.passes.inc, recomputed := if w.recomputed then x.recomputed.inc else x.recomputed }
  obtain ⟨hscalers, -, hsamples⟩ := State.goodOutputs_keeps (s := t.modSample w.sample fun x => { x with
    outputs := x.outputs ++ [(w.output, w.buffer, w.crop)] }) w.sample
  have hscaler : (s.endPass c w).scaler c = t.scaler c := State.scaler_congr hscalers
  rw [hscaler, State.scaler_modScaler hc]
  exact ⟨rfl, rfl, hsamples _ (State.modSample_sample (s := t) hm _)⟩

/-- Rows whose source pixels are there are written; after the last one the pass ends. -/
theorem State.bandDone_writes (hw : (s.scaler c).work = some w) (hm : aget s.samples w.sample = some m)
    (hst : aget s.streams m.stream = some st) (ho : st.outputs[w.output]? = some o) (hrows : 0 < rows) (hb : w.rowsDone + rows ≤ o.outH)
    (hpresent : sourceReach st m (lastRow o.filter o.outH m.height w.crop (w.rowsDone + rows - 1)) < m.rowsReady)
    (heven : o.kind = 1 → (w.rowsDone + rows) % 2 = 0) :
    s.bandDone c rows =
      if w.rowsDone + rows < o.outH then (s.writeBand st m o w (w.rowsDone + rows)).modScaler c fun x => { x with
        work := some { w with rowsDone := w.rowsDone + rows, retried := false } }
      else (s.writeBand st m o w (w.rowsDone + rows)).endPass c w := by
  have hout : st.outputs.getD w.output {} = o := by rw [List.getD_eq_getElem?_getD, ho, Option.getD_some]
  simp only [State.bandDone, hw, hm, hst, hout]
  exact if_neg (by simpa [hrows.ne', Nat.not_lt.2 hb, Nat.not_le.2 hpresent] using heven)

end

/-! ### SCALER_BAND_REPEAT (R286, R398) -/

/-- A scaler's parity failure, counted. -/
def State.countBandParity (s : State) (c : Nat) (parity : Bool) : State :=
  if parity then s.modScaler c fun x => { x with parityErrors := x.parityErrors.inc } else s

section
variable {s : State} {c : Nat} {parity : Bool} {w : ScalePass} {m : Sample} {st : Stream} {o : OutputCfg}

theorem State.countBandParity_keeps (hc : c < s.scalers.length) : (s.countBandParity c parity).ms = s.ms ∧
    (s.countBandParity c parity).host = s.host ∧ ((s.countBandParity c parity).scaler c).repeats = (s.scaler c).repeats := by
  cases parity with
  | false => exact ⟨rfl, rfl, rfl⟩
  | true =>
    rw [State.countBandParity, if_pos rfl, State.scaler_modScaler hc]
    exact ⟨rfl, rfl, rfl⟩

/-- A count and a later change of the scaler are one change. -/
theorem State.countBandParity_modScaler (f : Scaler → Scaler) : (s.countBandParity c parity).modScaler c f =
    s.modScaler c fun x => f { x with parityErrors := if parity then x.parityErrors.inc else x.parityErrors } := by
  cases parity with
  | false => rfl
  | true =>
    simp only [State.countBandParity, if_true, State.modScaler, modAt, List.modify_modify_eq]
    rfl

variable (hw : (s.scaler c).work = some w) (hm : aget s.samples w.sample = some m) (hst : aget s.streams m.stream = some st)
include hw hm hst

theorem State.bandRepeat_persists (hagain : w.retried = true) :
    s.bandRepeat c parity = (s.countBandParity c parity).enterFaulted clsScaler c := by
  simp only [State.bandRepeat, hw, hm, hst]
  exact if_pos (by rw [hagain, Bool.true_or])

theorem State.bandRepeat_repeats (hc : c < s.scalers.length) (ho : st.outputs[w.output]? = some o) (hfirst : w.retried = false)
    (hrate : (recordRepeat s.ms (s.scaler c).repeats).2 = false) :
    s.bandRepeat c parity = (s.modScaler c fun y => { y with
      work := some { w with retried := true, recomputed := true }
      parityErrors := if parity then y.parityErrors.inc else y.parityErrors
      repeats := (recordRepeat s.ms (s.scaler c).repeats).1 }).repeatUnit (.chain w.sample) 0x07
        (bandCharge o (if st.kind = .decode then stripRows st.decode.codec else 16) w.crop) clsScaler c := by
  have hout : st.outputs.getD w.output {} = o := by rw [List.getD_eq_getElem?_getD, ho, Option.getD_some]
  obtain ⟨hms, -, hrepeats⟩ := State.countBandParity_keeps (parity := parity) hc
  simp only [State.bandRepeat, hw, hm, hst, hout]
  rw [← State.countBandParity, hms, hrepeats, hfirst, hrate, if_neg (by simp), State.countBandParity_modScaler]

end

end Sys2Proof.Machine

section

open Sys2Proof Sys2Proof.Machine

/-- Settles O42: each event comes to what its own lemma says of the scaler and of its sample. -/
theorem scalersMakeOutputs : Obligations.ScalersMakeOutputs := by
  intro s dt c k i line rows a fb parity m st o v w u x b strip last hc hm hst ho
  refine ⟨fun hslot hsound hsized hscaler hidle hmissing halone hcrop halloc => ?_, fun hlive hw hk hi => ?_⟩
  · obtain ⟨t, p, hstart, hscalers, hwardrobe, hhouse, hpass⟩ := State.passStart_begins (line := line) hm hst ho
      ⟨hslot, hsound, hsized, hscaler, hidle, hmissing, halone⟩ hcrop halloc
    obtain ⟨w, rfl⟩ := State.alloc_got_only halloc
    exact ⟨_, congrArg Host.Outcome.next hstart, ⟨p, congrArg Scaler.work (State.scaler_modScaler_of hc hscalers _), hpass⟩,
      hwardrobe, hhouse⟩
  · subst hk hi
    obtain ⟨hscalers, hsamples⟩ := State.writeBand_keeps (s := u) (st := st) (m := m) (o := o) (w := w) (b := b)
    refine ⟨fun hrows hb hpresent heven => ?_, fun hrows hb hpresent heven => ?_, fun hfirst hrate => ?_,
      fun hagain hfault => ⟨_, next_computing hlive (State.bandRepeat_persists hw hm hst hagain), ?_⟩⟩
    · refine ⟨_, next_computing hlive ((State.bandDone_writes hw hm hst ho hrows hb.le hpresent heven).trans (if_pos hb)), ?_, rfl⟩
      exact congrArg Scaler.work (State.scaler_modScaler_of hc hscalers _)
    · refine ⟨_, next_computing hlive ((State.bandDone_writes hw hm hst ho hrows hb.le hpresent heven).trans
        (if_neg hb.not_lt)), ?_⟩
      have h := State.endPass_shows (hscalers.symm ▸ hc) (hsamples.symm ▸ hm)
      rwa [State.scaler_congr hscalers] at h
    · exact next_computing hlive (State.bandRepeat_repeats hw hm hst hc ho hfirst hrate)
    · obtain ⟨-, hhost, -⟩ := State.countBandParity_keeps (parity := parity) hc
      exact State.enterFaulted_host (hhost.symm ▸ hfault) ..

end
end

section
/-! PROOFS. The audio front end (R287 to R291, R398): what AUDIO_BLOCK_PASS comes to for a good block and for a block that has had its
pass. -/

namespace Sys2Proof.Machine

open Sys2Proof

/-! ### The history ring (R288) -/

/-- What changes DRAM only at each step of a fold changes DRAM only. -/
theorem foldl_dram_only {α : Type} {f : State → α → State} (h : ∀ t a, ∃ d, f t a = { t with dram := d }) (l : List α) (s : State) :
    ∃ d, l.foldl f s = { s with dram := d } := by
  induction l generalizing s with
  | nil => exact ⟨_, rfl⟩
  | cons a l ih =>
    obtain ⟨d, hd⟩ := h s a
    obtain ⟨e, he⟩ := ih (f s a)
    exact ⟨e, by rw [List.foldl_cons, he, hd]⟩

theorem State.appendRing_only (base hist row : Nat) (l : List (List Byte)) (s : State) (at_ : Nat) :
    ∃ d, s.appendRing base hist at_ row l = { s with dram := d } := by
  induction l generalizing s at_ with
  | nil => exact ⟨_, rfl⟩
  | cons r l ih =>
    obtain ⟨d, h⟩ := ih (s.writeMem true (base + at_ % hist * row) r) (at_ + 1)
    exact ⟨d, h⟩

/-- A block's rows in the history ring change DRAM, the Wardrobe and the stream's history, and leave the stream's carry. -/
theorem State.appendHistory_only (s : State) (n : Nat) (st : Stream) (frames : Nat) (bytes : List Byte) :
    ∃ w d l, s.appendHistory n st frames bytes = { s with wardrobe := w, dram := d, streams := l } ∧
      ∀ y, aget s.streams n = some y → ∃ z, aget l n = some z ∧ z.carryFrom = y.carryFrom ∧ z.carry = y.carry := by
  unfold State.appendHistory
  extract_lets +onlyGivenNames a
  split
  · exact ⟨_, _, _, rfl, fun y hy => ⟨y, hy, rfl, rfl⟩⟩
  · extract_lets +onlyGivenNames row r
    obtain ⟨w, hr⟩ : ∃ w, r.2 = { s with wardrobe := w } := by
      unfold r
      split
      · exact ⟨_, rfl⟩
      · split
        · exact State.alloc_got_only ‹_›
        · exact ⟨_, rfl⟩
    split
    · exact ⟨_, _, _, rfl, fun y hy => ⟨y, hy, rfl, rfl⟩⟩
    · extract_lets t
      obtain ⟨d, ht⟩ : ∃ d, t = { r.2 with dram := d } := foldl_dram_only (fun _ _ => State.appendRing_only ..) _ _
      rw [ht, hr]
      exact ⟨_, _, _, rfl, fun y hy => ⟨_, State.modStream_stream hy _, rfl, rfl⟩⟩

/-! ### AUDIO_BLOCK_PASS (R288 to R291) -/

/-- The bytes of a block's log-mel rows. -/
def AudioCfg.rowsBytes (a : AudioCfg) : Nat := a.block / a.hop * a.channels * melBytes a

/-- The bytes of a block in its sample's buffer. -/
def State.blockBytes (s : State) (m : Sample) (st : Stream) : List Byte :=
  match m.buffer with
  | some w => s.readMem false (bufAddr w) st.feedBytes
  | none => []

/-- The carry that a block captured at a time starts from (R289): zeros, where it does not continue the one before. -/
def Stream.carryAt (st : Stream) (capture : Nat) : List Byte :=
  if !carryUsable st.audio st.carryFrom capture then List.replicate (carryBytes st.audio) 0 else st.carry

section
variable {s : State} {k : Nat} {m : Sample} {st : Stream} (hm : aget s.samples k = some m)
  (hst : aget s.streams m.stream = some st) (hslot : s.slotOpen m = true) (hkind : st.kind = .audio)
include hm hst hslot hkind

/-- A good block's first pass: its rows in a buffer just taken, its frames and gaps counted, its sample's output and its stream's
carry; the history ring takes the rows last. -/
theorem State.audioPass_rows {v : State} {a : Nat} {fb : Bool} (hfirst : m.audioPasses = 0) (hsound : m.corrupt = none)
    (halloc : s.alloc st.group false st.audio.rowsBytes none true = .got a fb v)
    (hfinite : nonFiniteBlock st.audio.format (v.blockBytes m st) = false) :
    ∃ (t : State) (f : Sample → Sample) (g : Stream → Stream) (bytes : List Byte),
      s.audioPass k = t.appendHistory m.stream st (st.audio.block / st.audio.hop) bytes ∧
      bytes = (upto st.audio.rowsBytes).map (Config.logMel st.audio (st.carryAt m.capture) (v.blockBytes m st)) ∧
      t.house = (v.writeMem false a bytes).house ∧
      t.ingest = { v.ingest with
        audioGaps := if !carryUsable st.audio st.carryFrom m.capture then v.ingest.audioGaps.inc else v.ingest.audioGaps
        audioFrames := v.ingest.audioFrames.add 32 (st.audio.block / st.audio.hop * st.audio.channels) } ∧
      t.samples = amod v.samples k f ∧ (f m).outputs = [(0, bufName false a, [])] ∧ (f m).audioPasses = 1 ∧
      t.streams = amod v.streams m.stream g ∧ (g st).carryFrom = some m.capture ∧
      (g st).carry = nextCarry st.audio false (st.carryAt m.capture) (v.blockBytes m st) := by
  unfold AudioCfg.rowsBytes at halloc
  cases hb : m.buffer
  all_goals
    simp only [State.blockBytes, hb] at hfinite ⊢
    simp only [State.audioPass, hm, hst, hslot, hkind, hfirst, hsound, halloc, hb, hfinite, Bool.not_true, ne_eq, not_true_eq_false,
      decide_false, Bool.or_self, Bool.false_eq_true, if_false, ge_iff_le, Option.isNone_none,
      Option.isSome_none, Bool.and_false]
    exact ⟨_, _, _, _, rfl, rfl, rfl, rfl, rfl, rfl, rfl, rfl, rfl, rfl⟩

theorem State.audioPass_repeats (hsecond : m.audioPasses = 1) (hrate : (recordRepeat s.ms s.ingest.audioRepeats).2 = false) :
    s.audioPass k = (({ s with
        samples := amod s.samples k fun y => { y with audioPasses := 2 }
        ingest := { s.ingest with audioRepeats := (recordRepeat s.ms s.ingest.audioRepeats).1 } } : State).repeatUnit (.chain k) 0x08
      (st.charge 0 9) clsAudio 0) := by
  simp only [State.audioPass, hm, hst]
  rw [if_neg (by simp [hslot, hkind]), if_pos (by omega)]
  exact if_neg (by simp [hsecond, hrate])

end

end Sys2Proof.Machine

section

open Sys2Proof Sys2Proof.Machine

/-- Settles O43: a pass comes to what its own lemma says of the block, and the history ring changes neither the House, the counts, the
samples nor the carry. -/
theorem audioBlocksBecomeRows : Obligations.AudioBlocksBecomeRows := by
  intro s dt k a fb m st v u c frames size block gap carry hm hst hslot hkind
  refine ⟨fun hfirst hsound halloc hfinite => ?_, fun hsecond hrate => ?_⟩
  · obtain ⟨t, f, g, bytes, hpass, hbytes, hhouse, hingest, hsamples, houtputs, hpasses, hstreams, hfrom, hcarry⟩ :=
      State.audioPass_rows hm hst hslot hkind hfirst hsound halloc hfinite
    obtain ⟨w, rfl⟩ := State.alloc_got_only halloc
    have hsample : aget t.samples k = some (f m) := by
      rw [hsamples]
      exact State.modSample_sample hm f
    have hstream : aget t.streams m.stream = some (g st) := by
      rw [hstreams]
      exact State.modStream_stream hst g
    obtain ⟨w', d, l, hhistory, hkeeps⟩ := t.appendHistory_only m.stream st (c.block / c.hop) bytes
    obtain ⟨z, hz, hzfrom, hzcarry⟩ := hkeeps _ hstream
    subst hbytes
    refine ⟨_, congrArg Host.Outcome.next (hpass.trans hhistory), hhouse, ?_, ?_, ⟨f m, hsample, houtputs, hpasses⟩, z, hz,
      hzfrom.trans hfrom, hzcarry.trans hcarry⟩
    · exact congrArg Ingest.audioFrames hingest
    · exact congrArg Ingest.audioGaps hingest
  · exact congrArg Host.Outcome.next (State.audioPass_repeats hm hst hslot hkind hsecond hrate)

end
end

section
/-! PROOFS. The device states (R312, Table 13.6): a reset enters BOOT, or lets time pass where the rail is none of the
device's; any other command goes on as `exec_movesTo` says. -/

namespace Sys2Proof.Machine

open Sys2Proof

/-- A step that leaves the state s as Table 13.6 allows for a command c. -/
def MovesAsTabled (c : Instr) (s t : State) : Prop :=
  (isReset c = true ∧ t.host.state = .boot) ∨ t.host.state = s.host.state ∨ t.host.state = .faulted ∨
    (s.host.state, t.host.state) ∈ stateMoves

theorem MovesAsTabled.of_moves {wr : Bool} {c : Instr} {s t : State} (h : Moves wr s t) : MovesAsTabled c s t := .inr h.state

theorem MovesAsTabled.deviceReset {c : Instr} (hc : isReset c = true) (s u : State) (kind : Nat) :
    MovesAsTabled c s (u.deviceReset kind) := .inl ⟨hc, (u.deviceReset_keeps kind).2⟩

/-- A reset enters BOOT; an undervoltage of a number that names no rail only lets time pass (R463). -/
theorem exec_reset_movesAsTabled {c : Instr} (hc : isReset c = true) (s : State) :
    ∃ t, exec c s = .next t ∧ MovesAsTabled c s t := by
  cases c with
  | hostReset dt => exact ⟨_, rfl, .deviceReset rfl s _ 4⟩
  | coldReset dt => exact ⟨_, rfl, .deviceReset rfl s _ 2⟩
  | powerOnReset dt => exact ⟨_, rfl, .deviceReset rfl s _ 1⟩
  | pwrokFall dt => exact ⟨_, rfl, .deviceReset rfl s _ 1⟩
  | railUndervoltage dt rail =>
    refine ⟨_, rfl, ?_⟩
    split
    · exact .deviceReset rfl s _ 1
    · exact .of_moves (State.advance_steps (wr := false) s dt).drains.moves
  | sysRefclkLoss dt => exact ⟨_, rfl, .deviceReset rfl s _ 3⟩
  | _ => nomatch hc

theorem exec_movesAsTabled (c : Instr) (s : State) : ∃ t, exec c s = .next t ∧ MovesAsTabled c s t := by
  cases hc : isReset c with
  | true => exact exec_reset_movesAsTabled hc s
  | false =>
    obtain ⟨t, ht, hmoves⟩ := exec_movesTo c s hc
    exact ⟨t, ht, .of_moves hmoves⟩

end Sys2Proof.Machine

section

open Sys2Proof Sys2Proof.Machine

/-- Settles O59: the step runs the command at the front of the queue in a state that differs from s in its queue only. -/
theorem deviceStatesMoveAsTabled : Obligations.DeviceStatesMoveAsTabled := by
  intro s t c l hl ht
  have hstep : step s = exec c { s with pending := l } := by rw [step, hl]
  obtain ⟨u, hu, hmoves⟩ := exec_movesAsTabled c { s with pending := l }
  obtain rfl : t = u := Host.Outcome.next.inj ((ht.symm.trans hstep).trans hu)
  exact hmoves

end
end

section
/-! PROOFS. The order of command checks (R309, Table 13.5): every host command is accepted by its own row of the command tables, and the
first failed check completes it. -/

namespace Sys2Proof.Machine

open Sys2Proof

/-- The command e.1 is accepted with the check list e.2. -/
def AcceptedBy (e : (Nat → Packet → Instr) × Cmd) : Prop :=
  ∀ (s : State) (dt : Nat) (p : Packet), exec (e.1 dt p) s = .next ((s.advance dt).accept e.2 p)

theorem hostCommands_acceptedBy : ∀ e ∈ hostCommands, AcceptedBy e := by
  simp only [hostCommands, List.forall_mem_append, List.forall_mem_cons, List.not_mem_nil, false_implies,
    implies_true, and_true]
  repeat' apply And.intro
  all_goals exact fun _ _ _ => rfl

/-- Checks 2 and 3: their failure decides, whatever the later checks say. -/
theorem accept_headChecks_fail {s : State} {c : Cmd} {dt : Nat} {p : Packet} {o : Outcome} (hf : Fetchable dt p s = true)
    (h : headChecks c p = some o) : (s.advance dt).accept c p = (s.taken dt p).completed c.opcode p o 0 := by
  rw [accept_fetchable hf, startCommand, h, settle_done]

/-- Checks 4 to 6, for a command without an extended block. -/
theorem accept_bodyChecks_fail {s : State} {c : Cmd} {dt : Nat} {p : Packet} {o : Outcome} (hf : Fetchable dt p s = true)
    (he : c.extended = false) (hh : headChecks c p = none) (h : bodyChecks c p (s.taken dt p) = some o) :
    (s.advance dt).accept c p = (s.taken dt p).completed c.opcode p o 0 := by
  have hstart : startCommand c p (s.taken dt p) = .done o 0 (s.taken dt p) := by
    simp [startCommand, hh, he, checked, h]
  rw [accept_fetchable hf, hstart, settle_done]

end Sys2Proof.Machine

section

open Sys2Proof Sys2Proof.Machine

/-- Settles O56: the command is accepted with its own check list; a completion changes no object by the lemmas of `State.complete`. -/
theorem firstFailedCheckDecides : Obligations.FirstFailedCheckDecides := by
  intro e he s dt p o u t hf
  have haccept := hostCommands_acceptedBy e he s dt p
  refine ⟨fun hh => ?_, fun hx hh hb => ?_, State.complete_streams .., State.complete_samples .., State.complete_casts ..,
    State.complete_scripts .., State.complete_wardrobe .., State.complete_inflight .., State.complete_house ..,
    State.complete_dram .., State.complete_time .., State.complete_cue ..⟩
  · rw [haccept, accept_headChecks_fail hf hh]
  · rw [haccept, accept_bodyChecks_fail hf hx hh hb]

end
end

section
/-! PROOFS. Completions (R306, Table 13.4): what an entry at the completion side's tail changes, and that the ring of a fetched command
takes one. -/

namespace Sys2Proof.Machine

open Sys2Proof

/-- The completion side after an entry: the tail moves on, and PHASE inverts on a wrap. -/
def Ring.written (r : Ring) : Ring :=
  { r with ctail := (r.ctail + 1) % r.size, phase := if (r.ctail + 1) % r.size = 0 then !r.phase else r.phase }

/-! ### What is written -/

section
variable {s : State} {q : Nat} {r : Ring} {c : Completion}

theorem State.putCompletion_written (hr : aget s.rings q = some r) (hs : r.state = .enabled) (raise : Bool) :
    s.putCompletion q c raise =
      let t : State := { s.wakeLink with
        rings := aset s.rings q r.written
        outputs := .completion q r.ctail { c with phase := r.phase } :: s.outputs }
      if raise then t.raiseVector r.fn r.vector else t := by
  unfold State.putCompletion
  rw [hr]
  exact if_neg (by simp [hs])

theorem State.mem_raiseVector_outputs {o : Output} (h : o ∈ s.outputs) (fn v : Nat) : o ∈ (s.raiseVector fn v).outputs := by
  unfold State.raiseVector
  dsimp only
  split
  · exact h
  · exact List.mem_cons_of_mem _ h

theorem State.raiseVector_unmasked {fn v : Nat} (h : (agetD (s.fnOf fn).msix v {}).masked = false) :
    .interrupt fn v ∈ (s.raiseVector fn v).outputs := by
  rw [State.raiseVector, if_neg (by simp [h])]
  exact List.mem_cons_self ..

theorem State.raiseVector_masked {fn v : Nat} (h : (agetD (s.fnOf fn).msix v {}).masked = true) :
    (agetD ((s.raiseVector fn v).fnOf fn).msix v {}).pending = true := by
  rw [State.raiseVector, if_pos h]
  simp [State.fnOf, State.modFn, agetD, aget_aset]

theorem State.putCompletion_entry (hr : aget s.rings q = some r) (hs : r.state = .enabled) (raise : Bool) :
    .completion q r.ctail { c with phase := r.phase } ∈ (s.putCompletion q c raise).outputs := by
  rw [State.putCompletion_written hr hs]
  dsimp only
  split
  · exact State.mem_raiseVector_outputs (List.mem_cons_self ..) ..
  · exact List.mem_cons_self ..

theorem State.putCompletion_ring (hr : aget s.rings q = some r) (hs : r.state = .enabled) (raise : Bool) :
    aget (s.putCompletion q c raise).rings q = some r.written := by
  have hset : aget (aset s.rings q r.written) q = some r.written := by rw [aget_aset, if_pos rfl]
  rw [State.putCompletion_written hr hs]
  dsimp only
  split
  · rw [State.raiseVector_rings]
    exact hset
  · exact hset

theorem State.putCompletion_unmasked (hr : aget s.rings q = some r) (hs : r.state = .enabled)
    (hm : (agetD (s.fnOf r.fn).msix r.vector {}).masked = false) :
    .interrupt r.fn r.vector ∈ (s.putCompletion q c true).outputs := by
  rw [State.putCompletion_written hr hs]
  exact State.raiseVector_unmasked hm

theorem State.putCompletion_masked (hr : aget s.rings q = some r) (hs : r.state = .enabled)
    (hm : (agetD (s.fnOf r.fn).msix r.vector {}).masked = true) :
    (agetD ((s.putCompletion q c true).fnOf r.fn).msix r.vector {}).pending = true := by
  rw [State.putCompletion_written hr hs]
  exact State.raiseVector_masked hm

end

/-! ### The completion of a fetched command -/

/-- A command that can be fetched stands on an ENABLED ring (R300). -/
theorem State.canFetch_enabled {s : State} {q : Nat} {fence : Bool} (h : s.canFetch q fence = true) :
    ∃ r, aget s.rings q = some r ∧ r.state = .enabled := by
  unfold State.canFetch at h
  split at h
  · exact nomatch h
  · next r hr => exact ⟨r, hr, by simp_all⟩

/-- Taking an entry leaves the state of the ring. -/
theorem State.taken_enabled {s : State} {dt : Nat} {p : Packet} {r : Ring} (hf : Fetchable dt p s = true)
    (hr : aget (s.taken dt p).rings p.ring = some r) : r.state = .enabled := by
  rw [Fetchable, Bool.and_eq_true] at hf
  obtain ⟨r', hr', hs⟩ := State.canFetch_enabled hf.1
  have htaken : aget (s.taken dt p).rings p.ring = some r'.takeEntry := by
    simp [State.taken, State.modRing, aget_amod, show aget s.rings p.ring = some r' by simpa using hr']
  obtain rfl : r = r'.takeEntry := Option.some.inj (hr.symm.trans htaken)
  exact hs

/-- The entry of a command's completion (Table 13.4); its PHASE is set where it is written. -/
def completionEntry (s : State) (opcode : Nat) (p : Packet) (r : Ring) (o : Outcome) (result : Nat) : Completion where
  tag := p.tag.toNat
  status := o.status
  detail := o.detail % 2 ^ 24
  cue := s.cueNow
  result := result % 2 ^ 64
  opcode := opcode
  fetch := r.fetch
  ring := p.ring
  event := false
  phase := false

/-- A completion that is not mirrored is written at once, and traced. -/
theorem State.completed_unmirrored {s : State} {opcode : Nat} {p : Packet} {r : Ring} {o : Outcome} {result : Nat}
    (hr : aget s.rings p.ring = some r) (hq : p.ring ≠ remoteRing) (hm : p.ring = 0 ∨ s.mirrors = false) :
    s.completed opcode p o result =
      (s.putCompletion p.ring (completionEntry s opcode p r o result) (r.interruptAll || p.interrupt)).trace 2 0 p.ring
        (opcode + 65536 * o.status.code) p.tag.toNat := by
  have hmirror : (decide (p.ring ≠ 0) && s.mirrors) = false := by rcases hm with h | h <;> simp [h]
  simp only [State.completed, State.complete, ticket, hr, hq, hmirror, if_false, Bool.false_eq_true]
  rfl

end Sys2Proof.Machine

section

open Sys2Proof Sys2Proof.Machine

/-- Settles O57: a NOP completes with what `putCompletion` writes, and the trace record leaves rings, outputs and vectors. -/
theorem completionsCarryPhase : Obligations.CompletionsCarryPhase := by
  intro s dt p r u q x hpass hr hq hm
  have hs : r.state = .enabled := by
    simp only [Passes, Bool.and_eq_true] at hpass
    obtain ⟨⟨⟨⟨hf, _⟩, _⟩, _⟩, _⟩ := hpass
    exact State.taken_enabled hf hr
  refine ⟨_, congrArg Host.Outcome.next (accept_done hpass rfl), ?_⟩
  rw [State.completed_unmirrored hr hq hm]
  simp only [State.trace_outputs, State.trace_rings, State.fnOf, State.trace_host]
  refine ⟨State.putCompletion_entry hr hs _, State.putCompletion_ring hr hs _, fun hraise hx => ?_, fun hraise hx => ?_⟩
  · rw [hraise]
    exact State.putCompletion_unmasked hr hs hx
  · rw [hraise]
    exact State.putCompletion_masked hr hs hx

end
end

section
/-! PROOFS. The stream commands that pass their checks (R54, R314, R317 to R322, Table 13.13): what each command's own part answers, and
what a stream that closes leaves. -/

namespace Sys2Proof.Machine

open Sys2Proof

/-! ### Streams -/

theorem amod_id {α : Type} (l : List (Nat × α)) (k : Nat) : amod l k id = l := by
  induction l with
  | nil => rfl
  | cons e l ih =>
    obtain ⟨k', v⟩ := e
    by_cases hk : k' = k
    · simp [amod, hk]
    · simp [amod, hk, ih]

/-- A change that leaves the stream it meets leaves the state. -/
theorem State.modStream_of_fixed {s : State} {n : Nat} {st : Stream} {f : Stream → Stream} (h : aget s.streams n = some st)
    (hf : f st = st) : s.modStream n f = s := by
  rw [State.modStream, amod_congr (g := id) h hf, amod_id]

/-- Stream n takes no new sample from now on. -/
def State.beginClose (s : State) (n : Nat) : State := s.modStream n fun st => { st with closing := true }

theorem State.beginClose_stream {s : State} {n : Nat} {st : Stream} (h : aget s.streams n = some st) :
    aget (s.beginClose n).streams n = some { st with closing := true } := State.modStream_stream h _

theorem State.resumeStream_open {s : State} {n : Nat} {st : Stream} (h : aget s.streams n = some st) :
    s.resumeStream n = (s.modStream n fun st => { st with state := .running }).postEvent 0x0006 .done st.cause.code n := by
  rw [State.resumeStream, h]

/-- A stream that still has samples, or a FEED on the way, is not closed yet (R321). -/
theorem State.closeIfDone_busy {s : State} {n : Nat} (h : (s.samples.any fun e => e.2.stream = n) = true ∨ s.feeding n = true) :
    s.closeIfDone n = s := by
  unfold State.closeIfDone
  split
  · rfl
  · exact if_pos (by rcases h with h | h <;> simp [h])

/-- A closing stream with neither is CLOSED: its number is no stream's (R321). -/
theorem State.closeIfDone_idle {s : State} {n : Nat} {st : Stream} (h : aget s.streams n = some st) (hc : st.closing = true)
    (hs : (s.samples.any fun e => e.2.stream = n) = false) (hf : s.feeding n = false) :
    aget (s.closeIfDone n).streams n = none := by
  unfold State.closeIfDone
  rw [h]
  dsimp only
  rw [if_neg (by simp [hc, hs, hf]), foldl_keeps State.streams (fun t id => t.finish_streams id ..), aget_adel, if_pos rfl]

/-! ### What a command's own part answers -/

theorem streamDeclareCmd_body {s : State} {p : Packet} (hkey : bitOf (p.u8 28) 1 = false) (hroom : s.streams.length < 4096) :
    streamDeclareCmd.body s p = .okResult (freeKey s.streams 1)
      { s with streams := aset s.streams (freeKey s.streams 1) (declared s p (freeKey s.streams 1) 0) } := by
  have hbody : streamDeclareCmd.body s p = declareStream s p 0 := if_neg (by simp [hkey])
  rw [hbody, declareStream, if_neg (Nat.not_le.2 hroom)]

section
variable {s : State} {p : Packet} {st : Stream} (hst : aget s.streams (p.u16 0) = some st)
include hst

/-- A DECODE stream that has its own outputs, and a stream of any other kind, is admitted with what it has (R317). -/
theorem State.modStream_ownOutputs (hown : st.kind = .decode → st.ingestDone = true) (l : List OutputCfg) :
    (s.modStream (p.u16 0) fun st => if st.kind = .decode && !st.ingestDone then { st with outputs := l } else st) = s :=
  State.modStream_of_fixed hst (if_neg (by simpa using hown))

theorem streamAdmitCmd_body_fits (hown : st.kind = .decode → st.ingestDone = true) {t : State}
    (ht : s.admitStream (p.u16 0) = some t) :
    streamAdmitCmd.body s p = .okResult s.cue.edges
      ((t.modStream (p.u16 0) fun st => { st with state := .admitted, firstCue := s.cue.edges }).greySet (p.u16 0)) := by
  simp only [streamAdmitCmd, State.modStream_ownOutputs hst hown, ht]

theorem streamAdmitCmd_body_unfit (hown : st.kind = .decode → st.ingestDone = true) (hn : s.admitStream (p.u16 0) = none) :
    streamAdmitCmd.body s p = .refuse .notAdmitted { s with freeCount := s.freeCount + 2 } := by
  simp only [streamAdmitCmd, State.modStream_ownOutputs hst hown, hn]

theorem streamResumeCmd_body (hc : st.cause = .host ∨ st.cause = .stop) :
    streamResumeCmd.body s p = .ok ((s.modStream (p.u16 0) fun st => { st with state := .running }).postEvent 0x0006 .done
      st.cause.code (p.u16 0)) := by
  rw [← State.resumeStream_open hst]
  rcases hc with hc | hc <;> simp [streamResumeCmd, hst, hc]

theorem streamQueryCmd_body :
    streamQueryCmd.body s p = .ok { s with outputs := .hostBytes (p.u64 8) (queryReply (p.u16 0) st) :: s.outputs } := by
  simp [streamQueryCmd, hst]

/-- A stream of no camera port has no open frame to drop. -/
theorem streamCloseCmd_body (hk : st.kind ≠ .camera) :
    streamCloseCmd.body s p =
      if streamAbsent ((s.beginClose (p.u16 0)).closeIfDone (p.u16 0)) (p.u16 0) then
        .ok ((s.beginClose (p.u16 0)).closeIfDone (p.u16 0))
      else .wait (.streamClose (p.u16 0)) (s.beginClose (p.u16 0)) := by
  have hdrop : s.dropOpenFrames st = s := if_pos hk
  simp only [streamCloseCmd, hst, hdrop]
  rfl

theorem streamCloseCmd_body_idle (hk : st.kind ≠ .camera) (hs : (s.samples.any fun e => e.2.stream = p.u16 0) = false)
    (hf : s.feeding (p.u16 0) = false) :
    ∃ t, streamCloseCmd.body s p = .ok t ∧ aget t.streams (p.u16 0) = none := by
  have habsent := State.closeIfDone_idle (State.beginClose_stream hst) rfl hs hf
  exact ⟨_, (streamCloseCmd_body hst hk).trans (if_pos (Option.isNone_iff_eq_none.2 habsent)), habsent⟩

theorem streamCloseCmd_body_busy (hk : st.kind ≠ .camera)
    (h : (s.samples.any fun e => e.2.stream = p.u16 0) = true ∨ s.feeding (p.u16 0) = true) :
    streamCloseCmd.body s p = .wait (.streamClose (p.u16 0)) (s.beginClose (p.u16 0)) := by
  have hbusy : (s.beginClose (p.u16 0)).closeIfDone (p.u16 0) = s.beginClose (p.u16 0) := State.closeIfDone_busy h
  have hpresent : streamAbsent (s.beginClose (p.u16 0)) (p.u16 0) = false := by
    rw [streamAbsent, State.beginClose_stream hst, Option.isNone_some]
  rw [streamCloseCmd_body hst hk, hbusy, hpresent, if_neg Bool.false_ne_true]

end

/-- A STREAM_CLOSE whose stream is not done yet is in flight. -/
theorem accept_streamClose {s t : State} {dt n : Nat} {c : Cmd} {p : Packet} (h : Passes c dt p s = true)
    (hb : c.body (s.taken dt p) p = .wait (.streamClose n) t) :
    (s.advance dt).accept c p = t.begun c.opcode p (.streamClose n) := by
  rw [accept_passes h, hb]
  rfl

end Sys2Proof.Machine

section

open Sys2Proof Sys2Proof.Machine

/-- Settles O4: a command that passes its checks comes to what its own part answers in the state that has taken it. -/
theorem streamCommandsTakeEffect : Obligations.StreamCommandsTakeEffect := by
  refine ⟨fun s dt p => ?_, fun s dt p h => ?_⟩
  · intro u n
    refine ⟨fun h hkey hroom => ?_, fun h st hst hown => ⟨fun t ht => ?_, fun hn => ?_⟩, fun h => ?_, fun h => ?_,
      fun h st hst hc => ?_, fun h st hst => ?_⟩
    · exact congrArg Host.Outcome.next (accept_done h (streamDeclareCmd_body hkey hroom))
    · exact congrArg Host.Outcome.next (accept_done h (streamAdmitCmd_body_fits hst hown ht))
    · exact congrArg Host.Outcome.next (accept_done h (streamAdmitCmd_body_unfit hst hown hn))
    · exact congrArg Host.Outcome.next (accept_done h rfl)
    · exact congrArg Host.Outcome.next (accept_done h rfl)
    · exact congrArg Host.Outcome.next (accept_done h (streamResumeCmd_body hst hc))
    · exact congrArg Host.Outcome.next (accept_done h (streamQueryCmd_body hst))
  · intro u n st hst hk
    refine ⟨fun hs hf => ?_, fun hbusy => ?_⟩
    · obtain ⟨v, hbody, habsent⟩ := streamCloseCmd_body_idle hst hk hs hf
      exact ⟨v, congrArg Host.Outcome.next (accept_done h hbody), habsent⟩
    · exact congrArg Host.Outcome.next (accept_streamClose h (streamCloseCmd_body_busy hst hk hbusy))

end
end

section
/-! PROOFS. Commands with an extended block (R304, R305): one that passes checks 1 to 3 is in flight with the read of its block. -/

namespace Sys2Proof.Machine

open Sys2Proof

theorem accept_extended {s : State} {c : Cmd} {dt : Nat} {p : Packet} (h : Opens c dt p s = true) :
    (s.advance dt).accept c p =
      State.begun { s.taken dt p with outputs := .hostRead (p.u64 0) (p.u16 8) :: (s.taken dt p).outputs } c.opcode p
        (.hostRead p (p.u16 8) ((s.taken dt p).transferBy (p.u16 8)) []) := by
  rw [accept_opens h]
  rfl

end Sys2Proof.Machine

section

open Sys2Proof Sys2Proof.Machine

/-- Settles O10: both commands take an extended block. -/
theorem extendedCommandsReadTheirBlock : Obligations.ExtendedCommandsReadTheirBlock := fun _ _ _ =>
  ⟨fun h => congrArg Host.Outcome.next (accept_extended h), fun h => congrArg Host.Outcome.next (accept_extended h)⟩

end
end

section
/-! PROOFS. SUBMISSION_FETCH and its time-out (R300, R301, R309, R343, Table 14.4): what becomes of the entry that the scan comes to. -/

namespace Sys2Proof.Machine

open Sys2Proof

/-- The state that has passed an entry of ring q: FETCH moves on, and EXPECTED too when the SEQUENCE matched. -/
def State.passedEntry (s : State) (q : Nat) (matched : Bool) : State :=
  { (s.leaveRest).modRing q fun r => { r with
      fetch := (r.fetch + 1) % r.size
      expected := if matched then (r.expected + 1) % 2 ^ 32 else r.expected } with scanPos := q }

theorem State.refuseEntry_completed (s : State) (q opcode : Nat) (p : Packet) (matched : Bool) (o : Outcome) :
    s.refuseEntry q opcode p matched o = (s.passedEntry q matched).completed opcode p o 0 := rfl

section
variable {s : State} {q : Nat} (hq : s.nextRing = some q)
include hq

theorem State.fetchFails_next (answered : Bool) :
    s.fetchFails answered = ({ s.countRead answered with scanPos := q }).haltRing q causeFetch := by
  rw [State.fetchFails, hq]

variable {r : Ring} (hr : aget s.rings q = some r) {entry : BitVec 512}
include hr

theorem State.fetchEntry_mismatch (hs : (entry.extractLsb' 96 32).toNat ≠ r.expected) :
    s.fetchEntry entry = ((s.passedEntry q false).completed (entry.extractLsb' 0 16).toNat (packetOf q entry)
      (rangeFault 12) 0).haltRing q causeSequence := by
  simp only [State.fetchEntry, hq, hr, if_pos hs, State.refuseEntry_completed]

variable (hs : (entry.extractLsb' 96 32).toNat = r.expected) (hf : (packetOf q entry).fence = true → s.uncompleted q = 0)
include hs hf

/-- An entry in sequence whose fence does not wait is the command that its opcode names (R300). -/
theorem State.fetchEntry_listed {c : Cmd} (hc : commandOf (entry.extractLsb' 0 16).toNat = some c) :
    s.fetchEntry entry = s.accept c (packetOf q entry) := by
  have hfence : ¬((packetOf q entry).fence && decide (s.uncompleted q ≠ 0)) = true := by simpa using hf
  simp only [State.fetchEntry, hq, hr, hs, ne_eq, not_true_eq_false, if_false, if_neg hfence, hc]

theorem State.fetchEntry_unlisted (hc : commandOf (entry.extractLsb' 0 16).toNat = none) :
    s.fetchEntry entry = (s.passedEntry q true).completed (entry.extractLsb' 0 16).toNat (packetOf q entry)
      ⟨.unknownOpcode, 0⟩ 0 := by
  have hfence : ¬((packetOf q entry).fence && decide (s.uncompleted q ≠ 0)) = true := by simpa using hf
  simp only [State.fetchEntry, hq, hr, hs, ne_eq, not_true_eq_false, if_false, if_neg hfence, hc, State.refuseEntry_completed]

end

end Sys2Proof.Machine

section

open Sys2Proof Sys2Proof.Machine

/-- Settles O17: one equation of `fetchEntry` per case. -/
theorem submissionFetchAccepts : Obligations.SubmissionFetchAccepts := by
  intro s dt q entry r u opcode p refused hq hr
  refine ⟨fun hs => ?_, fun hs hf => ⟨fun hc => ?_, fun c hc => ?_⟩, fun answered => ?_⟩
  · exact congrArg Host.Outcome.next (State.fetchEntry_mismatch hq hr hs)
  · exact congrArg Host.Outcome.next (State.fetchEntry_unlisted hq hr hs hf hc)
  · exact congrArg Host.Outcome.next (State.fetchEntry_listed hq hr hs hf hc)
  · exact congrArg Host.Outcome.next (State.fetchFails_next hq answered)

end
end

section
/-! PROOFS. Host writes (R302, R325, R327, R343, R403): what a refused posted write leaves, and what the next record of a sample does. -/

namespace Sys2Proof.Machine

open Sys2Proof

/-! ### Refused posted writes -/

/-- Changes that agree on the ring they meet make the same state. -/
theorem State.modRing_congr {s : State} {q : Nat} {r : Ring} {f g : Ring → Ring} (hr : aget s.rings q = some r) (hfg : f r = g r) :
    s.modRing q f = s.modRing q g := by
  rw [State.modRing, amod_congr hr hfg]
  rfl

/-- The ring halts with cause WRITE, its slot and PHASE the next to be written (R302). -/
def Ring.writeRefused (r : Ring) (slot : Nat) (phase : Bool) : Ring :=
  { r with state := .halted, cause := causeWrite, ctail := slot, phase := phase }

/-- The newest write of a kind is not made and counts: the outputs left are `rest`. -/
def State.dropWrite (s : State) (rest : List Output) : State :=
  { s with outputs := rest, host := { s.host with writeRefused := s.host.writeRefused.inc } }

section
variable {s : State} {q slot : Nat} {r : Ring} (hr : aget s.rings q = some r) (hs : r.state ≠ .disabled)
include hr hs

theorem State.refuseOn_inUse (slot : Nat) (phase : Bool) :
    s.refuseOn q slot phase = s.modRing q fun r => r.writeRefused slot phase :=
  State.modRing_congr hr (if_neg hs)

variable {rest : List Output}

theorem State.refuseWrite_completion {w : PostedWrite} {c : Completion} (hc : c.event = false)
    (ho : takeOutput (Output.isWrite w) s.outputs = some (.completion q slot c, rest)) :
    s.refuseWrite w = (s.dropWrite rest).modRing q fun r => r.writeRefused slot c.phase := by
  simp only [State.refuseWrite, ho, hc]
  exact State.refuseOn_inUse (s := s.dropWrite rest) hr hs slot c.phase

/-- An event is held again before the others (R343). -/
theorem State.refuseWrite_event {w : PostedWrite} {c : Completion} (hc : c.event = true)
    (ho : takeOutput (Output.isWrite w) s.outputs = some (.completion q slot c, rest)) :
    s.refuseWrite w = { (s.dropWrite rest).modRing q fun r => r.writeRefused slot c.phase with
      events := Event.mk c.opcode c.status c.detail c.result c.cue :: s.events } := by
  simp only [State.refuseWrite, ho, hc]
  exact congrArg (fun t : State => { t with events := Event.mk c.opcode c.status c.detail c.result c.cue :: t.events })
    (State.refuseOn_inUse (s := s.dropWrite rest) hr hs slot c.phase)

theorem State.refuseWrite_record {w : PostedWrite} {phase : Bool} {record : Record}
    (ho : takeOutput (Output.isWrite w) s.outputs = some (.record q slot phase record, rest)) :
    s.refuseWrite w = (s.dropWrite rest).modRing q fun r => r.writeRefused slot phase := by
  simp only [State.refuseWrite, ho]
  exact State.refuseOn_inUse (s := s.dropWrite rest) hr hs slot phase

end

/-! ### Records -/

/-- The sample's next record is issued, and the stream counts it (R325, R403). -/
def State.issueRecord (s : State) (k : Nat) (m : Sample) (st : Stream) (r : Record) (rest : List Record) : State :=
  ((s.putRecord st.metaRing { r with body := stampBody r.body m.outcome }).modSample k fun x =>
    { x with queue := rest, issued := x.issued + 1 }).countStream m.stream fun c => { c with records := c.records + 1 }

theorem State.writeRecord_next {s : State} {k : Nat} {m : Sample} {st : Stream} {r : Record} {rest : List Record}
    (hm : aget s.samples k = some m) (hst : aget s.streams m.stream = some st) (hqueue : m.queue = r :: rest)
    (hslot : s.recordSlot st.metaRing = true) (hfirst : s.earlierSample k m = false) :
    s.writeRecord k = if r.last then (s.issueRecord k m st r rest).endSample k else s.issueRecord k m st r rest := by
  have hready : ¬(!s.recordSlot st.metaRing || s.earlierSample k m) = true := by simp [hslot, hfirst]
  simp only [State.writeRecord, hm, hst, hqueue, if_neg hready]
  rfl

end Sys2Proof.Machine

section

open Sys2Proof Sys2Proof.Machine

/-- Settles O18: one equation of `refuseWrite` per kind of write, and that of `writeRecord` in a live device. -/
theorem hostWritesEnd : Obligations.HostWritesEnd := by
  refine ⟨fun s dt q slot o rest c r => ?_, fun s dt k m st r rest => ?_⟩
  · intro u h halted hr hs
    refine ⟨fun ho hc hw => ?_, fun ho hc hw => ?_, fun record ho hw => ?_⟩
    · exact congrArg Host.Outcome.next (State.refuseWrite_completion hr hs hc (ho ▸ hw))
    · exact congrArg Host.Outcome.next (State.refuseWrite_event hr hs hc (ho ▸ hw))
    · exact congrArg Host.Outcome.next (State.refuseWrite_record hr hs (ho ▸ hw))
  · intro u hlive hm hst hqueue hslot hfirst t v
    exact congrArg Host.Outcome.next ((if_pos hlive).trans (State.writeRecord_next hm hst hqueue hslot hfirst))

end
end

section
/-! PROOFS. Doorbells, windows and ring ranges (R299, R316, R336, R339): the entries a side of a ring holds, the effect of each write
where it is accepted, and its count where it is dropped or refused. -/

namespace Sys2Proof.Machine

open Sys2Proof

/-! ### The sides of a ring -/

theorem Ring.size_pos (r : Ring) : 0 < r.size := Nat.two_pow_pos _

/-- Two indexes of a side are equal when nothing lies between them. -/
theorem index_distance_eq_zero {a b n : Nat} (ha : a < n) (hb : b < n) : (a + n - b % n) % n = 0 ↔ b = a := by
  rw [Nat.mod_eq_of_lt hb]
  rcases Nat.lt_or_ge a b with h | h
  · rw [Nat.mod_eq_of_lt (by omega)]
    omega
  · rw [show a + n - b = a - b + n by omega, Nat.add_mod_right, Nat.mod_eq_of_lt (by omega)]
    omega

theorem Ring.pendingEntries_le (r : Ring) : r.pendingEntries ≤ r.size - 1 := Nat.le_sub_one_of_lt (Nat.mod_lt _ r.size_pos)

theorem Ring.freeSlots_le (r : Ring) : r.freeSlots ≤ r.size - 1 := Nat.sub_le ..

theorem Ring.pendingEntries_eq_zero {r : Ring} (ht : r.tail < r.size) (hf : r.fetch < r.size) :
    r.pendingEntries = 0 ↔ r.fetch = r.tail := index_distance_eq_zero ht hf

theorem Ring.freeSlots_eq_all {r : Ring} (hh : r.head < r.size) (hc : r.ctail < r.size) :
    r.freeSlots = r.size - 1 ↔ r.head = r.ctail := by
  have hused := Nat.mod_lt (r.ctail + r.size - r.head % r.size) r.size_pos
  rw [← index_distance_eq_zero hc hh, Ring.freeSlots]
  omega

theorem Ring.headAfter_of_lt {r : Ring} (hh : r.head < r.size) (v : Nat) :
    r.headAfter v =
      if v < r.size ∧ (v + r.size - r.head) % r.size ≤ (r.ctail + r.size - r.head) % r.size then v else r.ctail := by
  simp [Ring.headAfter, Nat.mod_eq_of_lt hh]

/-! ### Doorbells -/

theorem State.dropDoorbell_absent {s : State} {q : Nat} (h : aget s.rings q = none) :
    s.dropDoorbell q = { s with rings := aset s.rings q { dropped := ({} : Ring).dropped.inc } } := by
  rw [State.dropDoorbell, agetD, h]
  rfl

theorem State.dropDoorbell_ring {s : State} {q : Nat} {r : Ring} (h : aget s.rings q = some r) :
    s.dropDoorbell q = { s with rings := aset s.rings q { r with dropped := r.dropped.inc } } := by
  rw [State.dropDoorbell, agetD, h]
  rfl

theorem State.haltRing_enabled {s : State} {q : Nat} {r : Ring} (hr : aget s.rings q = some r) (he : r.state = .enabled)
    (cause : Nat) : s.haltRing q cause = s.modRing q fun x => { x with state := .halted, cause := cause } :=
  State.modRing_congr hr (if_pos he)

section
variable {s : State} {fn q v : Nat} (hstate : s.host.state ≠ .faulted) (howns : s.ownsPage fn q = true) (hv : v < 65536)
include hstate howns

theorem State.writeTail_absent (h : aget s.rings q = none) : s.writeTail fn q v = s.dropDoorbell q := by
  simp [State.writeTail, hstate, howns, h]

theorem State.writeHead_absent (h : aget s.rings q = none) : s.writeHead fn q v = s.dropDoorbell q := by
  simp [State.writeHead, hstate, howns, h]

variable {r : Ring} (hr : aget s.rings q = some r)
include hr

theorem State.writeTail_dropped (h : r.state ≠ .enabled ∨ r.metadata = true) : s.writeTail fn q v = s.dropDoorbell q := by
  have hclosed : (decide (r.state ≠ .enabled) || r.metadata) = true := by simpa using h
  simp only [State.writeTail, if_neg hstate, howns, hr, hclosed]
  rfl

theorem State.writeHead_dropped (h : r.state = .disabled) : s.writeHead fn q v = s.dropDoorbell q := by
  simp [State.writeHead, hstate, howns, hr, h]

include hv

/-- On a COMMAND ring in use TAIL is set where it lies inside the ring. -/
theorem State.writeTail_inside (he : r.state = .enabled) (hm : r.metadata = false) (hlt : v < r.size) :
    s.writeTail fn q v = s.modRing q fun x => { x with tail := v } := by
  simp [State.writeTail, hstate, howns, hr, he, hm, Nat.mod_eq_of_lt hv, Nat.not_le.2 hlt]

/-- One outside the ring halts it with cause TAIL_RANGE. -/
theorem State.writeTail_outside (he : r.state = .enabled) (hm : r.metadata = false) (hle : r.size ≤ v) :
    s.writeTail fn q v = s.modRing q fun x => { x with state := .halted, cause := causeTailRange } := by
  rw [← State.haltRing_enabled hr he]
  simp [State.writeTail, hstate, howns, hr, he, hm, Nat.mod_eq_of_lt hv, hle]

/-- A HEAD on a ring in use; Q0's free slots take the events that were held (R316). -/
theorem State.writeHead_taken (hd : r.state ≠ .disabled) :
    s.writeHead fn q v =
      if q = 0 then (s.modRing q fun x => { x with head := r.headAfter v }).flushEvents
      else s.modRing q fun x => { x with head := r.headAfter v } := by
  have hhead : (s.modRing q fun x => { x with head := x.headAfter v }) = s.modRing q fun x => { x with head := r.headAfter v } :=
    State.modRing_congr hr rfl
  simp only [State.writeHead, if_neg hstate, howns, hr, if_neg hd, Nat.mod_eq_of_lt hv, hhead]
  rfl

end

/-- A doorbell write of a function that answers acts in the woken state, and puts REST off (R332, R445). -/
theorem exec_ringSubmitTailWrite {s t : State} {dt fn q v : Nat} (ha : (s.advance dt).answers fn = true)
    (h : (s.advance dt).wakeLink.leaveRest.noteAccess.writeTail fn q v = t) : exec (.ringSubmitTailWrite dt fn q v) s = .next t :=
  congrArg Host.Outcome.next ((State.barWrite_answered ha _).trans h)

theorem exec_ringCompleteHeadWrite {s t : State} {dt fn q v : Nat} (ha : (s.advance dt).answers fn = true)
    (h : (s.advance dt).wakeLink.leaveRest.noteAccess.writeHead fn q v = t) : exec (.ringCompleteHeadWrite dt fn q v) s = .next t :=
  congrArg Host.Outcome.next ((State.barWrite_answered ha _).trans h)

/-! ### The events that were held -/

/-- HEAD of ring q; none where there is no such ring. -/
def State.headOf (s : State) (q : Nat) : Option Nat := (aget s.rings q).map fun r => r.head

theorem State.raiseVector_headOf (s : State) (fn v q : Nat) : (s.raiseVector fn v).headOf q = s.headOf q := by
  rw [State.headOf, State.raiseVector_rings, State.headOf]

/-- An entry moves the tail of the completion side and leaves every HEAD. -/
theorem State.putCompletion_headOf (s : State) (q : Nat) (c : Completion) (raise : Bool) (k : Nat) :
    (s.putCompletion q c raise).headOf k = s.headOf k := by
  unfold State.putCompletion
  split
  · rfl
  · next r hr =>
    split
    · rfl
    · have hset (x : Ring) (hx : x.head = r.head) : (aget (aset s.rings q x) k).map (fun r => r.head) = s.headOf k := by
        rw [aget_aset, State.headOf]
        split
        · next hk => rw [hk, hr, Option.map_some, Option.map_some, hx]
        · rfl
      dsimp only
      split
      · rw [State.raiseVector_headOf]
        exact hset _ rfl
      · exact hset _ rfl

theorem writeHeld_headOf (l : List Event) (s : State) (q : Nat) : (writeHeld l s).headOf q = s.headOf q := by
  induction l generalizing s with
  | nil => rfl
  | cons e l ih =>
    unfold writeHeld
    split
    · rw [ih]
      exact State.putCompletion_headOf ..
    · rfl

theorem State.flushEvents_headOf (s : State) (q : Nat) : s.flushEvents.headOf q = s.headOf q := by
  have hlost (t : State) (ht : t.headOf q = s.headOf q) :
      (if t.eventsLost ≠ 0 then t else writeHeld t.events t).headOf q = s.headOf q := by
    split
    · exact ht
    · rw [writeHeld_headOf, ht]
  unfold State.flushEvents
  refine hlost _ ?_
  split
  · exact State.putCompletion_headOf ..
  · rfl

theorem State.flushEvents_newHead {s : State} {q : Nat} {r : Ring} (hr : aget s.rings q = some r) (h : Nat) :
    (s.modRing q fun x => { x with head := h }).flushEvents.headOf q = some h := by
  rw [State.flushEvents_headOf, State.headOf, State.modRing_rings, aget_amod, if_pos rfl, hr]
  rfl

/-! ### Windows and ranges -/

section
variable {s : State} {value : Nat}

theorem State.setWindow_fits {n : Nat} (h : value % 2 ^ (s.fnOf n).bar2Log2 = 0 ∧ value ≤ 2 ^ 36 - 2 ^ (s.fnOf n).bar2Log2) :
    s.setWindow n value = s.modFn n fun f => { f with window := value } := if_pos (by simpa using h)

theorem State.setWindow_refused {n : Nat}
    (h : ¬(value % 2 ^ (s.fnOf n).bar2Log2 = 0 ∧ value ≤ 2 ^ 36 - 2 ^ (s.fnOf n).bar2Log2)) :
    s.setWindow n value = s.badAccess := if_neg (by simpa using h)

/-- What R339 asks of the ring range of a VF. -/
def State.RangeOk (s : State) (vf first count : Nat) : Prop :=
  s.host.vfEnable = false ∧ count ≤ 1024 ∧ (count = 0 ∨ (1 ≤ first ∧ first + count ≤ 16384)) ∧
    s.rangeTaken vf first count = false ∧ s.rangeInUse vf = false

variable {vf first count : Nat}

theorem State.rangeRefused_iff :
    (s.host.vfEnable || decide (1024 < count) || (decide (count ≠ 0) && (decide (first = 0) || decide (16384 < first + count)))
      || s.rangeTaken vf first count || s.rangeInUse vf) = true ↔ ¬s.RangeOk vf first count := by
  have hrings : (count = 0 ∨ (1 ≤ first ∧ first + count ≤ 16384)) ↔ (count ≠ 0 → first ≠ 0 ∧ first + count ≤ 16384) := by omega
  rw [← Bool.not_eq_false, not_iff_not, State.RangeOk, hrings]
  simp [and_assoc]

variable (hvf : 1 ≤ vf) (hvf' : vf ≤ 63)
include hvf hvf'

theorem State.setRange_named :
    s.setRange vf first count =
      if s.host.vfEnable || decide (1024 < count) || (decide (count ≠ 0) && (decide (first = 0) || decide (16384 < first + count)))
          || s.rangeTaken vf first count || s.rangeInUse vf then s.badAccess
      else (s.modFn vf fun f => { f with ringFirst := first, ringCount := count }).playbillDue :=
  if_neg (by simp; omega)

theorem State.setRange_ok (h : s.RangeOk vf first count) :
    s.setRange vf first count = (s.modFn vf fun f => { f with ringFirst := first, ringCount := count }).playbillDue := by
  rw [State.setRange_named hvf hvf', if_neg fun hrefused => State.rangeRefused_iff.1 hrefused h]

theorem State.setRange_refused (h : ¬s.RangeOk vf first count) : s.setRange vf first count = s.badAccess := by
  rw [State.setRange_named hvf hvf', if_pos (State.rangeRefused_iff.2 h)]

end

/-! ### PF0's writes -/

section
variable {s t : State} {dt : Nat} (ha : (s.advance dt).answers 0 = true)
include ha

theorem exec_bar2WindowBaseWrite {value : Nat} (h : (s.advance dt).wakeLink.leaveRest.setWindow 0 value = t) :
    exec (.bar2WindowBaseWrite dt 0 value) s = .next t :=
  congrArg Host.Outcome.next ((State.barWrite_answered ha _).trans h)

variable {vf : Nat}

theorem exec_vfRingsWrite {first count : Nat} (h : (s.advance dt).wakeLink.leaveRest.setRange vf first count = t) :
    exec (.vfRingsWrite dt 0 vf first count) s = .next t :=
  congrArg Host.Outcome.next ((State.barWrite_answered ha _).trans h)

variable (hvf : 1 ≤ vf) (hvf' : vf ≤ 63)
include hvf hvf'

theorem exec_vfWindowBaseWrite {value : Nat} (h : (s.advance dt).wakeLink.leaveRest.setWindow vf value = t) :
    exec (.vfWindowBaseWrite dt 0 vf value) s = .next t := by
  have hnamed : (decide (1 ≤ vf) && decide (vf ≤ 63)) = true := by simp [hvf, hvf']
  rw [← h]
  exact congrArg Host.Outcome.next ((State.barWrite_answered ha _).trans (if_pos hnamed))

end

end Sys2Proof.Machine

section

open Sys2Proof Sys2Proof.Machine

/-- Settles O20: the sides of a ring by their index arithmetic; each write by the equation of its effect in the woken state. -/
theorem doorbellAndWindowWritesTakeEffect : Obligations.DoorbellAndWindowWritesTakeEffect := by
  refine ⟨⟨fun r => ?sides, fun s dt fn q v ha => ?doorbells⟩, fun s dt vf value first count ha hvf hvf' => ?windows⟩
  case sides =>
    exact ⟨r.pendingEntries_le, r.freeSlots_le, Ring.pendingEntries_eq_zero, Ring.freeSlots_eq_all⟩
  case doorbells =>
    intro u never hstate howns hv
    refine ⟨fun hr => ⟨?_, ?_⟩, fun r hr => ?_⟩
    · exact exec_ringSubmitTailWrite ha ((State.writeTail_absent hstate howns hr).trans (State.dropDoorbell_absent hr))
    · exact exec_ringCompleteHeadWrite ha ((State.writeHead_absent hstate howns hr).trans (State.dropDoorbell_absent hr))
    · intro dropped h
      refine ⟨fun he hm hlt => ?_, fun he hm hle => ?_, fun hclosed => ?_, fun hd => ?_, fun hd hh _ => ?_⟩
      · exact exec_ringSubmitTailWrite ha (State.writeTail_inside hstate howns hv hr he hm hlt)
      · exact exec_ringSubmitTailWrite ha (State.writeTail_outside hstate howns hv hr he hm hle)
      · exact exec_ringSubmitTailWrite ha ((State.writeTail_dropped hstate howns hr hclosed).trans (State.dropDoorbell_ring hr))
      · exact exec_ringCompleteHeadWrite ha ((State.writeHead_dropped hstate howns hr hd).trans (State.dropDoorbell_ring hr))
      · have hhead : h = r.headAfter v := (Ring.headAfter_of_lt hh v).symm
        rw [hhead]
        refine ⟨fun hq => ?_, fun hq => ?_⟩
        · exact exec_ringCompleteHeadWrite ha ((State.writeHead_taken hstate howns hv hr hd).trans (if_neg hq))
        · subst hq
          exact ⟨_, exec_ringCompleteHeadWrite ha ((State.writeHead_taken hstate howns hv hr hd).trans (if_pos rfl)),
            State.flushEvents_newHead hr _, State.flushEvents_house _, State.flushEvents_dram _⟩
  case windows =>
    intro u refused fits rangeOk
    refine ⟨fun h => ?_, fun h => ?_, fun h => ?_, fun h => ?_, fun h => ?_, fun h => ?_⟩
    · exact exec_bar2WindowBaseWrite ha (State.setWindow_fits h)
    · exact exec_bar2WindowBaseWrite ha (State.setWindow_refused h)
    · exact exec_vfWindowBaseWrite ha hvf hvf' (State.setWindow_fits h)
    · exact exec_vfWindowBaseWrite ha hvf hvf' (State.setWindow_refused h)
    · exact exec_vfRingsWrite ha (State.setRange_ok hvf hvf' h)
    · exact exec_vfRingsWrite ha (State.setRange_refused hvf hvf' h)

end
end

section
/-! PROOFS. PF0's writes of ADMIN_CONTROL (R347) and the writes of the SEC and PWR registers (R418, R423, R455): the effect of each
write where it is accepted, and its count in BAD_ACCESS where it is not. -/

namespace Sys2Proof.Machine

open Sys2Proof

/-- A PF0 write to a block window acts in the woken state (R332, R445). -/
theorem State.blockWrite_answered {s : State} (h : s.answers 0 = true) (f : State → State) :
    s.blockWrite 0 f = f s.wakeLink.leaveRest := State.barWrite_answered h _

/-! ### ADMIN_CONTROL -/

section
variable {s : State}

/-- The ring that Q0 becomes when it is enabled: a created ring with the set-up fields' values. -/
def HostBlk.adminRing (h : HostBlk) : Ring where
  state := .enabled
  group := 1
  sizeLog2 := h.adminSize
  interruptAll := h.adminInterrupt
  vector := h.adminVector
  submitBase := h.adminSubmit
  completeBase := h.adminComplete

theorem State.adminOn_creates (he : s.host.adminEnable = false) (hl : s.live = true) (hd : s.ringState 0 = .disabled) :
    s.adminOn =
      ({ s.freeDeck 0 with
          rings := aset (s.freeDeck 0).rings 0 s.host.adminRing
          host := { (s.freeDeck 0).host with adminEnable := true } }).flushEvents := by
  simp only [State.adminOn, he, hl, hd]
  rfl

theorem State.adminOn_refused (he : s.host.adminEnable = false) (hd : s.ringState 0 ≠ .disabled) : s.adminOn = s.badAccess := by
  simp [State.adminOn, he, hd]

theorem State.adminOff_halted (he : s.host.adminEnable = true) (hh : s.ringState 0 = .halted) (hu : s.uncompleted 0 = 0) :
    s.adminOff = { s with
      rings := amod s.rings 0 fun r => { r with state := .disabled, cause := 0 }
      host := { s.host with adminEnable := false } } := by
  simp [State.adminOff, State.modRing, he, hh, hu]

theorem State.adminOff_refused (he : s.host.adminEnable = true) (hr : s.ringState 0 = .enabled) : s.adminOff = s.badAccess := by
  simp [State.adminOff, he, hr]

theorem State.adminRestart_halted (hl : s.live = true) (hh : s.ringState 0 = .halted) :
    s.adminRestart = ({ s with host := { s.host with adminResetDue := true } }).settleAdminReset := if_pos (by simp [hl, hh])

theorem State.adminRestart_refused (hh : s.ringState 0 ≠ .halted) : s.adminRestart = s.badAccess := if_neg (by simp [hh])

/-! ### SEC and PWR -/

variable {fn slot watts : Nat}

theorem State.setCastKey_taken (hf : fn = 0) (hl : s.sec.locked = false) (hs : slot < 8) (value : Word256) :
    s.setCastKey fn slot value = { s with sec := { s.sec with castKeys := modAt s.sec.castKeys slot fun _ => value } } := by
  rw [State.setCastKey, if_neg (Nat.not_le.2 hs), if_neg (by simp [hf, hl])]

theorem State.setCastKey_refused (h : fn ≠ 0 ∨ s.sec.locked = true) (hs : slot < 8) (value : Word256) :
    s.setCastKey fn slot value = s.badAccess := by
  rw [State.setCastKey, if_neg (Nat.not_le.2 hs), if_pos (by simpa using h)]

/-- A log entry changes the log, its count and its digest, and no other part of SEC. -/
theorem State.appendLog_sec (s : State) (kind fn ring arg : Nat) (data : Word256) : ∃ log digest,
    (s.appendLog kind fn ring arg data).sec = { s.sec with log := log, logCount := s.sec.logCount + 1, digest := digest } :=
  ⟨_, _, rfl⟩

/-- The first LOCK of PF0 makes one log entry and keeps the keys. -/
theorem State.lockCastKeys_sec (hl : s.sec.locked = false) :
    (s.lockCastKeys 0).sec.locked = true ∧ (s.lockCastKeys 0).sec.castKeys = s.sec.castKeys ∧
      (s.lockCastKeys 0).sec.logCount = s.sec.logCount + 1 := by
  rw [State.lockCastKeys, if_neg (not_not.2 rfl), if_neg (by simp [hl])]
  extract_lets keys mask t logged
  obtain ⟨log, digest, hlogged⟩ : ∃ log digest,
      logged = { s.sec with log := log, logCount := s.sec.logCount + 1, digest := digest } := s.appendLog_sec ..
  rw [hlogged]
  exact ⟨rfl, rfl, rfl⟩

theorem State.lockCastKeys_refused (hf : fn ≠ 0) : s.lockCastKeys fn = s.badAccess := if_pos hf

theorem State.pushGo_starts (hb : s.booting 5 = true) (hp : s.sec.pushRunning = false) :
    s.pushGo = { s with sec := { s.sec with pushRunning := true } } := if_pos (by simp [hb, hp])

theorem State.setLimit_taken (hlo : 150 ≤ watts) (hhi : watts ≤ 450) :
    s.setLimit watts = { s with pwr := { s.pwr with limit := watts } } := if_pos (by simp [hlo, hhi])

theorem State.setLimit_refused (h : watts < 150 ∨ 450 < watts) : s.setLimit watts = s.badAccess :=
  if_neg (by rw [Bool.and_eq_true, decide_eq_true_eq, decide_eq_true_eq]; omega)

end

end Sys2Proof.Machine

section

open Sys2Proof Sys2Proof.Machine

/-- Settles O21: a function that answers runs its write in the woken state, where the write's own equation gives its effect. -/
theorem adminAndSecWritesTakeEffect : Obligations.AdminAndSecWritesTakeEffect := by
  refine ⟨fun s dt ha => ?admin, fun s dt fn slot watts value ha => ?registers⟩
  case admin =>
    intro u h refused
    have hwrite (f : State → State) : (Host.Outcome.next ((s.advance dt).blockWrite 0 f) : Host.Outcome State Fault Refusal) =
        .next (f u) := congrArg _ (State.blockWrite_answered ha f)
    refine ⟨fun he hl hd => ?_, fun he hd => ?_, fun he hh hu => ?_, fun he hr => ?_, fun hl hh => ?_, fun hh => ?_⟩
    · exact (hwrite _).trans (congrArg _ (State.adminOn_creates he hl hd))
    · exact (hwrite _).trans (congrArg _ (State.adminOn_refused he hd))
    · exact (hwrite _).trans (congrArg _ (State.adminOff_halted he hh hu))
    · exact (hwrite _).trans (congrArg _ (State.adminOff_refused he hr))
    · exact (hwrite _).trans (congrArg _ (State.adminRestart_halted hl hh))
    · exact (hwrite _).trans (congrArg _ (State.adminRestart_refused hh))
  case registers =>
    intro u refused
    have hbar (f : State → State) : (Host.Outcome.next ((s.advance dt).barWrite fn f) : Host.Outcome State Fault Refusal) =
        .next (f u) := congrArg _ (State.barWrite_answered ha f)
    have hblock (h0 : fn = 0) (f : State → State) :
        (Host.Outcome.next ((s.advance dt).blockWrite fn f) : Host.Outcome State Fault Refusal) = .next (f u) := by
      subst h0
      exact congrArg _ (State.blockWrite_answered ha f)
    refine ⟨fun h0 hl hs => ?_, fun h hs => ?_, fun h0 hl => ?_, fun hf => ?_, fun h0 hb hp => ?_, fun h0 hlo hhi => ?_,
      fun h0 hw => ?_⟩
    · exact (hbar _).trans (congrArg _ (State.setCastKey_taken h0 hl hs value))
    · exact (hbar _).trans (congrArg _ (State.setCastKey_refused h hs value))
    · subst h0
      exact ⟨_, hbar _, State.lockCastKeys_sec hl⟩
    · exact (hbar _).trans (congrArg _ (State.lockCastKeys_refused hf))
    · exact (hblock h0 _).trans (congrArg _ (State.pushGo_starts hb hp))
    · exact (hblock h0 _).trans (congrArg _ (State.setLimit_taken hlo hhi))
    · exact (hblock h0 _).trans (congrArg _ (State.setLimit_refused hw))

end
end

section
/-! PROOFS. The host link (R330, R332, R344, R444): the host block after a training, and the link's fall, sleep and waking. -/

namespace Sys2Proof.Machine

open Sys2Proof

/-! ### Training -/

/-- The host block of a link that has trained: up in L0 with what was trained, and a retrain counted if it was up. -/
def HostBlk.trained (h : HostBlk) (speed width : Nat) (flit : Bool) : HostBlk :=
  { h with
    linkUp := true, speed := speed, width := width, flit := flit, l0p := false, power := .l0
    retrains := if h.linkUp then h.retrains.inc else h.retrains }

/-- A state with the HOST share in force and the share staged. -/
def State.withShare (s : State) (share : Nat) (staged : Option (Nat × Nat)) : State :=
  { s with host := { s.host with hostShare := share, stagedShare := staged } }

/-- A share staged for edge e, told in the Playbill where admission uses it from the next edge. -/
def State.stageShare (s : State) (share e : Nat) : State :=
  let t := s.withShare s.host.hostShare (some (share, e))
  if e = t.cue.edges then t.playbillDue else t

theorem State.stageShare_host (s : State) (share e : Nat) :
    (s.stageShare share e).host = { s.host with stagedShare := some (share, e) } := by
  unfold State.stageShare
  dsimp only
  split
  · exact State.playbillDue_host _
  · rfl

section
variable (s : State) (speed width : Nat) (flit : Bool)

/-- A link that has trained, its HOST share not yet settled. -/
def State.linkTrained : State :=
  ({ s with
      host := s.host.trained speed width flit
      pwr := { s.pwr with absent := s.pwr.absent - s.pwr.absent % 2 } }).traceHostPort 3

theorem State.linkTrained_host : (s.linkTrained speed width flit).host = s.host.trained speed width flit := State.trace_host ..

theorem State.linkTrained_live : (s.linkTrained speed width flit).live = s.live := by
  rw [State.live, State.linkTrained_host]
  rfl

/-- What a training does with the HOST share (R330): outside operation the link's share is in force at once, in operation another
rate stages it for the edge of a capacity step decided now. -/
theorem State.retrain_eq : s.retrain speed width flit =
    if !(s.linkTrained speed width flit).live then (s.linkTrained speed width flit).withShare (hostShareOf speed width) none
    else if payloadRate s.host.speed s.host.width = payloadRate speed width then s.linkTrained speed width flit
    else (s.linkTrained speed width flit).stageShare (hostShareOf speed width) s.stepEdge := rfl

/-- Whatever it does with the HOST share, a training leaves the rest of the host block as trained. -/
theorem State.retrain_host : ∃ share staged,
    (s.retrain speed width flit).host = { s.host.trained speed width flit with hostShare := share, stagedShare := staged } := by
  rw [State.retrain_eq, ← State.linkTrained_host]
  split
  · exact ⟨_, _, rfl⟩
  · split
    · exact ⟨_, _, rfl⟩
    · exact ⟨_, _, State.stageShare_host ..⟩

variable {s speed width}

theorem State.retrain_staged (hl : s.live = true) (hr : payloadRate s.host.speed s.host.width ≠ payloadRate speed width) :
    (s.retrain speed width flit).host.stagedShare = some (hostShareOf speed width, s.stepEdge) := by
  rw [State.retrain_eq, if_neg (by simp [State.linkTrained_live, hl]), if_neg hr, State.stageShare_host]

end

/-! ### Going down, sleeping -/

section
variable {s : State}

theorem State.linkFalls_up (h : s.host.linkUp = true) :
    s.linkFalls = ({ s with host := { s.host with linkUp := false, l0p := false, power := .l0 } }).traceHostPort 1 := if_pos h

variable (s)

/-- A link that falls takes no ring, no command and no device state with it (R344). -/
theorem State.linkFalls_keeps : s.linkFalls.host.linkUp = false ∧ s.linkFalls.host.state = s.host.state ∧
    s.linkFalls.pwr = s.pwr ∧ s.linkFalls.rings = s.rings ∧ s.linkFalls.inflight = s.inflight := by
  cases hup : s.host.linkUp with
  | true =>
    rw [State.linkFalls_up hup]
    simp [State.traceHostPort]
  | false =>
    have hstays : s.linkFalls = s := if_neg (by simp [hup])
    rw [hstays]
    exact ⟨hup, rfl, rfl, rfl, rfl⟩

theorem State.pcieLost_keeps : s.pcieLost.host.linkUp = false ∧ s.pcieLost.host.state = s.host.state ∧
    s.pcieLost.pwr.absent % 2 = 1 ∧ s.pcieLost.rings = s.rings ∧ s.pcieLost.inflight = s.inflight := by
  obtain ⟨hup, hstate, hpwr, hrings, hinflight⟩ :=
    ({ s with pwr := { s.pwr with absent := s.pwr.absent - s.pwr.absent % 2 + 1 } } : State).linkFalls_keeps
  refine ⟨hup, hstate, ?_, hrings, hinflight⟩
  rw [State.pcieLost, hpwr]
  dsimp only
  omega

variable {s}

theorem State.linkSleeps_idle {goal : LinkPower} (h : s.mayIdle goal = true) :
    s.linkSleeps goal = { s with host := { s.host with
      power := goal, powerSince := if linkInL1 s.host.power then s.host.powerSince else s.time.elapsed } } := if_pos h

end

end Sys2Proof.Machine

section

open Sys2Proof Sys2Proof.Machine

/-- Settles O47: each event of the link by the equation of its effect; a training by the host block it leaves. -/
theorem hostLinkMoves : Obligations.HostLinkMoves := by
  intro s dt speed width flit goal u
  refine ⟨fun hboot => ?trains, fun hup => ?falls, ?lost, fun hidle => ?sleeps, rfl⟩
  case trains =>
    have hpowered : u.powered = true := decide_eq_true hboot
    obtain ⟨share, staged, htrained⟩ := u.retrain_host speed width flit
    refine ⟨u.retrain speed width flit, congrArg Host.Outcome.next (if_pos hpowered), ?_⟩
    have hshare (hl : u.live = true) (hr : payloadRate u.host.speed u.host.width ≠ payloadRate speed width) :
        ∃ e, (u.retrain speed width flit).host.stagedShare = some (hostShareOf speed width, e) :=
      ⟨u.stepEdge, State.retrain_staged flit hl hr⟩
    rw [htrained] at hshare ⊢
    exact ⟨rfl, rfl, rfl, rfl, rfl, rfl, rfl, hshare⟩
  case falls => exact congrArg Host.Outcome.next (State.linkFalls_up hup)
  case lost => exact ⟨u.pcieLost, rfl, u.pcieLost_keeps⟩
  case sleeps =>
    have hslept : exec (.linkPowerEntry dt goal) s = .next _ := congrArg Host.Outcome.next (State.linkSleeps_idle hidle)
    exact ⟨_, hslept, rfl, rfl⟩

end
end

section
/-! PROOFS. Every step (log entries 13 and 17): the command at the front of the queue runs in the state with the queue's rest, and no
command, no reset and no idle nanosecond touches the queue or takes a byte store out of its canonical form. -/

namespace Sys2Proof.Machine

open Sys2Proof

theorem step_cons {s : State} {c : Instr} {l : List Instr} (h : s.pending = c :: l) :
    step s = exec c { s with pending := l } := by
  rw [step, h]

theorem step_nil {s : State} (h : s.pending = []) : step s = .next (s.advance 1) := by
  rw [step, h]

/-- A reset keeps the queue and the canonical form too (R453); an undervoltage of a number that names no rail lets time pass. -/
theorem exec_reset_keeps {c : Instr} (hc : isReset c = true) (s : State) : ∃ t, exec c s = .next t ∧ Keeps s t := by
  have deviceReset (dt kind : Nat) : Keeps s ((s.advance dt).deviceReset kind) :=
    (State.advance_steps (wr := false) s dt).keeps.trans (State.deviceReset_keeps _ kind).1
  cases c with
  | hostReset dt => exact ⟨_, rfl, deviceReset dt 4⟩
  | coldReset dt => exact ⟨_, rfl, deviceReset dt 2⟩
  | powerOnReset dt => exact ⟨_, rfl, deviceReset dt 1⟩
  | pwrokFall dt => exact ⟨_, rfl, deviceReset dt 1⟩
  | railUndervoltage dt rail =>
    refine ⟨_, rfl, ?_⟩
    split
    · exact deviceReset dt 1
    · exact (State.advance_steps (wr := false) s dt).keeps
  | sysRefclkLoss dt => exact ⟨_, rfl, deviceReset dt 3⟩
  | _ => nomatch hc

/-- Every command goes on, with the queue as it was and the byte stores canonical where they were. -/
theorem exec_keeps (c : Instr) (s : State) : ∃ t, exec c s = .next t ∧ Keeps s t := by
  cases hc : isReset c with
  | true => exact exec_reset_keeps hc s
  | false =>
    obtain ⟨t, ht, hmoves⟩ := exec_movesTo c s hc
    exact ⟨t, ht, hmoves.queue, hmoves.wf⟩

theorem exec_next_keeps {c : Instr} {s t : State} (h : exec c s = .next t) : Keeps s t := by
  obtain ⟨u, hu, hkeeps⟩ := exec_keeps c s
  obtain rfl : t = u := Host.Outcome.next.inj (h.symm.trans hu)
  exact hkeeps

end Sys2Proof.Machine

section

open Sys2Proof Sys2Proof.Machine

/-- Settles O1: `step` is this equation on a queue with a front. -/
theorem stepRunsFrontCommand : Obligations.StepRunsFrontCommand := fun _ _ _ => step_cons

/-- Settles O2: the front command leaves the rest of the queue as `exec_keeps` says. -/
theorem queueIsServedInOrder : Obligations.QueueIsServedInOrder :=
  ⟨fun _ _ _ _ hl ht => (exec_next_keeps ((step_cons hl).symm.trans ht)).queue, fun _ => step_nil⟩

/-- Settles O58: on an empty queue time passes, and any other step runs a command, which `exec_keeps` covers. -/
theorem memoryStaysCanonical : Obligations.MemoryStaysCanonical := by
  intro s t hs ht
  cases hq : s.pending with
  | nil =>
    obtain rfl : t = s.advance 1 := Host.Outcome.next.inj (ht.symm.trans (step_nil hq))
    exact (State.advance_steps (wr := false) s 1).wf hs
  | cons c l => exact (exec_next_keeps ((step_cons hq).symm.trans ht)).wf hs

end
end

section
/-! PROOFS. Resets (R344, R444, R453, R454, R462 to R464): what RESET_CAUSE shows of a device that runs and of one that other causes
still hold in reset, and what a reset clears. -/

namespace Sys2Proof.Machine

open Sys2Proof

/-- R454: a device that runs shows the reset's kind, and as the one before it the kind it showed, which POWER_ON clears. -/
theorem Pwr.withCause_running (p : Pwr) (kind : Nat) :
    p.withCause true kind =
      { resetKind := kind, resetPrevious := if kind = 1 then 0 else p.resetKind, resetCauses := [kind] } := by
  simp [Pwr.withCause]

/-- R464: the causes of a device in reset add up. -/
theorem Pwr.mem_withCause_held {p : Pwr} {kind k : Nat} :
    k ∈ (p.withCause false kind).resetCauses ↔ k ∈ kind :: p.resetCauses := by
  simp [Pwr.withCause]

/-- R464: while causes overlap KIND is the lowest of them. -/
theorem Pwr.withCause_held_kind (p : Pwr) (kind : Nat) :
    (p.withCause false kind).resetKind ∈ kind :: p.resetCauses ∧
      ∀ k ∈ kind :: p.resetCauses, (p.withCause false kind).resetKind ≤ k := by
  have hmin : (kind :: (p.withCause false kind).resetCauses).min? = some (p.withCause false kind).resetKind := rfl
  obtain ⟨hmem, hle⟩ := List.min?_eq_some_iff.mp hmin
  simp only [List.mem_cons, Pwr.mem_withCause_held] at hmem hle ⊢
  exact ⟨hmem.elim .inl id, fun k hk => hle k (.inr hk)⟩

/-- Nothing is unsealed or permitted after a reset, and no entry is logged (R425, R426, R453). -/
theorem State.keptSec_cleared (s : State) (draw : Nat) :
    (s.keptSec draw).unsealed = false ∧ (s.keptSec draw).encoded = false ∧ (s.keptSec draw).logCount = 0 := by
  unfold State.keptSec
  extract_lets c pick programmed kept
  clear_value programmed
  cases programmed with
  | none => exact ⟨rfl, rfl, rfl⟩
  | some e =>
    dsimp only
    split
    · unfold Sec.setFlash; split <;> exact ⟨rfl, rfl, rfl⟩
    · exact ⟨rfl, rfl, rfl⟩

theorem State.deviceReset_pwr_running {s : State} (h : s.host.bootStep ≠ 0) (kind : Nat) :
    (s.deviceReset kind).pwr = s.pwr.withCause true kind := by
  simp [State.deviceReset, h]

theorem State.deviceReset_pwr_held {s : State} (h : s.host.bootStep = 0) (kind : Nat) :
    (s.deviceReset kind).pwr = s.pwr.withCause false kind := by
  simp [State.deviceReset, h]

theorem State.mem_deviceReset_causes (s : State) (kind : Nat) : kind ∈ (s.deviceReset kind).pwr.resetCauses := by
  by_cases h : s.host.bootStep = 0
  · rw [State.deviceReset_pwr_held h, Pwr.mem_withCause_held]; exact List.mem_cons_self
  · rw [State.deviceReset_pwr_running h, Pwr.withCause_running]; exact List.mem_cons_self

/-- R344, R453: only a HOST reset keeps device time. -/
theorem State.deviceReset_time (s : State) (kind : Nat) :
    (s.deviceReset kind).time.now = (if kind = 4 then s.time.now else 0) ∧
      (s.deviceReset kind).time.elapsed = s.time.elapsed := by
  unfold State.deviceReset
  split <;> exact ⟨rfl, rfl⟩

end Sys2Proof.Machine

section

open Sys2Proof Sys2Proof.Machine

/-- Settles O25: every event is `deviceReset` of its kind in the state dt later. -/
theorem resetsEnterBoot : Obligations.ResetsEnterBoot := by
  intro s dt rail u cleared
  have reset (kind : Nat) : cleared kind (u.deviceReset kind) := by
    obtain ⟨hseal, hencoded, hlog⟩ := State.keptSec_cleared u u.draw.1
    refine ⟨rfl, rfl, fun hrun => ?running, fun hheld => ?held, u.mem_deviceReset_causes kind, rfl, rfl, rfl, rfl, rfl, rfl, rfl,
      rfl, hseal, hencoded, hlog, rfl, u.deviceReset_time kind⟩
    case running =>
      rw [State.deviceReset_pwr_running hrun, Pwr.withCause_running]
      exact ⟨rfl, rfl⟩
    case held =>
      obtain ⟨hmem, hle⟩ := Pwr.withCause_held_kind u.pwr kind
      rw [State.deviceReset_pwr_held hheld]
      exact ⟨hle kind List.mem_cons_self, fun k hk => hle k (List.mem_cons_of_mem _ hk), hmem, rfl⟩
  exact ⟨⟨_, rfl, reset 4⟩, ⟨_, rfl, reset 2⟩, ⟨_, rfl, reset 1⟩, ⟨_, rfl, reset 1⟩,
    fun hrail => ⟨_, congrArg Host.Outcome.next (if_pos hrail), reset 1⟩, ⟨_, rfl, reset 3⟩⟩

end
end

section
/-! PROOFS. The commands of classes 0x0A to 0x0D that pass their checks (R366, R374, R379, R421, R425, R426, R428, R433, R437, R439), and
the DRAM controller's own events (R385, R393, R394, R396): what each command's own part answers, and what it comes to. -/

namespace Sys2Proof.Machine

open Sys2Proof

/-- A command whose own part waits is in flight with its work, unless another member carries it out. -/
theorem accept_wait {s t : State} {c : Cmd} {dt : Nat} {p : Packet} {w : Work} (h : Passes c dt p s = true)
    (hb : c.body (s.taken dt p) p = .wait w t) (hw : ∀ (v : State) (id opcode : Nat), v.tellRemote id opcode w = v) :
    (s.advance dt).accept c p = t.begun c.opcode p w := by
  rw [accept_passes h, hb]
  exact hw ..

/-! ### Cascades -/

theorem cascadeDissolveCmd_body (s : State) (p : Packet) :
    cascadeDissolveCmd.body s p = .ok (if s.ewl.role = 1 then (s.tellAll 0x06 [5]).becomeLone else s.becomeLone) :=
  congrArg Verdict.ok (apply_ite State.becomeLone ..)

/-! ### Security -/

section
variable {s : State} {p : Packet}

theorem attestReportCmd_body_full (h : 16 ≤ s.reportsPending) : attestReportCmd.body s p = .refuse .noResource s := if_pos h

theorem attestReportCmd_body_room (h : ¬ 16 ≤ s.reportsPending) :
    attestReportCmd.body s p =
      .wait (.attest (BitVec.ofNat 256 (p.par 0 32)) (p.u64 32) (s.report (BitVec.ofNat 256 (p.par 0 32)))) s := if_neg h

theorem pixelsSealCmd_body_closed (h : s.openCopies = []) :
    pixelsSealCmd.body s p = .ok ((s.sealPixels (s.ringFn p.ring) p.ring 0).tellMembers 0x06 [8]) := by
  simp only [pixelsSealCmd, h]

theorem pixelsSealCmd_body_open (h : s.openCopies ≠ []) :
    pixelsSealCmd.body s p = .wait (.seal s.openCopies) ((s.sealPixels (s.ringFn p.ring) p.ring 0).tellMembers 0x06 [8]) := by
  obtain ⟨id, l, hl⟩ := List.exists_cons_of_ne_nil h
  simp only [pixelsSealCmd, hl]

theorem encodedOutputCmd_body_on (h : p.u8 0 = 1) :
    encodedOutputCmd.body s p = .ok ((s.setEncoded true (s.ringFn p.ring) p.ring 0).tellMembers 0x06 [10]) := by
  simp [encodedOutputCmd, h]

end

/-! ### Observation -/

/-- R437, R439: outside a stage manager the snapshot is taken at acceptance, unless the next edge is near. -/
theorem countersSnapshotCmd_body {s : State} {p : Packet} (h : s.stageManager = false) :
    countersSnapshotCmd.body s p =
      .wait .snapshot (if s.cue.byPeriod ∧ s.cue.nextEdge ≤ s.now + 1000 then s else s.takeSnapshot [s.nextId]) := by
  simp [countersSnapshotCmd, h]

/-- R437: the only snapshot taken is shown, and nothing waits behind it. -/
theorem State.snapshotPublished_only {s : State} {x : Snapshot} (hl : s.live = true) (hx : s.obs.snapshots = [x]) :
    s.snapshotPublished =
      x.commands.foldl (fun (t : State) id => t.finish id ⟨.done, 0⟩ ((s.obs.generation + 1) % 2 ^ 32))
        { s with obs := { s.obs with snapshot := x, snapshots := [], generation := (s.obs.generation + 1) % 2 ^ 32 } } := by
  simp [State.snapshotPublished, hl, hx]

/-! ### DRAM -/

/-- The fill under a new interleave (R396). -/
def State.filledDram (s : State) : State :=
  { s.zeroMem true 0 firmwareBase with dram := { (s.zeroMem true 0 firmwareBase).dram with filling := false } }

theorem State.interleaved_eq {s : State} {id grain : Nat} {f : InFlight} (hf : aget s.inflight id = some f)
    (hw : f.work = .dramInterleave grain) : s.interleaved id = s.filledDram.finish id ⟨.done, 0⟩ 0 := by
  simp only [State.interleaved, hf, hw, State.filledDram]

theorem State.filledDram_read (s : State) (a : Nat) :
    s.filledDram.dram.mem.read a = if a < firmwareBase then 0 else s.dram.mem.read a := by
  have herase : s.filledDram.dram.mem = s.dram.mem.erase 0 firmwareBase := rfl
  rw [herase, Memory.read_erase]
  simp

theorem State.refreshSlice_awake {s : State} (hl : s.live = true) (hr : s.dram.selfRefresh = false) (die : Nat) :
    s.refreshSlice die = { s with dram := { s.dram with refreshSlices := aset s.dram.refreshSlices die s.time.elapsed } } := by
  simp [State.refreshSlice, hl, hr]

/-- R393: a channel that has rested for 10 ms, or was never recalibrated, keeps its new margin. -/
theorem State.recalibrate_due {s : State} {ch margin : Nat} (hl : s.live = true) (hr : s.dram.selfRefresh = false)
    (hdue : ∀ t, aget s.dram.recalibrated ch = some t → t + 10000000 ≤ s.time.elapsed) (hm : margin < 64) :
    s.recalibrate ch margin = { s with dram := { s.dram with
      recalibrated := aset s.dram.recalibrated ch s.time.elapsed, channelMargin := aset s.dram.channelMargin ch margin } } := by
  unfold State.recalibrate
  rw [if_neg, Nat.mod_eq_of_lt hm]
  cases ht : aget s.dram.recalibrated ch with
  | none => simp [hl, hr]
  | some t => simp [hl, hr, hdue t ht]

/-- R394, R445: REST ends with self-refresh, and contents stay. -/
theorem State.exitSelfRefresh_asleep {s : State} (h : s.dram.selfRefresh = true) :
    s.exitSelfRefresh.dram = { s.dram with selfRefresh := false } ∧ s.exitSelfRefresh.pwr.rest = false ∧
      s.exitSelfRefresh.house = s.house ∧ s.exitSelfRefresh.host = s.host := by
  rw [State.exitSelfRefresh, if_pos h, State.leaveRest]
  split
  · exact ⟨rfl, rfl, rfl, rfl⟩
  · exact ⟨rfl, Bool.eq_false_of_not_eq_true ‹_›, rfl, rfl⟩

end Sys2Proof.Machine

section

open Sys2Proof Sys2Proof.Machine

/-- Settles O19: CASCADE_FORM waits in flight, CASCADE_DISSOLVE ends at once. -/
theorem cascadeCommandsTakeEffect : Obligations.CascadeCommandsTakeEffect := by
  intro s dt p u
  refine ⟨fun h => ?form, fun h => ?dissolve⟩
  case form => exact congrArg Host.Outcome.next (accept_wait h rfl fun _ _ _ => rfl)
  case dissolve => exact congrArg Host.Outcome.next (accept_done h (cascadeDissolveCmd_body u p))

/-- Settles O13: a command that passes its checks comes to what its own part answers in the state that has taken it. -/
theorem securityCommandsTakeEffect : Obligations.SecurityCommandsTakeEffect := by
  intro s dt p u fn
  refine ⟨fun h => congrArg Host.Outcome.next ?attest, fun h => congrArg Host.Outcome.next ?opens,
    fun h => congrArg Host.Outcome.next ?seals, fun h h1 => congrArg Host.Outcome.next ?encoded,
    fun h => congrArg Host.Outcome.next ?stage⟩
  case attest =>
    split
    · exact accept_done h (attestReportCmd_body_full ‹_›)
    · exact accept_wait h (attestReportCmd_body_room ‹_›) fun _ _ _ => rfl
  case opens => exact accept_done h rfl
  case seals =>
    split
    · exact accept_done h (pixelsSealCmd_body_closed ‹_›)
    · exact accept_wait h (pixelsSealCmd_body_open ‹_›) fun _ _ _ => rfl
  case encoded => exact accept_done h (encodedOutputCmd_body_on h1)
  case stage => exact accept_hostRead h rfl

/-- Settles O15: TRACE_SET ends at once, COUNTERS_SNAPSHOT waits, and the publication ends what waited for the snapshot. -/
theorem observationCommandsTakeEffect : Obligations.ObservationCommandsTakeEffect := by
  intro s dt p u
  refine ⟨fun h => congrArg Host.Outcome.next ?traceSet, fun h hm => congrArg Host.Outcome.next ?snapshot, fun x hl hx => ?published⟩
  case traceSet => exact accept_done h rfl
  case snapshot => exact accept_wait h (countersSnapshotCmd_body hm) fun _ _ _ => rfl
  case published => exact congrArg Host.Outcome.next (State.snapshotPublished_only hl hx)

/-- Settles O16: the interleave waits for its fill, which clears all below the firmware region; the controller's events write no byte. -/
theorem dramMaintenanceTakesEffect : Obligations.DramMaintenanceTakesEffect := by
  refine ⟨⟨fun s dt p h => ?begins, fun s dt id grain f => ?ends⟩, fun s dt die ch margin => ?events⟩
  case begins => exact congrArg Host.Outcome.next (accept_wait h rfl fun _ _ _ => rfl)
  case ends =>
    intro u hf hw
    exact ⟨u.filledDram, congrArg Host.Outcome.next (State.interleaved_eq hf hw), rfl, u.filledDram_read, rfl⟩
  case events =>
    intro u d
    refine ⟨fun hl hr => ⟨?refresh, fun hdue hm => ?recalibrates⟩, fun hr => ?wakes⟩
    case refresh => exact congrArg Host.Outcome.next (State.refreshSlice_awake hl hr die)
    case recalibrates => exact congrArg Host.Outcome.next (State.recalibrate_due hl hr hdue hm)
    case wakes => exact ⟨_, rfl, State.exitSelfRefresh_asleep hr⟩

end
end

section
/-! PROOFS. Euwald ports (R349, R354, R355, R363, R444): what a change of a port leaves of it and of the others, what a flit, a replay and
a training come to, and how the reference's loss takes every port DOWN. -/

namespace Sys2Proof.Machine

open Sys2Proof

/-! ### Ports -/

section
variable {s : State} {n : Nat}

theorem State.ewPort_modEw (h : n < s.ewl.ports.length) (f : EwPort → EwPort) : (s.modEw n f).ewPort n = f (s.ewPort n) := by
  simp [State.ewPort, State.modEw, modAt, h]

theorem State.ewPort_modEw_ne {k : Nat} (h : n ≠ k) (f : EwPort → EwPort) : (s.modEw n f).ewPort k = s.ewPort k := by
  simp [State.ewPort, State.modEw, modAt, h]

theorem State.ports_length_modEw (s : State) (n : Nat) (f : EwPort → EwPort) :
    (s.modEw n f).ewl.ports.length = s.ewl.ports.length := by
  simp [State.modEw, modAt]

theorem State.ewPort_congr {s t : State} (h : t.ewl = s.ewl) (n : Nat) : t.ewPort n = s.ewPort n := by
  rw [State.ewPort, State.ewPort, h]

end

/-- The port in another state (Table 15.8): a stall for credit ends with it. -/
def EwPort.moved (p : EwPort) (goal : PortState) : EwPort :=
  if p.state = goal then p else { p with state := goal, stallSince := none }

theorem EwPort.moved_eq (p : EwPort) (goal : PortState) :
    p.moved goal = { p with state := goal, stallSince := (p.moved goal).stallSince } := by
  unfold EwPort.moved
  split
  · rename_i h
    rw [← h]
  · rfl

section
variable {s : State} {n : Nat}

theorem State.ewPort_portMoves (h : n < s.ewl.ports.length) (goal : PortState) :
    (s.portMoves n goal).ewPort n = (s.ewPort n).moved goal := by
  unfold State.portMoves EwPort.moved
  split
  · rfl
  · rw [State.ewPort_congr (State.trace_ewl ..), State.ewPort_modEw h]

theorem State.portMoves_state (h : n < s.ewl.ports.length) (goal : PortState) : ((s.portMoves n goal).ewPort n).state = goal := by
  rw [State.ewPort_portMoves h, EwPort.moved_eq]

theorem State.ewPort_portMoves_ne {k : Nat} (h : n ≠ k) (goal : PortState) : (s.portMoves n goal).ewPort k = s.ewPort k := by
  unfold State.portMoves
  split
  · rfl
  · rw [State.ewPort_congr (State.trace_ewl ..), State.ewPort_modEw_ne h]

theorem State.ports_length_portMoves (s : State) (n : Nat) (goal : PortState) :
    (s.portMoves n goal).ewl.ports.length = s.ewl.ports.length := by
  unfold State.portMoves
  split
  · rfl
  · rw [State.trace_ewl, State.ports_length_modEw]

/-- A port's change of state moves no byte and no time. -/
theorem State.portMoves_only (s : State) (n : Nat) (goal : PortState) :
    ∃ e o, s.portMoves n goal = { s with ewl := e, obs := o } := by
  unfold State.portMoves
  split
  · exact ⟨_, _, rfl⟩
  · obtain ⟨o, ho⟩ := State.trace_only (s := s.modEw n fun p => { p with state := goal, stallSince := none })
      (k := 9) (c := 0) (u := 0) (a := n + 16 * goal.code) (b := 0)
    exact ⟨_, o, ho⟩

theorem State.ewPort_portDown (h : n < s.ewl.ports.length) :
    (s.portDown n).ewPort n = { (s.ewPort n).moved .down with downSince := s.time.elapsed, good := 0 } := by
  rw [State.portDown, State.ewPort_modEw (by rwa [State.ports_length_portMoves]), State.ewPort_portMoves h]

theorem State.ewPort_portDown_ne {k : Nat} (h : n ≠ k) : (s.portDown n).ewPort k = s.ewPort k := by
  rw [State.portDown, State.ewPort_modEw_ne h, State.ewPort_portMoves_ne h]

theorem State.ports_length_portDown (s : State) (n : Nat) : (s.portDown n).ewl.ports.length = s.ewl.ports.length := by
  rw [State.portDown, State.ports_length_modEw, State.ports_length_portMoves]

theorem State.portDown_only (s : State) (n : Nat) : ∃ e o, s.portDown n = { s with ewl := e, obs := o } := by
  obtain ⟨e, o, h⟩ := s.portMoves_only n .down
  rw [State.portDown, h]
  exact ⟨_, _, rfl⟩

theorem State.ewPort_portRetrains (h : n < s.ewl.ports.length) :
    (s.portRetrains n).ewPort n = { (s.ewPort n).moved .retraining with retrains := (s.ewPort n).retrains.inc } := by
  rw [State.portRetrains, State.ewPort_modEw (by rwa [State.ports_length_portMoves]), State.ewPort_portMoves h, EwPort.moved_eq]

end

/-! ### The reference (R444) -/

theorem State.foldl_portDown_down {n : Nat} {l : List Nat} {s : State} (hn : n < s.ewl.ports.length)
    (h : n ∈ l ∨ (s.ewPort n).state = .down) : ((l.foldl (fun (t : State) k => t.portDown k) s).ewPort n).state = .down := by
  induction l generalizing s with
  | nil => exact h.resolve_left List.not_mem_nil
  | cons k l ih =>
    refine ih (by rwa [State.ports_length_portDown]) ?_
    by_cases hk : k = n
    · subst hk
      right
      rw [State.ewPort_portDown hn, EwPort.moved_eq]
    · rw [State.ewPort_portDown_ne hk]
      exact h.imp_left fun h => (List.mem_cons.1 h).resolve_left (Ne.symm hk)

/-- Every enabled port is DOWN; no memory changes. -/
theorem State.ewLost_down {s : State} {n : Nat} (h8 : n < 8) (hn : n < s.ewl.ports.length) (hs : (s.ewPort n).state ≠ .disabled) :
    (s.ewLost.ewPort n).state = .down := by
  refine State.foldl_portDown_down hn (.inl (List.mem_filter.2 ⟨List.mem_range.2 h8, ?_⟩))
  exact decide_eq_true hs

theorem State.ewLost_memories (s : State) : s.ewLost.house = s.house ∧ s.ewLost.dram = s.dram := by
  have portDown (t : State) (k : Nat) : (t.portDown k).house = t.house ∧ (t.portDown k).dram = t.dram := by
    obtain ⟨e, o, h⟩ := t.portDown_only k
    rw [h]
    exact ⟨rfl, rfl⟩
  exact ⟨foldl_keeps State.house (fun t k => (portDown t k).1) _ _, foldl_keeps State.dram (fun t k => (portDown t k).2) _ _⟩

/-! ### Flits and replays (R354) -/

/-- Sending what waits changes what is on its way and what waits, and how long for. -/
theorem EwPort.pump_only (now k : Nat) (p : EwPort) :
    ∃ w sf r ns t fs, p.pump now k =
      { p with waiting := w, sentFlits := sf, replay := r, nextSeq := ns, turn := t, flitsSent := fs } := by
  induction k generalizing p with
  | zero => exact ⟨_, _, _, _, _, _, rfl⟩
  | succ k ih =>
    unfold EwPort.pump
    split
    · exact ⟨_, _, _, _, _, _, rfl⟩
    · split
      · exact ⟨_, _, _, _, _, _, rfl⟩
      · exact ih _

theorem EwPort.run_only (p : EwPort) (now : Nat) :
    ∃ w sf r ns t fs st cs, p.run now =
      { p with waiting := w, sentFlits := sf, replay := r, nextSeq := ns, turn := t, flitsSent := fs, stallSince := st
               creditStall := cs } := by
  unfold EwPort.run
  obtain ⟨w, sf, r, ns, t, fs, h⟩ := EwPort.pump_only now (min 512 (sumNat p.waiting)) p
  simp only [h]
  repeat' split
  all_goals exact ⟨_, _, _, _, _, _, _, _, rfl⟩

/-- What sending leaves of a port: its state, its peer and all it has received. -/
theorem EwPort.run_keeps (p : EwPort) (now : Nat) :
    (p.run now).state = p.state ∧ (p.run now).peerMember = p.peerMember ∧ (p.run now).peerPort = p.peerPort ∧
    (p.run now).expectSeq = p.expectSeq ∧ (p.run now).lastGood = p.lastGood ∧ (p.run now).nak = p.nak ∧
    (p.run now).flitsReceived = p.flitsReceived ∧ (p.run now).lastValid = p.lastValid := by
  obtain ⟨_, _, _, _, _, _, _, _, h⟩ := p.run_only now
  rw [h]
  exact ⟨rfl, rfl, rfl, rfl, rfl, rfl, rfl, rfl⟩

/-- An ACK frees the replay buffer and nothing else. -/
theorem EwPort.acked_only (p : EwPort) (ack : Nat) :
    ∃ r c k, p.acked ack = { p with replay := r, replayCount := c, nakFor := k } := by
  unfold EwPort.acked
  split <;> exact ⟨_, _, _, rfl⟩

theorem EwPort.take_inOrder {p : EwPort} {f : Flit} (hd : f.data = true) (hs : f.seq = p.expectSeq) :
    p.take f = { p with
      expectSeq := (p.expectSeq + 1) % 4096, lastGood := f.seq, nak := false, flitsReceived := p.flitsReceived.inc
      freed := modAt p.freed f.channel fun x => (x + 1) % 2 ^ 32 } := by
  rw [EwPort.take, if_neg (by simp [hd]), if_pos hs]

section
variable {s : State} {n : Nat} {f : Flit}

/-- The port with what the FEC decoder says of a flit counted. -/
def EwPort.decoded (p : EwPort) (f : Flit) : EwPort :=
  { p with
    fecCorrected := p.fecCorrected.add 32 f.corrected
    fecUncorrectable := if f.uncorrectable then p.fecUncorrectable.inc else p.fecUncorrectable }

theorem State.flitReceived_bad (hn : n < s.ewl.ports.length) (hup : (s.ewPort n).state = .up)
    (hbad : f.uncorrectable = true ∨ f.crcOk = false) :
    (s.flitReceived n f).ewPort n =
      { (s.ewPort n).decoded f with crcErrors := (s.ewPort n).crcErrors.inc, nak := true } := by
  rw [State.flitReceived, if_neg (by simp [hup])]
  extract_lets now counted
  rw [if_pos (by simpa using hbad), State.ewPort_modEw (by rwa [State.ports_length_modEw]), State.ewPort_modEw hn]
  rfl

theorem State.flitReceived_good (hn : n < s.ewl.ports.length) (hup : (s.ewPort n).state = .up) (hu : f.uncorrectable = false)
    (hc : f.crcOk = true) (hnak : f.nak = false) :
    (s.flitReceived n f).ewPort n =
      ({ (((s.ewPort n).decoded f).acked f.ack).take f with lastValid := s.time.elapsed, peerFreed := f.credits }).run
        s.time.elapsed := by
  rw [State.flitReceived, if_neg (by simp [hup])]
  extract_lets now counted taken told
  have hlen : n < counted.ewl.ports.length := by rwa [State.ports_length_modEw]
  have htold : told = taken := if_neg (by simp [hnak])
  rw [if_neg (by simp [hu, hc]), htold, State.ewPort_modEw (by rwa [State.ports_length_modEw]), State.ewPort_modEw hlen,
    State.ewPort_modEw hn]
  rfl

/-- R354: a flit in order is taken, whatever it acknowledges. -/
theorem EwPort.take_acked {p : EwPort} (hd : f.data = true) (hs : f.seq = p.expectSeq) :
    let q := ((p.decoded f).acked f.ack).take f
    q.expectSeq = (p.expectSeq + 1) % 4096 ∧ q.lastGood = f.seq ∧ q.nak = false ∧ q.flitsReceived = p.flitsReceived.inc := by
  intro q
  obtain ⟨r, c, k, hack⟩ := (p.decoded f).acked_only f.ack
  have hseq : f.seq = ((p.decoded f).acked f.ack).expectSeq := by
    rw [hack]
    exact hs
  have hq : q = _ := EwPort.take_inOrder hd hseq
  rw [hq, hack]
  exact ⟨rfl, rfl, rfl, rfl⟩

theorem State.flitReceived_taken (hn : n < s.ewl.ports.length) (hup : (s.ewPort n).state = .up) (hu : f.uncorrectable = false)
    (hc : f.crcOk = true) (hnak : f.nak = false) (hd : f.data = true) (hs : f.seq = (s.ewPort n).expectSeq) :
    let q := (s.flitReceived n f).ewPort n
    q.expectSeq = ((s.ewPort n).expectSeq + 1) % 4096 ∧ q.lastGood = f.seq ∧ q.nak = false ∧
      q.flitsReceived = (s.ewPort n).flitsReceived.inc ∧ q.lastValid = s.time.elapsed := by
  intro q
  obtain ⟨hseq, hgood, htaken, hflits⟩ := EwPort.take_acked hd hs
  obtain ⟨-, -, -, rseq, rgood, rnak, rflits, rvalid⟩ := EwPort.run_keeps
    { (((s.ewPort n).decoded f).acked f.ack).take f with lastValid := s.time.elapsed, peerFreed := f.credits } s.time.elapsed
  have hq : q = _ := State.flitReceived_good hn hup hu hc hnak
  rw [hq]
  exact ⟨rseq.trans hseq, rgood.trans hgood, rnak.trans htaken, rflits.trans hflits, rvalid⟩

/-- R354, R355: every unacknowledged flit goes again, and the eighth replay of the oldest retrains the port. -/
theorem State.ewPort_replay (hn : n < s.ewl.ports.length) (hr : (s.ewPort n).replay.isEmpty = false) :
    (s.replay n).ewPort n =
      if (s.ewPort n).replayCount < 7 then (s.ewPort n).replayAll s.time.elapsed
      else { ((s.ewPort n).replayAll s.time.elapsed).moved .retraining with
        retrains := ((s.ewPort n).replayAll s.time.elapsed).retrains.inc } := by
  rw [State.replay, if_neg (by simp [hr])]
  extract_lets sent
  have hsent : sent.ewPort n = (s.ewPort n).replayAll s.time.elapsed :=
    (State.ewPort_congr (State.trace_ewl ..) n).trans (State.ewPort_modEw hn _)
  have hlen : n < sent.ewl.ports.length := by
    rw [State.trace_ewl, State.ports_length_modEw]
    exact hn
  have hcount : (sent.ewPort n).replayCount = (s.ewPort n).replayCount + 1 := by rw [hsent]; rfl
  rw [hcount]
  split
  · rw [if_neg (by omega), State.ewPort_portRetrains hlen, hsent]
  · rw [if_pos (by omega), hsent]

theorem State.replayTimeout_due {e : Nat × Nat} {l : List (Nat × Nat)} (hr : (s.ewPort n).replay = e :: l)
    (hup : (s.ewPort n).state = .up) (hdue : e.2 + 2000 ≤ s.time.elapsed) : s.replayTimeout n = s.replay n := by
  simp [State.replayTimeout, hr, hup, hdue]

/-- What a replay comes to on a port whose oldest unacknowledged flit is e. -/
theorem State.replay_effect {e : Nat × Nat} {l : List (Nat × Nat)} (hn : n < s.ewl.ports.length)
    (hr : (s.ewPort n).replay = e :: l) (hup : (s.ewPort n).state = .up) :
    ((s.replay n).ewPort n).replays = (s.ewPort n).replays.add 32 (l.length + 1) ∧
    ((s.replay n).ewPort n).replay.map (·.1) = e.1 :: l.map (·.1) ∧
    ((s.replay n).ewPort n).replayCount = (s.ewPort n).replayCount + 1 ∧
    ((s.replay n).ewPort n).state = (if (s.ewPort n).replayCount < 7 then .up else .retraining) := by
  rw [State.ewPort_replay hn (by rw [hr]; rfl)]
  have hall : ((s.ewPort n).replayAll s.time.elapsed).replays = (s.ewPort n).replays.add 32 (l.length + 1) ∧
      ((s.ewPort n).replayAll s.time.elapsed).replay.map (·.1) = e.1 :: l.map (·.1) := by
    simp [EwPort.replayAll, hr, Function.comp_def]
  obtain ⟨hreplays, hreplay⟩ := hall
  split
  · exact ⟨hreplays, hreplay, rfl, hup⟩
  · rw [EwPort.moved_eq]
    exact ⟨hreplays, hreplay, rfl, rfl⟩

end

/-! ### Retraining and training (R349, R355) -/

section
variable {s : State} {n : Nat}

theorem State.portRetrains_effect (hn : n < s.ewl.ports.length) :
    ((s.portRetrains n).ewPort n).state = .retraining ∧
      ((s.portRetrains n).ewPort n).retrains = (s.ewPort n).retrains.inc := by
  rw [State.ewPort_portRetrains hn, EwPort.moved_eq]
  exact ⟨rfl, rfl⟩

theorem State.portDown_effect (hn : n < s.ewl.ports.length) :
    ((s.portDown n).ewPort n).state = .down ∧ ((s.portDown n).ewPort n).downSince = s.time.elapsed := by
  rw [State.ewPort_portDown hn, EwPort.moved_eq]
  exact ⟨rfl, rfl⟩

theorem State.retrained_failed (hr : (s.ewPort n).state = .retraining) : s.retrained n false = s.portDown n := by
  simp [State.retrained, hr]

/-- A retrained port is UP again, its sequence numbers as they were. -/
theorem State.retrained_up (hn : n < s.ewl.ports.length) (hr : (s.ewPort n).state = .retraining) :
    ((s.retrained n true).ewPort n).state = .up ∧
    ((s.retrained n true).ewPort n).expectSeq = (s.ewPort n).expectSeq ∧
    ((s.retrained n true).ewPort n).lastValid = s.time.elapsed := by
  rw [State.retrained, if_neg (by simp [hr]), if_neg (by simp)]
  extract_lets now moved woken replayed
  have hmoved : n < moved.ewl.ports.length := by rwa [State.ports_length_portMoves]
  have hwoken : n < woken.ewl.ports.length := by rwa [State.ports_length_modEw]
  obtain ⟨wstate, wseq, wvalid⟩ : (woken.ewPort n).state = .up ∧ (woken.ewPort n).expectSeq = (s.ewPort n).expectSeq ∧
      (woken.ewPort n).lastValid = now := by
    rw [State.ewPort_modEw hmoved, State.ewPort_portMoves hn, EwPort.moved_eq]
    exact ⟨rfl, rfl, rfl⟩
  obtain ⟨hlen, hstate, hseq, hvalid⟩ : n < replayed.ewl.ports.length ∧ (replayed.ewPort n).state = (woken.ewPort n).state ∧
      (replayed.ewPort n).expectSeq = (woken.ewPort n).expectSeq ∧
      (replayed.ewPort n).lastValid = (woken.ewPort n).lastValid := by
    unfold replayed
    split
    · exact ⟨hwoken, rfl, rfl, rfl⟩
    · rw [State.ports_length_modEw, State.ewPort_modEw hwoken]
      exact ⟨hwoken, rfl, rfl, rfl⟩
  obtain ⟨rstate, -, -, rseq, -, -, -, rvalid⟩ := (replayed.ewPort n).run_keeps now
  rw [State.ewPort_modEw hlen]
  exact ⟨rstate.trans (hstate.trans wstate), rseq.trans (hseq.trans wseq), rvalid.trans (hvalid.trans wvalid)⟩

theorem State.trainingRetry_due (hn : n < s.ewl.ports.length) (hd : (s.ewPort n).state = .down)
    (hdue : (s.ewPort n).downSince + 100000000 ≤ s.time.elapsed) : ((s.trainingRetry n).ewPort n).state = .training := by
  rw [State.trainingRetry, if_neg (by simp [hd, hdue])]
  exact State.portMoves_state (by exact hn) .training

/-- What a message on a port leaves of every port. -/
def EwPort.link (p : EwPort) : PortState × Nat × Nat × Nat := (p.state, p.peerMember, p.peerPort, p.expectSeq)

theorem EwPort.run_link (p : EwPort) (now : Nat) : (p.run now).link = p.link := by
  obtain ⟨hstate, hmember, hport, hseq, -, -, -, -⟩ := p.run_keeps now
  simp only [EwPort.link, hstate, hmember, hport, hseq]

theorem State.ewPort_link_putMessage (s : State) (k n : Nat) (m : Msg) (bytes : List Byte) :
    ((s.putMessage k m bytes).ewPort n).link = (s.ewPort n).link := by
  by_cases hk : k = n
  · subst hk
    by_cases hlen : k < s.ewl.ports.length
    · exact (congrArg EwPort.link (State.ewPort_modEw hlen _)).trans (EwPort.run_link ..)
    · simp [State.ewPort, State.putMessage, State.modEw, modAt, hlen]
  · exact congrArg EwPort.link (State.ewPort_modEw_ne hk _)

theorem State.ewPort_link_greet (s : State) (k n : Nat) : ((s.greet k).ewPort n).link = (s.ewPort n).link :=
  foldl_keeps (fun t : State => (t.ewPort n).link) (fun t _ => t.ewPort_link_putMessage ..) _ _

theorem State.portTrained_failed (ht : (s.ewPort n).state = .training) (member peer : Nat) :
    s.portTrained n false member peer = s.portDown n := by
  simp [State.portTrained, ht]

/-- R349, R355: sequence numbers start anew with the peer that the training has shown. -/
theorem State.portTrained_up (hn : n < s.ewl.ports.length) (ht : (s.ewPort n).state = .training) (member peer : Nat) :
    ((s.portTrained n true member peer).ewPort n).link = (.up, member, peer, 0) := by
  rw [State.portTrained, if_neg (by simp [ht]), if_neg (by simp)]
  extract_lets now trained
  have htrained : (trained.ewPort n).link = (.up, member, peer, 0) := by
    rw [State.ewPort_modEw (by rwa [State.ports_length_portMoves]), EwPort.run_link, State.ewPort_portMoves hn, EwPort.moved_eq]
    rfl
  split
  · exact (trained.ewPort_link_greet n n).trans htrained
  · exact htrained

end

/-! ### LINK flits (R363) -/

section
variable {s : State} {n : Nat}

theorem State.ewPort_followParent (h : s.ewl.cascade ≠ .forming) (offset : Int) (k : Nat) :
    (s.followParent offset).ewPort k = s.ewPort k := by
  unfold State.followParent
  extract_lets far _ counted steered
  rw [if_neg (by simp [show steered.ewl.cascade = s.ewl.cascade from rfl, h])]
  rfl

theorem State.formComplete_formed (h : s.ewl.cascade ≠ .forming) : s.formComplete = s := by
  rw [State.formComplete, if_neg (by simp [h])]

/-- The port with the timestamps of a LINK flit. -/
def EwPort.stamped (p : EwPort) (s : State) (t1 echo t4 member peer : Nat) : EwPort :=
  let x := linkExchange t1 s.now echo t4
  { p with
    peerMember := member, peerPort := peer, lastT1 := t1, lastReceive := s.now, lastValid := s.time.elapsed
    delay := if echo = 0 then p.delay else x.1
    good := if echo = 0 then p.good else if x.2.natAbs ≤ 20 then p.good + 1 else 0 }

theorem State.ewPort_linkFlit (hn : n < s.ewl.ports.length) (hup : (s.ewPort n).state = .up) (hc : s.ewl.cascade ≠ .forming)
    (t1 echo t4 member peer : Nat) :
    (s.linkFlit n t1 echo t4 member peer).ewPort n = (s.ewPort n).stamped s t1 echo t4 member peer := by
  rw [State.linkFlit, if_neg (by simp [hup])]
  extract_lets x first t
  have ht : t.ewPort n = (s.ewPort n).stamped s t1 echo t4 member peer :=
    (State.ewPort_modEw hn _).trans (by simp [EwPort.stamped, first, x])
  have hform : t.ewl.cascade ≠ .forming := hc
  split
  · exact ht
  · split
    · rw [State.ewPort_followParent hform, ht]
    · rw [State.formComplete_formed hform, ht]

end

end Sys2Proof.Machine

section

open Sys2Proof Sys2Proof.Machine

/-- Settles O48: each event runs one operation of the port in the state dt later, and that operation's lemma gives the port. -/
theorem euwaldPortsDeliver : Obligations.EuwaldPortsDeliver := by
  intro s dt n lane t1 echo t4 member peer f e l u p now hn
  refine ⟨fun hup hbad => ⟨_, rfl, ?bad⟩, fun hup hu hc hd hs hnak => ⟨_, rfl, ?taken⟩, fun hr hup hdue => ⟨_, rfl, ?replayed⟩,
    fun hup hdue => ⟨_, rfl, ?silent⟩, fun hup hlane => ⟨_, rfl, ?lane⟩, fun hr => ⟨⟨_, rfl, ?retrained⟩, ⟨_, rfl, ?failed⟩⟩,
    fun ht => ⟨⟨_, rfl, ?trained⟩, ⟨_, rfl, ?untrained⟩⟩, fun hl hd hdue => ⟨_, rfl, ?retry⟩,
    fun hup hc => ⟨_, rfl, ?link⟩⟩
  case bad =>
    rw [State.flitReceived_bad hn hup hbad]
    exact ⟨rfl, rfl, rfl, rfl⟩
  case taken => exact State.flitReceived_taken hn hup hu hc hnak hd hs
  case replayed =>
    rw [State.replayTimeout_due hr hup hdue]
    exact State.replay_effect hn hr hup
  case silent =>
    rw [State.flitSilence, if_pos (by simpa using ⟨hup, hdue⟩)]
    exact State.portRetrains_effect hn
  case lane =>
    rw [if_pos hlane, State.laneLost, if_pos hup]
    exact State.portRetrains_effect hn
  case retrained => exact State.retrained_up hn hr
  case failed =>
    rw [State.retrained_failed hr]
    exact State.portDown_effect hn
  case trained =>
    have hlink := State.portTrained_up hn ht member peer
    simpa only [EwPort.link, Prod.mk.injEq] using hlink
  case untrained =>
    rw [State.portTrained_failed ht]
    exact (State.portDown_effect hn).1
  case retry =>
    rw [if_pos hl]
    exact State.trainingRetry_due hn hd hdue
  case link =>
    rw [State.ewPort_linkFlit hn hup hc]
    exact ⟨rfl, rfl, rfl, rfl⟩

end
end

section
/-! PROOFS. DRAM bursts that fail (R387 to R392, Table 16.4): a refetch, a lost burst, a rebuild and a refused write, and the rates that
make each of them a persistent fault. -/

namespace Sys2Proof.Machine

open Sys2Proof

theorem State.not_faulted_of_live {s : State} (h : s.live = true) : s.host.state ≠ .faulted := by
  intro hf
  simp [State.live, hf] at h

/-! ### Failed reads (R387, R388, R390) -/

/-- The failed read counted on the channel of the burst. -/
def Dram.countFailed (d : Dram) (ch : Nat) : Dram :=
  { d with channelErrors := aset d.channelErrors ch ((agetD d.channelErrors ch {}).inc) }

/-- The bursts of a channel that were lost less than 1,000 ms before now. -/
def Dram.recentLosses (d : Dram) (ch now : Nat) : List (Nat × Nat) :=
  d.channelTimes.filter fun x => x.1 = ch ∧ now < x.2 + 1000000000

/-- R390: the burst that is lost now is one more than those of the last 1,000 ms. -/
theorem Dram.countLost_faulty (d : Dram) (a content now : Nat) :
    (d.countLost a content now).faulty (channelOf d.grain a) = decide (16 ≤ (d.recentLosses (channelOf d.grain a) now).length) := by
  have hcount : ((d.countLost a content now).channelTimes.filter fun e => e.1 = channelOf d.grain a).length =
      (d.recentLosses (channelOf d.grain a) now).length + 1 := by
    simp [Dram.countLost, Dram.recentLosses, List.filter_filter, ← Bool.decide_and]
  rw [Dram.faulty, hcount]
  exact decide_eq_decide.2 Nat.lt_succ_iff

/-- The refetch counted too. -/
def Dram.countRefetch (d : Dram) (ch : Nat) : Dram := { d.countFailed ch with refetched := d.refetched.inc }

section
variable {s : State} {address content failed k : Nat} {sample : Option Nat}

section
variable (hl : s.live = true) (hr : s.dram.selfRefresh = false)
  (hp : s.dram.poisonedBursts.contains (address / 64 * 64 / 64) = false)
include hl hr hp

/-- R387: one or two failed reads are made good, and cost the chain that reads. -/
theorem State.readFails_refetched (hf : failed < 3) :
    s.readFails address content failed none =
      { s with dram := s.dram.countRefetch (channelOf s.dram.grain (address / 64 * 64)) } ∧
    s.readFails address content failed (some k) =
      ({ s with dram := s.dram.countRefetch (channelOf s.dram.grain (address / 64 * 64)) }).chargeRepair k 0x0B 0 500 := by
  unfold State.readFails
  extract_lets a
  simp only [hl, hr, a, hp, hf, Bool.not_true, Bool.or_self, Bool.false_eq_true, if_false, if_true]
  exact ⟨rfl, rfl⟩

/-- R388: a third failed read loses the burst. -/
theorem State.readFails_third (hf : 3 ≤ failed) :
    s.readFails address content failed sample =
      ({ s with dram := s.dram.countFailed (channelOf s.dram.grain (address / 64 * 64)) }).loseBurst (address / 64 * 64) content
        sample := by
  unfold State.readFails
  extract_lets a
  simp only [hl, hr, a, hp, Nat.not_lt.2 hf, Bool.not_true, Bool.or_self, Bool.false_eq_true, if_false]
  rfl

end

/-- The state that has counted a lost burst. -/
def State.countedLost (s : State) (address content : Nat) : State :=
  { s with dram := s.dram.countLost address content s.time.elapsed }

theorem State.loseBurst_eq (s : State) (address content : Nat) (sample : Option Nat) :
    s.loseBurst address content sample =
      if 16 ≤ (s.dram.recentLosses (channelOf s.dram.grain address) s.time.elapsed).length then
        (s.countedLost address content).enterFaulted clsDram (channelOf s.dram.grain address)
      else (s.countedLost address content).burstLost address content sample := by
  have h : s.loseBurst address content sample =
      if (s.dram.countLost address content s.time.elapsed).faulty (channelOf s.dram.grain address) then
        (s.countedLost address content).enterFaulted clsDram (channelOf s.dram.grain address)
      else (s.countedLost address content).burstLost address content sample := rfl
  rw [h, Dram.countLost_faulty]
  exact if_congr decide_eq_true_iff rfl rfl

/-- The firmware region (content 2 of Table 16.4) is rebuilt from firmware's second copy; until then the burst is only marked. -/
theorem State.loseBurst_marked (h : (s.dram.recentLosses (channelOf s.dram.grain address) s.time.elapsed).length < 16) :
    s.loseBurst address 2 none = s.countedLost address 2 := by
  rw [State.loseBurst_eq, if_neg (Nat.not_le.2 h)]
  rfl

/-- R390: the 17th burst that a channel loses within 1,000 ms faults it. -/
theorem State.loseBurst_faults (hlive : s.live = true)
    (h : 16 ≤ (s.dram.recentLosses (channelOf s.dram.grain address) s.time.elapsed).length) :
    (s.loseBurst address content sample).host.state = .faulted ∧ (s.loseBurst address content sample).host.fault = clsDram ∧
      (s.loseBurst address content sample).host.faultUnit = channelOf s.dram.grain address := by
  rw [State.loseBurst_eq, if_pos h]
  have hrun : (s.countedLost address content).host.state ≠ .faulted := State.not_faulted_of_live hlive
  exact State.enterFaulted_host hrun clsDram (channelOf s.dram.grain address)

/-! ### Rebuilds and refused writes (R389, R390, R392) -/

section
variable {e : Nat × Nat} (hl : s.live = true) (he : (s.dram.lostBursts.find? fun x => x.1 = address / 64) = some e)
  (hc : [1, 2, 8].contains e.2 = true)
include hl he hc

theorem State.burstRebuilt_stands :
    s.burstRebuilt address true = { s with dram := { s.dram with
      rebuilt := s.dram.rebuilt.inc, lostBursts := s.dram.lostBursts.filter fun x => x.1 ≠ address / 64 } } := by
  simp only [State.burstRebuilt, he, hl, hc]
  rfl

theorem State.burstRebuilt_faults :
    s.burstRebuilt address false =
      ({ s with dram := { s.dram with rebuilt := s.dram.rebuilt.inc } }).enterFaulted clsDram (channelOf s.dram.grain address) := by
  simp only [State.burstRebuilt, he, hl, hc]
  rfl

end

theorem State.writeCodeError_first (hl : s.live = true) :
    s.writeCodeError address false = { s with dram := { s.dram with writeCodeErrors := s.dram.writeCodeErrors.inc } } := by
  simp only [State.writeCodeError, hl, Bool.not_true, Bool.false_eq_true, if_false]

theorem State.writeCodeError_second (hl : s.live = true) :
    s.writeCodeError address true =
      ({ s with dram := { s.dram with writeCodeErrors := s.dram.writeCodeErrors.inc } }).enterFaulted clsDram
        (channelOf s.dram.grain address) := by
  simp only [State.writeCodeError, hl, Bool.not_true, Bool.false_eq_true, if_false, if_true]

end

end Sys2Proof.Machine

section

open Sys2Proof Sys2Proof.Machine

/-- Settles O44: each event runs its operation in the state dt later, and the operation's lemma for the case gives its effect. -/
theorem failingBurstsAreRefetchedOrLost : Obligations.FailingBurstsAreRefetchedOrLost := by
  intro s dt address content failed k e u d a ch counted hl
  refine ⟨fun hr hp => ⟨fun hf => ?refetched, fun hf hfew => ⟨_, rfl, ?lost⟩, fun hf hmany => ⟨_, rfl, ?faulty⟩⟩,
    fun he hc => ?rebuilt, ?refused, ?refusedAgain⟩
  case refetched =>
    obtain ⟨hnone, hsome⟩ := State.readFails_refetched (content := content) (k := k) hl hr hp hf
    exact ⟨congrArg Host.Outcome.next hnone, congrArg Host.Outcome.next hsome⟩
  case lost =>
    have hlost := (State.readFails_third (content := 2) (sample := none) hl hr hp hf).trans (State.loseBurst_marked hfew)
    rw [hlost]
    exact ⟨rfl, rfl, rfl, rfl, rfl, List.mem_cons_self, rfl⟩
  case faulty =>
    rw [State.readFails_third hl hr hp hf]
    exact State.loseBurst_faults hl hmany
  case rebuilt =>
    exact ⟨congrArg Host.Outcome.next (State.burstRebuilt_stands hl he hc),
      congrArg Host.Outcome.next (State.burstRebuilt_faults hl he hc)⟩
  case refused => exact congrArg Host.Outcome.next (State.writeCodeError_first hl)
  case refusedAgain => exact congrArg Host.Outcome.next (State.writeCodeError_second hl)

end
end

section
/-! PROOFS. Clocks, cores and trips (R399, R444, R452, Table 17.1): what takes the device to FAULTED, and a line that a core fetches
again. -/

namespace Sys2Proof.Machine

open Sys2Proof

section
variable {s : State}

/-- R452: the shutdown shows the sensor, and the domains stop with THERM_N asserted. -/
theorem State.thermalFault_effect (h : s.host.state ≠ .faulted) (sensor : Nat) :
    (s.thermalFault sensor).host.state = .faulted ∧ (s.thermalFault sensor).host.fault = clsThermal ∧
    (s.thermalFault sensor).host.faultUnit = sensor ∧ (s.thermalFault sensor).pwr.stopped = true ∧
    (s.thermalFault sensor).pwr.therm = true := by
  obtain ⟨hstate, hclass, hunit⟩ := State.enterFaulted_host h clsThermal sensor
  exact ⟨hstate, hclass, hunit, rfl, rfl⟩

theorem State.tripHeld_due {since : Nat} (hs : s.pwr.tripSince = some since) (ht : s.pwr.trip = true)
    (hdue : since + 100000000 ≤ s.time.elapsed) : s.tripHeld = s.thermalFault s.pwr.tripSensor := by
  simp [State.tripHeld, hs, ht, hdue]

/-- R444: the loss of a PLL's lock is a CORE fault. -/
theorem State.lostLock_faults {domain : Nat} (hp : s.pllLocked domain = true) (h : s.host.state ≠ .faulted) :
    (s.lostLock domain).host.state = .faulted ∧ (s.lostLock domain).host.fault = clsCore := by
  rw [State.lostLock, if_neg (by simp [hp])]
  obtain ⟨hstate, hclass, -⟩ := State.enterFaulted_host
    (s := { s.draw.2 with pwr := { s.draw.2.pwr with unlocked := domain :: s.draw.2.pwr.unlocked } }) h clsCore
    (Config.freeNat s.draw.1 % 12)
  exact ⟨hstate, hclass⟩

theorem State.refetchLine_rare {core : Nat} (h : (recordRepeat s.ms (agetD s.cores core [])).2 = false) :
    s.refetchLine core =
      ({ s with
          cores := aset s.cores core (recordRepeat s.ms (agetD s.cores core [])).1
          coreRefetches := s.coreRefetches + 1 }).trace 4 clsCore core 0x0F s.cueNow := by
  unfold State.refetchLine
  extract_lets r t
  rw [if_neg (by simp [r, h])]
  rfl

theorem State.powered_of_released (h : s.host.bootStep ≠ 0) : s.powered = true := decide_eq_true h

end

end Sys2Proof.Machine

section

open Sys2Proof Sys2Proof.Machine

/-- Settles O46: each event runs its operation in the state dt later, and the operation's lemma gives the fault or the record. -/
theorem clocksCoresAndTripsFault : Obligations.ClocksCoresAndTripsFault := by
  intro s dt since domain core n u
  refine ⟨fun hs ht hdue hrun => ⟨_, rfl, ?trip⟩, fun hp hrun => ⟨_, rfl, ?lock⟩,
    fun hboot hrun => ⟨⟨_, congrArg Host.Outcome.next (if_pos (State.powered_of_released hboot)), ?watchdog⟩, fun hrare => ?refetch⟩,
    fun h8 hlen hon => ⟨_, rfl, ?reference⟩⟩
  case trip =>
    rw [State.tripHeld_due hs ht hdue]
    exact State.thermalFault_effect hrun u.pwr.tripSensor
  case lock => exact State.lostLock_faults hp hrun
  case watchdog => exact State.enterFaulted_host hrun clsCore core
  case refetch =>
    have hruns : exec (.coreInstructionRefetch dt core) s = .next (u.refetchLine core) :=
      congrArg Host.Outcome.next (if_pos (Bool.and_eq_true_iff.2
        ⟨State.powered_of_released hboot, decide_eq_true hrun⟩))
    rw [hruns, State.refetchLine_rare hrare]
  case reference =>
    obtain ⟨hhouse, hdram⟩ := u.ewLost_memories
    exact ⟨State.ewLost_down h8 (hlen ▸ h8) hon, hhouse, hdram⟩

end
end

section
/-! PROOFS. Messages between members (R357 to R362): which message a member takes, what sending one leaves as it is, and what becomes of
blocks, bulk data and retained copies. -/

namespace Sys2Proof.Machine

open Sys2Proof

/-! ### Messages that arrive -/

section
variable {s : State} {m : Msg} {kind : Nat} {mine pass : State → State}

/-- R358: a message of the right KIND and LENGTH ends here where DST is this member. -/
theorem State.receive_mine (hl : s.live = true) (hep : s.stageManager = true → m.epoch ≤ s.ewl.epoch) (hk : m.kind = kind)
    (hlen : m.length ≤ 65536) (hd : m.dst = s.ewl.member) : s.receive m kind mine pass = mine s := by
  have hrank : ¬ (s.stageManager && decide (s.ewl.epoch < m.epoch)) = true := by
    simpa using hep
  rw [State.receive, if_neg (by simp [hl]), if_neg hrank, if_neg (by simp [hk, hlen]), if_neg (by simp [hd])]

/-- A message that every member takes does not depend on DST. -/
theorem State.receive_all (hl : s.live = true) (hep : s.stageManager = true → m.epoch ≤ s.ewl.epoch) (hk : m.kind = kind)
    (hlen : m.length ≤ 65536) : s.receive m kind mine mine = mine s := by
  have hrank : ¬ (s.stageManager && decide (s.ewl.epoch < m.epoch)) = true := by
    simpa using hep
  rw [State.receive, if_neg (by simp [hl]), if_neg hrank, if_neg (by simp [hk, hlen]), ite_self]

end

/-! ### Messages that are sent -/

/-- All that sending can change: the ports, and what has left the device. -/
def Sends (s t : State) : Prop := ∃ p o, t = { s with ewl := { s.ewl with ports := p }, outputs := o }

theorem Sends.refl (s : State) : Sends s s := ⟨_, _, rfl⟩

theorem Sends.trans {s t u : State} (h : Sends s t) (g : Sends t u) : Sends s u := by
  obtain ⟨_, _, rfl⟩ := h
  obtain ⟨_, _, rfl⟩ := g
  exact ⟨_, _, rfl⟩

theorem Sends.foldl {α : Type} {f : State → α → State} (h : ∀ t a, Sends t (f t a)) (l : List α) (s : State) :
    Sends s (l.foldl f s) := by
  induction l generalizing s with
  | nil => exact .refl s
  | cons a l ih => exact (h s a).trans (ih _)

theorem State.putMessage_sends (s : State) (port : Nat) (m : Msg) (bytes : List Byte) : Sends s (s.putMessage port m bytes) :=
  ⟨_, _, rfl⟩

theorem State.send_sends (s : State) (kind dst address chain block : Nat) (sealed : Bool) (bytes : List Byte) :
    Sends s (s.send kind dst address chain block sealed bytes) := by
  unfold State.send
  split
  · exact s.putMessage_sends ..
  · exact .refl s

theorem State.flood_sends (s : State) (m : Msg) (bytes : List Byte) : Sends s (s.flood m bytes) :=
  .foldl (fun t _ => t.putMessage_sends ..) _ s

theorem State.sendRetained_sends (s : State) (r : Retained) (port : Option Nat) (dst address : Nat) :
    Sends s (s.sendRetained r port dst address) := by
  unfold State.sendRetained
  cases port with
  | none => exact .refl s
  | some p => exact s.putMessage_sends ..

/-- A message with a port that leads to its member goes out on the best of them. -/
theorem State.send_outputs {s : State} {dst port : Nat} (h : (s.routePorts dst).head? = some port)
    (kind address chain block : Nat) (sealed : Bool) (bytes : List Byte) :
    .message port (s.header kind dst address chain block bytes.length sealed) bytes ∈
      (s.send kind dst address chain block sealed bytes).outputs := by
  rw [State.send, h]
  exact List.mem_cons_self

/-! ### Blocks and bulk data (R358, R360) -/

section
variable {s : State} {m : Msg} {data : List Byte}

/-- Landing writes the bytes, and may seal the buffer they lie in. -/
theorem State.land_only : ∃ w, s.land m data =
    { s.writeMem (bufDram m.address) (bufAddr m.address) data with wardrobe := w } := by
  unfold State.land
  extract_lets t
  split
  · split <;> exact ⟨_, rfl⟩
  · exact ⟨_, rfl⟩

/-- What a block that has landed counts: its first arrival only. -/
def Ewl.arrived (e : Ewl) (key : Nat × Nat × Nat) : Ewl :=
  { e with
    received := if e.received.contains key then e.received else key :: e.received
    handoffReceived := if e.received.contains key then e.handoffReceived else e.handoffReceived.inc }

/-- R358, R360: the block lands, its first arrival is counted and signalled, and an acknowledgement goes back. -/
theorem State.takeBlock_landed (hin : s.inCascade = true) (hb : bufDram m.address = false) (ht : s.takesBytes m data = true) :
    ∃ t : State, s.takeBlock m data = t.send 0x02 m.src m.address m.chain m.block false [] ∧
      t.house = (s.writeMem false (bufAddr m.address) data).house ∧ t.dram = s.dram ∧
      t.ewl = s.ewl.arrived (m.chain, m.block, m.address) := by
  obtain ⟨w, hland⟩ := State.land_only (s := s) (m := m) (data := data)
  rw [hb] at hland
  unfold State.takeBlock
  rw [if_neg (by simp [hin, hb, ht])]
  extract_lets key again landed _ e signalled
  obtain ⟨hhouse, hdram, hewl⟩ : landed.house = (s.writeMem false (bufAddr m.address) data).house ∧
      landed.dram = s.dram ∧ landed.ewl = s.ewl := by
    have hlanded : landed = _ := hland
    rw [hlanded]
    exact ⟨rfl, rfl, rfl⟩
  refine ⟨signalled, rfl, ?_⟩
  unfold Ewl.arrived
  by_cases hagain : s.ewl.received.contains key = true
  · have hsame : signalled = landed := if_pos hagain
    rw [if_pos hagain, if_pos hagain, hsame]
    exact ⟨hhouse, hdram, hewl⟩
  · obtain ⟨b, hsignal⟩ := State.signalRange_only (s := { landed with ewl := e }) (a := bufAddr m.address) (n := m.length)
    have hnew : signalled = _ := (if_neg hagain).trans hsignal
    rw [if_neg hagain, if_neg hagain, hnew]
    exact ⟨hhouse, hdram, congrArg (fun x : Ewl =>
      { x with received := key :: x.received, handoffReceived := x.handoffReceived.inc }) hewl⟩

theorem State.takeBlock_refused (ht : s.takesBytes m data = false) : s.takeBlock m data = s.badMessage := by
  rw [State.takeBlock, if_pos (by simp [ht])]

/-- The routes and the header of a message depend on the ports, the routes and the place in the cascade only. -/
theorem State.routePorts_congr {s t : State} (hp : t.ewl.ports = s.ewl.ports) (hr : t.ewl.routes = s.ewl.routes) (dst : Nat) :
    t.routePorts dst = s.routePorts dst := by
  have hport (n : Nat) : t.ewPort n = s.ewPort n := by rw [State.ewPort, State.ewPort, hp]
  have hup : t.upPorts = s.upPorts := by simp only [State.upPorts, hport]
  unfold State.routePorts
  rw [hup, hr]
  simp only [hport]

theorem State.takeBlock_effect (hin : s.inCascade = true) (hb : bufDram m.address = false) (ht : s.takesBytes m data = true) :
    let t := s.takeBlock m data
    t.house = (s.writeMem false (bufAddr m.address) data).house ∧ t.dram = s.dram ∧
    t.ewl.received = (s.ewl.arrived (m.chain, m.block, m.address)).received ∧
    t.ewl.handoffReceived = (s.ewl.arrived (m.chain, m.block, m.address)).handoffReceived ∧
    ∀ port, (s.routePorts m.src).head? = some port →
      .message port (s.header 0x02 m.src m.address m.chain m.block 0 false) [] ∈ t.outputs := by
  intro t
  obtain ⟨v, hv, hhouse, hdram, hewl⟩ := State.takeBlock_landed hin hb ht
  obtain ⟨p, o, hsent⟩ := v.send_sends 0x02 m.src m.address m.chain m.block false []
  have ht : t = _ := hv.trans hsent
  refine ⟨by rw [ht]; exact hhouse, by rw [ht]; exact hdram, by rw [ht, ← hewl], by rw [ht, ← hewl], fun port hport => ?_⟩
  have hroute : (v.routePorts m.src).head? = some port := by
    rw [State.routePorts_congr (s := s) (by rw [hewl]; rfl) (by rw [hewl]; rfl), hport]
  have hheader : v.header 0x02 m.src m.address m.chain m.block 0 false = s.header 0x02 m.src m.address m.chain m.block 0 false := by
    rw [State.header, hewl]
    rfl
  unfold t
  rw [← hheader, hv]
  exact State.send_outputs hroute ..

/-! ### Acknowledgements and retained copies (R355, R360, R362) -/

theorem State.blockAcked_eq (s : State) (m : Msg) :
    s.blockAcked m = { s with ewl := { s.ewl with retained := s.ewl.retained.map fun (x : Retained) =>
      if x.chain = m.chain ∧ x.index = m.block ∧ x.dst = m.src then { x with acked := true } else x } } := by
  simp only [State.blockAcked, Bool.and_eq_true, decide_eq_true_eq, and_assoc]

/-- A copy has waited 20 µs for its BLOCK_ACK. -/
def State.lateCopy (s : State) (chain index : Nat) (x : Retained) : Bool :=
  x.chain = chain && x.index = index && !x.acked && x.sentAt + 20000 ≤ s.time.elapsed

/-- The state that has sent a late copy again. -/
def State.resentLate (s : State) (chain index : Nat) (r : Retained) : State :=
  ({ s with ewl := { s.ewl with
      handoffResent := s.ewl.handoffResent.inc
      retained := s.ewl.retained.map fun (x : Retained) =>
        if s.lateCopy chain index x then { x with sentAt := s.time.elapsed } else x } }).sendRetained r
    (s.backupPort r.dst) r.dst r.address

theorem State.blockSilent_resends {chain index : Nat} {r : Retained} (hl : s.live = true)
    (hr : s.ewl.retained.find? (s.lateCopy chain index) = some r) :
    s.blockSilent chain index = match r.sample with
      | some k => (s.resentLate chain index r).repeatUnit (.chain k) 0x0E 21000 0 0
      | none => (s.resentLate chain index r).trace 4 0 0 0x0E (s.resentLate chain index r).cueNow := by
  unfold State.blockSilent
  extract_lets late
  have hlate : s.ewl.retained.find? late = some r := hr
  rw [hlate]
  dsimp only
  rw [if_neg (by simp [hl])]
  rfl

theorem State.resentLate_effect (s : State) (chain index : Nat) (r : Retained) :
    (s.resentLate chain index r).ewl.handoffResent = s.ewl.handoffResent.inc ∧
    (s.resentLate chain index r).house = s.house ∧ (s.resentLate chain index r).dram = s.dram := by
  unfold State.resentLate
  generalize hv : ({ s with ewl := _ } : State) = v
  obtain ⟨p, o, h⟩ := v.sendRetained_sends r (s.backupPort r.dst) r.dst r.address
  rw [h, ← hv]
  exact ⟨rfl, rfl, rfl⟩

theorem mem_insertRetained {r x : Retained} {l : List Retained} : x ∈ insertRetained r l ↔ x = r ∨ x ∈ l := by
  induction l with
  | nil => simp [insertRetained]
  | cons d l ih =>
    unfold insertRetained
    split
    · exact List.mem_cons
    · simp only [List.mem_cons, ih]
      tauto

theorem mem_foldr_insertRetained {x : Retained} {l : List Retained} : x ∈ l.foldr insertRetained [] ↔ x ∈ l := by
  induction l with
  | nil => rfl
  | cons d l ih => rw [List.foldr_cons, mem_insertRetained, ih, List.mem_cons]

/-- R362: a block whose copy has been freed is named in a REPLY. -/
theorem State.resendFrom_freed (hin : s.inCascade = true) (hm : s.memberLost m.src = false)
    (h : ∀ x ∈ s.ewl.retained, ¬ (x.chain = m.chain ∧ x.index = m.block)) :
    s.resendFrom m = s.send 0x07 m.src 0 m.chain m.block false ([3] ++ leBytes 4 m.block) := by
  unfold State.resendFrom
  extract_lets held
  have hheld : ¬ (held.any fun r => r.index = m.block) = true := by
    rw [List.any_eq_true]
    rintro ⟨x, hx, hindex⟩
    have hkept := List.mem_filter.1 (mem_foldr_insertRetained.1 hx)
    simp only [Bool.and_eq_true, decide_eq_true_eq] at hkept hindex
    obtain ⟨hretained, hchain, -⟩ := hkept
    exact h x hretained ⟨hchain, hindex⟩
  rw [if_neg (by simp [hin, hm]), if_neg hheld]

theorem State.resendFrom_single {r : Retained} (hin : s.inCascade = true) (hm : s.memberLost m.src = false)
    (hr : s.ewl.retained = [r]) (hc : r.chain = m.chain) (hi : r.index = m.block) : s.resendFrom m = s.resendOne m r := by
  simp [State.resendFrom, hin, hm, hr, hc, hi, insertRetained]

theorem State.resendOne_single {r : Retained} (hr : s.ewl.retained = [r]) :
    (s.resendOne m r).ewl.handoffResent = s.ewl.handoffResent.inc ∧
    (s.resendOne m r).ewl.retained = [{ r with
      sentAt := s.time.elapsed, acked := false, dst := m.src
      address := if m.address = 0 then r.address else m.address + 65536 * (r.index - m.block) }] := by
  unfold State.resendOne
  extract_lets goal _ e
  obtain ⟨p, o, h⟩ := State.sendRetained_sends { s with ewl := e } r (s.blockPort m.src r.index) m.src goal
  have he : e.retained = [{ r with sentAt := s.time.elapsed, acked := false, dst := m.src, address := goal }] := by
    simp [e, hr]
  rw [h]
  exact ⟨rfl, he⟩

end

end Sys2Proof.Machine

section

open Sys2Proof Sys2Proof.Machine

/-- Settles O49: the message ends here, so what its operation does in the state dt later is its whole effect. -/
theorem blocksArriveAndAreRetained : Obligations.BlocksArriveAndAreRetained := by
  intro s dt chain index m data r u key late bad goal hl hin hep hlen hd
  refine ⟨fun hk hb ht => ⟨u.takeBlock m data, ?block, ?landed⟩, fun hk ht => congrArg Host.Outcome.next ?dropped,
    fun hk ht => ⟨u.land m data, congrArg Host.Outcome.next ?write, ?written⟩, fun hk => congrArg Host.Outcome.next ?acked,
    fun hr => ⟨u.resentLate chain index r, ?silent⟩, fun hk hm => ⟨fun hfreed => congrArg Host.Outcome.next ?freed,
    fun hr hc hi => ⟨u.resendOne m r, congrArg Host.Outcome.next ?resend, State.resendOne_single hr⟩⟩⟩
  case block => exact congrArg Host.Outcome.next (State.receive_mine hl hep hk hlen hd)
  case landed => exact State.takeBlock_effect hin hb ht
  case dropped => exact (State.receive_mine hl hep hk hlen hd).trans (State.takeBlock_refused ht)
  case write => exact (State.receive_mine hl hep hk hlen hd).trans (if_pos (Bool.and_eq_true_iff.2 ⟨hin, ht⟩))
  case written =>
    obtain ⟨w, hland⟩ := State.land_only (s := u) (m := m) (data := data)
    obtain ⟨h, x, hmem⟩ := State.writeMem_only (s := u) (d := bufDram m.address) (a := bufAddr m.address) (bs := data)
    rw [hland, hmem]
    exact ⟨rfl, rfl, rfl⟩
  case acked => exact (State.receive_mine hl hep hk hlen hd).trans (u.blockAcked_eq m)
  case silent =>
    obtain ⟨hresent, hhouse, hdram⟩ := u.resentLate_effect chain index r
    have hsilent := State.blockSilent_resends hl hr
    refine ⟨hresent, hhouse, hdram, fun hnone => congrArg Host.Outcome.next ?_, fun k hk => congrArg Host.Outcome.next ?_⟩
    · rw [hnone] at hsilent
      exact hsilent
    · rw [hk] at hsilent
      exact hsilent
  case freed => exact (State.receive_mine hl hep hk hlen hd).trans (State.resendFrom_freed hin hm hfreed)
  case resend => exact (State.receive_mine hl hep hk hlen hd).trans (State.resendFrom_single hin hm hr hc hi)

end
end

section
/-! PROOFS. Heartbeats, lost members and cascade control (R358, R365, R369, R406): what sending, mirroring and completing leave of the
cascade, what the loss of a member makes of it, and what each message of control comes to. -/

namespace Sys2Proof.Machine

open Sys2Proof

/-! ### What of the cascade stays -/

/-- The cascade's state, this member's place in it, and what is known of the others. -/
def Ewl.order (e : Ewl) : CascadeState × Nat × Nat × Nat × Option Nat × List (Nat × Member) :=
  (e.cascade, e.role, e.epoch, e.manager, e.deputy, e.table)

/-- No command waits for the mirror. -/
def State.noneHeld (s : State) : Prop := ∀ h ∈ s.ewl.mirrorQueue, h.command = none

/-- The cascade is as it was, and no command has come to wait for the mirror. -/
structure Stays (s t : State) : Prop where
  order : t.ewl.order = s.ewl.order
  held : s.noneHeld → t.noneHeld

theorem Stays.refl (s : State) : Stays s s := ⟨rfl, id⟩

theorem Stays.trans {s t u : State} (h : Stays s t) (g : Stays t u) : Stays s u := ⟨g.order.trans h.order, g.held ∘ h.held⟩

theorem Stays.of_ewl {s t : State} (h : t.ewl = s.ewl) : Stays s t := ⟨by rw [h], fun g => by rwa [State.noneHeld, h]⟩

theorem Stays.foldl {α : Type} {f : State → α → State} (h : ∀ t a, Stays t (f t a)) (l : List α) (s : State) :
    Stays s (l.foldl f s) := by
  induction l generalizing s with
  | nil => exact .refl s
  | cons a l ih => exact (h s a).trans (ih _)

theorem Sends.stays {s t : State} (h : Sends s t) : Stays s t := by
  obtain ⟨_, _, rfl⟩ := h
  exact ⟨rfl, id⟩

/-- A completion waits for the mirror, and no command does. -/
theorem State.sendMirror_stays (s : State) (c : MirrorContent) (w : Option (Completion × Bool)) :
    Stays s (s.sendMirror c none w) := by
  unfold State.sendMirror
  split
  · exact .refl s
  · extract_lets hold _
    have hqueued : Stays s { s with ewl := { s.ewl with mirrorQueue := s.ewl.mirrorQueue ++ [hold] } } :=
      ⟨rfl, fun h => List.forall_mem_append.2 ⟨h, List.forall_mem_singleton.2 rfl⟩⟩
    exact hqueued.trans (State.send_sends ..).stays

theorem State.mirrorChanges_stays (s : State) : Stays s s.mirrorChanges := by
  unfold State.mirrorChanges
  split
  · exact (Stays.foldl (fun t c => t.sendMirror_stays c none) _ s).trans ⟨rfl, id⟩
  · exact .refl s

theorem State.complete_stays (s : State) (f : InFlight) (o : Outcome) (r : Nat) : Stays s (s.complete f o r) := by
  unfold State.complete
  extract_lets c raise t
  have ht : Stays s t := by
    unfold t
    split
    · exact (State.send_sends ..).stays
    · split
      · exact s.mirrorChanges_stays.trans (State.sendMirror_stays ..)
      · exact .of_ewl (State.putCompletion_ewl ..)
  split
  · exact ht
  · exact ht.trans (.of_ewl (State.trace_ewl ..))

/-- A command that leaves flight takes nothing of the cascade with it. -/
theorem State.completeOut_stays (s : State) (id : Nat) (f : InFlight) (o : Outcome) (r : Nat) :
    Stays s (({ s with inflight := adel s.inflight id }).complete f o r) := by
  have hout : Stays s { s with inflight := adel s.inflight id } := .of_ewl rfl
  exact hout.trans (State.complete_stays ..)

theorem State.settleSeals_stays (s : State) : Stays s s.settleSeals := by
  unfold State.settleSeals
  exact .foldl (fun t (e : Nat × InFlight) => t.completeOut_stays e.1 e.2 ⟨.done, 0⟩ 0) _ s

theorem State.finish_stays (s : State) (id : Nat) (o : Outcome) (r : Nat) : Stays s (s.finish id o r) := by
  unfold State.finish
  split
  · exact .refl s
  · exact ((s.completeOut_stays ..).trans (State.settleSeals_stays _)).trans (.of_ewl (State.settleAdminReset_ewl _))

theorem State.tellAll_stays (s : State) (kind : Nat) (bytes : List Byte) : Stays s (s.tellAll kind bytes) := by
  refine .foldl (fun t m => ?_) _ s
  dsimp only
  split
  · exact (State.send_sends ..).stays.trans ⟨rfl, id⟩
  · exact (State.send_sends ..).stays

theorem State.tellMembers_stays (s : State) (kind : Nat) (bytes : List Byte) : Stays s (s.tellMembers kind bytes) := by
  unfold State.tellMembers
  split
  · exact s.tellAll_stays ..
  · exact .refl s

theorem State.forget_stays (s : State) (m : Nat) : Stays s (s.forget m) := by
  unfold State.forget
  extract_lets _ e
  have hewl : Stays s { s with ewl := e } := ⟨rfl, id⟩
  exact hewl.trans (.foldl (fun t id => t.finish_stays id ⟨.wrongState, 0⟩ 0) _ _)

/-! ### Lost members (R365, R406) -/

/-- A member whose record says so is LOST. -/
theorem State.memberLost_of_aget {s : State} {n : Nat} {x : Member} (h : aget s.ewl.table n = some x) (hx : x.lost = true) :
    s.memberLost n = true :=
  List.any_eq_true.2 ⟨(n, x), mem_of_aget h, by simp [hx]⟩

theorem State.aget_modMember (s : State) (n : Nat) (f : Member → Member) :
    aget (s.modMember n f).ewl.table n = some (f (s.memberOf n)) := by
  rw [State.modMember_ewl, aget_aset, if_pos rfl]

/-- R368: with no command waiting for the mirror, breaking the cascade runs none. -/
theorem State.breakCascade_ewl {s : State} (h : s.noneHeld) :
    s.breakCascade.ewl = { s.ewl with
      cascade := .broken, remapBuilt := false, remapRepeat := [], remapMissed := [], mirrorQueue := [], deputyDue := false } := by
  unfold State.breakCascade
  extract_lets _ e _ t
  have hnone : t.ewl.mirrorQueue.filterMap (fun x => x.command) = [] := List.filterMap_eq_nil_iff.2 h
  rw [State.playbillDue_ewl, State.resumeHeld, hnone]
  rfl

theorem State.writeHeldCompletions_ewl (s : State) :
    s.writeHeldCompletions.ewl = { s.ewl with mirrorQueue := s.ewl.mirrorQueue.filterMap fun h =>
      match h.command with
      | some _ => some h
      | none => none } :=
  foldl_keeps State.ewl (fun t _ => t.putCompletion_ewl ..) _ _

/-- R410: the deputy's loss leaves the table, and no command waits where none did. -/
theorem State.loseDeputy_effect (s : State) :
    s.loseDeputy.ewl.table = s.ewl.table ∧ (s.noneHeld → s.loseDeputy.noneHeld) := by
  have hewl : s.loseDeputy.ewl = { s.writeHeldCompletions.ewl with deputy := none, mirrorSent := [], deputyDue := true } := rfl
  rw [State.noneHeld, State.noneHeld, hewl, State.writeHeldCompletions_ewl]
  refine ⟨rfl, fun h x hx => ?_⟩
  obtain ⟨y, hy, hxy⟩ := List.mem_filterMap.1 hx
  rw [h y hy] at hxy
  cases hxy

theorem Stays.table {s t : State} (h : Stays s t) : t.ewl.table = s.ewl.table := by
  have horder := h.order
  simp only [Ewl.order, Prod.mk.injEq] at horder
  obtain ⟨-, -, -, -, -, htable⟩ := horder
  exact htable

theorem Stays.cascade {s t : State} (h : Stays s t) : t.ewl.cascade = s.ewl.cascade := congrArg Prod.fst h.order

/-- R365, R406, R411: the member is LOST, and the cascade REMAPPING, or BROKEN where nobody else is left. -/
theorem State.declareLost_effect {s : State} (n : Nat) (h : s.noneHeld) :
    (s.declareLost n).memberLost n = true ∧
      ((s.declareLost n).ewl.cascade = .remapping ∨ (s.declareLost n).ewl.cascade = .broken) := by
  unfold State.declareLost
  extract_lets marked told forgotten
  obtain ⟨hheld, hmarked⟩ : marked.noneHeld ∧ aget marked.ewl.table n = some { s.memberOf n with lost := true } := by
    rw [State.noneHeld, State.trace_ewl, State.aget_modMember]
    exact ⟨h, rfl⟩
  obtain ⟨htold, hkept⟩ : told.noneHeld ∧ told.ewl.table = marked.ewl.table := by
    unfold told
    split
    · obtain ⟨htable, hnone⟩ := marked.loseDeputy_effect
      exact ⟨hnone hheld, htable⟩
    · exact ⟨hheld, rfl⟩
  have hforgotten : Stays told forgotten := told.forget_stays n
  have htable : aget forgotten.ewl.table n = some { s.memberOf n with lost := true } := by
    rw [hforgotten.table, hkept, hmarked]
  split
  · have hbroken := State.breakCascade_ewl (hforgotten.held htold)
    exact ⟨State.memberLost_of_aget (by rw [hbroken]; exact htable) rfl, .inr (by rw [hbroken])⟩
  · have hremap : Stays (forgotten.beginRemap n) _ := State.tellMembers_stays _ 0x06 [6, BitVec.ofNat 8 n]
    exact ⟨State.memberLost_of_aget (by rw [hremap.table]; exact htable) rfl, .inl hremap.cascade⟩

/-- R365: the stage manager declares a member silent for 200 µs. -/
theorem State.memberSilent_declared {s : State} {n : Nat} (hl : s.live = true) (hin : s.inCascade = true)
    (hc : s.ewl.cascade ≠ .broken) (hself : n ≠ s.ewl.member) (hn : n < s.ewl.members) (hm : s.memberLost n = false)
    (hs : (s.memberOf n).lastHeartbeat + 200000 ≤ s.time.elapsed) (hr : s.ewl.role = 1) : s.memberSilent n = s.declareLost n := by
  have hsilent : s.silent n = true := decide_eq_true hs
  rw [State.memberSilent, if_neg (by simp [hl, hin, hc, hself, hn, hm, hsilent]), if_pos hr]

/-! ### Heartbeats (R365) -/

section
variable {s : State} {m : Msg} {cue state : Nat} {ready : Bool}

/-- The state that has recorded a heartbeat. -/
def State.heardFrom (s : State) (m : Msg) (ready : Bool) : State :=
  let t := s.modMember m.src fun y => { y with lastHeartbeat := s.time.elapsed, lastSequence := m.block, hostReady := ready }
  { t with ewl := { t.ewl with
    heartbeatLate := if (s.memberOf m.src).lastSequence ≠ 0 && (s.memberOf m.src).lastHeartbeat + 100000 < s.time.elapsed
      then s.ewl.heartbeatLate.inc else s.ewl.heartbeatLate
    managerHeard := if m.src = s.ewl.manager then s.time.elapsed else s.ewl.managerHeard } }

theorem State.heartbeatFrom_sends (hin : s.inCascade = true) (hother : m.src ≠ s.ewl.member)
    (hlost : (s.memberOf m.src).lost = false)
    (hnew : 0 < (m.block + 2 ^ 32 - (s.memberOf m.src).lastSequence % 2 ^ 32) % 2 ^ 32)
    (hnear : (m.block + 2 ^ 32 - (s.memberOf m.src).lastSequence % 2 ^ 32) % 2 ^ 32 < 2 ^ 31) :
    Sends (s.heardFrom m ready) (s.heartbeatFrom m cue state ready) := by
  unfold State.heartbeatFrom
  extract_lets x ahead now late t _ heard
  have hgo : ¬ (!s.inCascade || decide (m.src = s.ewl.member) || x.lost || decide (ahead = 0) || decide (2 ^ 31 ≤ ahead)) = true := by
    have hx : x.lost = false := hlost
    have h0 : ahead ≠ 0 := hnew.ne'
    have h31 : ¬ 2 ^ 31 ≤ ahead := Nat.not_le.2 hnear
    simp only [hin, hother, hx, h0, h31, Bool.not_true, decide_false, Bool.or_self, Bool.false_eq_true, not_false_eq_true]
  rw [if_neg hgo]
  have hheard : heard = s.heardFrom m ready := rfl
  rw [← hheard]
  split
  · exact .refl heard
  · exact heard.flood_sends ..

theorem State.heardFrom_effect (s : State) (m : Msg) (ready : Bool) :
    (s.heardFrom m ready).memberOf m.src =
      { s.memberOf m.src with lastHeartbeat := s.time.elapsed, lastSequence := m.block, hostReady := ready } ∧
    (s.heardFrom m ready).ewl.heartbeatLate =
      if (s.memberOf m.src).lastSequence ≠ 0 ∧ (s.memberOf m.src).lastHeartbeat + 100000 < s.time.elapsed
      then s.ewl.heartbeatLate.inc else s.ewl.heartbeatLate := by
  refine ⟨?_, if_congr (by simp) rfl rfl⟩
  exact congrArg (fun x : Option Member => x.getD {}) (State.aget_modMember s m.src fun y =>
    { y with lastHeartbeat := s.time.elapsed, lastSequence := m.block, hostReady := ready })

/-- R365: the own heartbeat takes the next SEQUENCE. -/
theorem State.sendHeartbeat_effect (hl : s.live = true) (hin : s.inCascade = true)
    (hdue : s.ewl.lastHeartbeatSent + 50000 ≤ s.time.elapsed) :
    s.sendHeartbeat.ewl.heartbeatSeq = (s.ewl.heartbeatSeq + 1) % 2 ^ 32 ∧
    s.sendHeartbeat.ewl.lastHeartbeatSent = s.time.elapsed ∧ s.sendHeartbeat.house = s.house ∧
    s.sendHeartbeat.samples = s.samples := by
  unfold State.sendHeartbeat
  rw [if_neg (by simp [hl, hin, hdue])]
  extract_lets q _ t
  obtain ⟨p, o, h⟩ := t.flood_sends (t.header 0x05 0 0 0 q 11 false)
    (heartbeatBytes t.ewl.member t.cueNow t.host.state.code t.hostPortReady)
  rw [h]
  exact ⟨rfl, rfl, rfl, rfl⟩

/-! ### Control (R358, R369) -/

section
variable {c : CascadeControl}

theorem State.formed_of_inCascade (h : s.inCascade = true) : s.ewl.cascade ≠ .none_ := by
  intro hc
  simp [State.inCascade, hc] at h

theorem State.takeCommand_manager (hin : s.inCascade = true) (hc : controlForms c = false) (ha : s.ewl.assigned = true)
    (hm : s.fromManager m = true) : s.takeCommand m c = (s.send 0x07 m.src 0 0 0 false [0]).carryOut m c := by
  rw [State.takeCommand, if_neg (by simp [hc]), if_neg (by simp [State.formed_of_inCascade hin, ha, hm])]

theorem State.takeCommand_other (hc : controlForms c = false) (hm : s.fromManager m = false) :
    s.takeCommand m c = s.badMessage := by
  rw [State.takeCommand, if_neg (by simp [hc]), if_pos (by simp [hm])]

end

/-- R358: a COMMAND that has waited 100 µs goes again over the backup port. -/
theorem State.replyLate_resends {n port : Nat} {w : Nat × Nat × List Byte} (hl : s.live = true) (hr : s.ewl.role = 1)
    (hw : (s.ewl.waitingReply.find? fun y => y.1 = n && y.2.1 + 100000 ≤ s.time.elapsed) = some w)
    (hp : s.backupPort n = some port) :
    s.replyLate n =
      ({ s with ewl := { s.ewl with waitingReply := s.ewl.waitingReply.map fun (y : Nat × Nat × List Byte) =>
          if y = w then (y.1, s.time.elapsed, y.2.2) else y } }).putMessage port
        (s.header 0x06 n 0 0 0 w.2.2.length false) w.2.2 := by
  unfold State.replyLate
  rw [hw]
  dsimp only
  rw [if_neg (by simp [hl, hr])]
  split
  · rename_i p hport
    obtain rfl : port = p := Option.some.inj (hp.symm.trans hport)
    rfl
  · rename_i hport
    cases hp.symm.trans hport

end

end Sys2Proof.Machine

section

open Sys2Proof Sys2Proof.Machine

/-- Settles O50: a message that arrives runs its operation in the state dt later, as a timeout does; the operation's lemma gives the
effect. -/
theorem heartbeatsAndControl : Obligations.HeartbeatsAndControl := by
  intro s dt cue state n port ready m c w u now x bad comes hl
  refine ⟨?heartbeat, fun hin hdue => ⟨_, rfl, State.sendHeartbeat_effect hl hin hdue⟩, ?silent, ?command,
    fun hcomes hk hd => ?reply, fun hr hw hp => ?resent⟩
  case heartbeat =>
    rintro ⟨hin, hep, hlen⟩ hk hother hlost hnew hnear
    refine ⟨_, congrArg Host.Outcome.next (State.receive_all hl hep hk hlen), ?_⟩
    obtain ⟨p, o, h⟩ := State.heartbeatFrom_sends (cue := cue) (state := state) (ready := ready) hin hother hlost hnew hnear
    rw [h]
    exact u.heardFrom_effect m ready
  case silent =>
    intro hin hc hself hn hm hs hr
    exact ⟨_, congrArg Host.Outcome.next (State.memberSilent_declared hl hin hc hself hn hm hs hr), rfl,
      fun hnone => State.declareLost_effect n hnone⟩
  case command =>
    rintro ⟨hin, hep, hlen⟩ hk hd hc ha
    exact ⟨fun hm => congrArg Host.Outcome.next ((State.receive_mine hl hep hk hlen hd).trans (State.takeCommand_manager hin hc ha hm)),
      fun hm => congrArg Host.Outcome.next ((State.receive_mine hl hep hk hlen hd).trans (State.takeCommand_other hc hm))⟩
  case reply =>
    obtain ⟨-, hep, hlen⟩ := hcomes
    exact congrArg Host.Outcome.next (State.receive_mine hl hep hk hlen hd)
  case resent =>
    exact ⟨_, congrArg Host.Outcome.next (State.replyLate_resends hl hr hw hp), rfl, rfl⟩

end
end

section
/-! PROOFS. Mirror, takeover, cue grid and formation (R363, R366, R367, R371 to R373): what each message and each deadline comes to, and
that neither an adoption nor a completion moves the new stage manager from its place. -/

namespace Sys2Proof.Machine

open Sys2Proof

section
variable {s : State} {m : Msg}

/-! ### The mirror (R371) -/

theorem State.takeMirror_held {c : MirrorContent} (hin : s.inCascade = true) (hm : s.fromManager m = true) (hr : s.ewl.role = 2) :
    s.takeMirror m c =
      ({ s with ewl := { s.ewl with mirrorRecords := mirrorWith s.ewl.mirrorRecords c } }).send 0x09 m.src 0 0 0 false [] := by
  rw [State.takeMirror, if_neg (by simp [hin, hm, hr])]

theorem State.mirrorHeld_completion {h : MirrorHold} {l : List MirrorHold} {w : Completion × Bool} (hr : s.ewl.role = 1)
    (hd : s.ewl.deputy = some m.src) (hq : s.ewl.mirrorQueue = h :: l) (hw : h.write = some w) (hc : h.command = none) :
    s.mirrorHeld m = ({ s with ewl := { s.ewl with mirrorQueue := l } }).putCompletion w.1.ring w.1 w.2 := by
  simp [State.mirrorHeld, hq, hr, hd, hw, hc]

theorem State.mirrorLate_declared {h : MirrorHold} {l : List MirrorHold} {d : Nat} (hl : s.live = true)
    (hq : s.ewl.mirrorQueue = h :: l) (hd : s.ewl.deputy = some d) (hm : s.stageManager = true)
    (hdue : h.sentAt + 200000 ≤ s.time.elapsed) : s.mirrorLate = s.declareLost d := by
  simp [State.mirrorLate, hq, hd, hl, hm, hdue]

/-! ### Takeover (R372, R373) -/

/-- The other members in service but the stage manager. -/
def State.electors (s : State) : List Nat := s.otherMembers.filter (· ≠ s.ewl.manager)

/-- Those that the deputy has heard, itself included. -/
def State.heardMembers (s : State) : Nat := (s.electors.filter fun k => !s.silent k).length + 1

theorem State.decideTakeover_decides (hl : s.live = true) (hin : s.inCascade = true) (hc : s.ewl.cascade ≠ .broken)
    (hr : s.ewl.role = 2) (hdue : s.ewl.managerHeard + 200000 ≤ s.time.elapsed) :
    s.decideTakeover = if s.electors.length + 1 < 2 * s.heardMembers then s.takeOver else s.breakCascade := by
  rw [State.decideTakeover, if_neg (by simp [hl, hin, hc, hr, hdue])]
  rfl

theorem State.adopt_ewl (s : State) (c : MirrorContent) : (s.adopt c).ewl = s.ewl := by
  cases c <;> rfl

theorem State.settleMirrored_ewl (s : State) (lost : Nat) (c : MirrorContent) : (s.settleMirrored lost c).ewl = s.ewl := by
  cases c with
  | completed q e =>
    simp only [State.settleMirrored]
    split
    · exact State.putCompletion_ewl ..
    · rfl
  | accepted o f p => exact State.putCompletion_ewl ..
  | ring | stream | cast | script | grid => rfl

/-- What a new stage manager is: its EPOCH, its role and whom the members follow. -/
def Ewl.rank (e : Ewl) : Nat × Nat × Nat := (e.epoch, e.role, e.manager)

theorem Stays.rank {s t : State} (h : Stays s t) : t.ewl.rank = s.ewl.rank := by
  have horder := h.order
  simp only [Ewl.order, Prod.mk.injEq] at horder
  obtain ⟨-, hrole, hepoch, hmanager, -, -⟩ := horder
  simp only [Ewl.rank, hrole, hepoch, hmanager]

theorem State.takeOver_rank (s : State) : s.takeOver.ewl.rank = (s.ewl.epoch + 1, 1, s.ewl.member) := by
  unfold State.takeOver
  extract_lets old l _ e marked logged adopted settled flooded forgotten
  obtain ⟨hheld, hlogged⟩ : logged.noneHeld ∧ logged.ewl.rank = (s.ewl.epoch + 1, 1, s.ewl.member) := by
    have hewl : logged.ewl = marked.ewl := (State.appendLog_ewl ..).trans (State.trace_ewl ..)
    rw [State.noneHeld, hewl]
    exact ⟨List.forall_mem_nil _, rfl⟩
  have hadopted : Stays logged adopted := .foldl (fun t c => .of_ewl (t.adopt_ewl c)) l logged
  have hsettled : Stays adopted settled := .foldl (fun t c => .of_ewl (t.settleMirrored_ewl old c)) l adopted
  have hforgotten : Stays logged forgotten :=
    (hadopted.trans hsettled).trans ((settled.flood_sends ..).stays.trans (flooded.forget_stays old))
  have hrank : forgotten.ewl.rank = (s.ewl.epoch + 1, 1, s.ewl.member) := hforgotten.rank.trans hlogged
  split
  · rw [State.breakCascade_ewl (hforgotten.held hheld)]
    exact hrank
  · exact hrank

/-- R372: a member follows the deputy that has taken over, and the old stage manager is LOST. -/
theorem State.takenOver_follows (hl : s.live = true) (hin : s.inCascade = true) (hm : s.stageManager = false) (hk : m.kind = 0x0A)
    (hlen : m.length ≤ 65536) (he : s.ewl.epoch < m.epoch) (hd : s.ewl.deputy = some m.src) :
    (s.takenOver m).ewl.epoch = m.epoch ∧ (s.takenOver m).ewl.manager = m.src ∧ (s.takenOver m).ewl.deputy = none ∧
      (s.takenOver m).memberLost s.ewl.manager = true := by
  have hlate : ¬ (decide (m.epoch ≤ s.ewl.epoch) || decide (s.ewl.deputy ≠ some m.src)) = true := by
    simp [hd, he]
  unfold State.takenOver
  rw [if_neg (by simp [hl]), if_neg (by simp [hm]), if_neg (by simp [hk, hlen, hin]), if_neg (by simp [he.ne']), if_neg hlate]
  extract_lets old told _ e marked forgotten
  have hmarked : aget marked.ewl.table old = some _ := State.aget_modMember ..
  have hforgotten : Stays marked forgotten := marked.forget_stays old
  have htable : forgotten.memberLost old = true :=
    State.memberLost_of_aget (by rw [hforgotten.table]; exact hmarked) rfl
  have horder := hforgotten.order
  simp only [Ewl.order, Prod.mk.injEq] at horder
  obtain ⟨-, -, hepoch, hmanager, hdeputy, -⟩ := horder
  split
  · exact ⟨hepoch, hmanager, hdeputy, htable⟩
  · exact ⟨hepoch, hmanager, hdeputy, htable⟩

/-! ### The cue grid (R363) -/

section
variable (hin : s.inCascade = true) (hm : s.fromManager m = true)
include hin hm

theorem State.takeCue_grid (ep period number : Nat) :
    s.takeCue m (.grid ep period number) = { s with cue := { s.cue with
      epoch := ep, period := period, edges := number + 1, nextEdge := edgeBeyond ep period s.now, linkEdgeAt := none } } :=
  if_neg (by simp [hin, hm])

theorem State.takeCue_staged (period at_ : Nat) :
    s.takeCue m (.staged period at_) = { s with cue := { s.cue with nextPeriod := period, stagedAt := some at_ } } :=
  if_neg (by simp [hin, hm])

theorem State.takeCue_pinEdge (at_ : Nat) :
    s.takeCue m (.pinEdge at_) = { s with cue := { s.cue with linkEdgeAt := some at_ } } :=
  if_neg (by simp [hin, hm])

end

/-! ### Formation (R366, R367) -/

theorem State.greet_sends (s : State) (port : Nat) : Sends s (s.greet port) :=
  .foldl (fun t _ => t.putMessage_sends ..) _ s

/-- A device that was given no MEMBERS only notes whom it meets. -/
theorem State.meet_unnumbered (h : s.formMembers = none) (e : Nat × Nat × Bool) :
    s.meet e = { s with ewl := { s.ewl with formIdentities := insertIdentity e s.ewl.formIdentities } } := by
  unfold State.meet
  extract_lets l _ t
  have ht : t.formMembers = none := h
  rw [ht]

/-- R366: a device not yet known joins the formation, and its HELLO goes on. -/
theorem State.helloReceived_joins {identity members : Nat} {issued : Bool} (hf : s.ewl.cascade = .forming) (hk : m.kind = 0x0C)
    (hlen : m.length ≤ 65536) (hn : s.formMembers = none) (hnew : (s.ewl.formIdentities.any fun x => x.1 = identity) = false) :
    (s.helloReceived m identity members issued).ewl.formIdentities =
      insertIdentity (identity, members, issued) s.ewl.formIdentities ∧
    (s.helloReceived m identity members issued).ewl.cascade = .forming := by
  unfold State.helloReceived
  rw [if_neg (by simp [hk, hlen])]
  extract_lets begun told greeted
  have hbegun : begun = s := if_neg (by simp [hf])
  rw [hbegun, if_neg (by simp [hf, hnew])]
  have hgreeted : Sends s greeted := by
    refine Sends.trans ?_ (.foldl (fun t n => t.greet_sends n) _ told)
    unfold told
    rw [hbegun]
    split
    · exact .refl s
    · exact s.flood_sends ..
  obtain ⟨p, o, h⟩ := hgreeted
  have hnone : greeted.formMembers = none := by
    rw [h]
    exact hn
  rw [State.meet_unnumbered hnone, h]
  exact ⟨rfl, hf⟩

theorem State.formTimeout_fails (hf : s.ewl.cascade = .forming) (hdue : s.ewl.formAt + 1000000000 ≤ s.time.elapsed) :
    s.formTimeout = s.formFails .timeout := by
  rw [State.formTimeout, if_pos (by simp [hf, hdue])]

theorem State.becomeLone_cascade (s : State) : s.becomeLone.ewl.cascade = .none_ := by
  unfold State.becomeLone
  extract_lets t e fresh c d
  rw [State.playbillDue_ewl]

theorem State.formFails_cascade (s : State) (st : Status) : (s.formFails st).ewl.cascade = .none_ := by
  have hfinished : Stays s.becomeLone (s.formFails st) := .foldl (fun t id => t.finish_stays id ⟨st, 0⟩ 0) _ _
  exact hfinished.cascade.trans s.becomeLone_cascade

end

end Sys2Proof.Machine

section

open Sys2Proof Sys2Proof.Machine

/-- Settles O51: a message that ends here runs its operation in the state dt later, as a deadline does; the operation's lemma gives the
effect. -/
theorem mirrorTakeoverAndFormation : Obligations.MirrorTakeoverAndFormation := by
  intro s dt identity members ep period number at_ d issued m c h l w u now comes others heard e hl
  refine ⟨fun hcomes hk hm hr => congrArg Host.Outcome.next ?mirror, fun hcomes hk hr hd hq hw hc => congrArg Host.Outcome.next ?ack,
    fun hq hd hm hdue => congrArg Host.Outcome.next (State.mirrorLate_declared hl hq hd hm hdue),
    fun hin hc hr hdue => ?decision, fun hin hm hk hlen he hd => ⟨_, rfl, State.takenOver_follows hl hin hm hk hlen he hd⟩,
    fun hcomes hk hm => ?cue, fun hf hk hlen hn hnew => ⟨_, rfl, State.helloReceived_joins hf hk hlen hn hnew⟩,
    fun hf hdue => ⟨congrArg Host.Outcome.next (State.formTimeout_fails hf hdue), u.formFails_cascade .timeout⟩⟩
  case mirror =>
    obtain ⟨hin, hep, hlen, hd⟩ := hcomes
    exact (State.receive_mine hl hep hk hlen hd).trans (State.takeMirror_held hin hm hr)
  case ack =>
    obtain ⟨-, hep, hlen, hdst⟩ := hcomes
    exact (State.receive_mine hl hep hk hlen hdst).trans (State.mirrorHeld_completion hr hd hq hw hc)
  case decision =>
    have hdecided := State.decideTakeover_decides hl hin hc hr hdue
    refine ⟨fun hmost => ⟨congrArg Host.Outcome.next (hdecided.trans (if_pos hmost)), ?_⟩, fun hfew =>
      ⟨congrArg Host.Outcome.next (hdecided.trans (if_neg (Nat.not_lt.2 hfew))), fun hnone => ?_⟩⟩
    · have hrank := u.takeOver_rank
      simpa only [Ewl.rank, Prod.mk.injEq] using hrank
    · rw [State.breakCascade_ewl hnone]
  case cue =>
    obtain ⟨hin, hep, hlen, hd⟩ := hcomes
    have taken (x : CueContent) := State.receive_mine (mine := fun t => t.takeCue m x) (pass := fun t => t.relay m (cueBytes x))
      hl hep hk hlen hd
    exact ⟨congrArg Host.Outcome.next ((taken _).trans (State.takeCue_grid hin hm ep period number)),
      congrArg Host.Outcome.next ((taken _).trans (State.takeCue_staged hin hm period at_)),
      congrArg Host.Outcome.next ((taken _).trans (State.takeCue_pinEdge hin hm at_))⟩

end
end
